-- ==== Sys2Proof/Word.lean ====
section
/-! DEFINITION. The word types of the module: bytes, 16-bit ECC symbols, 32-bit register words, 64-bit counts.
Every multi-byte field is little-endian and bit 0 is the least significant (R7). -/

namespace Sys2Proof

/-- A byte of a message, a record or a granule. -/
abbrev Byte := BitVec 8

/-- One symbol of the inline ECC code (R275). -/
abbrev Symbol := BitVec 16

/-- A window register (R17), a cell output (R242) or the bits of an fp32 value (R249). -/
abbrev Word := BitVec 32

/-- A 64-bit key, seed or id that the spec mixes bit by bit (R158, R225). -/
abbrev DWord := BitVec 64

end Sys2Proof
end

