-- ==== Sys2Proof/Machine/Bits.lean ====
section
/-! DEFINITION. Byte and list helpers that every family uses: little-endian fields (R7), bits of a
number, lists addressed by index, and insertion into a sorted list. -/

namespace Sys2Proof.Machine

/-- The byte of `b` at offset `off`; a byte past the end reads 0. -/
def byteAt (b : List Byte) (off : Nat) : Nat := (b.getD off 0).toNat

/-- The little-endian number in `n` bytes from offset `off` (R7). -/
def le (b : List Byte) (off : Nat) : Nat → Nat
  | 0 => 0
  | n + 1 => byteAt b off + 256 * le b (off + 1) n

/-- The fp32 word at an offset. -/
def fpAt (b : List Byte) (off : Nat) : Word := BitVec.ofNat 32 (le b off 4)

/-- `n` little-endian bytes of the number `v` (R7). -/
def leBytes : Nat → Nat → List Byte
  | 0, _ => []
  | n + 1, v => BitVec.ofNat 8 v :: leBytes n (v / 256)

/-- `n` zero bytes. -/
def zeros (n : Nat) : List Byte := List.replicate n 0

/-- Pads bytes with zeros up to an image offset, for bytes that begin at image offset `start`. -/
def padTo (start off : Nat) (b : List Byte) : List Byte := b ++ zeros (off - start - b.length)

/-- The `len` bytes that a host read brings. -/
def readBytes (d : List Byte) (len : Nat) : List Byte := padTo 0 len (d.take len)

/-- Bytes `off` to `off + n − 1` of `b`. -/
def slice (b : List Byte) (off n : Nat) : List Byte := (b.drop off).take n

/-- The first offset from `off` on, of `n` bytes, that holds a nonzero byte. -/
def firstNonzero (b : List Byte) (off : Nat) : Nat → Option Nat
  | 0 => none
  | n + 1 => if byteAt b off ≠ 0 then some off else firstNonzero b (off + 1) n

/-- Writes the bytes `v` into `b` from offset `off`, inside the length of `b`. -/
def putBytes (b : List Byte) (off : Nat) : List Byte → List Byte
  | [] => b
  | x :: xs => putBytes (b.set off x) (off + 1) xs

/-- Bits hi:lo of a number, both ends included (R7). -/
def bitsOf (v hi lo : Nat) : Nat := (v / 2 ^ lo) % 2 ^ (hi + 1 - lo)

/-- Bit `i` of a number. -/
def bitOf (v i : Nat) : Bool := v.testBit i

/-- 1 for a set bit, 0 for a clear one. -/
def bit (b : Bool) : Nat := if b then 1 else 0

/-- `v` with bit `i` set to `x`. -/
def setBit (v i : Nat) (x : Bool) : Nat :=
  if v.testBit i then (if x then v else v - 2 ^ i) else (if x then v + 2 ^ i else v)

/-- The value rounded up of `a ÷ b`. -/
def ceilDiv (a b : Nat) : Nat := (a + b - 1) / b

/-- Applies `g` to element `i` of a list; an index past the end changes nothing. -/
def modifyAt {α : Type} (l : List α) (i : Nat) (g : α → α) : List α :=
  match l, i with
  | [], _ => []
  | x :: xs, 0 => g x :: xs
  | x :: xs, i + 1 => x :: modifyAt xs i g

/-- Applies `g` to every element that satisfies `p`. -/
def modifyWhere {α : Type} (l : List α) (p : α → Bool) (g : α → α) : List α :=
  l.map fun x => if p x then g x else x

/-- Inserts `x` before the first element it goes ahead of under `le`. -/
def insertBy {α : Type} (ahead : α → α → Bool) (x : α) : List α → List α
  | [] => [x]
  | y :: ys => if ahead x y then x :: y :: ys else y :: insertBy ahead x ys

/-- Sorts a list by insertion: equal elements keep their order when `ahead` is strict. -/
def sortBy {α : Type} (ahead : α → α → Bool) : List α → List α
  | [] => []
  | x :: xs => insertBy (fun a b => !ahead b a) x (sortBy ahead xs)

/-- The sum of a list of numbers, exact (R40). -/
def sumNat (l : List Nat) : Nat := l.foldl (· + ·) 0

/-- The largest of a list of numbers, 0 when it is empty. -/
def maxNat (l : List Nat) : Nat := l.foldl Nat.max 0

/-- The sum of a list of integers, exact. -/
def sumInt (l : List Int) : Int := l.foldl (· + ·) 0

/-- The two's complement value of the low `n` bits of `v`. -/
def signed (n v : Nat) : Int :=
  let m := v % 2 ^ n
  if 2 * m < 2 ^ n then (m : Int) else (m : Int) - (2 ^ n : Nat)

/-- The `n`-bit two's complement code of an integer. -/
def unsignedOf (n : Nat) (x : Int) : Nat := (x % (2 ^ n : Nat)).toNat

/-- An optional value as a list of at most one element. -/
def optList {α : Type} : Option α → List α
  | none => []
  | some x => [x]

/-- The first element of a list whose check gives a value. -/
def firstSome {α : Type} : List (Option α) → Option α
  | [] => none
  | some x :: _ => some x
  | none :: xs => firstSome xs

end Sys2Proof.Machine
end

