-- ==== Sys2Proof/Machine/Codes.lean ====
section
/-! DEFINITION. The codes the spec fixes to the bit: the keyed hash and its mixing step (R158, R197,
R225), CRC-32 of Strata flits (R294), CRC-32C of Amber records and images (R360, R171), the inline
Reed–Solomon ECC over GF(2^16) with its poison mask (R275, R276), the frame interleave (R262) and the
encryption tweak (R284). -/

namespace Sys2Proof.Machine

/-- The three-line mixing step of R158 kind 1. -/
def mix (h : DWord) : DWord :=
  let h := (h ^^^ (h >>> 30)) * 0xBF58476D1CE4E5B9#64
  let h := (h ^^^ (h >>> 27)) * 0x94D049BB133111EB#64
  h ^^^ (h >>> 31)

/-- The keyed hash of R158 kind 1: the row, or the bucket of R197, that an index selects. -/
def keyedHash (key : DWord) (rows : Nat) (index : Nat) : Nat :=
  (mix (BitVec.ofNat 64 index ^^^ key)).toNat * rows / 2 ^ 64

/-- The virtual row of a composed table: its part A row and part B row (R158 kind 2). -/
def composedRow (rowsA rowsB index : Nat) : Nat × Nat :=
  (index % rowsA, (index / rowsA) % rowsB)

/-- The 40-bit random fraction u of a draw, times 2^24 (R225). -/
def drawFraction (seed caseId pos : Nat) : Nat :=
  (mix (BitVec.ofNat 64 seed ^^^ mix (BitVec.ofNat 64 caseId ^^^ mix (BitVec.ofNat 64 pos)))).toNat / 2 ^ 40

/-- `k` steps of a bit-reflected 32-bit CRC with reflected polynomial `p`. -/
def crcBits (p : Word) : Nat → Word → Word
  | 0, c => c
  | k + 1, c => crcBits p k (if c &&& 1#32 = 1#32 then (c >>> 1) ^^^ p else c >>> 1)

/-- A reflected CRC with initial value and final XOR of all ones (R294, R360). -/
def crcOf (p : Word) (b : List Byte) : Word :=
  (b.foldl (fun c x => crcBits p 8 (c ^^^ x.zeroExtend 32)) 0xFFFFFFFF#32) ^^^ 0xFFFFFFFF#32

/-- CRC-32 of R294: polynomial 0x04C1_1DB7, reflected. -/
def crc32 (b : List Byte) : Word := crcOf 0xEDB88320#32 b

/-- CRC-32C of R360: polynomial 0x1EDC_6F41, reflected. -/
def crc32c (b : List Byte) : Word := crcOf 0x82F63B78#32 b

/-- Multiplication by x in GF(2^16) with x^16 + x^12 + x^3 + x + 1 (R275). -/
def gfX (a : Symbol) : Symbol := if a.getLsbD 15 then (a <<< 1) ^^^ 0x100B#16 else a <<< 1

/-- Multiplication in GF(2^16), over the low `k` bits of `b`. -/
def gfMulBits : Nat → Symbol → Symbol → Symbol
  | 0, _, _ => 0
  | k + 1, a, b => (if b.getLsbD 0 then a else 0) ^^^ gfMulBits k (gfX a) (b >>> 1)

/-- Multiplication in GF(2^16) (R275). -/
def gfMul (a b : Symbol) : Symbol := gfMulBits 16 a b

/-- α^n for the element α = x. -/
def gfPow : Nat → Symbol
  | 0 => 1
  | n + 1 => gfX (gfPow n)

/-- The weighted sum Σ α^(c·j) r_j of the symbols from position `j` on. -/
def gfEval (c : Nat) : Nat → List Symbol → Symbol
  | _, [] => 0
  | j, r :: rs => gfMul (gfPow (c * j)) r ^^^ gfEval c (j + 1) rs

/-- A syndrome: the two differences between the stored check symbols and those of the data. -/
structure Syndrome where
  s0 : Symbol
  s1 : Symbol
  deriving DecidableEq, Repr

/-- The check symbols of 32 data symbols: the sum and the α-weighted sum of the data (R275). -/
def eccCheck (d : List Symbol) : Symbol × Symbol := (gfEval 0 0 d, gfEval 1 0 d)

/-- The syndrome of a stored granule: 32 data symbols and two check symbols (R275). -/
def eccSyndrome (d : List Symbol) (c0 c1 : Symbol) : Syndrome :=
  let (e0, e1) := eccCheck d
  { s0 := e0 ^^^ c0, s1 := e1 ^^^ c1 }

/-- The mask XORed into the check symbols of a poisoned granule (R276). -/
def poisonMask : Syndrome := { s0 := 0x9D2C#16, s1 := 0x5F4B#16 }

/-- What the decoder makes of a read granule (R275, R276). -/
inductive EccResult where
  | clean
  | corrected (pos : Nat)
  | uncorrectable
  | poisoned
  deriving DecidableEq, Repr

/-- The position, below `n`, of the data symbol whose single error gives the syndrome. -/
def eccLocate (s : Syndrome) : Nat → Option Nat
  | 0 => none
  | n + 1 => if gfMul (gfPow n) s.s0 = s.s1 then some n else eccLocate s n

/-- The decoder of R275: poison first (R276), then any error confined to one of the 34 symbols. -/
def eccDecode (s : Syndrome) : EccResult :=
  if s = { s0 := 0, s1 := 0 } then .clean
  else if s = poisonMask then .poisoned
  else if s.s1 = 0 then .corrected 32
  else if s.s0 = 0 then .corrected 33
  else match eccLocate s 32 with
    | some p => .corrected p
    | none => .uncorrectable

/-- The channel of piece `i` of frame `f` (R262). -/
def pieceChannel (f i : Nat) : Nat :=
  ((f ^^^ (f / 2 ^ 5) ^^^ (f / 2 ^ 10) ^^^ (f / 2 ^ 15) ^^^ (f / 2 ^ 20)) % 32 + i) % 32

/-- The channel data address of a byte of frame `f`'s piece (R262). -/
def pieceAddress (f off : Nat) : Nat := f * 2048 + off % 2048

/-- The channel that holds granule `g` of frame `f`: 32 granules of 64 bytes to a piece (R262). -/
def granuleChannel (f g : Nat) : Nat := pieceChannel f (g / 32)

/-- The 128-bit tweak of a granule (R284). -/
def xtsTweak (tier frame granule : Nat) : Nat := tier * 2 ^ 56 ||| frame * 2 ^ 10 ||| granule

end Sys2Proof.Machine
end

