-- ==== Sys2Proof/Machine/Data.lean ====
section
/-! DEFINITION. The names and small records that commands and State share: status codes (R48), module
states (R17), units (R95), detectors (R335), event and record codes (R30, R370), what a host read answers
(R55) and what the host grants (R271). -/

namespace Sys2Proof.Machine

/-- A mailbox channel's SOURCE: 0 inline, 1 ring (R29). -/
inductive Src where
  | inl
  | ring
  deriving DecidableEq, Repr

/-- How a host read ends: data, or a completion with UR, CA or a poisoned TLP (R44, R55). -/
inductive HostRead (α : Type) where
  | data (a : α)
  | ur
  | ca
  | poison
  | timeout
  deriving DecidableEq, Repr

/-- One range that an ATS translation completion grants to a PASID, with its write permission (R271). -/
structure AtsRange where
  pasid : Nat
  lo    : Nat
  hi    : Nat
  write : Bool
  deriving DecidableEq, Repr

/-- What lies outside the module while a message is handled: the ranges that ATS grants the function, and
where the host placed the BAR0 of the PF and of VF 1 (R271, R16). -/
structure HostView where
  grants : List AtsRange
  pfBar  : Nat
  vfBar  : Nat
  deriving DecidableEq, Repr

/-- The four windows of BAR0 (R16), and the function's configuration space (R9), of which the model holds the enables of
MSI-X, of ATS and of PASID (R17, R33). -/
inductive Window where
  | mailbox
  | safety
  | power
  | recorder
  | config
  deriving DecidableEq, Repr

/-- The module states of R13 and R354. -/
inductive ModState where
  | off
  | aoOnly
  | booting
  | ready
  | serving
  | doze
  | degraded
  | safeHold
  | lockout
  deriving DecidableEq, Repr

/-- The encoding of STATE (R17). -/
def stateCode : ModState → Nat
  | .off => 0
  | .aoOnly => 1
  | .booting => 2
  | .ready => 3
  | .serving => 4
  | .doze => 5
  | .degraded => 6
  | .safeHold => 7
  | .lockout => 8

/-- The status codes of R48. -/
inductive Status where
  | ok | okFallback | okLate | okNoChange
  | badOpcode | badLength | badProtocol | reservedNonzero | fieldRange | lenExceedsBuffer | productRange
  | badAlignment | respBufferSmall | badReference | badImage
  | quotaPages | caseLimit | partitionCaseQuota | modelLimit | prefixLimit | indexLimit | cairnExhausted
  | partitionLimit | screeFull | busy | quotaBandwidth
  | contractInfeasible | contractNotOpen | contractRevoked | contractMismatch | arrivalExceeded
  | policyBreaksProof | inUseByContract
  | stateNotServing | partitionNotOpen | caseCancelled | caseAlreadyDone | cairnTimeout | tierUnavailable
  | updateInProgress
  | fault | faultSafeHold | faultFenced | faultPoison | faultLink | faultHostDma | faultHostLink
  | pfOnly | dmaAddrDenied | signatureInvalid | rollbackRefused | partitionSuspended
  deriving DecidableEq, Repr

/-- The code of a status (R48). -/
def statusCode : Status → Nat
  | .ok => 0x0000 | .okFallback => 0x0001 | .okLate => 0x0002 | .okNoChange => 0x0003
  | .badOpcode => 0x1001 | .badLength => 0x1002 | .badProtocol => 0x1003 | .reservedNonzero => 0x1004
  | .fieldRange => 0x1005 | .lenExceedsBuffer => 0x1006 | .productRange => 0x1007 | .badAlignment => 0x1008
  | .respBufferSmall => 0x1009 | .badReference => 0x100A | .badImage => 0x100B
  | .quotaPages => 0x2001 | .caseLimit => 0x2002 | .partitionCaseQuota => 0x2003 | .modelLimit => 0x2004
  | .prefixLimit => 0x2005 | .indexLimit => 0x2006 | .cairnExhausted => 0x2007 | .partitionLimit => 0x2008
  | .screeFull => 0x2009 | .busy => 0x200A | .quotaBandwidth => 0x200B
  | .contractInfeasible => 0x3001 | .contractNotOpen => 0x3002 | .contractRevoked => 0x3003
  | .contractMismatch => 0x3004 | .arrivalExceeded => 0x3005 | .policyBreaksProof => 0x3006
  | .inUseByContract => 0x3007
  | .stateNotServing => 0x4001 | .partitionNotOpen => 0x4002 | .caseCancelled => 0x4003
  | .caseAlreadyDone => 0x4004 | .cairnTimeout => 0x4005 | .tierUnavailable => 0x4006
  | .updateInProgress => 0x4007
  | .fault => 0x5001 | .faultSafeHold => 0x5002 | .faultFenced => 0x5003 | .faultPoison => 0x5004
  | .faultLink => 0x5005 | .faultHostDma => 0x5006 | .faultHostLink => 0x5007
  | .pfOnly => 0x6001 | .dmaAddrDenied => 0x6002 | .signatureInvalid => 0x6003
  | .rollbackRefused => 0x6004 | .partitionSuspended => 0x6005

/-- The class of a status, bits 15:12 of its code (R48). -/
def statusClass (s : Status) : Nat := statusCode s / 4096

/-- A unit of R95: its kind in bits 15:12 and its index in bits 11:0. Kinds 12 and 13 exist for
accounting only (R141). -/
structure UnitId where
  kind : Nat
  idx  : Nat
  deriving DecidableEq, Repr

/-- The UNIT value of a unit (R95). -/
def unitCode (u : UnitId) : Nat := u.kind * 4096 + u.idx

/-- The largest index plus one of each unit kind of R95. -/
def unitCount : Nat → Nat
  | 1 => 4 | 2 => 16 | 3 => 64 | 4 => 16 | 5 => 4 | 6 => 2 | 7 => 16 | 8 => 32 | 9 => 32 | 10 => 4 | 11 => 16
  | _ => 0

/-- The unit a UNIT value encodes; any other value, 0 included, encodes none (R95). -/
def unitOfCode (v : Nat) : Option UnitId :=
  let u : UnitId := ⟨v / 4096, v % 4096⟩
  if u.idx < unitCount u.kind then some u else none

/-- The Garnet a unit belongs to, if any: dies, cores, arrays, vector units and samplers (R95). -/
def unitGarnet (u : UnitId) : Option Nat :=
  match u.kind with
  | 1 => some u.idx
  | 2 => some (u.idx / 4)
  | 3 => some (u.idx / 16)
  | 4 => some (u.idx / 4)
  | 5 => some u.idx
  | _ => none

/-- The events the firmware posts (R30's table, R32). -/
inductive EventCode where
  | contractRevoked
  | faultReported
  | stateChanged
  | partitionChanged
  deriving DecidableEq, Repr

/-- The CODE of an event. -/
def eventCode : EventCode → Nat
  | .contractRevoked => 1
  | .faultReported => 2
  | .stateChanged => 3
  | .partitionChanged => 4

/-- The MSI-X vector of an event, which is also its pending bit (R32, R17). -/
def eventVector : EventCode → Nat
  | .contractRevoked => 1
  | .faultReported => 2
  | .stateChanged => 3
  | .partitionChanged => 3

/-- A state of a cairn (R144); a cairn the store does not list is FREE. -/
inductive CairnState where
  | host
  | stage
  deriving DecidableEq, Repr

/-- The five states of an index (R80). -/
inductive IndexState where
  | empty
  | loading
  | live
  | settling
  | unavailable
  deriving DecidableEq, Repr

/-- The encoding of an index state in INDEX_QUERY (R80). -/
def indexStateCode : IndexState → Nat
  | .empty => 0 | .loading => 1 | .live => 2 | .settling => 3 | .unavailable => 4

/-- The ten stages of a case, in order (R10). -/
inductive Stage where
  | intake | embedding | encoding | coarse | listScan | fetch | rerank | packing | generation | result
  deriving DecidableEq, Repr

/-- The number of a stage, 1 to 10 (R91). -/
def stageNum : Stage → Nat
  | .intake => 1 | .embedding => 2 | .encoding => 3 | .coarse => 4 | .listScan => 5
  | .fetch => 6 | .rerank => 7 | .packing => 8 | .generation => 9 | .result => 10

/-- The stage after a stage (R10). -/
def nextStage : Stage → Stage
  | .intake => .embedding | .embedding => .encoding | .encoding => .coarse | .coarse => .listScan
  | .listScan => .fetch | .fetch => .rerank | .rerank => .packing | .packing => .generation
  | .generation => .result | .result => .result

/-- The states of a frame (R263). -/
inductive FrameState where
  | pool | spare | reserved | held | draining | retired
  deriving DecidableEq, Repr

/-- The two paged tiers of DRAM (R261). -/
inductive Tier where
  | t1
  | t2
  deriving DecidableEq, Repr

/-- The number of a tier. -/
def tierNum : Tier → Nat
  | .t1 => 1
  | .t2 => 2

/-- A detector id, 0x01 to 0x1A (R335). -/
abbrev DetectorId := Nat

/-- The orderable parts of R1, in the PART encoding of R17. -/
inductive Part where
  | c4512
  | e4512
  | c4256
  deriving DecidableEq, Repr

/-- The PART code (R17). -/
def partCode : Part → Nat
  | .c4512 => 0
  | .e4512 => 1
  | .c4256 => 2

end Sys2Proof.Machine
end

