-- ==== Sys2Proof/Machine/Float.lean ====
section
/-! DEFINITION. fp32 and bf16 arithmetic (R247, R249): every operation is computed exactly on dyadic
numbers and rounded once, in the rounding the rule names, the only losses of R260. EXP (R247), the quantizers (R249) and the
error-bound code of PQ entries (R256) stand here too. -/

namespace Sys2Proof.Machine

/-- How a result is rounded: to nearest even (R247), or outward for interval arithmetic (R257). -/
inductive Rounding where
  | nearest
  | down
  | up
  deriving DecidableEq, Repr

/-- What the bits of an fp32 word stand for; a finite value is (−1)^neg × man × 2^exp. -/
inductive FpVal where
  | nan
  | inf (neg : Bool)
  | fin (neg : Bool) (man : Nat) (exp : Int)
  deriving DecidableEq, Repr

/-- The quiet NaN that the result record carries as "no value" (R234). -/
def fpNaN : Word := 0x7FC00000#32

/-- +∞ or −∞. -/
def fpInf (neg : Bool) : Word := if neg then 0xFF800000#32 else 0x7F800000#32

/-- The fp32 value of a word (IEEE 754 binary32, R247). -/
def fpDecode (w : Word) : FpVal :=
  let n := w.toNat
  let neg := n.testBit 31
  let e := bitsOf n 30 23
  let f := bitsOf n 22 0
  if e = 255 then (if f = 0 then .inf neg else .nan)
  else if e = 0 then .fin neg f (-149)
  else .fin neg (2 ^ 23 + f) ((e : Int) - 150)

/-- The number of bits of `m`, 0 for 0. -/
def bitLen (m : Nat) : Nat := if m = 0 then 0 else Nat.log2 m + 1

/-- Whether a magnitude with the discarded part `rem` of `2^k` is rounded away from zero. -/
def roundsAway (r : Rounding) (neg : Bool) (m rem k : Nat) (sticky : Bool) : Bool :=
  match r with
  | .nearest =>
    let half := 2 ^ k
    decide (2 * rem > half) || (decide (2 * rem = half) && (sticky || decide (m % 2 = 1)))
  | .down => neg && (decide (rem ≠ 0) || sticky)
  | .up => !neg && (decide (rem ≠ 0) || sticky)

/-- The word of a magnitude of at most 24 bits at exponent `q ≥ −149`. -/
def fpPack (r : Rounding) (neg : Bool) (m : Nat) (q : Int) : Word :=
  let s := if neg then 2 ^ 31 else 0
  let (m, q) := if m = 2 ^ 24 then (2 ^ 23, q + 1) else (m, q)
  if m < 2 ^ 23 then BitVec.ofNat 32 (s + m)
  else if q > 104 then
    match r, neg with
    | .down, false => 0x7F7FFFFF#32
    | .up, true => 0xFF7FFFFF#32
    | _, _ => fpInf neg
  else BitVec.ofNat 32 (s + (q + 150).toNat * 2 ^ 23 + (m - 2 ^ 23))

/-- Rounds (−1)^neg × m × 2^e, with a nonzero remainder below it when `sticky`, to fp32. -/
def fpRound (r : Rounding) (neg : Bool) (m : Nat) (e : Int) (sticky : Bool := false) : Word :=
  let q := max (e + bitLen m - 24) (-149)
  if q ≤ e then
    -- Exact placement: a sticky part lies below the last place and only directed rounding sees it.
    let m' := m * 2 ^ (e - q).toNat
    fpPack r neg (if sticky && roundsAway r neg m' 0 1 true && r ≠ .nearest then m' + 1 else m') q
  else
    let k := (q - e).toNat
    let m' := m / 2 ^ k
    let rem := m % 2 ^ k
    fpPack r neg (if roundsAway r neg m' rem k sticky then m' + 1 else m') q

/-- The signed mantissa of a finite value. -/
def fpSigned (neg : Bool) (m : Nat) : Int := if neg then -(m : Int) else m

/-- The word of the exact dyadic x × 2^e; an exact zero takes the sign `zeroNeg`. -/
def fpOfDyadic (r : Rounding) (x : Int) (e : Int) (zeroNeg : Bool := false) : Word :=
  if x = 0 then (if zeroNeg then 0x80000000#32 else 0#32)
  else fpRound r (decide (x < 0)) x.natAbs e

/-- The nearest fp32 of an integer (R175, R253). -/
def fpOfInt (x : Int) : Word := fpOfDyadic .nearest x 0

/-- fp32 negation. -/
def fpNeg (a : Word) : Word := a ^^^ 0x80000000#32

/-- The exact sum of two dyadics. -/
def dyadicAdd (x : Int) (ex : Int) (y : Int) (ey : Int) : Int × Int :=
  let e := min ex ey
  (x * 2 ^ (ex - e).toNat + y * 2 ^ (ey - e).toNat, e)

/-- fp32 addition (R247). -/
def fpAdd (r : Rounding) (a b : Word) : Word :=
  match fpDecode a, fpDecode b with
  | .nan, _ => fpNaN
  | _, .nan => fpNaN
  | .inf n, .inf m => if n = m then fpInf n else fpNaN
  | .inf n, .fin _ _ _ => fpInf n
  | .fin _ _ _, .inf n => fpInf n
  | .fin n m e, .fin n' m' e' =>
    let (x, e'') := dyadicAdd (fpSigned n m) e (fpSigned n' m') e'
    fpOfDyadic r x e'' ((n && n') || (decide (r = .down) && (n || n')))

/-- fp32 subtraction. -/
def fpSub (r : Rounding) (a b : Word) : Word := fpAdd r a (fpNeg b)

/-- fp32 multiplication (R247). -/
def fpMul (r : Rounding) (a b : Word) : Word :=
  match fpDecode a, fpDecode b with
  | .nan, _ => fpNaN
  | _, .nan => fpNaN
  | .inf n, .inf m => fpInf (n != m)
  | .inf n, .fin n' m _ => if m = 0 then fpNaN else fpInf (n != n')
  | .fin n' m _, .inf n => if m = 0 then fpNaN else fpInf (n != n')
  | .fin n m e, .fin n' m' e' =>
    fpOfDyadic r (fpSigned (n != n') (m * m')) (e + e') (n != n')

/-- fp32 fused multiply-add a × b + c, rounded once (R247). -/
def fpFma (r : Rounding) (a b c : Word) : Word :=
  match fpDecode a, fpDecode b, fpDecode c with
  | .fin n m e, .fin n' m' e', .fin n'' m'' e'' =>
    let (x, q) := dyadicAdd (fpSigned (n != n') (m * m')) (e + e') (fpSigned n'' m'') e''
    fpOfDyadic r x q (((n != n') && n'') || (decide (r = .down) && ((n != n') || n'')))
  | .fin _ _ _, .fin _ _ _, .inf n => fpInf n
  | _, _, _ => fpAdd r (fpMul r a b) c

/-- fp32 division (R247): a 64-bit quotient with the remainder as the sticky part. -/
def fpDiv (r : Rounding) (a b : Word) : Word :=
  match fpDecode a, fpDecode b with
  | .nan, _ => fpNaN
  | _, .nan => fpNaN
  | .inf _, .inf _ => fpNaN
  | .inf n, .fin n' _ _ => fpInf (n != n')
  | .fin n _ _, .inf n' => if n != n' then 0x80000000#32 else 0#32
  | .fin n m e, .fin n' m' e' =>
    if m' = 0 then (if m = 0 then fpNaN else fpInf (n != n'))
    else if m = 0 then (if n != n' then 0x80000000#32 else 0#32)
    else
      let q := m * 2 ^ 64 / m'
      fpRound r (n != n') q (e - e' - 64) (decide (m * 2 ^ 64 % m' ≠ 0))

/-- The integer square root by trial of each bit from bit `k − 1` down. -/
def isqrtFrom (n : Nat) : Nat → Nat → Nat
  | 0, acc => acc
  | k + 1, acc =>
    let t := acc + 2 ^ k
    isqrtFrom n k (if t * t ≤ n then t else acc)

/-- The largest integer whose square is at most `n`. -/
def isqrt (n : Nat) : Nat := isqrtFrom n ((bitLen n + 1) / 2) 0

/-- fp32 square root (R247). -/
def fpSqrt (r : Rounding) (a : Word) : Word :=
  match fpDecode a with
  | .nan => fpNaN
  | .inf neg => if neg then fpNaN else fpInf false
  | .fin neg m e =>
    if m = 0 then a
    else if neg then fpNaN
    else
      let k : Nat := if e % 2 = 0 then 64 else 65
      let n := m * 2 ^ k
      let s := isqrt n
      fpRound r false s ((e - k) / 2) (decide (s * s ≠ n))

/-- A number ordered as fp32 values are: −∞ < finite < +∞ and −0 equal to +0; a NaN is above all. -/
def fpKey (w : Word) : Int :=
  match fpDecode w with
  | .nan => 2 ^ 32
  | .inf neg => if neg then -(2 ^ 31) else 2 ^ 31
  | .fin _ _ _ => if w.toNat.testBit 31 then -((w.toNat - 2 ^ 31 : Nat) : Int) else w.toNat

/-- fp32 less-than with −0 and +0 equal (R184, R248). -/
def fpLt (a b : Word) : Bool := decide (fpKey a < fpKey b)

/-- Whether a word is a finite fp32. -/
def fpFinite (w : Word) : Bool :=
  match fpDecode w with
  | .fin _ _ _ => true
  | _ => false

/-- Whether a word is a NaN. -/
def fpIsNaN (w : Word) : Bool := decide (fpDecode w = .nan)

/-- Whether a word is a finite fp32 above zero. -/
def fpPositive (w : Word) : Bool :=
  match fpDecode w with
  | .fin neg m _ => !neg && decide (m ≠ 0)
  | _ => false

/-- fp32 to bf16, to nearest even (R249): the upper 16 bits after rounding. -/
def bf16OfFp (w : Word) : BitVec 16 :=
  let n := w.toNat
  if fpIsNaN w then BitVec.ofNat 16 (n / 2 ^ 16 ||| 0x40)
  else
    let hi := n / 2 ^ 16
    let lo := n % 2 ^ 16
    BitVec.ofNat 16 (if lo > 2 ^ 15 ∨ (lo = 2 ^ 15 ∧ hi % 2 = 1) then hi + 1 else hi)

/-- bf16 to fp32: the 16 bits above 16 zero bits (R249). -/
def fpOfBf16 (b : BitVec 16) : Word := BitVec.ofNat 32 (b.toNat * 2 ^ 16)

/-- The largest m of at most `k` bits, above `acc`, with m^p ≤ n. -/
def irootFrom (p n : Nat) : Nat → Nat → Nat
  | 0, acc => acc
  | k + 1, acc =>
    let t := acc + 2 ^ k
    irootFrom p n k (if t ^ p ≤ n then t else acc)

/-- 2^(j/64) for 0 ≤ j ≤ 63 rounded to nearest even in fp32 (the table T of R247). -/
def expTable (j : Nat) : Word :=
  let m := irootFrom 64 (2 ^ (j + 23 * 64)) 24 0
  fpPack .nearest false (if (2 * m + 1) ^ 64 < 2 ^ (j + 24 * 64) then m + 1 else m) (-23)

/-- The integer floor of the exact value of a finite word times 2^k. -/
def fpFloorShift (w : Word) (k : Nat) : Int :=
  match fpDecode w with
  | .fin neg m e =>
    let x := fpSigned neg m
    let s := e + k
    if s ≥ 0 then x * 2 ^ s.toNat else x / 2 ^ (-s).toNat
  | _ => 0

/-- EXP of R247, fixed to the bit for an input at or below 0; a NaN is treated as −∞. -/
def fpExp (x : Word) : Word :=
  if fpIsNaN x ∨ fpLt x 0xC2AE0000#32 then 0#32
  else
    let y := fpMul .nearest x 0x3FB8AA3B#32
    let k := fpFloorShift y 6
    let j := (k % 64).toNat
    let i := (k - j) / 64
    let rr := match fpDecode y with
      | .fin neg m e =>
        let (d, q) := dyadicAdd (fpSigned neg m) e (-k) (-6)
        fpOfDyadic .nearest d q
      | _ => 0#32
    let q := fpMul .nearest 0x3E75FDF0#32 rr
    let q := fpAdd .nearest q 0x3F317218#32
    let q := fpMul .nearest q rr
    let q := fpAdd .nearest q 0x3F800000#32
    let t := fpMul .nearest (expTable j) q
    match fpDecode t with
    | .fin neg m e => fpOfDyadic .nearest (fpSigned neg m) (e + i)
    | _ => t

/-- ε(b) of R256 rounded upward to fp32 (R257): 0 for b = 0, else 2^((b − 128) ÷ 8). -/
def pqEps (b : Nat) : Word :=
  if b = 0 then 0#32
  else
    -- 2^((b−128)/8) = root8(2^(b mod 8)) · 2^((b div 8) − 16)
    let m := irootFrom 8 (2 ^ (b % 8 + 23 * 8)) 24 0
    let up := if m ^ 8 = 2 ^ (b % 8 + 23 * 8) then m else m + 1
    fpRound .up false up ((b / 8 : Nat) - 16 - 23)

/-- Rounds the exact quotient num × 2^e ÷ den to the nearest integer, ties to even (R249). -/
def roundHalfEven (num : Int) (den : Nat) : Int :=
  let q := num / (den : Int)
  let r := num - q * den
  if 2 * r > den ∨ (2 * r = den ∧ q % 2 ≠ 0) then q + 1 else q

/-- An element of a quantized row: the stored integer, and whether it counts as a saturation. -/
structure Quant where
  val : Int
  sat : Bool
  deriving DecidableEq, Repr

/-- The quantizer of R249 with limit `lim` (127 for int8, 7 for KV4 nibbles). -/
def quantize (lim : Int) (scale x : Word) : Quant :=
  match fpDecode scale, fpDecode x with
  | .fin _ sm se, .fin neg m e =>
    if sm = 0 then ⟨0, false⟩
    else
      let d := e - se
      let n := fpSigned neg m
      let q := if d ≥ 0 then roundHalfEven (n * 2 ^ d.toNat) sm
               else roundHalfEven n (sm * 2 ^ (-d).toNat)
      if q > lim then ⟨lim, true⟩ else if q < -lim then ⟨-lim, true⟩ else ⟨q, false⟩
  | .fin _ sm _, .inf neg => ⟨if sm = 0 then 0 else if neg then -lim else lim, true⟩
  | _, .nan => ⟨0, true⟩
  | _, _ => ⟨0, true⟩

/-- |x| of an fp32 word. -/
def fpAbs (x : Word) : Word := x &&& 0x7FFFFFFF#32

/-- The largest |x| over the finite elements, 0 when there is none (R249). -/
def fpMaxAbs (xs : List Word) : Word :=
  xs.foldl (fun acc x => if fpFinite x && fpLt acc (fpAbs x) then fpAbs x else acc) 0#32

/-- The DYNAMIC scale max|x| ÷ 127 of an activation row, rounded upward (R252). -/
def dynamicScale (xs : List Word) : Word := fpDiv .up (fpMaxAbs xs) (fpOfInt 127)

/-- A KV page's step: max|x| ÷ 127 for KV8, ÷ 7 for KV4, rounded upward (R255). -/
def kvStep (lim : Int) (xs : List Word) : Word := fpDiv .up (fpMaxAbs xs) (fpOfInt lim)

/-- A DYNAMIC row: its int8 elements, its scale and its saturations (R252). -/
structure QuantRow where
  scale : Word
  elems : List Int
  sats  : Nat
  deriving DecidableEq, Repr

/-- Quantizes a vector to a DYNAMIC int8 row (R159, R163, R252). -/
def quantizeRow (xs : List Word) : QuantRow :=
  let s := dynamicScale xs
  let q := xs.map (quantize 127 s)
  { scale := s, elems := q.map Quant.val, sats := (q.filter Quant.sat).length }

/-- An int32 output made fp32 in the fixed order of R253. -/
def rescale (acc : Int) (sRow sCh : Word) (bias : Option Word) : Word :=
  let t := fpMul .nearest (fpOfInt acc) sRow
  let t := fpMul .nearest t sCh
  match bias with
  | none => t
  | some b => fpAdd .nearest t b

/-- The word at a place of `fpKey`'s order, within the infinities. -/
def fpOfKey (k : Int) : Word :=
  if k > 0x7F7FFFFF then fpInf false
  else if k < -0x7F7FFFFF then fpInf true
  else if k < 0 then BitVec.ofNat 32 (2 ^ 31 + (-k).toNat)
  else BitVec.ofNat 32 k.toNat

/-- The fp32 value that lies `n` representable values above a word. -/
def fpMoved (w : Word) (n : Int) : Word := if fpIsNaN w then w else fpOfKey (fpKey w + n)

/-- The square root of n × 2^(2h), rounded once. -/
def fpRootOf (r : Rounding) (n : Nat) (h : Int) : Word :=
  let v := n * 2 ^ 128
  let q := isqrt v
  if n = 0 then 0#32 else fpRound r false q (h - 64) (decide (q * q ≠ v))

/-- 2^k as an fp32 word, to nearest. -/
def fpPow2 (k : Int) : Word := fpRound .nearest false 1 k

/-- The fixed cross-Garnet order (P0 + P1) + (P2 + P3) in fp32 (R258). -/
def reduceGarnets (p0 p1 p2 p3 : Word) : Word :=
  fpAdd .nearest (fpAdd .nearest p0 p1) (fpAdd .nearest p2 p3)

/-- A sum of two partials of which either may be absent. -/
def reducePair (bf : Bool) (a b : Option Word) : Option Word :=
  match a, b with
  | some x, some y =>
    let s := fpAdd .nearest x y
    some (if bf then fpOfBf16 (bf16OfFp s) else s)
  | some x, none => some x
  | none, b => b

/-- The stack's binary tree by stack position, absent positions left out (R258); `bf` marks a bf16
reduction, which rounds each partial and each sum to bf16. -/
def reduceStack (bf : Bool) (p : List (Option Word)) : Option Word :=
  let p := if bf then p.map (Option.map fun w => fpOfBf16 (bf16OfFp w)) else p
  let at' (i : Nat) := p.getD i none
  reducePair bf
    (reducePair bf (reducePair bf (at' 0) (at' 1)) (reducePair bf (at' 2) (at' 3)))
    (reducePair bf (reducePair bf (at' 4) (at' 5)) (reducePair bf (at' 6) (at' 7)))

end Sys2Proof.Machine
end

