-- ==== Sys2Proof/Machine/Records.lean ====
section
/-! DEFINITION. The records of the data path: what a Brieb model image and an index image declare, the
host-built contract record and case descriptor once parsed, candidates, passages and the figures of a
proof. They are the operands of commands and the content of objects in State. -/

namespace Sys2Proof.Machine

/-- The role a Brieb image declares (R84 step 3). -/
inductive ModelRole where
  | encoder
  | reranker
  | generator
  deriving DecidableEq, Repr

/-- A weight tensor of an image: its format, Q4B32 or Q8C, its output channels, the length of its reduction index, and its bytes
(R250, R251). -/
structure Tensor where
  q4       : Bool
  channels : Nat
  steps    : Nat
  bytes    : List Byte
  deriving DecidableEq, Repr

/-- The scale of an activation tensor: taken from the row, or fixed by the image (R252). -/
inductive ActScale where
  | dynamic
  | static (scale : Word)
  deriving DecidableEq, Repr

/-- The shape of a generator's attention, as its image declares it (R212, R215). -/
structure HeadShape where
  layers : Nat
  hq     : Nat
  hkv    : Nat
  dh     : Nat
  deriving DecidableEq, Repr

/-- What an encoder image declares (R156, R160, R162). -/
structure EncoderFacts where
  outDim     : Nat
  byteBase   : Nat
  patch      : Nat
  maxPatches : Nat
  bagDims    : List Nat
  caseTypes  : List Nat
  deriving DecidableEq, Repr

/-- What a generator image declares (R214, R230, R231). -/
structure GeneratorFacts where
  hasHead  : Bool
  verdicts : Nat
  calib    : List Word
  wFile    : Nat
  adapters : List Nat
  hasKv    : Bool
  deriving DecidableEq, Repr

/-- What the firmware finds in a Brieb model image (R65, R133, R134, R246, R252, R273): the facts that the spec's checks read, its
weights and activation scales, how many arrays of each Garnet its commands take, and its schedule. The byte format of the image
around the tensors is Brieb's and is not given. -/
structure ModelImage where
  parses      : Bool
  signatureOk : Bool
  statedLen   : Nat
  imageId     : Nat
  role        : ModelRole
  version     : Nat
  weightBytes : Nat
  shape       : HeadShape
  vocab       : Nat
  maxPos      : Nat
  enc         : EncoderFacts
  gen         : GeneratorFacts
  footprint   : Nat
  workArea    : Nat
  lookahead   : Nat
  tensors     : List Tensor
  acts        : List ActScale
  arrays      : Nat
  schedule    : List Byte
  deriving DecidableEq, Repr

/-- One entry of an index list: its id, its PQ code bytes and its bound byte (R168, R169). -/
structure IdxEntry where
  id    : Nat
  code  : List Nat
  bound : Nat
  deriving DecidableEq, Repr

/-- One list of an index: its capacity and its entries in position order (R168). -/
structure IdxList where
  capacity : Nat
  entries  : List IdxEntry
  deriving DecidableEq, Repr

/-- One scree record (R180). -/
structure ScreeRec where
  id    : Nat
  list  : Nat
  bound : Nat
  del   : Bool
  code  : List Nat
  seq   : Nat
  deriving DecidableEq, Repr

/-- The header fields of an index image (R171). -/
structure IndexHeader where
  magic : Nat
  imgVersion : Nat
  codeBytes : Nat
  metric : Nat
  lists : Nat
  shard : Nat
  shardCount : Nat
  layoutId : Nat
  imageBytes : Nat
  mainEntries : Nat
  listBlocks : Nat
  runCount : Nat
  screeRecords : Nat
  centScale : Word
  codebookOff : Nat
  centOff : Nat
  dirOff : Nat
  runOff : Nat
  blockOff : Nat
  screeOff : Nat
  imageCrc : Nat
  reserved : Option Nat
  deriving DecidableEq, Repr

/-- A directory entry of an index image (R172). -/
structure DirEntry where
  count : Nat
  capacity : Nat
  block : Nat
  runFirst : Nat
  runs : Nat
  reserved : Nat
  deriving DecidableEq, Repr

/-- A run entry of an index image (R172). -/
structure RunEntry where
  firstId : Nat
  len : Nat
  reserved : Nat
  deriving DecidableEq, Repr

/-- A scree slot of an index image, with its KIND as stored, and whether its reserved bytes 14 and 15, and those after SEQ, are
not all zero (R180, R190). -/
structure ScreeSlot where
  rcd : ScreeRec
  kind : Nat
  gap : Bool
  tail : Bool
  deriving DecidableEq, Repr

/-- A query vector as the encoding stage commits it: 256 int8 values and one fp32 scale (R163). -/
structure QueryVec where
  q     : List Int
  scale : Word
  deriving DecidableEq, Repr

/-- What stands at one position of a model's input (R161, R162, R164, R206, R209, R230). -/
inductive Position where
  | bos
  | sep
  | sum
  | tok (t : Nat)
  | bag (row : QuantRow)
  | patch (channels : List Int)
  | summary (v : List Word)
  | query (q : QueryVec)
  deriving DecidableEq, Repr

/-- A position of a model's input with what its attention reads: the first `pfx` positions, a registered prefix, and the positions
from `lo` up to its own (R230). -/
structure Seen where
  at' : Position
  pfx : Nat
  lo  : Nat
  deriving DecidableEq, Repr

/-- The output heads of models: a query vector, a chunk summary, a pair's score, the classes and the vocabulary (R163, R164, R206,
R214, R220). -/
inductive OutHead where
  | query
  | summary
  | score
  | classes
  | tokens
  deriving DecidableEq, Repr

/-- A candidate (R186). -/
structure Candidate where
  id    : Nat
  lo    : Word
  hi    : Word
  list  : Nat
  shard : Nat
  scree : Bool
  pos   : Nat
  seq   : Nat
  deriving DecidableEq, Repr

/-- A committed candidate list with its header (R185, R186). -/
structure CandList where
  cands  : List Candidate
  exact  : Bool
  short  : Bool
  u      : Word
  lOut   : Word
  slack  : Word
  gen    : Nat
  screeSeq : Nat
  deriving DecidableEq, Repr

/-- Where a passage came from (SRC of R211). -/
inductive PassageSrc where
  | store
  | cache
  | idByForm
  | missing
  | malformed
  deriving DecidableEq, Repr

/-- SRC's code (R211). -/
def passageSrcCode : PassageSrc → Nat
  | .store => 1 | .cache => 2 | .idByForm => 3 | .missing => 4 | .malformed => 5

/-- A passage of the pool, with what re-rank and packing have decided about it (R211). -/
structure Passage where
  id : Nat
  family : Nat
  score : Word
  candRank : Nat
  src : PassageSrc
  toks : List Nat
  storeTokens : Nat
  chosen : Bool
  packed : Bool
  truncated : Bool
  familyDup : Bool
  noBudget : Bool
  ptok : Nat
  deriving DecidableEq, Repr

/-- A passage held by an index's T2 cache (R203). -/
structure CachedPassage where
  id : Nat
  family : Nat
  tokens : Nat
  toks : List Nat
  blockAt : Nat
  blocks : Nat
  deriving DecidableEq, Repr

/-- The TEMPLATE area (R193). -/
structure Template where
  version : Nat
  slotCount : Nat
  caseTok : Nat
  slotTok : Nat
  rrCaseTok : Nat
  passBudget : Nat
  familyMax : Nat
  order : Nat
  caseTrunc : Nat
  rrBatch : Nat
  caseOpen : Nat
  caseClose : Nat
  slotOpen : Nat
  slotClose : Nat
  truncMark : Nat
  storeBase : Nat
  storeBuckets : Nat
  storeKey : Nat
  dataBase : Nat
  dataLen : Nat
  probeMax : Nat
  deriving DecidableEq, Repr

/-- A bag entry of the FEATURES area (R155). -/
structure BagSpec where
  table : Nat
  pool : Nat
  bagMax : Nat
  deriving DecidableEq, Repr

/-- The FEATURES area (R155). -/
structure Features where
  payloadMax : Nat
  encBytes : Nat
  chunkLen : Nat
  chunkMax : Nat
  bags : List BagSpec
  deriving DecidableEq, Repr

/-- The SAMPLER area (R222); `forbid` is the list of forbidden tokens. -/
structure Sampler where
  version : Nat
  temp : Word
  topK : Nat
  fileContext : Nat
  topP : Word
  bias : List (Nat × Word)
  hasForbid : Bool
  forbid : List Nat
  deriving DecidableEq, Repr

/-- The STOPS area (R227). -/
structure Stops where
  version : Nat
  stopToks : List Nat
  seqs : List (List Nat)
  labels : List (List Nat)
  labelStop : Bool
  timeBudget : Nat
  deriving DecidableEq, Repr

/-- The identity fields of a contract record (R106, offsets 4 to 31). -/
structure ContractTerms where
  caseType : Nat
  level : Nat
  preempt : Nat
  topology : Nat
  deadline : Nat
  energyUj : Nat
  arrivalKind : Nat
  burst : Nat
  interval : Nat
  phase : Nat
  doneCairn : Nat
  deriving DecidableEq, Repr

/-- The handles a contract record names (R106, offsets 32 to 59). -/
structure ContractRefs where
  encModel : Nat
  index : Nat
  rerankModel : Nat
  genModel : Nat
  draftModel : Nat
  fbGenModel : Nat
  pfx : Nat
  deriving DecidableEq, Repr

/-- The limits of a contract record (R106, offsets 60 to 87). -/
structure ContractLimits where
  nprobe : Nat
  candC : Nat
  rerankDepth : Nat
  draftLen : Nat
  genMax : Nat
  fbGenMax : Nat
  fbMask : Nat
  holdUs : Nat
  contextMax : Nat
  kvFormat : Nat
  passageSrc : Nat
  passageTok : Nat
  t3Budget : Nat
  deriving DecidableEq, Repr

/-- An area of a contract record: its offset and its length (R106). -/
structure Area where
  off : Nat
  len : Nat
  deriving DecidableEq, Repr

/-- A contract record, parsed from its bytes (R106). -/
structure ContractRec where
  version : Nat
  bytes : Nat
  terms : ContractTerms
  refs : ContractRefs
  lim : ContractLimits
  tplArea : Area
  featArea : Area
  smpArea : Area
  stpArea : Area
  tpl : Template
  feat : Features
  smp : Sampler
  stp : Stops
  deriving DecidableEq, Repr

/-- A form of a stage (FB_FORM of R118). -/
inductive Form where
  | absent
  | full
  | distanceOrder
  | cache
  | idsOnly
  | smallGen
  | scoreHead
  deriving DecidableEq, Repr

/-- FB_FORM's code (R118). -/
def formCode : Form → Nat
  | .absent => 0 | .full => 1 | .distanceOrder => 2 | .cache => 3 | .idsOnly => 4 | .smallGen => 5
  | .scoreHead => 6

/-- The work that a Brieb schedule gives one Garnet, in ACLK: array tiles of SPLIT form, of pair mode and of GANG form, and
vector-unit operations (R110, R408). -/
structure DieWork where
  split  : Nat
  pair   : Nat
  gang   : Nat
  vector : Nat
  deriving DecidableEq, Repr

/-- Work that a Brieb schedule states: the four Garnets' shares, the sampler's and the scan engines' issue counts in ACLK, the
bytes it reads or writes in T1 and T2, its engine acquisitions, and its energy in nJ at each rail voltage in mV (R110, R115). -/
structure Work where
  dies    : List DieWork
  sampler : Nat
  scan    : Nat
  t1      : Nat
  t2      : Nat
  holds   : Nat
  energy  : List (Nat × Nat)
  deriving DecidableEq, Repr

/-- What the schedules state of one form of a stage: its work once, for each item (a list block, a passage, a pass), and for each
token, byte or record; the largest layer that it prefetches, in bytes; and its longest command, in ACLK. The format of a
schedule is Brieb's (log 35). -/
structure FormSched where
  stage   : Nat
  form    : Form
  fixed   : Work
  each    : Work
  token   : Work
  layer   : Nat
  longest : Nat
  deriving DecidableEq, Repr

/-- What the Brieb schedules of the objects that a contract names state of its stages (R110). -/
structure Schedules where
  forms : List FormSched
  deriving DecidableEq, Repr

/-- The proven figures of one stage (R118), with the engine demand of one case in it (R110). -/
structure StageFigures where
  bFb    : Nat
  bFull  : Nat
  queue  : Nat
  energy : Nat
  demand : Nat
  deriving DecidableEq, Repr

/-- The figures that the cost model gives for a contract (R110 to R116). -/
structure ProofFigures where
  placeable : Bool
  bound : Nat
  slack : Nat
  stages : List StageFigures
  t1Slots : Nat
  t2Slots : Nat
  t1Pages : Nat
  t2Pages : Nat
  rerouteOk : Bool
  deriving DecidableEq, Repr

/-- An answer to RESERVE (R299, R302): the module's position, the shard it holds, its status, its bound and its energy. -/
structure ShardAck where
  pos    : Nat
  shard  : Nat
  status : Nat
  bound  : Nat
  energy : Nat
  deriving DecidableEq, Repr

/-- A scatter entry of a case descriptor (R152). -/
structure Scatter where
  addr : Nat
  len : Nat
  deriving DecidableEq, Repr

/-- A feature entry of a case descriptor (R152). -/
structure FeatEntry where
  index : Nat
  weight : Word
  bag : Nat
  deriving DecidableEq, Repr

/-- A case descriptor, parsed from its bytes (R152). -/
structure CaseDesc where
  version : Nat
  bytes : Nat
  caseType : Nat
  sg : List Scatter
  feats : List FeatEntry
  payloadBytes : Nat
  frameW : Nat
  frameH : Nat
  pixFmt : Nat
  rowPitch : Nat
  deriving DecidableEq, Repr

/-- What a frame holds, for the effect of a poison read (R280, owner kind of R370). Where objects are placed among the
frames is the firmware's choice and not given; `page` counts the pages of a passage cache. -/
inductive FrameUse where
  | none
  | model (h : Nat)
  | table (h : Nat)
  | index (h : Nat)
  | pfx (h : Nat)
  | cache (h page : Nat)
  | stream
  | case (key : Nat)
  deriving DecidableEq, Repr

/-- A DRAM read that finds an error the granule's cells did not hold before: where, the syndrome that the error adds
(R275), and what the frame holds. -/
structure DramRead where
  tier    : Tier
  frame   : Nat
  granule : Nat
  syn     : Syndrome
  use     : FrameUse
  deriving DecidableEq, Repr

/-- A DRAM write of interest: whether it covers all 64 bytes of its granule, and the syndrome that the granule's cells
add at the merge read of a partial write (R278, R279). -/
structure DramWrite where
  tier    : Tier
  frame   : Nat
  granule : Nat
  full    : Bool
  syn     : Syndrome
  deriving DecidableEq, Repr

/-- A detector event that takes hold of a command before it commits, with the detail its record carries
(R335, R409); a DRAM detection also carries the read. -/
structure Detection where
  det : DetectorId
  unit : UnitId
  payload : List Byte
  injected : Bool
  dram : Option DramRead
  deriving DecidableEq, Repr

/-- The facts of a firmware image in a NOR slot (R104, R376). -/
structure FwImage where
  parses : Bool
  signatureOk : Bool
  securityVersion : Nat
  version : Nat
  keyList : List Nat
  fwMinor : Nat
  fwBuild : Nat
  deriving DecidableEq, Repr

/-- The worst cases of one form at a prediction point, in TCLK (R122): of the rest of the stage at the divider in
force, up to the next point at MIN_DIV, and of the chain's last form from that point at MIN_DIV. -/
structure FormPred where
  form : Form
  rest : Nat
  next : Nat
  last : Nat
  deriving DecidableEq, Repr

/-- The predictions of the deadline monitor at a prediction point: the forms the stage can still take, in the
order of its chain (R121, R122). They follow from the Brieb schedules, which are not given. -/
structure Prediction where
  forms : List FormPred
  deriving DecidableEq, Repr

/-- What one region's sensors read in a loop period: lowest and highest, in mV (R318, R319), and the TCLK count of the ACLK cycle of the
lowest reading, which the minimum-hold keeps (R328). -/
structure RegionReading where
  ts : Nat
  lo : Nat
  hi : Nat
  bad : Bool
  deriving DecidableEq, Repr

/-- The readings of one loop period of a die (R318, R319, R327): the regions, the remote sense in mV and the
AVSBus errors in a row. -/
structure LoopReading where
  regions   : List RegionReading
  vsense    : Nat
  avsErrors : Nat
  deriving DecidableEq, Repr

/-- A DMA read the module has issued (R390): the fetch of a ring entry, a payload read, or a passage store
read. -/
inductive DmaRef where
  | ringFetch (f index : Nat)
  | intake (key : Nat)
  | store (key id : Nat)
  deriving DecidableEq, Repr

/-- A PLDM firmware update request (R387): data for an offset of the component, and the activation of a component of `len`
bytes. -/
inductive PldmReq where
  | requestUpdate
  | firmwareData (off : Nat) (data : List Byte) (flashOk : Bool)
  | activate (len : Nat)
  | cancel
  deriving DecidableEq, Repr

/-- The SPDM requests that are supported (R378), and any other request. -/
inductive SpdmReq where
  | getVersion
  | getCapabilities
  | negotiateAlgorithms
  | getDigests
  | getCertificate (slot : Nat)
  | challenge
  | getMeasurements
  | other (code : Nat)
  deriving DecidableEq, Repr

/-- A Strata message (R298, R299). -/
structure StrataMsg where
  type : Nat
  src  : Nat
  dst  : Nat
  hops : Nat
  id   : Nat
  vc   : Nat
  data : List Byte
  deriving DecidableEq, Repr

/-- A flit (R293). -/
structure Flit where
  seq     : Nat
  ackSeq  : Nat
  ftype   : Nat
  vc      : Nat
  som     : Bool
  eom     : Bool
  credVc  : Nat
  credit  : Nat
  bytes   : Nat
  payload : List Byte
  crc     : Word
  deriving DecidableEq, Repr

end Sys2Proof.Machine
end

