-- ==== Sys2Proof/Machine/Arrays.lean ====
section
/-! DEFINITION. The Garnet arrays (R237 to R246): the cell operations, a tile's accumulation from broadcast operands, its checksum
cells, GANG quadrants, and the conversion of a finished chain (R243, R246, R253, R258). -/

namespace Sys2Proof.Machine

/-! ## Operations (R238, R242) -/

/-- What the cells of an array do in a step (R242). -/
inductive CellOp where
  | mac8
  | mac4
  | macBf
  | sqdiff
  | absdiff
  | min
  | max
  | cmp
  deriving DecidableEq, Repr

/-- Whether a tile of an operation is checked in pair mode; the int8 and int4 products are checksummed (R242). -/
def CellOp.pairs : CellOp → Bool
  | .mac8 | .mac4 => false
  | _ => true

/-- The most accumulation steps of a tile (R238). -/
def CellOp.most : CellOp → Nat
  | .macBf => 64
  | _ => 256

/-- A cell: what it keeps, and its sticky overflow bit (R246). -/
structure Cell where
  acc : Word
  ovf : Bool
  deriving DecidableEq, Repr

/-- An int32 addition: the sum wraps, and the sticky bit is set where it overflows (R246). -/
def Cell.plus (c : Cell) (x : Int) : Cell :=
  let v := c.acc.toInt + x
  { acc := BitVec.ofInt 32 v, ovf := c.ovf || decide (v < -(2 ^ 31) ∨ 2 ^ 31 ≤ v) }

/-- One accumulation step of a cell on its row's operand and its column's operand; those of a bf16 product are bit patterns (R237,
R242). -/
def cellStep (op : CellOp) (c : Cell) (a b : Int) : Cell :=
  match op with
  | .mac8 | .mac4 => c.plus (a * b)
  | .macBf => { c with acc := fpFma .nearest (fpOfBf16 (BitVec.ofInt 16 a)) (fpOfBf16 (BitVec.ofInt 16 b)) c.acc }
  | .sqdiff => c.plus ((a - b) ^ 2)
  | .absdiff => c.plus (a - b).natAbs
  | .min => if a - b < c.acc.toInt then { c with acc := BitVec.ofInt 32 (a - b) } else c
  | .max => if c.acc.toInt < a - b then { c with acc := BitVec.ofInt 32 (a - b) } else c
  | .cmp => c.plus (if b < a then 1 else 0)

/-- A cell over the steps of a tile, in step order. -/
def cellRun (op : CellOp) (c : Cell) (as bs : List Int) : Cell :=
  (as.zip bs).foldl (fun c e => cellStep op c e.1 e.2) c

/-! ## A tile (R237 to R241, R244) -/

/-- What follows the last tile of a chain: nothing yet, the conversion of its outputs to fp32 with the scale of each row, the scale
of each column and the biases (R253), fp32 sums taken as they are, or a distance (R243). -/
inductive ChainEnd where
  | more
  | rescale (rows cols : List Word) (bias : Option (List Word))
  | plain
  | l2
  | hamming
  | cosine (rows cols : List Word)
  deriving DecidableEq, Repr

/-- A tile as its array drains it: its operation, the output block that its chain accumulates, the operands that the feeders
broadcast to each row and each column, step by step, and what follows. A fault shows as a change of what cells hold: `flips` of the
array's outputs, of its checksum row (row 64), its checksum column (column 64) and its corner, `twin` of the outputs of the second
array of a pair, and overflow bits that are `stuck`. -/
structure TileRun where
  op    : CellOp
  block : Nat
  rows  : List (List Int)
  cols  : List (List Int)
  flips : List (Nat × Nat × Word)
  twin  : List (Nat × Nat × Word)
  stuck : List (Nat × Nat)
  next  : ChainEnd
  deriving DecidableEq, Repr

/-- The steps of a tile. -/
def TileRun.steps (t : TileRun) : Nat := maxNat ((t.rows ++ t.cols).map List.length)

/-- The part of a tile's operands that array `q` of a core receives: in GANG mode its quadrant of a logical array of 128 rows and
columns, and otherwise the whole (R241). -/
def quadrant (gang : Bool) (q : Nat) (t : TileRun) : TileRun :=
  if gang then { t with rows := (t.rows.drop (64 * (q / 2))).take 64, cols := (t.cols.drop (64 * (q % 2))).take 64 } else t

/-- The checked outputs of the tiles of one chain so far, in the command's work area of a core: the preload of the chain's next
tile, with its checksum cells (R239), the sums of squares of each row's and column's operands, which for operands 0 and 1 are their
counts (R243), and the fp32 results of the block's finished chains, added in order (R246, R258). -/
structure TileArea where
  cmd    : Nat
  core   : Nat
  quad   : Nat
  block  : Nat
  out    : List (List Word)
  csRow  : List Word
  csCol  : List Word
  corner : Word
  rowSq  : List Int
  colSq  : List Int
  sums   : List (List Word)
  deriving DecidableEq, Repr

/-- The 64 rows or columns of an array. -/
def places : List Nat := List.range 64

/-- A work area that holds nothing: its tiles start from zero (R239). -/
def freshArea (cmd core quad block : Nat) : TileArea :=
  { cmd := cmd, core := core, quad := quad, block := block, out := [], csRow := [], csCol := [], corner := 0, rowSq := [],
    colSq := [], sums := [] }

/-- What an area holds for a cell. -/
def areaCell (r : TileArea) (i j : Nat) : Word := (r.out.getD i []).getD j 0

/-- The cells of an array at the drain of a tile, row by row. -/
def tileCells (r : TileArea) (t : TileRun) : List (List Cell) :=
  places.map fun i => places.map fun j =>
    cellRun t.op { acc := areaCell r i j, ovf := false } (t.rows.getD i []) (t.cols.getD j [])

/-- The sums that a feeder forms over its rows or columns, step by step (R244). -/
def feederSums (t : TileRun) (xs : List (List Int)) : List Int :=
  (List.range t.steps).map fun k => sumInt (xs.map fun x => x.getD k 0)

/-- What a checksum cell holds after a tile: it adds modulo 2^32 (R244). -/
def checkCell (pre : Word) (as bs : List Int) : Word := pre + BitVec.ofInt 32 (sumInt (as.zipWith (· * ·) bs))

/-- What faults make of a cell. -/
def flipped (fs : List (Nat × Nat × Word)) (i j : Nat) (w : Word) : Word :=
  (fs.filter fun f => f.1 == i && f.2.1 == j).foldl (fun w f => w ^^^ f.2.2) w

/-- The outputs that an array drains. -/
def drained (cs : List (List Cell)) (fs : List (Nat × Nat × Word)) : List (List Word) :=
  (List.range cs.length).zipWith (fun i r =>
    (List.range r.length).zipWith (fun j (c : Cell) => flipped fs i j c.acc) r) cs

/-- The first cell whose overflow bit is set, in row order (R246). -/
def overflowed (cs : List (List Cell)) (t : TileRun) : Option (Nat × Nat) :=
  ((List.range cs.length).zip cs).findSome? fun r =>
    ((List.range r.2.length).zip r.2).findSome? fun c => if c.2.ovf || t.stuck.contains (r.1, c.1) then some (r.1, c.1) else none

/-- The area after a tile whose compare has passed: its outputs, its checksum cells and the operands' sums of squares. -/
def areaAfter (r : TileArea) (t : TileRun) (cs : List (List Cell)) : TileArea :=
  let sq (pre : List Int) (xs : List (List Int)) : List Int :=
    places.map fun i => pre.getD i 0 + sumInt ((xs.getD i []).map fun x => x * x)
  let a := feederSums t t.rows
  let b := feederSums t t.cols
  { r with
    out := drained cs t.flips
    csRow := places.map fun j => flipped t.flips 64 j (checkCell (r.csRow.getD j 0) a (t.cols.getD j []))
    csCol := places.map fun i => flipped t.flips i 64 (checkCell (r.csCol.getD i 0) (t.rows.getD i []) b)
    corner := flipped t.flips 64 64 (checkCell r.corner a b)
    rowSq := sq r.rowSq t.rows
    colSq := sq r.colSq t.cols }

/-! ## The compare (R244, R245) -/

/-- The sum of words modulo 2^32. -/
def sumWords (ws : List Word) : Word := ws.foldl (· + ·) 0

/-- The sums of the columns of a tile's outputs modulo 2^32, row after row. -/
def columnSums (out : List (List Word)) : List Word := out.foldl (fun a r => a.zipWith (· + ·) r) (places.map fun _ => 0)

/-- The first row whose sum differs from its checksum cell. -/
def badRow (d : TileArea) : Option Nat := places.find? fun i => decide (sumWords (d.out.getD i []) ≠ d.csCol.getD i 0)

/-- The first column whose sum differs from its checksum cell. -/
def badCol (d : TileArea) : Option Nat :=
  (places.zip (columnSums d.out)).findSome? fun e => if e.2 ≠ d.csRow.getD e.1 0 then some e.1 else none

/-- Whether a checksummed tile passes its compare (R244). -/
def checksumOk (d : TileArea) : Bool :=
  (badRow d).isNone && (badCol d).isNone && decide (sumWords d.csRow = d.corner) && decide (d.corner = sumWords d.csCol)

/-- The place, in row order, of the first output in which the two arrays of a pair differ (R245). -/
def pairDiffers (cs : List (List Cell)) (t : TileRun) : Option Nat :=
  let a := (drained cs t.flips).flatten
  let b := (drained cs t.twin).flatten
  ((List.range a.length).zip (a.zip b)).findSome? fun e => if e.2.1 = e.2.2 then none else some e.1

/-! ## The end of a chain (R243, R246, R253, R258) -/

/-- What the vector unit makes of one output of a finished chain. -/
def chainValue (r : TileArea) (e : ChainEnd) (i j : Nat) : Word :=
  let acc := (areaCell r i j).toInt
  let norms := r.rowSq.getD i 0 + r.colSq.getD j 0 - 2 * acc
  match e with
  | .rescale rs cs bias => rescale acc (rs.getD i 0) (cs.getD j 0) (bias.map fun b => b.getD j 0)
  | .cosine rs cs => fpSub .nearest (fpOfInt 1) (rescale acc (rs.getD i 0) (cs.getD j 0) none)
  | .l2 | .hamming => fpOfInt norms
  | _ => areaCell r i j

/-- An area after what follows a tile: a chain that ends is converted, its values are added to those of the block's earlier chains,
and the next chain starts from zero. -/
def endChain (r : TileArea) (e : ChainEnd) : TileArea :=
  if e = .more then r
  else
    let add (i j : Nat) : Word :=
      let v := chainValue r e i j
      match r.sums with
      | [] => v
      | ss => fpAdd .nearest ((ss.getD i []).getD j 0) v
    { freshArea r.cmd r.core r.quad r.block with sums := places.map fun i => places.map fun j => add i j }

/-- The partial results of a core's arrays, added in increasing array number (R258). -/
def coreSum (ps : List Word) : Word :=
  match ps with
  | [] => 0
  | p :: rest => rest.foldl (fpAdd .nearest) p

end Sys2Proof.Machine
end

