-- ==== Sys2Proof/Syntax.lean ====
section
/-! DEFINITION. The commands of the module: one constructor for each row of spec/opcode_table.json. A row that is
a mailbox opcode names the function and the channel whose head message it starts, what the host grants
(R271), and what the host memory it reads holds; a row that is an event carries what the event delivers. -/

namespace Sys2Proof

open Sys2Proof.Machine

/-- A command. `f` is a function number 0 to 32, `src` a channel, `h` what the host grants, `r` what a host read
answers, `c` a case, `g` a Garnet, `p` a Strata port, `det` a detection that prevents the commit. -/
inductive Instr where
  -- Mailbox registers and rings (chapter 02)
  | inlPiObserved (f : Nat)
  | sqPiObserved (f : Nat)
  | cqCiObserved (f : Nat)
  | sqEntryFetchComplete (f index : Nat) (r : HostRead (List Byte))
  | mbReset (f : Nat)
  | sqEnable (f : Nat) (withCq : Bool) (h : HostView)
  | cqEnable (f : Nat) (h : HostView)
  | eventPendingClear (f mask same : Nat)
  | evtLostRead (f same : Nat)
  | complDroppedRead (f same : Nat)
  | conflictsRead (same : Nat)
  | throtChangesRead (same : Nat)
  | stretchFaultsRead (same : Nat)
  | minRearm
  | registerWrite (f : Nat) (win : Window) (off val : Nat)
  | modTimeExpiry (f : Nat)
  -- Opcodes (chapter 03)
  | partitionCreate (f : Nat) (src : Src)
  | partitionSetQuota (f : Nat) (src : Src)
  | partitionControl (f : Nat) (src : Src)
  | partitionQuery (f : Nat) (src : Src) (h : HostView)
  | modelLoad (f : Nat) (src : Src) (h : HostView) (r : HostRead ModelImage)
  | modelPin (f : Nat) (src : Src)
  | modelEvict (f : Nat) (src : Src)
  | tableCreate (f : Nat) (src : Src)
  | tableLoad (f : Nat) (src : Src) (h : HostView) (r : HostRead (List Byte))
  | tableDestroy (f : Nat) (src : Src)
  | indexCreate (f : Nat) (src : Src)
  | indexBulkLoad (f : Nat) (src : Src) (h : HostView) (r : HostRead (List Byte))
  | indexInsert (f : Nat) (src : Src) (h : HostView) (r : HostRead (List Byte))
  | indexDelete (f : Nat) (src : Src) (h : HostView) (r : HostRead (List Byte))
  | indexSettle (f : Nat) (src : Src)
  | indexSnapshot (f : Nat) (src : Src) (h : HostView)
  | indexDestroy (f : Nat) (src : Src)
  | indexQuery (f : Nat) (src : Src)
  | prefixRegister (f : Nat) (src : Src) (h : HostView) (r : HostRead (List Byte))
  | prefixRelease (f : Nat) (src : Src)
  | contractOpen (f : Nat) (src : Src) (h : HostView) (r : HostRead (List Byte)) (w : Schedules)
  | contractQueryProof (f : Nat) (src : Src) (h : HostView)
  | contractClose (f : Nat) (src : Src)
  | caseSubmit (f : Nat) (src : Src) (h : HostView) (r : HostRead (List Byte))
  | caseCancel (f : Nat) (src : Src)
  | caseQuery (f : Nat) (src : Src) (h : HostView)
  | cairnAlloc (f : Nat) (src : Src)
  | cairnFree (f : Nat) (src : Src)
  | cairnSignal (f : Nat) (src : Src)
  | cairnWaitArm (f : Nat) (src : Src)
  | cairnQuery (f : Nat) (src : Src)
  | telemetryRead (f : Nat) (src : Src) (h : HostView)
  | accountRead (f : Nat) (src : Src) (h : HostView)
  | safetySelftestRead (f : Nat) (src : Src) (h : HostView)
  | safetyInject (f : Nat) (src : Src)
  | safetyFence (f : Nat) (src : Src) (testOk : Bool)
  | safetyHoldRelease (f : Nat) (src : Src) (failed : List Nat)
  | powerPolicySet (f : Nat) (src : Src)
  | powerPolicyGet (f : Nat) (src : Src)
  | amberRead (f : Nat) (src : Src) (h : HostView)
  | fwStage (f : Nat) (src : Src) (h : HostView) (r : HostRead (List Byte)) (flashOk : Bool)
  | fwActivate (f : Nat) (src : Src)
  | attestMeasurements (f : Nat) (src : Src) (h : HostView)
  | backgroundOpCommit (op : Nat) (wr : List DramWrite)
  -- Scheduling (chapter 05) and the arrays (chapter 10)
  | commandSelection (u : UnitId)
  | tileEnd (cmd : Nat) (u : UnitId) (t : TileRun)
  | commandCommit (cmd : Nat) (p : Prediction) (wr : List DramWrite) (det : Option Detection)
  | preemptWdogTimeout (u : UnitId)
  | modelSwitchLoadDone (m : Nat)
  | layerMoveDone (m layer late : Nat)
  -- The stages of a case (chapters 06 to 09)
  | intakeCommit (c : Nat) (rs : List (HostRead (List Byte))) (wr : List DramWrite)
  | chunkEncodeCommit (c chunk : Nat) (det : Option Detection)
  | summaryPassCommit (c : Nat) (det : Option Detection)
  | coarseSearchCommit (cmd : Nat) (det : Option Detection)
  | holdExpiry (c : Nat)
  | listPassCommit (cmd : Nat) (ps : List (Nat × Prediction)) (det : Option Detection)
  | passageStoreReadComplete (c id : Nat) (r : HostRead (List Byte))
  | t3BudgetExpiry (c : Nat) (p : Prediction)
  | t3LatestSwitchPoint (c : Nat) (p : Prediction)
  | passageFetchCommit (c : Nat) (p : Prediction)
  | cacheFillCommit (op : Nat)
  | rerankBatchCommit (c : Nat) (p : Prediction) (det : Option Detection)
  | packingCommit (c : Nat) (p : Prediction)
  | prefillCommit (c : Nat) (p : Prediction) (det : Option Detection)
  | fileChunkPrefillCommit (c chunk : Nat) (det : Option Detection)
  | draftStep (c : Nat)
  | verifyPassCommit (cmd : Nat) (ps : List (Nat × Prediction)) (det : Option Detection)
  | resultRecordIssue (c : Nat)
  -- Contracts, cairns and the host link
  | arrivalTokenAccrual (k : Nat)
  | periodWindowEnd (k : Nat)
  | cairnWaitTimeout (w : Nat)
  | linkRateFall (rate width : Nat)
  -- Safety (chapter 14)
  | voltMon (g mv : Nat) (high : Bool)
  | stretchBudgetFault (g region : Nat)
  | railMon (rail word : Nat)
  | lockstepMismatch (pairB : Bool) (pos pc : Nat)
  | fwWdog (pairB : Bool) (task : Nat)
  | clockMon (domain : Nat) (dev : Int)
  | clockRelockAttempt (ok : Bool)
  | diagnosticSweepTick (flagged : Bool)
  | haltReqNChange (level : Bool)
  | haltReqNRearmExpiry
  | throtNChange (level : Bool)
  | syncInEdge (ts : Nat)
  | syncOutPulseStart
  | syncOutPulseEnd
  -- Power (chapter 13)
  | dividerDwellEnd (g ma : Nat)
  | voltageStepAck (rail : Nat)
  | voltageStepTimeout (rail : Nat)
  | minSenseLoopPeriod (g ma : Nat) (rd : LoopReading)
  | unmatchedFall (g region mv : Nat)
  | powerCapEvaluation (energyUj avgMw maxMw : Nat)
  | capCalibration (estMw teleMw : Nat)
  | thermalSensorRead (temps : List (List Int))
  | thermalThrottleStep (g : Nat)
  | coreReady (core : Nat)
  | hdrSwitchTimeout (core stage : Nat)
  | headerSwitchReadyLost (core : Nat)
  | dozeEntry
  | dieRegate (g : Nat)
  -- Memory (chapter 11)
  | patrolScrubTick (t : Tier) (reads : List DramRead)
  | scrubPassStart (t : Tier)
  | channelReadTimeout (t : Tier) (ch : Nat)
  | retrainEnd (t : Tier) (ch : Nat) (ok : Bool)
  | atsInvalidation (f lo hi : Nat)
  | dmaCompletionTimeout (d : DmaRef)
  -- Strata (chapter 12)
  | cableInsertion (p : Nat) (eeprom : Option (List Byte))
  | linkTrainingAttempt (p : Nat)
  | trainingStepTimeout (p step : Nat)
  | trainingRetryTimer (p : Nat)
  | linkFlit (p : Nat) (fl : Flit)
  | dataFlit (p : Nat) (fl : Flit)
  | idleFlit (p : Nat) (fl : Flit)
  | nakFlit (p : Nat) (fl : Flit)
  | lossOfSignal (p : Nat)
  | cblIntN (p : Nat)
  | memberSilentTimeout (pos : Nat)
  | formationQuietTimeout (shape : Nat) (members : List Nat)
  | hello (p : Nat) (m : StrataMsg)
  | form (p : Nat) (m : StrataMsg)
  | linkState (p : Nat) (m : StrataMsg)
  | ack (p : Nat) (m : StrataMsg)
  | reserve (p : Nat) (m : StrataMsg) (w : Schedules)
  | reserveAck (p : Nat) (m : StrataMsg)
  | reserveTimeout (k : Nat)
  | release (p : Nat) (m : StrataMsg)
  | signal (p : Nat) (m : StrataMsg)
  | vote (p : Nat) (m : StrataMsg)
  | voteTimeout (txn : Nat)
  | decide (p : Nat) (m : StrataMsg)
  | decisionWaitTimeout (txn : Nat)
  | decisionQuery (p : Nat) (m : StrataMsg)
  | dispatch (p : Nat) (m : StrataMsg)
  | shardResult (p : Nat) (m : StrataMsg) (q : Prediction)
  | partialMsg (p : Nat) (m : StrataMsg)
  | kill (p : Nat) (m : StrataMsg)
  | throttleAdvise (p : Nat) (m : StrataMsg)
  | syncExchangeTimer
  | syncReq (p : Nat) (m : StrataMsg) (t2 t3 : Nat)
  | syncResp (p : Nat) (m : StrataMsg) (t4 : Nat)
  | bulk (p : Nat) (m : StrataMsg)
  | unknownMessageType (p : Nat) (m : StrataMsg)
  -- Boot and reset (chapter 16)
  | auxPowerOn (epochOk : Bool)
  | auxPowerLost
  | mainPowerPresent
  | mainPowerLost
  | railPowerGood (rail : Nat)
  | powerGoodTimeout (rail : Nat)
  | oscillatorStable
  | pllLock
  | refclkTimeout (pll : Bool)
  | attemptRetryWaitExpiry
  | perstAssert
  | perstDeassert
  | bootVerifyComplete
  | memoryTrainingComplete (failed : List (Tier × Nat))
  | memoryInitComplete (bad : List (Tier × Nat)) (failed : List Nat)
  | trialBootTimeout
  | flrVf (f : Nat)
  | flrPf
  | vfEnableClear
  | vfEnableSet (n : Nat)
  | d3hotTransition (enter : Bool)
  -- Amber and the sideband (chapters 15 and 17)
  | amberRingWrite
  | amberPersistentAppend (ok : Bool)
  | id
  | status
  | recorder
  | amberSelect (b : List Byte) (pec : Bool)
  | amberNext
  | retry (b : List Byte) (pec : Bool)
  | mctpControl (b : List Byte) (pec : Bool)
  | pldmFirmwareUpdate (q : PldmReq)
  | pldmPlatformMonitoring (sensor : Nat)
  | spdmRequest (q : SpdmReq)
  | clockStretchStart (g region : Nat)
  | clockStretchEnd (g : Nat)
  | setpointRaiseExpiry (g : Nat)
  | undervoltagePersistence (g : Nat)
  | cableRemoval (p : Nat)
  deriving DecidableEq, Repr

end Sys2Proof
end

