-- ==== Sys2Proof/Config.lean ====
section
/-! DEFINITION. The values the spec leaves open, as constants with no body: nothing can be proved of them. Each is
applied to the state's counter of free values, or to the operands it depends on, and has a row in
notes/assumptions. -/

namespace Sys2Proof.Config

open Sys2Proof.Machine (ModelImage OutHead Seen)

/-- A byte of a flash or memory cell whose content the spec leaves open (a damaged Amber slot, R365). -/
opaque damagedByte : Nat → Nat → BitVec 8

/-- A fact of the firmware image that a slot's first `len` bytes hold, from the bytes written to it: the format of an image is
not given (R104, R376). The facts are numbered. -/
opaque imageFact (content : List (Nat × List (BitVec 8))) (len fact i : Nat) : Nat

/-- A byte of the SHA-384 digest of a measurement: what is measured is given, and neither its form nor the boot ROM's bytes
are (R378). -/
opaque digestByte (index : Nat) (measured : List Nat) (i : Nat) : BitVec 8

/-- A byte of an answer whose content another standard or a key fixes: certificates and signatures (R378), MCTP and PLDM
answers (R393). -/
opaque standardByte : Nat → Nat → BitVec 8

/-- A byte of a detector record's detail that the injection which caused it does not fix (R344, R409). -/
opaque detailByte : Nat → Nat → BitVec 8

/-- A bit pattern the spec gives no rule for. -/
opaque freeWord : Nat → BitVec 32

/-- The bytes of a commit journal's entry, made of these numbers: what an entry names is given, and its layout is not (R337). -/
opaque journalBytes (fields : List Nat) : List (BitVec 8)

/-- A 64-bit pattern the spec gives no rule for, such as a new encryption key's name (R285). -/
opaque freeDWord : Nat → BitVec 64

/-- The IR-drop offset, in mV, that a boot calibration recorded for a region in a bin of 5 A of its rail's current: a
measured value (R327, R379). -/
opaque bootOffset : Nat → Nat → Int

/-- By how many fifteenths of an ACLK cycle a stretching Garnet falls short of its divider's count in a span of TCLK that ends at a
time: the spec gives the longest stretched cycle alone (R140, R320, R321). -/
opaque stretchLoss (tclk garnet span : Nat) : Nat

/-- The TCLK from a request to an engine's next preemption point, for a command and the time of the request: the spec gives the
latest one (R136). -/
opaque pointDelay (cmd requested : Nat) : Nat

/-- The cycles for which one step of patrol scrub holds a page mover (R140). -/
opaque scrubCycles (tclk : Nat) : Nat

/-- How many fp32 values a table entry of a distance interval lies outside the correctly rounded term: the spec fixes the
direction of every rounding and no order within a subspace (R257). It depends on the query, the list, the subspace and the
codeword, and on the side of the interval. -/
opaque tableSlack : List Int → BitVec 32 → Nat → Nat → Nat → Bool → Nat

/-- How many fp32 values the norm that a query vector is divided by lies above the correctly rounded one: the spec fixes no
order of its additions (R163). -/
opaque normSlack : List (BitVec 32) → Int

/-- How many fp32 values a score lies above the correctly rounded interpolation of the calibration map: the spec fixes no
order of its operations (R214). -/
opaque calibSlack : List (BitVec 32) → BitVec 32 → Int

/-- Value `i` of an output head of a model after it has read the positions `ctx` with a key/value format, as Garnet `g`'s share of
it: what a model computes follows from its image, whose schedule is Brieb's, and from what it reads alone (R212, R213, R259). -/
opaque partialOut (img : ModelImage) (kv : Nat) (h : OutHead) (ctx : List Seen) (i g : Nat) : BitVec 32

/-- The values of a chunk's summary: how many an image gives is its own matter (R164). -/
opaque summaryWidth (img : ModelImage) : Nat

/-- The values of activation tensor `t` before they are quantized, at the last of the positions `ctx` (R252). -/
opaque activation (img : ModelImage) (kv : Nat) (ctx : List Seen) (t : Nat) : List (BitVec 32)

/-- Element `d` of the key, or of the value, that the last of the positions `ctx` has at a layer and a key/value head (R215). -/
opaque kvEntry (img : ModelImage) (kv : Nat) (ctx : List Seen) (layer head : Nat) (value : Bool) (d : Nat) : BitVec 32

/-- Whether the partials of a collective are bf16: its command declares it (R258, R306). -/
opaque collBf16 (txn : Nat) : Bool

/-- Byte `i` of this module's own partial of part `part` of a collective (R306). -/
opaque ownPartial (txn part i : Nat) : BitVec 8

end Sys2Proof.Config
end

