-- ==== Sys2Proof/Machine/Units.lean ====
section
/-! DEFINITION. The parts of State: one structure for each unit of the module, as plain data. Which rule
names each field stands beside it, and INVENTORY.md lists them with their reset values. -/

namespace Sys2Proof.Machine

/-! ## Mailboxes (R17 to R47) -/

/-- The ring configuration that an enable latches (R18). -/
structure RingCfg where
  base    : Nat
  log2    : Nat
  pasidEn : Bool
  pasid   : Nat
  deriving DecidableEq, Repr

/-- A submission or completion ring: its registers (R17), its state and its latched configuration (R18, R21).
`hostIdx` is SQ_PI or CQ_CI, `devIdx` is SQ_CI or CQ_PI, `seen` the last host index observed. -/
structure Ring where
  baseLo  : Nat
  baseHi  : Nat
  log2    : Nat
  pasidEn : Bool
  pasid   : Nat
  hostIdx : Nat
  devIdx  : Nat
  active  : Bool
  seen    : Nat
  cfg     : RingCfg
  deriving DecidableEq, Repr

/-- A submitted message that has not started: its producer index, its bytes and the TCLK count at which the
firmware observed it (R11, R23, R26). -/
structure MsgIn where
  index : Nat
  bytes : List Byte
  obsTs : Nat
  deriving DecidableEq, Repr

/-- One entry of the MSI-X table (R33). -/
structure MsixEntry where
  addrLo : Nat
  addrHi : Nat
  data   : Nat
  ctrl   : Nat
  deriving DecidableEq, Repr

/-- The event and interrupt registers of a window (R17, R32, R33). -/
structure MbEvents where
  contractEvt  : Bool
  faultEvt     : Bool
  adminEvt     : Bool
  evtOverflow  : Bool
  evtLost      : Nat
  complDropped : Nat
  modCount     : Nat
  modTime      : Nat
  unsignalled  : Nat
  msix         : List MsixEntry
  pba          : Nat
  deriving DecidableEq, Repr

/-- The status fields of a window: MB_STATUS and HALT_INDEX (R17). -/
structure MbStatus where
  running   : Bool
  halted    : Bool
  resetBusy : Bool
  haltCause : Nat
  haltIndex : Nat
  cfgErr    : Nat
  deriving DecidableEq, Repr

/-- The inline channel: indices, slot memories and response slots (R17, R26). -/
structure InlineChan where
  pi        : Nat
  ci        : Nat
  seen      : Nat
  slotOwn   : Nat
  slots     : List (List Byte)
  responses : List (List Byte)
  deriving DecidableEq, Repr

/-- One function's mailbox (R16, R17), with the messages it has observed: `inlQ` and `sqQ` are submitted and
not started, `sqFetch` are ring indices whose DMA fetch has not completed. -/
structure Mailbox where
  st      : MbStatus
  inl     : InlineChan
  sq      : Ring
  cq      : Ring
  ev      : MbEvents
  inlQ    : List MsgIn
  sqFetch : List (Nat × Nat)
  sqQ     : List MsgIn
  deriving DecidableEq, Repr

/-- A message that has started and whose completion has not been written (R28, R47). -/
structure OpenMsg where
  id     : Nat
  f      : Nat
  src    : Src
  origin : Nat
  opcode : Nat
  tag    : Nat
  cookie : Nat
  respAddr : Nat
  deriving DecidableEq, Repr

/-- A completion entry or inline response (R29). `addr` is where a ring entry is written and `pasid` what the write
carries (R17, R20); an inline response has its slot, and `addr` is then its offset in the window. -/
structure Completion where
  f : Nat
  src : Src
  origin : Nat
  tag : Nat
  code : Nat
  status : Status
  errOffset : Nat
  respBytes : Nat
  cookie : Nat
  timestamp : Nat
  result : List Byte
  index : Nat
  phase : Bool
  addr : Nat
  pasid : Option Nat
  deriving DecidableEq, Repr

/-- An event entry (R29, R32, R406), with the address it is written at and the PASID that the write carries (R17, R20). Its
other fields are the same for every event. -/
structure EventEntry where
  f : Nat
  code : EventCode
  timestamp : Nat
  result : List Byte
  index : Nat
  phase : Bool
  addr : Nat
  pasid : Option Nat
  deriving DecidableEq, Repr

/-! ## What leaves the module -/

/-- What the module sends out: entries and interrupts to the host, writes and reads of host memory (R270), Strata messages and
flits, sideband answers, and levels it drives. -/
inductive Out where
  | completion (c : Completion)
  | event (e : EventEntry)
  | msix (f vector : Nat)
  | hostWrite (f : Nat) (pasid : Option Nat) (addr : Nat) (b : List Byte)
  | hostRead (f : Nat) (pasid : Option Nat) (addr len : Nat)
  | strata (port : Nat) (m : StrataMsg)
  | flit (port : Nat) (fl : Flit)
  | sideband (b : List Byte)
  | sidebandNack
  | readValue (v : Nat)
  | spdm (code : Nat) (b : List Byte)
  | pldm (code : Nat) (b : List Byte)
  | avs (rail mv : Nat)
  deriving DecidableEq, Repr

/-! ## Objects (R51, R52) -/

/-- The counters of a partition (R143). -/
structure PartStats where
  casesPeak : Nat
  quotaRefused : Nat
  limitRefused : Nat
  yields : Nat
  kills : Nat
  killedCycles : Nat
  reruns : Nat
  switches : Nat
  switchTime : Nat
  blockMax : Nat
  signalsHost : Nat
  signalsDevice : Nat
  signalsRemote : Nat
  waitTimeouts : Nat
  deriving DecidableEq, Repr

/-- The settings of a partition (R59, R53). -/
structure PartCfg where
  encrypt  : Bool
  pasidEn  : Bool
  levelMax : Nat
  pasid    : Nat
  t1Pages  : Nat
  t2Pages  : Nat
  t1Bw     : Nat
  t2Bw     : Nat
  caseQuota : Nat
  weight   : Nat
  cairnFirst : Nat
  cairnCount : Nat
  seed     : Nat
  deriving DecidableEq, Repr

/-- A partition (R59 to R63). `key` names its encryption key while it holds one (R285). -/
structure Partition where
  id        : Nat
  cfg       : PartCfg
  suspended : Bool
  key       : Option Nat
  stats     : PartStats
  deriving DecidableEq, Repr

/-- A registered model (R64 to R67). `t2Lost` marks a pinned model whose T2 home was lost (R287). -/
structure Model where
  handle : Nat
  owner  : Nat
  shared : Bool
  img    : ModelImage
  home   : Tier
  pinned : Bool
  unavailable : Bool
  t2Lost : Bool
  deriving DecidableEq, Repr

/-- An embedding table (R68 to R71); `rows` lists the rows that are not all zero (R157). -/
structure Table where
  handle : Nat
  owner  : Nat
  shared : Bool
  nrows  : Nat
  dim    : Nat
  format : Nat
  kind   : Nat
  hashKey : Nat
  partA  : Nat
  partB  : Nat
  rows   : List (Nat × List Byte)
  unavailable : Bool
  deriving DecidableEq, Repr

/-- A superseded generation that queries still name (R188). -/
structure OldGen where
  gen   : Nat
  lists : List IdxList
  scree : List ScreeRec
  pages : Nat
  deriving DecidableEq, Repr

/-- The parameters of an index, fixed at INDEX_CREATE (R72). -/
structure IndexCfg where
  lists : Nat
  codeBytes : Nat
  metric : Nat
  shard : Nat
  shardCount : Nat
  cachePages : Nat
  maxEntries : Nat
  deriving DecidableEq, Repr

/-- The passage cache of an index: a ring of 4 KiB blocks (R203 to R205). -/
structure PassageCache where
  head : Nat
  held : List CachedPassage
  deriving DecidableEq, Repr

/-- An index (R72 to R80, R167 to R190). `image` holds the bytes of the segments loaded so far, until the index is LIVE (R74). -/
structure Index where
  handle : Nat
  owner  : Nat
  shared : Bool
  cfg    : IndexCfg
  state  : IndexState
  hdr    : Option IndexHeader
  segs   : Nat
  image  : List Byte
  centroids : List (List Int)
  codebook  : List Nat
  centScale : Word
  gen    : Nat
  lists  : List IdxList
  scree  : List ScreeRec
  nextSeq : Nat
  old    : Option OldGen
  cache  : PassageCache
  listPages : Nat
  bulkBusy : Bool
  snapBusy : Bool
  deriving DecidableEq, Repr

/-- A KV page (R215, R254, R255): the page numbered `num`, positions 256 × num to 256 × num + 255, of one layer and one head group.
`len` counts its committed slots. `slots` holds the entries of an open page, or of a KV16 page, written slot by slot, each head's key
elements and then its value elements; a sealed page holds `bytes`, and its `steps` stand in the page table. -/
structure KvPage where
  layer : Nat
  group : Nat
  num   : Nat
  len   : Nat
  slots : List (List Word)
  steps : List (Word × Word)
  bytes : List Byte
  deriving DecidableEq, Repr

/-- The key/value cache of a sequence under one model: its committed length and its own pages (R216). -/
structure KvCache where
  model : Nat
  len   : Nat
  pages : List KvPage
  deriving DecidableEq, Repr

/-- A registered prefix (R81, R82, R217). `pages` T1 pages hold it, with the entries `kv`; `refs` counts the cases that hold it, `tailRefs` those that
hold its page that is not full (R218), and `released` drops its registration. -/
structure Pfx where
  handle : Nat
  owner  : Nat
  shared : Bool
  model  : Nat
  toks   : List Nat
  kvFormat : Nat
  pages  : Nat
  kv     : List KvPage
  refs   : Nat
  tailRefs : Nat
  released : Bool
  unavailable : Bool
  deriving DecidableEq, Repr

/-- The counters of a contract (R126). -/
structure ContractStats where
  accepted : Nat
  arrivalRefused : Nat
  doneOk : Nat
  doneFallback : Nat
  doneLate : Nat
  faulted : Nat
  cancelled : Nat
  timeMax : Nat
  timeSum : Nat
  energySum : Nat
  fbCounts : List Nat
  t3Late : Nat
  reruns : Nat
  histogram : List (Nat × Nat)
  deriving DecidableEq, Repr

/-- CSTATE of a contract (R126). -/
inductive CState where
  | opened
  | closing
  | revoked
  deriving DecidableEq, Repr

/-- A CONTRACT_CLOSE that waits for its contract's cases (R86). -/
structure CloseWait where
  msg : Nat
  abort : Bool
  drained : Nat
  cancelled : Nat
  deriving DecidableEq, Repr

/-- The arrival policing of a contract: its bucket, as the time at which each token in it came, or its epochs, the starts of
the windows that a case has used, and the timestamp from which windows of the epoch in force may start (R119, R120, R166). -/
structure Arrival where
  tokens : List Nat
  epoch : Nat
  pendingEpoch : Option Nat
  used : List Int
  openFrom : Nat
  deriving DecidableEq, Repr

/-- A contract (R106, R84 to R86, R145). `scheds` is what the schedules state of it, `energy` is E, `divider` the MIN_DIV
charged (R118); `ended` is when it was revoked and the status of its live cases (R124); `resident` lists the models that its
proof found pinned in T1 (R66), and `shards` what its shard modules answered (R191). -/
structure Contract where
  handle : Nat
  owner  : Nat
  rcd    : ContractRec
  scheds : Schedules
  pf     : ProofFigures
  energy : Nat
  divider : Nat
  state  : CState
  revokeCause : Option Status
  ended  : Option (Nat × Status)
  closes : List CloseWait
  arrival : Arrival
  stageCairns : List Nat
  resident : List Nat
  units  : List UnitId
  linkRate : Nat
  linkWidth : Nat
  linksLost : Nat
  shards : List ShardAck
  stats  : ContractStats
  deriving DecidableEq, Repr

/-! ## Cases (R9 to R15, R87 to R91, R152 to R236) -/

/-- The forms in which the three stages with fallbacks run, whether decode was stopped (R108, R123), and the forms that the case
has run, by stage number, oldest first (R123, R126). -/
structure CaseForms where
  fetch  : Form
  rerank : Form
  gen    : Form
  decodeStopped : Bool
  ran    : List (Nat × Form)
  deriving DecidableEq, Repr

/-- The search state of a case: visited lists and snapshot (R176, R182), the waits still open (R177) and
the candidates found (R178). -/
structure SearchState where
  visited : List Nat
  gen : Nat
  seq : Nat
  snapped : Bool
  waitLists : List Nat
  waitScree : Bool
  holdExpired : Bool
  found : List Candidate
  shardsLeft : List Nat
  shardLOut : Word
  cand : Option CandList
  deriving DecidableEq, Repr

/-- A store entry that a lookup has found (R196). -/
structure StoreEntry where
  dataOff : Nat
  family : Nat
  tokens : Nat
  deriving DecidableEq, Repr

/-- A passage store lookup: the probes made, the entry once it is found, and what it ended with (R197, R198). -/
structure Lookup where
  id : Nat
  probe : Nat
  entry : Option StoreEntry
  toks : List Nat
  src : PassageSrc
  done : Bool
  deriving DecidableEq, Repr

/-- The fetch, re-rank and packing state of a case (R195 to R211): the lookups of its store reads, the ids whose read an abandoned
form left in flight (R201), the passage list as fetch,
re-rank and packing commit it, and how many re-rank pairs have been scored. -/
structure PassState where
  looks : List Lookup
  stale : List Nat
  committed : List Passage
  ranked : List Passage
  nextPair : Nat
  packed : List Passage
  promptLen : Nat
  deriving DecidableEq, Repr

/-- The generation state of a case (R213 to R232). `toks` are the generated tokens committed;
`pfxHeld` is the prefix whose pages the case holds, and `tailHeld` says that it holds its page that is not full (R218). -/
structure GenState where
  prompt : List Position
  committedLen : Nat
  toks : List Nat
  proposals : List Nat
  verdict : Option Nat
  score : Word
  probs : List Word
  verifyPasses : Nat
  draftAccepted : Nat
  stopCause : Nat
  fileChunks : Nat
  pfxHeld : Option Nat
  tailHeld : Bool
  kv : List KvCache
  done : Bool
  deriving DecidableEq, Repr

/-- Where a case's completion goes and what its submission said (R87, R89, R91); `tokAt` is TOK_OFF of its result buffer
(R233), and `cairn` the stage cairn that counts its stage ends (R145). -/
structure CaseHead where
  key : Nat
  caseId : Nat
  contract : Nat
  owner : Nat
  msg : Nat
  src : Src
  origin : Nat
  startTs : Nat
  resultAddr : Nat
  resultLen : Nat
  tokAt : Nat
  cairn : Nat
  deriving DecidableEq, Repr

/-- The embedding and encoding state of a case (R154, R159 to R165): `toks` is the token stream of R160, `patches` the int8
channel values of the patches of R162. -/
structure EncState where
  payload : List Byte
  toks : List Nat
  patches : List (List Int)
  bags : List QuantRow
  summaries : List (Nat × List Word)
  query : Option QueryVec
  deriving DecidableEq, Repr

/-- A live case. `ending` is the status that ends it without a result, and `failedStage` its FAILED_STAGE. -/
structure Case where
  hd : CaseHead
  desc : CaseDesc
  stage : Stage
  stageTs : Nat
  forms : CaseForms
  enc : EncState
  srch : SearchState
  pass : PassState
  gen : GenState
  sats : Nat
  rerun : Bool
  lateCause : Nat
  ending : Option Status
  failedStage : Nat
  cancelled : Bool
  deriving DecidableEq, Repr

/-! ## Cairns and waits (R144 to R150) -/

/-- A cairn that is not FREE: its state, its value and the journal's copy of it (R144, R337); `run` is the
allocation it belongs to (R93 set 6). -/
structure CairnRec where
  num : Nat
  st  : CairnState
  val : Nat
  copy : Nat
  run : Nat
  deriving DecidableEq, Repr

/-- An armed host wait (R148). -/
structure WaitRec where
  id : Nat
  owner : Nat
  cairn : Nat
  threshold : Nat
  msg : Nat
  armTs : Nat
  timeoutUs : Nat
  deriving DecidableEq, Repr

/-! ## BACKGROUND operations (R56) and the scheduler (R127 to R143) -/

/-- What a BACKGROUND operation will do when it commits (R56, R204). -/
inductive BgKind where
  | modelLoad (img : ModelImage) (home : Tier) (pin shared : Bool)
  | tableLoad (table first : Nat) (rows : List (List Byte))
  | bulkLoad (index : Nat) (seg : List Byte) (final : Bool)
  | settle (index p : Nat)
  | snapshot (index dst gen seq bytes : Nat)
  | prefixRegister (model : Nat) (toks : List Nat) (kv pages : Nat) (shared : Bool)
  | fwStage (off : Nat) (data : List Byte) (first began flashOk : Bool)
  | fwActivate (len : Nat) (img : FwImage)
  | cacheFill (index : Nat) (ps : List Passage)
  /-- The zeroing of the frames of a new object or contract, with the answer that its message gives once it is done (R264). -/
  | zero (handle addr : Nat) (resp result : List Byte)
  deriving DecidableEq, Repr

/-- A BACKGROUND operation applied and not yet committed (R56, R143). -/
structure BgOp where
  id : Nat
  owner : Nat
  msg : Option Nat
  kind : BgKind
  applyTs : Nat
  t1Held : Nat
  t2Held : Nat
  deriving DecidableEq, Repr

/-- What a command serves: cases, by key, at one of their stages; a pass over a list, or over the scree, of a generation of
an index for queries, by key (R177); or a BACKGROUND operation. -/
inductive Serves where
  | cases (keys : List Nat)
  | pass (index gen : Nat) (list : Option Nat) (keys : List Nat)
  | bg (op : Nat)
  deriving DecidableEq, Repr

/-- The progress of a command (R128, R136, R138). -/
inductive CmdPhase where
  | ready
  | running
  | yielded
  deriving DecidableEq, Repr

/-- A command: one unit of a stage's work on a set of engines (R127 to R138, R338). `preemptTs` is the time of a request to
yield, `asks` lists the partitions that wait for its engines, each since a time, and `left` the arrays that have not come to their tile boundary since; `spent` counts
the fifteenths of cycles charged for it since it last began (R143). -/
structure Cmd where
  id : Nat
  serves : Serves
  owner : Nat
  level : Nat
  kill : Bool
  stage : Nat
  units : List UnitId
  phase : CmdPhase
  deadline : Nat
  startTs : Nat
  grantTs : Nat
  preemptTs : Option Nat
  asks : List (Nat × Nat)
  left : List UnitId
  reruns : Nat
  ovfReruns : Nat
  spent : Nat
  deriving DecidableEq, Repr

/-- The engine cycles of a partition at a level on an engine, in fifteenths of a cycle (R140). -/
structure Account where
  owner : Nat
  unit : UnitId
  level : Nat
  cycles : Nat
  deriving DecidableEq, Repr

/-- The whole cycles of an account. -/
def Account.whole (a : Account) : Nat := a.cycles / 15

/-- A partition's virtual time at a level, the fraction num ÷ den (R129). -/
structure VTime where
  owner : Nat
  level : Nat
  num : Nat
  den : Nat
  deriving DecidableEq, Repr

/-- The placement of a model in T0 (R134). -/
structure Placed where
  model : Nat
  pinned : Bool
  resident : Bool
  deriving DecidableEq, Repr

/-- A model switch that is under way (R135): for which partition, at which level, on which page mover, and up to when the mover
has been charged. -/
structure PoolLoad where
  model : Nat
  start : Nat
  owner : Nat
  level : Nat
  mover : Nat
  charged : Nat
  deriving DecidableEq, Repr

/-- The scheduler (R127 to R143). `poolModel` is the SLICED model in the slice pool (R135), and `layers` lists the layers
that have arrived for a model's next invocation (R273). `areas` holds the checked outputs of commands' tiles in the level work areas of
the cores (R132, R238), and `gang` lists the cores in GANG mode (R241). -/
structure Sched where
  cmds : List Cmd
  vts : List VTime
  accounts : List Account
  placed : List Placed
  poolModel : Option Nat
  poolLoading : Option PoolLoad
  layers : List (Nat × Nat)
  areas : List TileArea
  gang : List Nat
  deriving DecidableEq, Repr

/-! ## Memory (R261 to R289) -/

/-- A granule whose check data is not clean: its ECC syndrome, a correctable error or the poison mask (R275 to R280). -/
structure GranuleRec where
  tier : Tier
  frame : Nat
  granule : Nat
  syn : Syndrome
  deriving DecidableEq, Repr

/-- The counters and settings of one tier (R265, R289). -/
structure TierState where
  assignable : Nat
  spares : Nat
  retired : List Nat
  ce : Nat
  ue : Nat
  chUe : List Nat
  chFailed : List Nat
  scrubPasses : Nat
  scrubLast : Nat
  scrubPos : Nat
  scrubbing : Bool
  scrubDue : Bool
  queues : List (Nat × Nat × Nat)
  retrains : List (Nat × Nat)
  retraining : Option Nat
  retrainFails : List (Nat × Nat)
  accepts : Bool
  lost : Bool
  deriving DecidableEq, Repr

/-- The memory of the module (R261 to R289). `armed` lists the LIVE injections that the next read of a channel will meet
(R335, R346). -/
structure Memory where
  t1 : TierState
  t2 : TierState
  granules : List GranuleRec
  rmwCe : Nat
  rmwUe : Nat
  poisonCleared : Nat
  poisonReads : Nat
  retrainCount : Nat
  t0Ce : Nat
  t0Ue : Nat
  ceDropped : Nat
  selfRefresh : Bool
  armed : List (Tier × Nat × Syndrome)
  deriving DecidableEq, Repr

end Sys2Proof.Machine
end

