-- ==== Sys2Proof/Machine/Hardware.lean ====
section
/-! DEFINITION. The parts of State that stand for hardware units: power and clocks (chapter 13), safety
(14), the Amber recorder (15), boot and flash (16), the card's pins, PCIe and sideband (17), the Strata ports
and the stack (12), and the module telemetry counters of R14. -/

namespace Sys2Proof.Machine

/-! ## Power (R310 to R332) -/

/-- The policy of R99: VCEIL lists the ceilings of VARR0 to VARR3. -/
structure Policy where
  minDiv  : Nat
  regMode : Nat
  capW    : Nat
  vceil   : List Nat
  deriving DecidableEq, Repr

/-- A region of 8 droop sensors (R318, R327, R328). `baseline` names the offsets that the boot calibration recorded. -/
structure Region where
  minMv     : Nat
  divAtMin  : Nat
  minTs     : Nat
  stretches : Nat
  derated   : Bool
  unmatched : Bool
  growth    : Bool
  excluded  : Bool
  falls     : List Nat
  baseline  : Nat
  overSince : Option Nat
  deriving DecidableEq, Repr

/-- A setpoint step that waits for its regulator (R316): `prev` is rewritten when it is not acknowledged, and
`divider` waits on it (R314). -/
structure PendStep where
  target  : Nat
  prev    : Nat
  divider : Option Nat
  deriving DecidableEq, Repr

/-- The header switches of a core (R325): off, waking at a stage 1 to 4, or ready. -/
inductive CoreState where
  | off
  | waking (stage : Nat)
  | ready
  deriving DecidableEq, Repr

/-- One Garnet (R311 to R329). `req` is a divider requested and not yet in force, and `adopting` the arrays
that still run a tile at the old one (R311); `raisedBy` is the raise of R322 in force, in mV;
`coolSince` says since when the die has read below 90 °C, and `thermTs` when its thermal request last moved faster (R329). -/
structure Die where
  div      : Nat
  req      : Option Nat
  adopting : List UnitId
  dwell    : Bool
  vset     : Nat
  vsense   : Nat
  pend     : Option PendStep
  stepFails : Nat
  loadline : Bool
  reverted : Bool
  thermReq : Nat
  capReq   : Nat
  coolSince : Option Nat
  thermTs  : Nat
  hot      : Bool
  stretching : Bool
  raisedBy : Nat
  loadMa   : Nat
  underv   : Bool
  cores    : List CoreState
  woken    : Bool
  aclkOn   : Bool
  regions  : List Region
  deriving DecidableEq, Repr

/-- The power manager and the power window's own registers (R332). `sharedReq` is the thermal request that the
Shales and Basalt make of all four Garnets (R329), and `vlogMv` the setpoint of VLOG (R315, R372, R379). -/
structure Power where
  dies     : List Die
  policy   : Policy
  tj       : List Int
  tjPeak   : List Int
  sharedReq : Nat
  sharedHot : Bool
  sharedCool : Option Nat
  sharedTs : Nat
  pwr1ms   : Nat
  pwrPeak  : Nat
  calib    : Nat
  withhold : Bool
  conflicts : Nat
  throtChanges : Nat
  stretchFaults : Nat
  throtLevel : Bool
  vlogTrimmed : Bool
  vlogMv   : Nat
  deriving DecidableEq, Repr

/-! ## Safety (R333 to R356) -/

/-- One injection point of the sweep with its latest outcome and time (R343, R347). -/
structure PointRec where
  det     : Nat
  unit    : Nat
  outcome : Nat
  ts      : Nat
  deriving DecidableEq, Repr

/-- A cause of the present hold (R352). -/
structure HoldCause where
  cause : Nat
  unit  : Nat
  deriving DecidableEq, Repr

/-- A KV page that a commit writes: whose, under which model, and its place (R215). -/
structure JournalPage where
  case  : Nat
  model : Nat
  layer : Nat
  group : Nat
  num   : Nat
  deriving DecidableEq, Repr

/-- An entry of the commit journal (R337): the commands that commit, the objects, cases and KV pages that the commit changes, by how
much it increments each cairn, and the CRC-32C over the entry. -/
structure JournalEntry where
  cmds    : List Nat
  objects : List Nat
  cases   : List Nat
  pages   : List JournalPage
  cairns  : List (Nat × Nat)
  crc     : Word
  deriving DecidableEq, Repr

/-- The safety unit of pair B and the safety window's registers (R355). `pairA` and `pairB` are set while that
pair is held in reset (R349). `killed` holds the detections that R339 counts, and `journal` the
commit journal's entries, oldest first (R337). -/
structure Safety where
  causes      : List HoldCause
  holdCause   : Nat
  holdUnit    : Nat
  holdTs      : Nat
  releaseBusy : Bool
  haltQual    : Bool
  haltActed   : Bool
  rearm       : Bool
  resetNeeded : Bool
  pairA       : Bool
  pairB       : Bool
  fences      : List UnitId
  recovered   : Nat
  holds       : Nat
  latent      : Nat
  points      : List PointRec
  sweepPos    : Nat
  sweeps      : Nat
  sweepTs     : Nat
  killed      : List (UnitId × Nat)
  journal     : List JournalEntry
  deriving DecidableEq, Repr

/-! ## Amber (R357 to R370) -/

/-- A record. A record in the intake queue has no SEQ yet; `damaged` names the free bytes of a slot whose
program did not complete. -/
structure AmberRec where
  seq     : Nat
  ts      : Nat
  code    : Nat
  source  : Nat
  func    : Nat
  rflags  : Nat
  payload : List Byte
  damaged : Option Nat
  deriving DecidableEq, Repr

/-- The recorder: its intake queue, ring, pending queue and persistent slots (R357 to R365). -/
structure Amber where
  epoch    : Nat
  count    : Nat
  intake   : List AmberRec
  ring     : List AmberRec
  queue    : List AmberRec
  slots    : List AmberRec
  full     : Bool
  overrun  : Nat
  lost     : Nat
  dropped  : Nat
  deriving DecidableEq, Repr

/-! ## Boot (R371 to R388) -/

/-- Where the power-up and boot sequence stands (R372, R379). -/
inductive BootPhase where
  | idle
  | rail (n : Nat)
  | oscillator
  | pll
  | perst
  | verify
  | training
  | memInit
  | done
  | retryWait
  deriving DecidableEq, Repr

/-- One copy of the boot control block (R375). -/
structure BootCtl where
  seq       : Nat
  intact    : Bool
  active    : Nat
  trial     : Bool
  trialSlot : Nat
  deriving DecidableEq, Repr

/-- A firmware slot of the NOR flash (R375, R103): the bytes written since it was last erased, by offset and in the order they
were written, and the facts of the image it holds, with its length, once a check has read them. `valid` is
false from a failure of the flash, or a write cut short, until the next erase. -/
structure FwSlot where
  image   : Option FwImage
  imageLen : Nat
  valid   : Bool
  written : List (Nat × List Byte)
  deriving DecidableEq, Repr

/-- What the boot ROM measured (R378), by index 1 to 6: `content` is what the booted slot holds. -/
structure Measurements where
  slot     : Nat
  trial    : Bool
  image    : FwImage
  content  : List (Nat × List Byte)
  floor    : Nat
  part     : Part
  moduleId : Nat
  deriving DecidableEq, Repr

/-- The sequencer, the NOR flash and the fuses. -/
structure Boot where
  state     : ModState
  stateTs   : Nat
  endTs     : Nat
  aux       : Bool
  main      : Bool
  phase     : BootPhase
  attempt   : Nat
  failCode  : Nat
  failDetail : Nat
  perst     : Bool
  releaseTs : Nat
  locked    : Bool
  backup    : Bool
  relockTs  : Option Nat
  norOk     : Bool
  bcb       : List BootCtl
  slots     : List FwSlot
  floor     : Nat
  meas      : Option Measurements
  pfUpdate  : Bool
  sbUpdate  : Bool
  deriving DecidableEq, Repr

/-! ## Pins, PCIe and sideband (R389 to R401) -/

/-- The auxiliary header's outputs, and the SYNC_OUT pulse that is pending or running, by the timestamp of its edge
(R398, R399). `lastEdge` is the timestamp of the latest qualified SYNC_IN edge, 0 before the first (R166). -/
structure Pins where
  faultN  : Bool
  syncOut : Bool
  pulse   : Option Nat
  lastEdge : Nat
  deriving DecidableEq, Repr

/-- The enables that a function's configuration space holds: MSI-X Enable and its Function Mask (R33), ATS and PASID
(R17). The PCI Express base specification clears them at a reset. -/
structure PcieFn where
  msixEnable : Bool
  funcMask   : Bool
  ats        : Bool
  pasid      : Bool
  deriving DecidableEq, Repr

/-- The PCIe endpoint: SR-IOV (R16), the link (R391, R392), D3hot (R390) and the cached translations of each
function (R271, R272). Rates are in units of 0.1 GT/s; `mps` and `rcb` are the Max Payload Size and the Read Completion Boundary
in bytes (R110), `mrrs` the Max Read Request Size (R389), `ctoValue` and `ctoDisable` the Completion Timeout fields of Device Control 2
(R390), and `fellAt` is when the link last fell below a proven rate or width (R392). -/
structure Pcie where
  vfEnable : Bool
  numVfs   : Nat
  linkUp   : Bool
  rate     : Nat
  width    : Nat
  mps      : Nat
  rcb      : Nat
  mrrs     : Nat
  ctoValue : Nat
  ctoDisable : Bool
  fellAt   : Option Nat
  d3hot    : Bool
  atc      : List (Nat × AtsRange)
  fns      : List PcieFn
  deriving DecidableEq, Repr

/-- The sideband endpoint (R393, R394): its endpoint id, and where AMBER_NEXT reads from; `region` and
`cursor` are what AMBER_SELECT wrote, advanced by each read, and `none` is the oldest record; `skip` counts the slots
returned since then while the region holds no intact record. -/
structure Sideband where
  eid    : Nat
  region : Nat
  cursor : Option Nat
  skip   : Nat
  deriving DecidableEq, Repr

/-! ## Strata (R290 to R309) -/

/-- The credit state of one VC of a port (R297) and the message that is arriving on it (R298): the buffer the peer
advertised, the flits sent, those the peer has freed, those freed here, and the flits that wait to be sent. -/
structure VcState where
  limit : Nat
  sent  : Nat
  peerFreed : Nat
  freed : Nat
  asm   : Option (List Byte)
  queue : List Flit
  deriving DecidableEq, Repr

/-- The retry state of a port (R295): the last SEQ sent, acknowledged and received in order, the unacknowledged
DATA flits, and the times of the CRC failures of the last millisecond. -/
structure PortRetry where
  txSeq   : Nat
  ackSeq  : Nat
  rxSeq   : Nat
  unacked : List Flit
  resends : Nat
  naking  : Bool
  crcTimes : List Nat
  deriving DecidableEq, Repr

/-- One Strata port (R290 to R297, R309). -/
structure Port where
  st       : Nat
  cable    : Nat
  present  : Bool
  peerPos  : Nat
  peerPort : Nat
  peerId   : Nat
  latNs    : Nat
  echoes   : List Nat
  flitsTx  : Nat
  flitsRx  : Nat
  retries  : Nat
  crcErrors : Nat
  fails    : Nat
  waiting  : Bool
  step     : Nat
  bulkOnly : Bool
  retry    : PortRetry
  vcs      : List VcState
  deriving DecidableEq, Repr

/-- What a HELLO told of a neighbour (R299, R300). -/
structure HelloInfo where
  port  : Nat
  id    : Nat
  epoch : Nat
  pos   : Nat
  ts    : Nat
  deriving DecidableEq, Repr

/-- A reservation that this module holds as a shard of another module's contract (R302): what RESERVE said, and the
index it serves. -/
structure ShardRsv where
  home      : Nat
  contract  : Nat
  owner     : Nat
  shard     : Nat
  index     : Nat
  t2Slots   : Nat
  t2Pages   : Nat
  cairns    : List Nat
  candC     : Nat
  level     : Nat
  holdUs    : Nat
  deadline  : Nat
  burst     : Nat
  interval  : Nat
  demand    : Nat
  deriving DecidableEq, Repr

/-- The list scan of a remote case on this module, under a key of its own (R192): its snapshot, the lists and the scree
that are still to scan, and what it has found; `cairn` is the case's stage cairn on its home module (R150). -/
structure ShardJob where
  key     : Nat
  home    : Nat
  caseKey : Nat
  cairn   : Nat
  contract : Nat
  index   : Nat
  gen     : Nat
  seq     : Nat
  startTs : Nat
  recvTs  : Nat
  holdExpired : Bool
  visited : List Nat
  waitLists : List Nat
  waitScree : Bool
  query   : QueryVec
  found   : List Candidate
  deriving DecidableEq, Repr

/-- A collective this module takes part in (R306). `decision` is the journaled decision of its coordinator. -/
structure Coll where
  txn      : Nat
  cmd      : Nat
  coord    : Nat
  parts    : List Nat
  partials : List (Nat × Nat × List Byte)
  votes    : List (Nat × Bool × Nat)
  voted    : Bool
  decision : Option Bool
  deriving DecidableEq, Repr

/-- The stack this module belongs to (R300, R301, R304, R305, R309). `down` lists the links that are down, by
position and port. -/
structure Stack where
  pos      : Nat
  shape    : Nat
  members  : List Nat
  epoch    : Nat
  routeGen : Nat
  linksLost : Nat
  down     : List (Nat × Nat)
  hellos   : List HelloInfo
  deriving DecidableEq, Repr

/-- The time alignment of R304 and R305. Offsets are in 1/256 TCLK. -/
structure StackTime where
  locked  : Bool
  bound   : Nat
  good    : Nat
  seq     : Nat
  t1      : Option Nat
  rate    : Int
  deriving DecidableEq, Repr

/-- The message layer (R298, R299). -/
structure MsgLayer where
  nextIds   : List Nat
  delivered : List (Nat × Nat × Nat)
  floods    : List (Nat × Nat)
  unacked   : List StrataMsg
  inbox     : List (Nat × List Byte)
  deriving DecidableEq, Repr

/-- A CONTRACT_OPEN that waits for its shards (R302), or, `waking`, for the dies it wakes from DOZE (R382). `acks` holds what
each other module answered. -/
structure PendOpen where
  msg     : Nat
  f       : Nat
  dry     : Bool
  rcd     : ContractRec
  scheds  : Schedules
  handle  : Nat
  waking  : Bool
  shards  : List Nat
  acks    : List ShardAck
  deriving DecidableEq, Repr

/-- The Strata unit. -/
structure Strata where
  ports : List Port
  stack : Stack
  time  : StackTime
  ml    : MsgLayer
  rsvs  : List ShardRsv
  jobs  : List ShardJob
  colls : List Coll
  opens : List PendOpen
  deriving DecidableEq, Repr

/-! ## Module telemetry (R14) and identity (R17, R394) -/

/-- The counters of set 1 (R14). -/
structure Telem where
  casesPeak : Nat
  accepted : Nat
  doneOk : Nat
  doneFallback : Nat
  doneLate : Nat
  faulted : Nat
  cancelled : Nat
  submitRefused : Nat
  limitRefused : Nat
  stageTimeMax : List Nat
  reruns : Nat
  fences : Nat
  safeHolds : Nat
  energySum : Nat
  bgCommitted : Nat
  revocations : Nat
  deriving DecidableEq, Repr

/-- What is fixed at manufacture: the part and the MODULE_ID (R1, R300), and the identity of the
running firmware (R17). -/
structure Ident where
  part     : Part
  moduleId : Nat
  fwMinor  : Nat
  fwBuild  : Nat
  deriving DecidableEq, Repr

end Sys2Proof.Machine
end

