-- ==== Sys2Proof/Machine/State.lean ====
section
/-! DEFINITION. The state of the module: every register, buffer, queue, object and pin the spec gives it, as
plain data, with the queue of waiting commands. INVENTORY.md names the rule behind each field and its reset
value. -/

namespace Sys2Proof.Machine

/-- The state of one module. `free` counts the free values taken so far and belongs to the model, not
to the spec; `out` is the log of everything the module has sent out, oldest first. -/
structure State where
  pending   : List Instr
  ident     : Ident
  tclk      : Nat
  free      : Nat
  mail      : List Mailbox
  msgs      : List OpenMsg
  nextMsg   : Nat
  parts     : List Partition
  models    : List Model
  tables    : List Table
  indexes   : List Index
  pfxs      : List Pfx
  contracts : List Contract
  nextHandle : Nat
  cases     : List Case
  nextCase  : Nat
  cairns    : List CairnRec
  nextRun   : Nat
  waits     : List WaitRec
  nextWait  : Nat
  bg        : List BgOp
  nextBg    : Nat
  sched     : Sched
  nextCmd   : Nat
  mem       : Memory
  power     : Power
  safety    : Safety
  amber     : Amber
  boot      : Boot
  pins      : Pins
  pcie      : Pcie
  sideband  : Sideband
  strata    : Strata
  telem     : Telem
  out       : List Out
  deriving DecidableEq, Repr

/-- Why the machine stops. -/
inductive Fault where
  /-- Raised by the meaning of a command whose operand names a function, Garnet, core, rail, port, domain or
  sensor that no module has (WellFormed refuses it). Safe: the spec knows no such event. -/
  | noSuchUnit
  deriving DecidableEq, Repr

/-- Why a command has no meaning. -/
inductive Refusal where
  /-- Raised by an arm of `exec` whose command has no meaning yet. Safe: nothing can be proved of it. -/
  | notModelled (mnemonic : String)
  deriving DecidableEq, Repr

/-- A ring before any write to its registers (R17). -/
def Ring.reset : Ring :=
  { baseLo := 0, baseHi := 0, log2 := 0, pasidEn := false, pasid := 0, hostIdx := 0, devIdx := 0,
    active := false, seen := 0, cfg := { base := 0, log2 := 0, pasidEn := false, pasid := 0 } }

/-- An MSI-X entry at reset: the PCIe base specification masks it. -/
def MsixEntry.reset : MsixEntry := { addrLo := 0, addrHi := 0, data := 0, ctrl := 1 }

/-- The event registers at reset (R17). -/
def MbEvents.reset : MbEvents :=
  { contractEvt := false, faultEvt := false, adminEvt := false, evtOverflow := false, evtLost := 0,
    complDropped := 0, modCount := 1, modTime := 0, unsignalled := 0,
    msix := List.replicate 4 MsixEntry.reset, pba := 0 }

/-- The inline channel at reset (R17). -/
def InlineChan.reset : InlineChan :=
  { pi := 0, ci := 0, seen := 0, slotOwn := 0, slots := List.replicate 8 (zeros 256),
    responses := List.replicate 8 (zeros 64) }

/-- The configuration of a function at reset (R33). -/
def PcieFn.reset : PcieFn := { msixEnable := false, funcMask := false, ats := false, pasid := false }

/-- A mailbox window at its reset values (R17), its mailbox not served. -/
def Mailbox.reset : Mailbox :=
  { st := { running := false, halted := false, resetBusy := false, haltCause := 0, haltIndex := 0, cfgErr := 0 },
    inl := InlineChan.reset, sq := Ring.reset, cq := Ring.reset, ev := MbEvents.reset, inlQ := [],
    sqFetch := [], sqQ := [] }

/-- The scheduler with nothing to run. -/
def Sched.reset : Sched :=
  { cmds := [], vts := [], accounts := [], placed := [], poolModel := none, poolLoading := none, layers := [], areas := [], gang := [] }

/-- A tier at reset with `pages` usable pages of which `spares` are spare (R261, R265). -/
def TierState.reset (pages spares : Nat) : TierState :=
  { assignable := pages - spares, spares := spares, retired := [], ce := 0, ue := 0,
    chUe := List.replicate 32 0, chFailed := [], scrubPasses := 0, scrubLast := 0, scrubPos := 0,
    scrubbing := false, scrubDue := false, queues := [], retrains := [], retraining := none,
    retrainFails := [], accepts := true, lost := false }

/-- The usable pages of T2 by part (R261). -/
def t2Usable : Part → Nat
  | .c4256 => 3932160
  | _ => 7864320

/-- The initial spares of T2 by part (R265). -/
def t2Spares : Part → Nat
  | .c4256 => 4096
  | _ => 8192

/-- The memory of a part at reset. -/
def Memory.reset (p : Part) : Memory :=
  { t1 := TierState.reset 983040 1024, t2 := TierState.reset (t2Usable p) (t2Spares p), granules := [],
    rmwCe := 0, rmwUe := 0, poisonCleared := 0, poisonReads := 0, retrainCount := 0, t0Ce := 0, t0Ue := 0,
    ceDropped := 0, selfRefresh := false, armed := [] }

/-- A region with no reading yet (R328). -/
def Region.reset : Region :=
  { minMv := 0xFFFF, divAtMin := 0, minTs := 0, stretches := 0, derated := false, unmatched := false,
    growth := false, excluded := false, falls := [], baseline := 0, overSince := none }

/-- A Garnet with its cores gated, at the divider DIV_G resets to (R332). -/
def Die.reset : Die :=
  { div := 8, req := none, adopting := [], dwell := false, vset := 0, vsense := 0, pend := none, stepFails := 0,
    loadline := false, reverted := false, thermReq := 4, capReq := 4, coolSince := none, thermTs := 0, hot := false,
    stretching := false, raisedBy := 0, loadMa := 0, underv := false, cores := List.replicate 4 .off, woken := false,
    aclkOn := false, regions := List.replicate 16 Region.reset }

/-- The policy from the end of BOOTING until one is set (R101). -/
def Policy.reset : Policy := { minDiv := 8, regMode := 0, capW := 75, vceil := [780, 780, 780, 780] }

/-- The power manager at reset (R332). -/
def Power.reset : Power :=
  { dies := List.replicate 4 Die.reset, policy := Policy.reset, tj := List.replicate 7 0,
    tjPeak := List.replicate 7 0, sharedReq := 4, sharedHot := false, sharedCool := none, sharedTs := 0, pwr1ms := 0, pwrPeak := 0, calib := 0,
    withhold := false, conflicts := 0, throtChanges := 0, stretchFaults := 0, throtLevel := true,
    vlogTrimmed := false, vlogMv := 0 }

/-- The injection points of a detector on the units of one kind, in unit order (R343). -/
def pointsOf (det kind : Nat) : List PointRec :=
  (List.range (unitCount kind)).map fun i =>
    { det := det, unit := unitCode { kind := kind, idx := i }, outcome := 0, ts := 0 }

/-- A hub detector's injection point. -/
def hubPoint (det : Nat) : PointRec := { det := det, unit := 0, outcome := 0, ts := 0 }

/-- The 476 injection points in sweep order: detector id, then unit (R343, R347). -/
def allPoints : List PointRec :=
  pointsOf 0x01 3 ++ pointsOf 0x02 3 ++ pointsOf 0x03 3 ++ pointsOf 0x04 4 ++ pointsOf 0x05 5 ++
  pointsOf 0x06 7 ++ pointsOf 0x07 2 ++ pointsOf 0x08 8 ++ pointsOf 0x09 9 ++ pointsOf 0x0A 1 ++
  pointsOf 0x0A 6 ++ pointsOf 0x0B 10 ++ pointsOf 0x0C 3 ++ pointsOf 0x0C 4 ++ pointsOf 0x0C 5 ++
  pointsOf 0x0C 7 ++ pointsOf 0x0C 11 ++ pointsOf 0x0D 2 ++ pointsOf 0x0E 1 ++ pointsOf 0x0F 1 ++
  pointsOf 0x10 1 ++ [hubPoint 0x11] ++ pointsOf 0x11 1 ++ [hubPoint 0x12, hubPoint 0x13, hubPoint 0x14,
  hubPoint 0x15, hubPoint 0x16, hubPoint 0x17, hubPoint 0x18, hubPoint 0x19, hubPoint 0x1A]

/-- The safety window at reset (R355), every point not yet exercised. -/
def Safety.reset : Safety :=
  { causes := [], holdCause := 0, holdUnit := 0, holdTs := 0, releaseBusy := false, haltQual := true,
    haltActed := true, rearm := false, resetNeeded := false, pairA := false, pairB := false, fences := [],
    recovered := 0, holds := 0, latent := 0, points := allPoints, sweepPos := 0, sweeps := 0, sweepTs := 0,
    killed := [], journal := [] }

/-- A recorder that has written nothing (R357 to R368). -/
def Amber.reset : Amber :=
  { epoch := 0, count := 1, intake := [], ring := [], queue := [], slots := [], full := false, overrun := 0,
    lost := 0, dropped := 0 }

/-- The facts of the firmware image that slot 0 holds when the card is shipped. -/
def FwImage.shipped : FwImage :=
  { parses := true, signatureOk := true, securityVersion := 0, version := 0, keyList := [], fwMinor := 0,
    fwBuild := 0 }

/-- The sequencer with no power, and the flash as shipped (R375). -/
def Boot.reset : Boot :=
  { state := .off, stateTs := 0, endTs := 0, aux := false, main := false, phase := .idle, attempt := 0,
    failCode := 0, failDetail := 0, perst := false, releaseTs := 0, locked := false, backup := true,
    relockTs := none, norOk := true,
    bcb := [{ seq := 1, intact := true, active := 0, trial := false, trialSlot := 0 },
            { seq := 0, intact := true, active := 0, trial := false, trialSlot := 0 }],
    slots := [{ image := some FwImage.shipped, imageLen := 16777216, valid := true, written := [] },
              { image := none, imageLen := 16777216, valid := false, written := [] }],
    floor := 0, meas := none, pfUpdate := false, sbUpdate := false }

/-- A VC of a port with no credit (R297). -/
def VcState.reset : VcState := { limit := 0, sent := 0, peerFreed := 0, freed := 0, asm := none, queue := [] }

/-- A port with no cable (R309). -/
def Port.reset : Port :=
  { st := 0, cable := 0, present := false, peerPos := 0xFF, peerPort := 0, peerId := 0, latNs := 0,
    echoes := [], flitsTx := 0, flitsRx := 0, retries := 0, crcErrors := 0, fails := 0, waiting := false,
    step := 0, bulkOnly := false,
    retry := { txSeq := 0, ackSeq := 0, rxSeq := 0, unacked := [], resends := 0, naking := false, crcTimes := [] },
    vcs := List.replicate 4 VcState.reset }

/-- A stack of one (R300). -/
def Strata.reset (id : Nat) : Strata :=
  { ports := List.replicate 4 Port.reset,
    stack := { pos := 0, shape := 0, members := [id], epoch := 0, routeGen := 0, linksLost := 0, down := [],
               hellos := [] },
    time := { locked := true, bound := 0, good := 0, seq := 0, t1 := none, rate := 0 },
    ml := { nextIds := [0, 0, 0, 0], delivered := [], floods := [], unacked := [], inbox := [] },
    rsvs := [], jobs := [], colls := [], opens := [] }

/-- The set 1 counters at zero (R14). -/
def Telem.reset : Telem :=
  { casesPeak := 0, accepted := 0, doneOk := 0, doneFallback := 0, doneLate := 0, faulted := 0, cancelled := 0,
    submitRefused := 0, limitRefused := 0, stageTimeMax := List.replicate 10 0, reruns := 0, fences := 0,
    safeHolds := 0, energySum := 0, bgCommitted := 0, revocations := 0 }

/-- The module before 3.3 V auxiliary first appears: the state OFF (R354), nothing waiting. -/
def State.reset : State :=
  { pending := [], ident := { part := .c4512, moduleId := 1, fwMinor := 0, fwBuild := 0 }, tclk := 0, free := 0,
    mail := List.replicate 33 Mailbox.reset, msgs := [], nextMsg := 1, parts := [], models := [], tables := [],
    indexes := [], pfxs := [], contracts := [], nextHandle := 1, cases := [], nextCase := 1, cairns := [],
    nextRun := 1, waits := [], nextWait := 1, bg := [], nextBg := 1, sched := Sched.reset, nextCmd := 1,
    mem := Memory.reset .c4512, power := Power.reset, safety := Safety.reset, amber := Amber.reset,
    boot := Boot.reset, pins := { faultN := false, syncOut := false, pulse := none, lastEdge := 0 },
    pcie := { vfEnable := false, numVfs := 0, linkUp := false, rate := 320, width := 16, mps := 128, rcb := 64, mrrs := 512,
              ctoValue := 0, ctoDisable := false, fellAt := none, d3hot := false, atc := [],
              fns := List.replicate 33 PcieFn.reset },
    sideband := { eid := 0, region := 0, cursor := none, skip := 0 }, strata := Strata.reset 1, telem := Telem.reset,
    out := [] }

/-- What a command answers. -/
abbrev Res := Host.Outcome State Fault Refusal

end Sys2Proof.Machine
end

