-- ==== Sys2Proof/Machine/Ops.lean ====
section
/-! DEFINITION. The operations every family uses: access to the parts of State, Amber records (R359 to R365),
interrupts, events and completions (R28 to R33), mailbox halts (R44), page accounting (R267) and the
module state (R354). -/

namespace Sys2Proof.Machine

/-! ## Access -/

/-- The mailbox of function `f`. -/
def mbOf (s : State) (f : Nat) : Mailbox := s.mail.getD f Mailbox.reset

/-- Changes the mailbox of function `f`. -/
def updMb (s : State) (f : Nat) (g : Mailbox → Mailbox) : State := { s with mail := modifyAt s.mail f g }

/-- Whether function `f` exists: the PF always, a VF while VF Enable is set and its number is at most NumVFs (R16). -/
def funcExists (s : State) (f : Nat) : Bool := f == 0 || (s.pcie.vfEnable && decide (f ≤ s.pcie.numVfs))

/-- The functions that exist, in order. -/
def functions (s : State) : List Nat := (List.range 33).filter (funcExists s)

/-- Appends to the log of what leaves the module. -/
def emit (s : State) (o : Out) : State := { s with out := s.out ++ [o] }

/-- Takes the next free value's number. -/
def bumpFree (s : State) : State := { s with free := s.free + 1 }

/-- The partition of function `f`: the VF's number, or 0 for the PF (R52). -/
def partOf (s : State) (f : Nat) : Option Partition := s.parts.find? fun p => p.id == f

/-- Changes partition `i`. -/
def updPart (s : State) (i : Nat) (g : Partition → Partition) : State :=
  { s with parts := modifyWhere s.parts (fun p => p.id == i) g }

/-- Changes the counters of partition `i`. -/
def updStats (s : State) (i : Nat) (g : PartStats → PartStats) : State :=
  updPart s i fun p => { p with stats := g p.stats }

/-- The contract of a handle. -/
def contractOf (s : State) (h : Nat) : Option Contract := s.contracts.find? fun k => k.handle == h

/-- Changes the contract of a handle. -/
def updContract (s : State) (h : Nat) (g : Contract → Contract) : State :=
  { s with contracts := modifyWhere s.contracts (fun k => k.handle == h) g }

/-- The case of a key. -/
def caseOf (s : State) (key : Nat) : Option Case := s.cases.find? fun c => c.hd.key == key

/-- Changes the case of a key. -/
def updCase (s : State) (key : Nat) (g : Case → Case) : State :=
  { s with cases := modifyWhere s.cases (fun c => c.hd.key == key) g }

/-- The model of a handle. -/
def modelOf (s : State) (h : Nat) : Option Model := s.models.find? fun m => m.handle == h

/-- The table of a handle. -/
def tableOf (s : State) (h : Nat) : Option Table := s.tables.find? fun t => t.handle == h

/-- The index of a handle. -/
def indexOf (s : State) (h : Nat) : Option Index := s.indexes.find? fun x => x.handle == h

/-- Changes the index of a handle. -/
def updIndex (s : State) (h : Nat) (g : Index → Index) : State :=
  { s with indexes := modifyWhere s.indexes (fun x => x.handle == h) g }

/-- The prefix of a handle. -/
def pfxOf (s : State) (h : Nat) : Option Pfx := s.pfxs.find? fun p => p.handle == h

/-- Changes the telemetry counters of R14. -/
def updTelem (s : State) (g : Telem → Telem) : State := { s with telem := g s.telem }

/-- Changes the power manager. -/
def updPower (s : State) (g : Power → Power) : State := { s with power := g s.power }

/-- Garnet `g` of the power manager. -/
def dieOf (s : State) (g : Nat) : Die := s.power.dies.getD g Die.reset

/-- Changes Garnet `g`. -/
def updDie (s : State) (g : Nat) (u : Die → Die) : State :=
  updPower s fun p => { p with dies := modifyAt p.dies g u }

/-- Changes the safety unit. -/
def updSafety (s : State) (g : Safety → Safety) : State := { s with safety := g s.safety }

/-- Changes the sequencer. -/
def updBoot (s : State) (g : Boot → Boot) : State := { s with boot := g s.boot }

/-- A tier of memory. -/
def tierOf (s : State) (t : Tier) : TierState :=
  match t with
  | .t1 => s.mem.t1
  | .t2 => s.mem.t2

/-- Changes a tier of memory. -/
def updTier (s : State) (t : Tier) (g : TierState → TierState) : State :=
  match t with
  | .t1 => { s with mem := { s.mem with t1 := g s.mem.t1 } }
  | .t2 => { s with mem := { s.mem with t2 := g s.mem.t2 } }

/-- Changes the scheduler. -/
def updSched (s : State) (g : Sched → Sched) : State := { s with sched := g s.sched }

/-- The command of an id. -/
def cmdOf (s : State) (i : Nat) : Option Cmd := s.sched.cmds.find? fun c => c.id == i

/-- Changes the command of an id. -/
def updCmd (s : State) (i : Nat) (g : Cmd → Cmd) : State :=
  updSched s fun d => { d with cmds := modifyWhere d.cmds (fun c => c.id == i) g }

/-- Runs a change when an operand names something the module has, and stops otherwise. -/
def guardUnit (ok : Bool) (r : Res) : Res := if ok then r else .fault .noSuchUnit

/-! ## Amber records (R359 to R365) -/

/-- The codes marked S in the event code table that are not detector records (R370). -/
def amberSafety (code : Nat) : Bool :=
  [0x0106, 0x0204, 0x0206, 0x1101, 0x1102, 0x1103, 0x1104, 0x1105, 0x1106, 0x1202, 0x1205, 0x1206, 0x1304,
   0x1401, 0x1406, 0x1501, 0x1502, 0x1503, 0x1504, 0x1505, 0x1506, 0x1507, 0x1601].contains code

/-- Whether the firmware runs on Basalt; before its release the always-on island writes the records (chapter 15). -/
def basaltRuns (s : State) : Bool :=
  match s.boot.phase with
  | .verify | .training | .memInit | .done => true
  | _ => false

/-- Writes a record into the volatile ring: it takes the next SEQ (R361), overwrites the oldest when the ring is
full (R364), and a safety-class record is queued for the persistent region or counted as dropped (R365). -/
def ringPut (a : Amber) (r : AmberRec) : Amber :=
  let r := { r with seq := a.epoch * 2 ^ 40 + a.count }
  let ring := (if a.ring.length < 16384 then a.ring else a.ring.drop 1) ++ [r]
  let a := { a with count := a.count + 1, ring := ring }
  if r.rflags % 2 = 0 then a
  else if a.full ∨ a.queue.length ≥ 1024 then { a with dropped := a.dropped + 1 }
  else { a with queue := a.queue ++ [r] }

/-- A record arrives at the intake queue of 256, or is counted in OVERRUN (R363). -/
def intakePut (a : Amber) (r : AmberRec) : Amber :=
  if a.intake.length < 256 then { a with intake := a.intake ++ [r] }
  else { a with overrun := a.overrun + 1, lost := a.lost + 1 }

/-- RFLAGS of a record (R360). -/
def rflagsOf (s : State) (safety injected : Bool) : Nat :=
  bit safety + 2 * bit injected + 4 * bit s.boot.backup + 8 * bit (!basaltRuns s)

/-- Writes one Amber record. `cls` says whether it is safety class, `func` is 0xFF for none. -/
def recordAs (s : State) (cls injected : Bool) (code source func : Nat) (payload : List Byte) : State :=
  let r : AmberRec :=
    { seq := 0, ts := s.tclk, code := code, source := source, func := func, rflags := rflagsOf s cls injected,
      payload := payload ++ zeros (36 - payload.length), damaged := none }
  { s with amber := if basaltRuns s then intakePut s.amber r else ringPut s.amber r }

/-- Writes one Amber record of Basalt, in the class of its code (R370). -/
def record (s : State) (code : Nat) (payload : List Byte) : State :=
  recordAs s (amberSafety code) false code 0 0xFF payload

/-- Writes one Amber record of function `f`. -/
def recordFunc (s : State) (f code : Nat) (payload : List Byte) : State :=
  recordAs s (amberSafety code) false code 0 f payload

/-- Writes one Amber record whose SOURCE is a unit. -/
def recordUnit (s : State) (u : UnitId) (injected : Bool) (code : Nat) (payload : List Byte) : State :=
  recordAs s (amberSafety code) injected code (unitCode u) 0xFF payload

/-! ## Interrupts (R33) -/

/-- The configuration of function `f`. -/
def fnOf (s : State) (f : Nat) : PcieFn := s.pcie.fns.getD f PcieFn.reset

/-- Whether a vector is masked, by its own bit or by the Function Mask. -/
def vectorMasked (s : State) (f v : Nat) : Bool :=
  (fnOf s f).funcMask || decide (((mbOf s f).ev.msix.getD v MsixEntry.reset).ctrl % 2 = 1)

/-- Fires an MSI-X vector: with MSI-X disabled nothing is sent, and a masked vector sets its pending bit. -/
def fireVector (s : State) (f v : Nat) : State :=
  if !(fnOf s f).msixEnable then s
  else if vectorMasked s f v then
    updMb s f fun mb => { mb with ev := { mb.ev with pba := setBit mb.ev.pba v true } }
  else emit s (.msix f v)

/-- A completion is posted: the completion vector fires at MOD_COUNT unsignalled completions, or at once while
MOD_TIME is 0 (R33). -/
def signalCompletion (s : State) (f : Nat) : State :=
  let ev := (mbOf s f).ev
  if ev.modTime = 0 ∨ ev.unsignalled + 1 ≥ max 1 ev.modCount then
    fireVector (updMb s f fun mb => { mb with ev := { mb.ev with unsignalled := 0 } }) f 0
  else updMb s f fun mb => { mb with ev := { mb.ev with unsignalled := mb.ev.unsignalled + 1 } }

/-! ## Mailbox halts (R44) -/

/-- Halts a mailbox, or records a further cause of one that is halted already. -/
def haltMailbox (s : State) (f cause index : Nat) : State :=
  let payload := leBytes 1 cause ++ leBytes 4 index
  if (mbOf s f).st.halted then recordFunc s f 0x0101 payload
  else
    let s := updMb s f fun mb =>
      { mb with st := { mb.st with halted := true, haltCause := cause, haltIndex := index } }
    recordFunc (fireVector s f 3) f 0x0101 payload

/-! ## The DMA check (R271) -/

/-- Whether two ranges [a, a+n) and [b, b+m) overlap. -/
def overlaps (a n b m : Nat) : Bool := decide (a < b + m ∧ b < a + n)

/-- Takes the part of [lo, hi) that a list of grants leaves uncovered, from `lo` up, `fuel` grants at a time. -/
def coveredFrom (grants : List AtsRange) (write : Bool) (hi : Nat) : Nat → Nat → Bool
  | 0, lo => decide (lo ≥ hi)
  | k + 1, lo =>
    if lo ≥ hi then true
    else match grants.find? fun g => decide (g.lo ≤ lo ∧ lo < g.hi) && (!write || g.write) with
      | some g => coveredFrom grants write hi k g.hi
      | none => false

/-- Whether the grants made to a PASID cover every byte of [lo, hi). -/
def covered (grants : List AtsRange) (pasid : Nat) (write : Bool) (lo hi : Nat) : Bool :=
  let mine := grants.filter fun g => g.pasid == pasid
  coveredFrom mine write hi (mine.length + 1) lo

/-- The PASID that the accesses of function `f` carry: the partition's, when it was created with PASID_EN (R54, R270). -/
def partPasid (s : State) (f : Nat) : Option Nat :=
  match partOf s f with
  | some p => if p.cfg.pasidEn then some p.cfg.pasid else none
  | none => none

/-- Whether the accesses of function `f` carry the partition's PASID. -/
def carriesPasid (s : State) (f : Nat) : Bool := (partPasid s f).isSome

/-- Whether ATS grants the accesses of function `f` that carry a PASID all of [addr, addr+len): ATS with PASID is enabled for
the function (R17), and the grants made to that PASID cover the range (R271). An access without a PASID asks for none. -/
def atsGrants (s : State) (f : Nat) (grants : List AtsRange) (pasid : Option Nat) (write : Bool) (addr len : Nat) : Bool :=
  match pasid with
  | none => true
  | some p => (fnOf s f).ats && (fnOf s f).pasid && covered grants p write addr (addr + len)

/-- The DMA check of function `f`: whether [addr, addr+len) is refused, for accesses that carry `pasid`. -/
def dmaDenied (s : State) (h : HostView) (f : Nat) (pasid : Option Nat) (write : Bool) (addr len : Nat) : Bool :=
  decide (addr + len > 2 ^ 64) || overlaps addr len h.pfBar 65536 ||
  (s.pcie.vfEnable && overlaps addr len h.vfBar (16384 * s.pcie.numVfs)) ||
  !atsGrants s f h.grants pasid write addr len

/-- The ranges granted to function `f` are now those of `h` (R271): the module has translated them again. -/
def learnGrants (s : State) (f : Nat) (h : HostView) : State :=
  { s with pcie := { s.pcie with
      atc := s.pcie.atc.filter (fun e => e.1 != f) ++ h.grants.map fun g => (f, g) } }

/-- The grants the module holds for function `f`. -/
def grantsOf (s : State) (f : Nat) : List AtsRange :=
  s.pcie.atc.filterMap fun e => if e.1 = f then some e.2 else none

/-- The PASID that the accesses of a ring carry: its own when `en` was set at its enable, or the partition's (R17). -/
def ringPasid (s : State) (f : Nat) (en : Bool) (pasid : Nat) : Option Nat := if en then some pasid else partPasid s f

/-- The PASID that an active ring's accesses carry. -/
def activePasid (s : State) (f : Nat) (r : Ring) : Option Nat := ringPasid s f r.cfg.pasidEn r.cfg.pasid

/-! ## Completions and events (R28 to R33) -/

/-- Whether a started message holds a completion entry of the ring of function `f` (R31). -/
def ringMsgs (s : State) (f : Nat) : Nat :=
  (s.msgs.filter fun m => m.f == f && decide (m.src = .ring)).length

/-- The entries of an active ring, N. -/
def ringSize (r : Ring) : Nat := 2 ^ r.cfg.log2

/-- The address of the entry that index `i` of an active ring names, for entries of `size` bytes (R20). -/
def entryAddr (r : Ring) (size i : Nat) : Nat := r.cfg.base + size * (i % ringSize r)

/-- The outstanding entries of the completion ring: written and not yet freed. -/
def cqOut (r : Ring) : Nat := (r.devIdx + 2 * ringSize r - r.seen) % (2 * ringSize r)

/-- PHASE of the entry at completion index `i` (R30). -/
def phaseOf (n i : Nat) : Bool := i / n % 2 == 0

/-- Whether the completion ring's next write passes the DMA check as it stands (R44, R272). -/
def cqWritable (s : State) (f : Nat) : Bool :=
  let r := (mbOf s f).cq
  atsGrants s f (grantsOf s f) (activePasid s f r) true (entryAddr r 64 r.devIdx) 64

/-- Advances CQ_PI past an entry just written. -/
def advanceCq (s : State) (f : Nat) : State :=
  updMb s f fun mb => { mb with cq := { mb.cq with devIdx := (mb.cq.devIdx + 1) % (2 * ringSize mb.cq) } }

/-- The 64 bytes of a completion (R29). RESP_WRITTEN is set when response bytes were written: the spec says no more of the
bit, and of a response of no bytes the model says that none was written (log 139). -/
def completionBytes (c : Completion) : List Byte :=
  leBytes 2 c.tag ++ leBytes 2 c.code ++ leBytes 2 (statusCode c.status) ++
  leBytes 2 (bit c.phase + 2 * (match c.src with | .inl => 0 | .ring => 1) + 8 * bit (c.respBytes != 0)) ++
  leBytes 2 c.origin ++ leBytes 2 c.errOffset ++ leBytes 4 c.respBytes ++ leBytes 8 c.cookie ++
  leBytes 8 c.timestamp ++ c.result ++ zeros (32 - c.result.length)

/-- The 64 bytes of an event entry (R29): TAG, ORIGIN, COOKIE and RESP_BYTES are 0, SOURCE is 2, and ERR_OFFSET is 0xFFFF. Its
STATUS is ST_OK (log 140). -/
def eventBytes (e : EventEntry) : List Byte :=
  leBytes 2 0 ++ leBytes 2 (eventCode e.code) ++ leBytes 2 (statusCode .ok) ++ leBytes 2 (bit e.phase + 2 * 2) ++
  leBytes 2 0 ++ leBytes 2 0xFFFF ++ leBytes 4 0 ++ leBytes 8 0 ++ leBytes 8 e.timestamp ++ e.result ++
  zeros (32 - e.result.length)

/-- Writes the completion of a started message (R28): an inline one to the response slot, freeing the slot; a ring
one at CQ_PI with its PHASE, in the order in which messages complete (R43). A refused ring write halts the mailbox instead (R44). -/
def writeCompletion (s : State) (m : OpenMsg) (st : Status) (errOff respBytes : Nat) (result : List Byte) :
    State :=
  let mb := mbOf s m.f
  let c : Completion :=
    { f := m.f, src := m.src, origin := m.origin, tag := m.tag, code := m.opcode, status := st,
      errOffset := errOff, respBytes := respBytes, cookie := m.cookie, timestamp := s.tclk,
      result := result.take 32, index := 0, phase := false, addr := 0x1000 + 64 * m.origin, pasid := none }
  match m.src with
  | .inl =>
    let s := updMb s m.f fun mb => { mb with inl := { mb.inl with
      slotOwn := setBit mb.inl.slotOwn m.origin false,
      responses := modifyAt mb.inl.responses m.origin fun _ => completionBytes c } }
    signalCompletion (emit s (.completion c)) m.f
  | .ring =>
    if !mb.cq.active then s
    else if cqWritable s m.f then
      let c := { c with index := mb.cq.devIdx, phase := phaseOf (ringSize mb.cq) mb.cq.devIdx,
                        addr := entryAddr mb.cq 64 mb.cq.devIdx, pasid := activePasid s m.f mb.cq }
      signalCompletion (advanceCq (emit s (.completion c)) m.f) m.f
    else haltMailbox s m.f 5 0

/-- Ends a started message. A message whose completion a mailbox reset discarded writes none (R45, R46). -/
def complete (s : State) (id : Nat) (st : Status) (errOff : Nat := 0xFFFF) (result : List Byte := [])
    (respBytes : Nat := 0) : State :=
  match s.msgs.find? fun m => m.id == id with
  | none => s
  | some m => writeCompletion { s with msgs := s.msgs.filter fun m => m.id != id } m st errOff respBytes result

/-- Sets the pending bit of an event (R32). -/
def setPending (ev : MbEvents) (c : EventCode) : MbEvents :=
  match c with
  | .contractRevoked => { ev with contractEvt := true }
  | .faultReported => { ev with faultEvt := true }
  | _ => { ev with adminEvt := true }

/-- Posts an event to a function whose mailbox is served (R32, R406). EVT_LOST wraps past 2^32 - 1 (log 141). -/
def postEvent (s : State) (f : Nat) (c : EventCode) (result : List Byte) : State :=
  if !(mbOf s f).st.running then s
  else
    let s := updMb s f fun mb => { mb with ev := setPending mb.ev c }
    let s := fireVector s f (eventVector c)
    let mb := mbOf s f
    if !mb.cq.active then s
    else if cqOut mb.cq + ringMsgs s f ≥ ringSize mb.cq then
      let s := updMb s f fun mb =>
        { mb with ev := { mb.ev with evtOverflow := true, evtLost := (mb.ev.evtLost + 1) % 2 ^ 32 } }
      recordFunc s f 0x0102 (leBytes 2 (eventCode c) ++ leBytes 4 (mbOf s f).ev.evtLost)
    else if cqWritable s f then
      let e : EventEntry :=
        { f := f, code := c, timestamp := s.tclk, result := result, index := mb.cq.devIdx,
          phase := phaseOf (ringSize mb.cq) mb.cq.devIdx, addr := entryAddr mb.cq 64 mb.cq.devIdx,
          pasid := activePasid s f mb.cq }
      advanceCq (emit s (.event e)) f
    else haltMailbox s f 5 0

/-- Posts an event to every function that exists. -/
def postAll (s : State) (c : EventCode) (result : List Byte) : State :=
  (functions s).foldl (fun s f => postEvent s f c result) s

/-- Posts PARTITION_CHANGED to the partition's VF and the PF (R30's event table, R406). -/
def postPartition (s : State) (part tiers action : Nat) : State :=
  let r := leBytes 1 part ++ leBytes 1 tiers ++ leBytes 1 action
  let s := if part = 0 then s else postEvent s part .partitionChanged r
  postEvent s 0 .partitionChanged r

/-- Posts FAULT_REPORTED to every function (R340). -/
def postFault (s : State) (cls : Nat) (injected : Bool) (det unit : Nat) : State :=
  postAll s .faultReported
    (leBytes 1 cls ++ leBytes 1 (bit injected) ++ leBytes 2 det ++ leBytes 2 unit ++ zeros 2 ++ leBytes 8 s.tclk)

/-- Writes host memory for a function, under its partition's PASID (R54, R270). -/
def hostWrite (s : State) (f addr : Nat) (b : List Byte) : State := emit s (.hostWrite f (partPasid s f) addr b)

/-- Reads host memory for a function, under its partition's PASID (R54, R270); what the read answers is a command's operand. -/
def hostRead (s : State) (f addr len : Nat) : State := emit s (.hostRead f (partPasid s f) addr len)

/-! ## The module state (R354) -/

/-- Whether FAULT_N is asserted in a state (R13, R398). -/
def faultState : ModState → Bool
  | .safeHold => true
  | .lockout => true
  | _ => false

/-- Whether SYNC_OUT may pulse in a state (R399). -/
def syncState : ModState → Bool
  | .ready | .serving | .doze | .degraded | .safeHold => true
  | _ => false

/-- The rollback floor once the booted image has reached a state: it rises to the image's SECURITY_VERSION at READY, and
never falls (R377). -/
def raisedFloor (b : Boot) (m : ModState) : Nat :=
  match m, b.meas with
  | .ready, some x => max b.floor x.image.securityVersion
  | _, _ => b.floor

/-- Moves the module to a state: the STATE_CHANGE record, STATE_CHANGED to every function, FAULT_N and SYNC_OUT
(R354, R398, R399), and the rollback floor (R377). The state it is in already changes nothing. -/
def setState (s : State) (m : ModState) : State :=
  if s.boot.state = m then s
  else
    let b := leBytes 1 (stateCode s.boot.state) ++ leBytes 1 (stateCode m)
    let s := updBoot s fun t => { t with state := m, stateTs := s.tclk, floor := raisedFloor t m }
    let s := { s with pins := { s.pins with faultN := faultState m, syncOut := s.pins.syncOut && syncState m,
                                            pulse := if syncState m then s.pins.pulse else none } }
    postAll (record s 0x1106 b) .stateChanged b

/-- Whether a contract is open, a closing one included (R86, R126). -/
def isOpen (k : Contract) : Bool := decide (k.state ≠ .revoked)

/-- Whether the state is one in which units are fenced as DEGRADED (R342). -/
def runState : ModState → Bool
  | .ready | .serving | .doze | .degraded => true
  | _ => false

/-- The state among READY, SERVING, DOZE and DEGRADED that R342 and R84 give. -/
def properState (s : State) : ModState :=
  if s.safety.fences ≠ [] then .degraded
  else if s.contracts.any isOpen then .serving
  else if s.boot.state = .doze then .doze
  else .ready

/-- Takes the state that the fences and the open contracts now give (R342, R354). -/
def settleState (s : State) : State :=
  if runState s.boot.state then setState s (properState s) else s

/-! ## Pages (R267) -/

/-- The number of 64 KiB pages that hold `n` bytes. -/
def pagesOf (n : Nat) : Nat := ceilDiv n 65536

/-- The T1 and T2 pages of a model (R65, R66, R267). -/
def modelPages (m : Model) : Nat × Nat :=
  let w := pagesOf m.img.weightBytes
  match m.home with
  | .t1 => (w, 0)
  | .t2 => (if m.pinned then w else 0, if m.t2Lost then 0 else w)

/-- The bytes of a table row (R69). -/
def rowBytes (format dim : Nat) : Nat := if format = 0 then dim + 4 else 2 * dim

/-- The T1 pages of a table; a composed table uses none (R69). -/
def tablePages (t : Table) : Nat :=
  if t.kind = 2 then 0 else pagesOf (t.nrows * rowBytes t.format t.dim)

/-- The pages of a contract's reservation (R84, R267); a revoked contract holds none (R125). -/
def contractPages (k : Contract) : Nat × Nat :=
  match k.state with
  | .revoked => (0, 0)
  | _ => (k.pf.t1Pages, k.pf.t2Pages)

/-- Sums a pair-valued measure over a list. -/
def sumPair {α : Type} (l : List α) (g : α → Nat × Nat) : Nat × Nat :=
  (sumNat (l.map fun x => (g x).1), sumNat (l.map fun x => (g x).2))

/-- The T1 and T2 pages an index is charged at INDEX_CREATE (R167). -/
def indexFixedPages (c : IndexCfg) : Nat × Nat :=
  (ceilDiv (c.lists * 260) 65536,
   ceilDiv (c.lists * 256) 65536 + 2 + (if c.codeBytes = 32 then 32768 else 65536) + c.cachePages)

/-- The T2 pages of the directory, the id runs and the list blocks of an image header (R167). -/
def headerPages (h : IndexHeader) : Nat :=
  ceilDiv (h.lists * 32) 65536 + ceilDiv (h.runCount * 16) 65536 + ceilDiv h.listBlocks 16

/-- The T1 and T2 pages of an index, a superseded generation included (R167, R267). -/
def indexPages (x : Index) : Nat × Nat :=
  let (a, b) := indexFixedPages x.cfg
  (a, b + x.listPages + (match x.old with | some o => o.pages | none => 0))

/-- The T1 pages of a prefix; of a released one only those that cases hold: its full pages, and those that are not full
(R217, R218). -/
def pfxPages (p : Pfx) : Nat :=
  let full := p.pages / max 1 (ceilDiv p.toks.length 256) * (p.toks.length / 256)
  if p.released then (if p.refs = 0 then 0 else full) + (if p.tailRefs = 0 then 0 else p.pages - full) else p.pages

/-- The RESERVED, HELD and DRAINING pages of partition `i` in T1 and T2 (R267). -/
def usedPages (s : State) (i : Nat) : Nat × Nat :=
  let m := sumPair (s.models.filter fun m => m.owner == i) modelPages
  let t := sumPair (s.tables.filter fun t => t.owner == i) fun t => (tablePages t, 0)
  let x := sumPair (s.indexes.filter fun x => x.owner == i) indexPages
  let p := sumPair (s.pfxs.filter fun p => p.owner == i) fun p => (pfxPages p, 0)
  let k := sumPair (s.contracts.filter fun k => k.owner == i) contractPages
  let b := sumPair (s.bg.filter fun b => b.owner == i) fun b => (b.t1Held, b.t2Held)
  let r := sumPair (s.strata.rsvs.filter fun r => r.owner == i) fun r => (0, r.t2Pages)
  (m.1 + t.1 + x.1 + p.1 + k.1 + b.1 + r.1, m.2 + t.2 + x.2 + p.2 + k.2 + b.2 + r.2)

/-- Whether `t1` and `t2` more pages fit the quotas of partition `i` (R267). Messages are applied one at a time, so of two that race for the last
pages the first has them (R269). -/
def fitsQuota (s : State) (i t1 t2 : Nat) : Bool :=
  match partOf s i with
  | none => false
  | some p =>
    let u := usedPages s i
    decide (u.1 + t1 ≤ p.cfg.t1Pages ∧ u.2 + t2 ≤ p.cfg.t2Pages)

/-- The live cases of partition `i`. -/
def liveCases (s : State) (i : Nat) : Nat := (s.cases.filter fun c => c.hd.owner == i).length

/-- A new handle, never 0 and never used again (R51). The count has no end: past 2^32 the fields that carry a handle hold its
low 32 bits (log 26). -/
def newHandle (s : State) : State := { s with nextHandle := s.nextHandle + 1 }

/-- The virtual time of a partition at a level, as a fraction: 0 before its first command (R129). -/
def vtimeOf (s : State) (owner level : Nat) : Nat × Nat :=
  match s.sched.vts.find? fun v => v.owner == owner && v.level == level with
  | some v => (v.num, v.den)
  | none => (0, 1)

/-- Whether one fraction is below another. -/
def fracLt (a b : Nat × Nat) : Bool := decide (a.1 * b.2 < b.1 * a.2)

/-- Sets the virtual time of a partition at a level, in lowest terms. -/
def setVTime (s : State) (owner level : Nat) (q : Nat × Nat) : State :=
  let g := max 1 (Nat.gcd q.1 q.2)
  let v : VTime := { owner := owner, level := level, num := q.1 / g, den := q.2 / g }
  updSched s fun d => { d with vts := (d.vts.filter fun v => !(v.owner == owner && v.level == level)) ++ [v] }

/-! ## Queries that wait on scan passes (R131, R177) -/

/-- A query that waits on lists or on the scree. -/
structure Waiter where
  key : Nat
  owner : Nat
  level : Nat
  index : Nat
  gen : Nat
  lists : List Nat
  scree : Bool
  kill : Bool
  deadline : Nat
  startTs : Nat
  holdEnd : Nat
  expired : Bool
  deriving DecidableEq, Repr

/-- The queries of this module's cases that wait. -/
def caseWaiters (s : State) : List Waiter :=
  s.cases.filterMap fun c => match contractOf s c.hd.contract with
    | some k =>
      let t := k.rcd.terms
      if decide (c.stage = .listScan) && c.ending.isNone then some
        { key := c.hd.key, owner := c.hd.owner, level := t.level, index := k.rcd.refs.index, gen := c.srch.gen,
          lists := c.srch.waitLists, scree := c.srch.waitScree, kill := t.preempt == 2,
          deadline := c.hd.startTs + t.deadline, startTs := c.hd.startTs,
          holdEnd := c.stageTs + 120 * k.rcd.lim.holdUs, expired := c.srch.holdExpired }
      else none
    | none => none

/-- The reservation under which this module scans for a case of another one. -/
def rsvOf (s : State) (j : ShardJob) : Option ShardRsv :=
  s.strata.rsvs.find? fun r => r.home == j.home && r.contract == j.contract

/-- The queries of other modules' cases that wait. -/
def jobWaiters (s : State) : List Waiter :=
  s.strata.jobs.filterMap fun j => match rsvOf s j with
    | some r => some
        { key := j.key, owner := r.owner, level := r.level, index := j.index, gen := j.gen, lists := j.waitLists,
          scree := j.waitScree, kill := false, deadline := j.startTs + r.deadline, startTs := j.startTs,
          holdEnd := j.recvTs + 120 * r.holdUs, expired := j.holdExpired }
    | none => none

/-- Whether a query waits on a list, or on the scree. -/
def waitsOn (list : Option Nat) (w : Waiter) : Bool :=
  match list with
  | some l => w.lists.contains l
  | none => w.scree

/-- The queries that a pass like `w`'s over a list, or over the scree, takes: in order of hold expiry, at most 64. -/
def passQueries (ws : List Waiter) (list : Option Nat) (w : Waiter) : List Waiter :=
  let same := ws.filter fun v => waitsOn list v && v.index == w.index && v.gen == w.gen && v.level == w.level
  if same.length < 64 ∧ !(same.any Waiter.expired) then []
  else
    (sortBy (fun a b => decide (a.holdEnd < b.holdEnd ∨ (a.holdEnd = b.holdEnd ∧ a.startTs < b.startTs))) same).take 64

/-- The partitions of the passes at a level that are ready: each runs for the query that it takes first. -/
def passOwners (s : State) (level : Nat) : List Nat :=
  let ws := caseWaiters s ++ jobWaiters s
  let heads (w : Waiter) : List Nat :=
    ((w.lists.map some ++ if w.scree then [none] else []).filterMap fun l => (passQueries ws l w).head?).map Waiter.owner
  (ws.filter fun w => w.level == level).flatMap heads

/-- The partitions with a command at a level, or a pass that is ready to become one, that waits to be selected. -/
def readyOwners (s : State) (level : Nat) : List Nat :=
  (s.sched.cmds.filter fun c => c.level == level && decide (c.phase ≠ .running)).map Cmd.owner ++ passOwners s level

/-- Raises a partition's virtual time when it gets a ready command at a level where `os` were ready and it was not: to the lowest
of theirs, if that is higher (R129). -/
def raiseAmong (s : State) (owner level : Nat) (os : List Nat) : State :=
  if os.contains owner then s
  else match os with
    | [] => s
    | o :: rest =>
      let low := rest.foldl (fun q i => if fracLt (vtimeOf s i level) q then vtimeOf s i level else q) (vtimeOf s o level)
      if fracLt (vtimeOf s owner level) low then setVTime s owner level low else s

/-- Raises a partition's virtual time when it gets a ready command and had none at the level (R129). -/
def raiseVTime (s : State) (owner level : Nat) : State :=
  raiseAmong s owner level (readyOwners s level)

/-- A new command of the scheduler in the ready state (R127, R128). -/
def addCmd (s : State) (serves : Serves) (owner level stage deadline startTs : Nat) (kill : Bool)
    (units : List UnitId) : State :=
  { updSched (raiseVTime s owner level) fun d => { d with cmds := d.cmds ++
      [{ id := s.nextCmd, serves := serves, owner := owner, level := level, kill := kill, stage := stage,
         units := units, phase := .ready, deadline := deadline, startTs := startTs, grantTs := 0,
         preemptTs := none, asks := [], left := [], reruns := 0, ovfReruns := 0, spent := 0 }] }
    with nextCmd := s.nextCmd + 1 }

/-- Adds a BACKGROUND operation with the pages it holds until it commits (R56, R267). -/
def addBg (s : State) (owner : Nat) (msg : Option Nat) (kind : BgKind) (t1 t2 : Nat) : State :=
  { s with
    bg := s.bg ++ [{ id := s.nextBg, owner := owner, msg := msg, kind := kind, applyTs := s.tclk, t1Held := t1,
                     t2Held := t2 }]
    nextBg := s.nextBg + 1 }

end Sys2Proof.Machine
end

