-- ==== Sys2Proof/Machine/StrataNet.lean ====
section
/-! DEFINITION. The Strata network: ports, routes (R300, R301), flits (R293 to R297) and the messages that carry
everything between modules (R298, R299). The field sizes of messages that R299 lists without one are packed in its
order. -/

namespace Sys2Proof.Machine

/-! ## Access -/

/-- Port `p`. -/
def portOf (s : State) (p : Nat) : Port := s.strata.ports.getD p Port.reset

/-- Changes port `p`. -/
def updPort (s : State) (p : Nat) (g : Port → Port) : State :=
  { s with strata := { s.strata with ports := modifyAt s.strata.ports p g } }

/-- Changes the stack. -/
def updStack (s : State) (g : Stack → Stack) : State := { s with strata := { s.strata with stack := g s.strata.stack } }

/-- Changes the message layer. -/
def updMl (s : State) (g : MsgLayer → MsgLayer) : State := { s with strata := { s.strata with ml := g s.strata.ml } }

/-- Changes the time alignment. -/
def updTime (s : State) (g : StackTime → StackTime) : State :=
  { s with strata := { s.strata with time := g s.strata.time } }

/-- This module's position in the stack. -/
def myPos (s : State) : Nat := s.strata.stack.pos

/-- The positions of the stack. -/
def positions (s : State) : List Nat := List.range s.strata.stack.members.length

/-! ## Shapes and routes (R300, R301) -/

/-- The neighbour of a port in a shape of `n` members: its position and its port (R300). -/
def peerOf (shape n pos port : Nat) : Option (Nat × Nat) :=
  match shape, port with
  | 1, 0 => some ((pos + 1) % n, 1)
  | 1, 1 => some ((pos + n - 1) % n, 0)
  | 2, 0 => some ((pos + 1) % n, 1)
  | 2, 1 => some ((pos + n - 1) % n, 0)
  | 2, 2 => some ((pos + 1) % n, 3)
  | 2, 3 => some ((pos + n - 1) % n, 2)
  | 3, 0 => some (4 * (pos / 4) + (pos + 1) % 4, 1)
  | 3, 1 => some (4 * (pos / 4) + (pos + 3) % 4, 0)
  | 3, 2 => some ((pos + 4) % 8, 3)
  | 3, 3 => some ((pos + 4) % 8, 2)
  | _, _ => none

/-- The neighbour of one of this module's own ports: the shape's, or what HELLO told in shape NONE. -/
def neighbour (s : State) (pos port : Nat) : Option (Nat × Nat) :=
  match peerOf s.strata.stack.shape s.strata.stack.members.length pos port with
  | some x => some x
  | none =>
    if pos = myPos s ∧ (portOf s port).peerPos ≠ 0xFF then some ((portOf s port).peerPos, (portOf s port).peerPort)
    else none

/-- Whether the link at a port of a position is up as this module knows it: not reported down at either end. -/
def linkUp (s : State) (pos port : Nat) : Bool :=
  match neighbour s pos port with
  | none => false
  | some (q, r) =>
    !s.strata.stack.down.contains (pos, port) && !s.strata.stack.down.contains (q, r) &&
    (pos != myPos s || ((portOf s port).st == 2 && !(portOf s port).bulkOnly))

/-- The neighbours of a position over the links that are up, by port number. -/
def neighbours (s : State) (pos : Nat) : List (Nat × Nat) :=
  (List.range 4).filterMap fun port =>
    if linkUp s pos port then (neighbour s pos port).map fun x => (port, x.1) else none

/-- One round of widening a set of reached positions with their hop counts. -/
def widen (s : State) (d : Nat) (reached : List (Nat × Nat)) : List (Nat × Nat) :=
  let new := (reached.filter fun e => e.2 == d).flatMap fun e => (neighbours s e.1).map Prod.snd
  new.foldl (fun r q => if r.any fun e => e.1 == q then r else r ++ [(q, d + 1)]) reached

/-- The hop counts from a position: at most 8 rounds reach every member (R298). -/
def hopsFrom (s : State) (pos : Nat) : List (Nat × Nat) :=
  (List.range 8).foldl (fun r d => widen s d r) [(pos, 0)]

/-- The hop count between two positions, if a path exists. -/
def hops (s : State) (a b : Nat) : Option Nat := ((hopsFrom s a).find? fun e => e.1 == b).map Prod.snd

/-- The port of the next hop toward a position: of the neighbours on a shortest path, the lowest port (R301). -/
def nextHop (s : State) (dst : Nat) : Option Nat :=
  match hops s (myPos s) dst with
  | none => none
  | some d =>
    ((neighbours s (myPos s)).find? fun e => match hops s e.2 dst with
      | some k => decide (k + 1 = d)
      | none => false).map Prod.fst

/-- The links on the routes between two positions, as (position, port) of the near end, `fuel` hops at most. -/
def routeLinks (s : State) (dst : Nat) : Nat → Nat → List (Nat × Nat)
  | 0, _ => []
  | fuel + 1, pos =>
    if pos = dst then []
    else match hops s pos dst with
      | none => []
      | some d =>
        match (neighbours s pos).find? fun e => match hops s e.2 dst with
            | some k => decide (k + 1 = d)
            | none => false with
        | some (port, q) => (pos, port) :: routeLinks s dst fuel q
        | none => []

/-- Whether a contract is open with TOPOLOGY 1 or 2 (a stack contract). -/
def stackContract (k : Contract) : Bool := isOpen k && k.rcd.terms.topology != 0

/-- Whether a stack contract is open here, as home or as a shard (R300). -/
def stackBusy (s : State) : Bool := s.contracts.any stackContract || !s.strata.rsvs.isEmpty

/-! ## Flits (R293 to R297) -/

/-- Bytes 0 to 251 of a flit (R293). -/
def flitHead (f : Flit) : List Byte :=
  leBytes 2 f.seq ++ leBytes 2 f.ackSeq ++ leBytes 1 f.ftype ++ leBytes 1 (f.vc + 4 * bit f.som + 8 * bit f.eom) ++
  leBytes 2 (f.credVc * 16384 + f.credit % 16384) ++ leBytes 2 f.bytes ++ zeros 2 ++ f.payload.take 240 ++
  zeros (240 - f.payload.length)

/-- A flit with its CRC (R294). -/
def sealFlit (f : Flit) : Flit := { f with crc := crc32 (flitHead f) }

/-- Whether a received flit's CRC holds. -/
def flitOk (f : Flit) : Bool := decide (crc32 (flitHead f) = f.crc)

/-- A flit with no payload: IDLE or NAK, with ACK_SEQ and the credit of a VC. -/
def bareFlit (p : Port) (ftype vc : Nat) : Flit :=
  sealFlit { seq := 0, ackSeq := p.retry.rxSeq, ftype := ftype, vc := 0, som := false, eom := false, credVc := vc,
             credit := (p.vcs.getD vc VcState.reset).freed, bytes := 0, payload := [], crc := 0 }

/-- Cuts the bytes of a message into payloads of at most 240. -/
def payloads : Nat → List Byte → List (List Byte)
  | 0, _ => []
  | k + 1, b => if b.length ≤ 240 then [b] else b.take 240 :: payloads k (b.drop 240)

/-- The bytes of a message: its header and its data (R298). -/
def msgBytes (m : StrataMsg) : List Byte :=
  leBytes 1 m.type ++ leBytes 1 m.src ++ leBytes 1 m.dst ++ leBytes 1 m.hops ++ leBytes 4 m.data.length ++
  leBytes 8 m.id ++ m.data

/-- The DATA flits of a message on its VC, not yet numbered: SOM on the first, EOM on the last. -/
def msgFlits (m : StrataMsg) : List Flit :=
  let ps := payloads (m.data.length + 1) (msgBytes m)
  (List.range ps.length).map fun i =>
    { seq := 0, ackSeq := 0, ftype := 1, vc := m.vc, som := i == 0, eom := i + 1 == ps.length, credVc := 0,
      credit := 0, bytes := (ps.getD i []).length, payload := ps.getD i [], crc := 0 }

/-- The VCs in order of transmit priority (R296). -/
def vcOrder : List Nat := [3, 1, 0, 2]

/-- Whether a VC of a port holds a credit (R297). -/
def hasCredit (v : VcState) : Bool := decide (v.sent < v.limit + v.peerFreed)

/-- The VC whose next flit a port sends: the ready flit of highest priority. -/
def readyVc (p : Port) : Option Nat :=
  vcOrder.find? fun v => let x := p.vcs.getD v VcState.reset; !x.queue.isEmpty && hasCredit x

/-- Sends one DATA flit of a port, if a VC is ready and fewer than 512 are unacknowledged (R295, R297). -/
def sendOne (s : State) (n : Nat) : State :=
  let p := portOf s n
  if p.st ≠ 2 ∨ p.retry.unacked.length ≥ 512 then s
  else match readyVc p with
    | none => s
    | some v =>
      match (p.vcs.getD v VcState.reset).queue with
      | [] => s
      | f :: rest =>
        let seq := (p.retry.txSeq + 1) % 65536
        let f := sealFlit { f with seq := seq, ackSeq := p.retry.rxSeq, credVc := v,
                                   credit := (p.vcs.getD v VcState.reset).freed }
        let vcs := modifyAt p.vcs v fun x => { x with sent := x.sent + 1, queue := rest }
        let r := { p.retry with txSeq := seq, unacked := p.retry.unacked ++ [f] }
        emit (updPort s n fun p => { p with vcs := vcs, retry := r, flitsTx := p.flitsTx + 1 }) (.flit n f)

/-- Sends every flit of a port that can go, at most `fuel` of them. -/
def pump (s : State) (n : Nat) : Nat → State
  | 0 => s
  | k + 1 => pump (sendOne s n) n k

/-- The flits that wait on a port. -/
def waitingFlits (p : Port) : Nat := sumNat (p.vcs.map fun v => v.queue.length)

/-- Sends what can go on a port. -/
def pumpPort (s : State) (n : Nat) : State := pump s n (waitingFlits (portOf s n))

/-- Puts a message on a port: its flits join the queue of its VC. -/
def transmit (s : State) (n : Nat) (m : StrataMsg) : State :=
  let s := emit s (.strata n m)
  pumpPort (updPort s n fun p =>
    { p with vcs := modifyAt p.vcs m.vc fun v => { v with queue := v.queue ++ msgFlits m } }) n

/-! ## Messages (R298, R299) -/

/-- The VC of a message type (R299). -/
def typeVc (t : Nat) : Nat :=
  if [0x40, 0x41, 0x42].contains t then 0 else if t = 0x60 ∨ t = 0x61 then 3 else if t = 0x70 then 2 else 1

/-- Whether a message type is acknowledged end to end (R299); the acknowledgement itself is not. -/
def acked (t : Nat) : Bool := decide (1 ≤ t ∧ t ≤ 0x50 ∧ t ≠ 0x42 ∧ t ≠ 0x04)

/-- Whether a port carries a message type: a refused peer's only HELLO, one that is up again inside an epoch only bulk
and time (R300, R301). -/
def portCarries (p : Port) (t : Nat) : Bool :=
  (p.st == 2 && (!p.bulkOnly || [0x60, 0x61, 0x70, 0x01].contains t)) || (p.st == 4 && t == 0x01)

/-- The ports a flooded message leaves on. -/
def floodPorts (s : State) (t : Nat) : List Nat := (List.range 4).filter fun p => portCarries (portOf s p) t

/-- Sends a new message: it takes the next MSG_ID of its VC, is kept until acknowledged, and leaves on the next hop, or
on every port when it floods (R298, R299). -/
def sendMsg (s : State) (t dst : Nat) (data : List Byte) : State :=
  let vc := typeVc t
  let m : StrataMsg :=
    { type := t, src := myPos s, dst := dst, hops := 0, id := s.strata.ml.nextIds.getD vc 0, vc := vc, data := data }
  let s := updMl s fun l =>
    { l with nextIds := modifyAt l.nextIds vc (· + 1), unacked := if acked t then l.unacked ++ [m] else l.unacked }
  if dst = 0xFF then
    let s := updMl s fun l => { l with floods := l.floods ++ [(m.src, m.id)] }
    (floodPorts s t).foldl (fun s p => transmit s p m) s
  else match nextHop s dst with
    | some p => transmit s p m
    | none => s

/-- Sends a message on one port, as HELLO is. -/
def sendOn (s : State) (p t : Nat) (data : List Byte) : State :=
  let vc := typeVc t
  let m : StrataMsg :=
    { type := t, src := myPos s, dst := (portOf s p).peerPos, hops := 0, id := s.strata.ml.nextIds.getD vc 0, vc := vc,
      data := data }
  transmit (updMl s fun l => { l with nextIds := modifyAt l.nextIds vc (· + 1) }) p m

/-- Sends again, in order, every message not acknowledged, on the routes as they are (R299). -/
def resendAll (s : State) : State :=
  s.strata.ml.unacked.foldl (fun s m =>
    if m.dst = 0xFF then (floodPorts s m.type).foldl (fun s p => transmit s p m) s
    else match nextHop s m.dst with
      | some p => transmit s p m
      | none => s) s

/-- The data of HELLO (R299). -/
def helloData (s : State) (p : Nat) : List Byte :=
  leBytes 8 s.ident.moduleId ++ leBytes 1 0xB0 ++ leBytes 1 (partCode s.ident.part) ++ leBytes 1 p ++
  leBytes 8 s.strata.stack.epoch ++ leBytes 1 (if s.strata.stack.epoch = 0 then 0xFF else myPos s) ++ leBytes 8 s.tclk

/-- Forwards a message one hop on; one that has made 7 hops goes no further (R298). -/
def forward (s : State) (m : StrataMsg) : State :=
  if m.hops ≥ 7 then s
  else match nextHop s m.dst with
    | some p => transmit s p { m with hops := m.hops + 1 }
    | none => s

/-- Sends a received flooded message on over the other ports. -/
def reflood (s : State) (p : Nat) (m : StrataMsg) : State :=
  if m.hops ≥ 7 then s
  else ((floodPorts s m.type).filter fun q => q != p).foldl (fun s q => transmit s q { m with hops := m.hops + 1 }) s

/-- Acknowledges the highest MSG_ID delivered from a source on a VC (R299). -/
def sendAck (s : State) (m : StrataMsg) : State :=
  sendMsg s 0x04 m.src (leBytes 1 m.src ++ leBytes 1 m.vc ++ leBytes 8 m.id)

/-- The highest MSG_ID delivered from a source on a VC. -/
def deliveredId (s : State) (src vc : Nat) : Option Nat :=
  (s.strata.ml.delivered.find? fun e => e.1 == src && e.2.1 == vc).map fun e => e.2.2

/-- Notes a message as delivered. -/
def noteDelivered (s : State) (m : StrataMsg) : State :=
  updMl s fun l =>
    { l with delivered := (l.delivered.filter fun e => !(e.1 == m.src && e.2.1 == m.vc)) ++ [(m.src, m.vc, m.id)] }

/-- Takes a message out of the inbox that DATA flits have filled. -/
def takeInbox (s : State) (p : Nat) (m : StrataMsg) : State :=
  updMl s fun l => { l with inbox := l.inbox.erase (p, msgBytes m) }

/-- What the target does with a message addressed to it: an acknowledged one takes effect once, in MSG_ID order, and is
acknowledged; one of another kind takes effect each time (R299). -/
def deliver (s : State) (m : StrataMsg) (act : State → State) : State :=
  if !acked m.type then act s
  else match deliveredId s m.src m.vc with
    | some i => if m.id ≤ i then sendAck s { m with id := i } else sendAck (noteDelivered (act s) m) m
    | none => sendAck (noteDelivered (act s) m) m

/-- A message arrives at a port (R298, R299): it is forwarded when it is for another member, flooded on when it floods,
and acted on when it is for this one. -/
def receive (s : State) (p t : Nat) (m : StrataMsg) (act : State → State) : State :=
  let s := takeInbox s p m
  if !portCarries (portOf s p) m.type ∨ m.type ≠ t then s
  else if m.dst = 0xFF then
    if s.strata.ml.floods.contains (m.src, m.id) then s
    else
      let s := updMl s fun l => { l with floods := l.floods ++ [(m.src, m.id)] }
      deliver (reflood s p m) m act
  else if m.dst = myPos s then deliver s m act
  else forward s m

/-- A message command: the port exists, and Basalt runs. -/
def strataMsg (s : State) (p t : Nat) (m : StrataMsg) (act : State → State) : Res :=
  guardUnit (decide (p < 4)) <| .next <| if basaltRuns s then receive s p t m act else s

/-! ## Shard modules (R191, R192, R302) -/

/-- The shard modules of a stack contract, as (position, shard): those that answered RESERVE for a shard (R191). -/
def contractPeers (k : Contract) : List (Nat × Nat) := k.shards.map fun a => (a.pos, a.shard)

/-- The other positions of the stack. -/
def otherPositions (s : State) : List Nat := (positions s).filter fun q => q != myPos s

/-- The far end of a link, as its own near end. -/
def farEnd (s : State) (e : Nat × Nat) : List (Nat × Nat) := (neighbour s e.1 e.2).toList

/-- The links on the routes between this module and another position, both ways, named by every end (R150, R301). -/
def routeEnds (s : State) (q : Nat) : List (Nat × Nat) :=
  let ls := routeLinks s q 8 (myPos s) ++ routeLinks s (myPos s) 8 q
  ls ++ ls.flatMap (farEnd s)

/-- The reference of a case that crosses Strata: its contract, its stage cairn and its key. -/
def caseRef (c : Case) : List Byte := leBytes 4 c.hd.contract ++ leBytes 4 c.hd.cairn ++ leBytes 8 c.hd.key

/-- Sends KILL to every other member for a case (R307). -/
def killPeers (s : State) (st : Status) (c : Case) : State :=
  (otherPositions s).foldl (fun s q => sendMsg s 0x43 q (caseRef c ++ leBytes 2 (statusCode st))) s

/-- Sends RELEASE for a contract to shard modules (R302). -/
def sendRelease (s : State) (handle : Nat) (qs : List Nat) : State :=
  qs.foldl (fun s q => sendMsg s 0x12 q (leBytes 4 handle)) s

/-- Releases what a contract holds on its shard modules. -/
def releaseShards (s : State) (k : Contract) : State := sendRelease s k.handle ((contractPeers k).map Prod.fst)

end Sys2Proof.Machine
end

