-- ==== Sys2Proof/Machine/Recovery.lean ====
section
/-! DEFINITION. Faults and what they do: charging engines (R140), killing and rerunning commands (R338, R139),
ending cases, revoking contracts (R124, R125), fencing units (R341), SAFE_HOLD entry (R348), retiring
frames and failing channels (R266, R280, R287, R288). -/

namespace Sys2Proof.Machine

/-! ## Engine time (R140) -/

/-- The ACLK cycles that an engine counts in `n` TCLK, in fifteenths of a cycle, the least part that every divider gives whole: its
die's 32 ÷ DIV a TCLK on a Garnet, eight elsewhere. A stretched cycle counts as one, so that a stretching die counts fewer, down to
17/20 of them, by a number that the spec does not fix (R140, R321). -/
def unitCycles (s : State) (u : UnitId) (n : Nat) : Nat :=
  if decide (3 ≤ u.kind) && decide (u.kind ≤ 5) then
    let g := (unitGarnet u).getD 0
    let full := n * 480 / (dieOf s g).div
    if (dieOf s g).stretching then full - Config.stretchLoss s.tclk g n % (full * 3 / 20 + 1) else full
  else 120 * n

/-- Adds cycles to an account. -/
def addAccount (as : List Account) (owner level : Nat) (u : UnitId) (n : Nat) : List Account :=
  if as.any fun a => a.owner == owner && a.level == level && decide (a.unit = u) then
    modifyWhere as (fun a => a.owner == owner && a.level == level && decide (a.unit = u))
      fun a => { a with cycles := a.cycles + n }
  else as ++ [{ owner := owner, unit := u, level := level, cycles := n }]

/-- The WEIGHT of a partition; the shards of other modules' cases count with weight 1 where there is no such partition. -/
def weightOf (s : State) (i : Nat) : Nat := max 1 (((partOf s i).map fun p => p.cfg.weight).getD 1)

/-- Adds fifteenths of cycles, divided by the WEIGHT in force, to a partition's virtual time at a level (R129). -/
def addVTime (s : State) (owner level n : Nat) : State :=
  let w := 15 * weightOf s owner
  let q := vtimeOf s owner level
  if n = 0 then s else setVTime s owner level (q.1 * w + n * q.2, q.2 * w)

/-- The fifteenths of cycles for which each unit of a running command has been held since it was last charged. -/
def heldCycles (s : State) (c : Cmd) : List (UnitId × Nat) :=
  if c.phase = .running then c.units.map fun u => (u, unitCycles s u (s.tclk - c.grantTs)) else []

/-- Adds what units were held for to the accounts of a partition at a level. -/
def addHeld (s : State) (owner level : Nat) (h : List (UnitId × Nat)) : State :=
  updSched s fun d => { d with accounts := h.foldl (fun as e => addAccount as owner level e.1 e.2) d.accounts }

/-- Charges a command as it now stands up to now, if it runs (R140, R142); its charge then starts again from now. -/
def chargeCmd (s : State) (c : Cmd) : State :=
  match cmdOf s c.id with
  | none => s
  | some c =>
    let h := heldCycles s c
    let n := sumNat (h.map Prod.snd)
    updCmd (addVTime (addHeld s c.owner c.level h) c.owner c.level n) c.id fun x => { x with grantTs := s.tclk, spent := x.spent + n }

/-- Charges a model switch that is under way for the page mover it holds (R135, R140). -/
def chargeLoad (s : State) : State :=
  match s.sched.poolLoading with
  | none => s
  | some p =>
    let u : UnitId := { kind := 13, idx := p.mover }
    let n := unitCycles s u (s.tclk - p.charged)
    updSched (addVTime (addHeld s p.owner p.level [(u, n)]) p.owner p.level n) fun d =>
      { d with poolLoading := some { p with charged := s.tclk } }

/-- Charges every running command, and a model switch, up to now. -/
def chargeAll (s : State) : State := chargeLoad (s.sched.cmds.foldl chargeCmd s)

/-- The arrays of a die that run a tile now (R311). -/
def runningArrays (s : State) (g : Nat) : List UnitId :=
  (s.sched.cmds.filter fun c => decide (c.phase = .running)).flatMap fun c =>
    c.units.filter fun u => u.kind == 3 && unitGarnet u == some g

/-- A requested divider comes into force when every engine has adopted it; the dwell then starts (R311, R312). -/
def inForce (s : State) (g : Nat) : State :=
  let d := dieOf s g
  match d.req with
  | some v =>
    if d.adopting = [] then updDie (chargeAll s) g fun d => { d with div := v, req := none, dwell := true } else s
  | none => s

/-- Arrays that no command runs on any longer take the divider their die has requested (R311). -/
def adoptIdle (s : State) : State :=
  (List.range 4).foldl (fun s g =>
    inForce (updDie s g fun d => { d with adopting := d.adopting.filter (runningArrays s g).contains }) g) s

/-- The engines of a command come free: the waits for them are noted in BLOCK_MAX of their partitions (R143). -/
def noteBlock (s : State) (c : Cmd) : State :=
  ((cmdOf s c.id).getD c).asks.foldl (fun s e => updStats s e.1 fun p => { p with blockMax := max p.blockMax (s.tclk - e.2) }) s

/-- The partial results of commands in the work areas are discarded (R139, R240). -/
def dropAreas (s : State) (ids : List Nat) : State :=
  updSched s fun d => { d with areas := d.areas.filter fun r => !ids.contains r.cmd }

/-- Removes the commands of ids in a list, charged up to now. -/
def dropCmds (s : State) (ids : List Nat) : State :=
  let s := (s.sched.cmds.filter fun c => ids.contains c.id).foldl (fun s c => noteBlock (chargeCmd s c) c) s
  adoptIdle (dropAreas (updSched s fun d => { d with cmds := d.cmds.filter fun c => !ids.contains c.id }) ids)

/-- The keys of the cases, or of the remote queries, that a command serves. -/
def cmdKeys (c : Cmd) : List Nat :=
  match c.serves with
  | .cases ks => ks
  | .pass _ _ _ ks => ks
  | .bg _ => []

/-- The commands that serve a case. -/
def cmdsOfCase (s : State) (key : Nat) : List Cmd := s.sched.cmds.filter fun c => (cmdKeys c).contains key

/-- What a command serves once a case has left it. -/
def withoutKey (key : Nat) : Serves → Serves
  | .cases ks => .cases (ks.filter fun k => k != key)
  | .pass x g l ks => .pass x g l (ks.filter fun k => k != key)
  | .bg op => .bg op

/-- A killed command is ready again, and begins from its start (R136). -/
def freshCmd (c : Cmd) : Cmd := { c with phase := .ready, units := [], preemptTs := none, asks := [], left := [], spent := 0 }

/-- Stops a command, charged up to now, and makes it ready again as `g` says, its work discarded unless it yields: the waits for its engines are noted, and its partition's
virtual time is raised (R129, R143). -/
def readyAgain (s : State) (c : Cmd) (g : Cmd → Cmd) : State :=
  let s := noteBlock (chargeCmd s c) c
  let s := updCmd (raiseVTime s c.owner c.level) c.id g
  adoptIdle (if (g c).phase = .ready then dropAreas s [c.id] else s)

/-- Takes a case out of the commands that serve it: each is killed (R139); one that serves other cases too runs again for
those. -/
def dropCase (s : State) (key : Nat) : State :=
  let cs := cmdsOfCase s key
  let s := dropCmds s ((cs.filter fun c => cmdKeys c == [key]).map Cmd.id)
  (cs.filter fun c => cmdKeys c != [key]).foldl (fun s c =>
    readyAgain s c fun c => { freshCmd c with serves := withoutKey key c.serves }) s

/-! ## Ending BACKGROUND operations (R56, R188) -/

/-- Whether a query, a shard's query or a snapshot still names generation `g` of an index (R188, R190). -/
def genNamed (s : State) (h g : Nat) : Bool :=
  (s.cases.any fun c => c.srch.snapped && c.srch.gen == g && c.srch.cand.isNone && c.ending.isNone &&
    (match contractOf s c.hd.contract with
     | some k => k.rcd.refs.index == h
     | none => false)) ||
  (s.strata.jobs.any fun j => j.index == h && j.gen == g) ||
  (s.bg.any fun b => match b.kind with
    | .snapshot i _ gg _ _ => i == h && gg == g
    | _ => false)

/-- Frees the superseded generations that nothing names any longer (R188). -/
def reapGens (s : State) : State :=
  { s with indexes := s.indexes.map fun x => match x.old with
    | some o => if genNamed s x.handle o.gen then x else { x with old := none }
    | none => x }

/-- Makes unplaced the models that no open contract names any longer (R134). -/
def unplace (s : State) : State :=
  let named (m : Nat) : Bool := s.contracts.any fun k => isOpen k &&
    [k.rcd.refs.encModel, k.rcd.refs.rerankModel, k.rcd.refs.genModel, k.rcd.refs.draftModel,
     k.rcd.refs.fbGenModel].contains m
  updSched s fun d =>
    { d with placed := d.placed.filter fun p => named p.model
             poolModel := d.poolModel.filter named }

/-- Removes a contract: its stage cairns and its reservations are released, and the models it alone named are no
longer placed (R86, R134). -/
def removeContract (s : State) (h : Nat) : State :=
  match contractOf s h with
  | none => s
  | some k =>
    let s := if isOpen k then releaseShards s k else s
    let s := { s with
      cairns := s.cairns.filter fun c => !k.stageCairns.contains c.num
      contracts := s.contracts.filter fun x => x.handle != h }
    unplace s

/-- Takes the busy mark of an operation off what it works on. -/
def clearBusy (s : State) : BgKind → State
  | .bulkLoad h _ _ => updIndex s h fun x => { x with bulkBusy := false }
  | .snapshot h _ _ _ _ => updIndex s h fun x => { x with snapBusy := false }
  | .fwActivate _ _ => updBoot s fun t => { t with pfUpdate := false }
  | _ => s

/-- Takes back what an operation that ends without effect marked when it was applied (R56): its busy mark, the state
SETTLING, its partition's object or contract whose frames it zeroes, and the PF update that its FIRST began. -/
def undoBg (s : State) (b : BgOp) : State :=
  match b.kind with
  | .settle h _ => updIndex s h fun x => { x with state := if x.state = .settling then .live else x.state }
  | .zero h _ _ _ =>
    let s := if (contractOf s h).isSome then settleState (removeContract s h) else s
    { s with tables := s.tables.filter fun t => !(t.handle == h && t.owner == b.owner)
             indexes := s.indexes.filter fun x => !(x.handle == h && x.owner == b.owner) }
  | .fwStage _ _ _ began _ => if began then updBoot s fun t => { t with pfUpdate := false } else s
  | k => clearBusy s k

/-- Removes the operations that a predicate picks, with what they marked and the generations they alone named. -/
def abandonBg (s : State) (p : BgOp → Bool) : State :=
  let s := (s.bg.filter p).foldl undoBg s
  reapGens { s with bg := s.bg.filter fun b => !p b }

/-- Ends an operation without effect: its command is dropped, and its message completes with a status. -/
def endBg (s : State) (op cmd : Nat) (st : Status) : State :=
  let m := (s.bg.find? fun b => b.id == op).bind BgOp.msg
  let s := abandonBg (dropCmds s [cmd]) fun b => b.id == op
  match m with
  | some id => complete s id st
  | none => s

/-! ## Ending cases (R28, R90, R235) -/

/-- Ends a case without a result: its commands are killed and its result record will carry the status. A case
that has ended already keeps its first status. -/
def endCase (s : State) (key : Nat) (st : Status) (stage : Nat) : State :=
  let s := dropCase s key
  reapGens <| updCase s key fun c => match c.ending with
    | some _ => c
    | none => { c with ending := some st, failedStage := stage }

/-- Ends every case that a predicate picks. -/
def endCases (s : State) (p : Case → Bool) (st : Status) : State :=
  (s.cases.filter p).foldl (fun s c => endCase s c.hd.key st (stageNum c.stage)) s

/-! ## Reruns (R338) -/

/-- The CASE_ID a detector record carries: that of the first case the command serves, or 0 (R409). -/
def cmdCaseId (s : State) (c : Cmd) : Nat :=
  match (cmdKeys c).head?.bind (caseOf s) with
  | some k => k.hd.caseId
  | none => 0

/-- Ends the list scan that this module runs for a case of another one: its home module is told (R192, R299). -/
def endJob (s : State) (key : Nat) (st : Status) : State :=
  match s.strata.jobs.find? fun j => j.key == key with
  | none => s
  | some j =>
    let s := dropCase { s with strata := { s.strata with jobs := s.strata.jobs.filter fun j => j.key != key } } key
    sendMsg (reapGens s) 0x43 j.home (leBytes 4 j.contract ++ leBytes 4 j.cairn ++ leBytes 8 j.caseKey ++ leBytes 2 (statusCode st))

/-- Ends a query of a pass: a case of this module, or the list scan of a case of another one. -/
def endQuery (s : State) (key : Nat) (st : Status) (stage : Nat) : State :=
  if s.strata.jobs.any fun j => j.key == key then endJob s key st else endCase s key st stage

/-- Counts a rerun in the telemetry of the module, the partition and the contract (R14, R126, R143). -/
def countRerun (s : State) (c : Cmd) : State :=
  let s := updTelem s fun t => { t with reruns := t.reruns + 1 }
  let s := updStats s c.owner fun p => { p with reruns := p.reruns + 1 }
  (cmdKeys c).foldl (fun s key => match caseOf s key with
    | some k =>
      let s := updContract s k.hd.contract fun x => { x with stats := { x.stats with reruns := x.stats.reruns + 1 } }
      updCase s key fun k => { k with rerun := true, lateCause := if k.lateCause = 0 then 2 else k.lateCause }
    | none => s) s

/-- Ends what a command serves at its rerun limit: each case with ST_FAULT and a RERUN_LIMIT record (R338), a
BACKGROUND operation by completing its message with ST_FAULT. -/
def endServed (s : State) (c : Cmd) (det : Nat) : State :=
  match c.serves with
  | .cases ks | .pass _ _ _ ks => ks.foldl (fun s key =>
      let id := ((caseOf s key).map fun k => k.hd.caseId).getD 0
      endQuery (record s 0x0206 (leBytes 2 det ++ leBytes 1 c.stage ++ leBytes 8 id)) key .fault c.stage) s
  | .bg op => endBg s op c.id .fault

/-- Whether a further detection finds the command at its limit: three reruns, and one for ACC_OVF (R338). -/
def atLimit (c : Cmd) (det : Nat) : Bool :=
  decide (c.reruns ≥ 3) || (det == 0x03 && decide (c.ovfReruns ≥ 1))

/-- Kills a command and puts it back in its level's queue, or ends what it serves at the limit (R338, R246). -/
def rerunCmd (s : State) (det : Nat) (c : Cmd) : State :=
  if atLimit c det then endServed s c det
  else
    let s := readyAgain s c fun c =>
      { freshCmd c with reruns := c.reruns + 1, ovfReruns := c.ovfReruns + bit (det == 0x03) }
    let s := updSafety s fun y => { y with recovered := (y.recovered + 1) % 2 ^ 32 }
    countRerun s c

/-- The commands that hold or wait to resume on a unit. -/
def cmdsOnUnit (s : State) (u : UnitId) : List Cmd := s.sched.cmds.filter fun c => c.units.contains u

/-- The commands with a unit on a die. -/
def cmdsOnDie (s : State) (g : Nat) : List Cmd :=
  s.sched.cmds.filter fun c => decide (c.phase ≠ .ready) && c.units.any fun u => unitGarnet u == some g

/-! ## Revocation (R124, R125) -/

/-- Revokes an open contract: it stops accepting cases, CONTRACT_REVOKED is posted to its owner, its live cases
end with `caseSt`, and its reservations are released. -/
def revoke (s : State) (cause caseSt : Status) (h : Nat) : State :=
  match contractOf s h with
  | none => s
  | some k =>
    if k.state = .revoked then s
    else
      let s := releaseShards (endCases s (fun c => c.hd.contract == h) caseSt) k
      let s := { s with cairns := s.cairns.filter fun c => !k.stageCairns.contains c.num }
      let s := updContract s h fun k => { k with state := .revoked, revokeCause := some cause, ended := some (s.tclk, caseSt), stageCairns := [] }
      let s := record s 0x0204 (leBytes 4 h ++ leBytes 2 (statusCode cause))
      let s := updTelem s fun t => { t with revocations := t.revocations + 1 }
      let s := postEvent s k.owner .contractRevoked (leBytes 4 h ++ leBytes 2 (statusCode cause))
      unplace s

/-- Revokes every open contract that a predicate picks. -/
def revokeAll (s : State) (p : Contract → Bool) (cause caseSt : Status) : State :=
  ((s.contracts.filter p).map Contract.handle).foldl (revoke · cause caseSt ·) s

/-- The object handles a contract record names, its bag tables included (R106). -/
def recordHandles (r : ContractRec) : List Nat :=
  [r.refs.encModel, r.refs.index, r.refs.rerankModel, r.refs.genModel, r.refs.draftModel, r.refs.fbGenModel, r.refs.pfx] ++
  r.feat.bags.map BagSpec.table

/-- The object handles a contract names. -/
def contractHandles (k : Contract) : List Nat := recordHandles k.rcd

/-- Revokes the contracts that name an object that has become UNAVAILABLE (R124). -/
def revokeNaming (s : State) (h : Nat) : State :=
  revokeAll s (fun k => (contractHandles k).contains h) .tierUnavailable .fault

/-! ## SAFE_HOLD (R348) -/

/-- The causes that only a reset clears (R352). -/
def resetOnly (cause : Nat) : Bool :=
  !([0x0080, 0x15, 0x16].contains cause)

/-- The opcodes that SAFE_HOLD allows (R58: Run+H). -/
def holdOpcode (op : Nat) : Bool :=
  [0x0901, 0x0902, 0x0A01, 0x0A03, 0x0A04, 0x0C01, 0x0D01, 0x0D02, 0x0D03].contains op

/-- Gates every Garnet core (R326). -/
def gateAll (s : State) : State :=
  updPower s fun p => { p with dies := p.dies.map fun d => { d with cores := d.cores.map fun _ => .off, woken := false } }

/-- Completes the messages still being applied: BACKGROUND ones, and those whose opcode SAFE_HOLD does not allow
(R56, R348). Messages that submitted a case complete with their case. -/
def failMessages (s : State) : State :=
  let bgIds := s.bg.filterMap BgOp.msg
  let s := abandonBg s fun _ => true
  let s := { s with waits := [], strata := { s.strata with opens := [] } }
  let s := { s with contracts := s.contracts.map fun (k : Contract) =>
    if k.closes = [] then k else { k with closes := [], state := if k.state = CState.closing then .opened else k.state } }
  let ids := (s.msgs.filter fun (m : OpenMsg) => bgIds.contains m.id || (!holdOpcode m.opcode && m.opcode != 0x0601)).map OpenMsg.id
  ids.foldl (fun s i => complete s i .faultSafeHold) s

/-- HOLD_CAUSE of a cause: its detector id, 0x0080 or 0x0081. A latent fault of hub detector `d` (R345) is kept
apart as the cause 0x0100 + `d`, since only a reset clears it (R352). -/
def holdCode (cause : Nat) : Nat := cause % 256

/-- Keeps a cause of the present or the coming hold (R352). -/
def noteCause (s : State) (cause unit : Nat) : State :=
  let c : HoldCause := { cause := cause, unit := unit }
  updSafety s fun y =>
    { y with causes := if y.causes.contains c then y.causes else y.causes ++ [c],
             resetNeeded := y.resetNeeded || resetOnly cause }

/-- The steps of R348: commands are killed, HOLD_CAUSE and the state are set, FAULT_REPORTED of class 3 is posted, the
cores are gated, memory goes to self-refresh, and every case and message not allowed ends. -/
def takeHold (s : State) (cause unit : Nat) (injected : Bool) : State :=
  let s := dropCmds s (s.sched.cmds.map Cmd.id)
  let s := updSafety s fun y =>
    { y with holdCause := holdCode cause, holdUnit := unit, holdTs := s.tclk, holds := (y.holds + 1) % 2 ^ 32 }
  let s := updTelem s fun t => { t with safeHolds := t.safeHolds + 1 }
  let s := record s 0x1104 (leBytes 2 (holdCode cause) ++ leBytes 2 unit)
  let s := setState s .safeHold
  let s := postFault s 3 injected (holdCode cause) unit
  let s := gateAll s
  let s := { s with mem := { s.mem with selfRefresh := true } }
  let s := endCases s (fun _ => true) .faultSafeHold
  failMessages s

/-- Enters SAFE_HOLD (R348). In SAFE_HOLD the cause joins the present hold, and a detection still posts
FAULT_REPORTED (R340); while BOOTING it is kept for the end of BOOTING (R351, R380); in OFF, AO_ONLY and LOCKOUT
nothing is held. -/
def enterHold (s : State) (cause unit : Nat) (injected : Bool) : State :=
  match s.boot.state with
  | .off | .aoOnly | .lockout => s
  | .booting => noteCause s cause unit
  | .safeHold =>
    if cause = 0x0080 then noteCause s cause unit
    else postFault (noteCause s cause unit) 3 injected (holdCode cause) unit
  | _ => takeHold (noteCause s cause unit) cause unit injected

/-! ## Memory loss (R266, R280, R287, R288) -/

/-- Whether the frame of a tier carries part of an object: T1 holds what T1 pages are charged for, T2 likewise. -/
def losesTier (t : Tier) (p : Nat × Nat) : Bool :=
  match t with
  | .t1 => decide (p.1 > 0)
  | .t2 => decide (p.2 > 0)

/-- Marks every object with a part in a tier UNAVAILABLE; a T2 model pinned in T1 keeps serving (R287, R288). -/
def loseObjects (s : State) (t : Tier) : State :=
  { s with
    models := s.models.map fun m =>
      if losesTier t (modelPages m) then
        (match t, m.pinned with
         | .t2, true => { m with t2Lost := true }
         | _, _ => { m with unavailable := true })
      else m
    tables := s.tables.map fun x => if losesTier t (tablePages x, 0) then { x with unavailable := true } else x
    indexes := s.indexes.map fun x => if losesTier t (indexPages x) then { x with state := .unavailable } else x
    pfxs := s.pfxs.map fun x => if losesTier t (pfxPages x, 0) then { x with unavailable := true } else x }

/-- The handles of the objects that are UNAVAILABLE, as a contract sees them (R84 step 3). -/
def unavailableHandles (s : State) : List Nat :=
  (s.models.filter Model.unavailable).map Model.handle ++ (s.tables.filter Table.unavailable).map Table.handle ++
  (s.indexes.filter fun x => decide (x.state = .unavailable)).map Index.handle ++
  (s.pfxs.filter Pfx.unavailable).map Pfx.handle

/-- Revokes every contract that names an UNAVAILABLE object (R124). -/
def revokeLost (s : State) : State :=
  let h := unavailableHandles s
  revokeAll s (fun k => (contractHandles k).any h.contains) .tierUnavailable .fault

/-- A channel fails: the CHANNEL_FAIL record, and R287 for T2 or R288 for T1. The fence itself is `fence`'s. -/
def failChannel (s : State) (t : Tier) (ch cause : Nat) : State :=
  let s := record s 0x1205 (leBytes 1 (tierNum t) ++ leBytes 1 ch ++ leBytes 1 cause)
  let s := updTier s t fun m =>
    { m with chFailed := if m.chFailed.contains ch then m.chFailed else m.chFailed ++ [ch], accepts := false,
             lost := true, retraining := none }
  let s := revokeLost (loseObjects s t)
  match t with
  | .t1 => enterHold s 0x0081 (unitCode { kind := 8, idx := ch }) false
  | .t2 => s

/-! ## Fencing (R341, R342) -/

/-- The larger units whose fence covers a unit (R341). -/
def coveredBy (u : UnitId) : List UnitId :=
  (match unitGarnet u with
   | some g => if u.kind = 1 then [] else [{ kind := 1, idx := g }]
   | none => []) ++
  (match u.kind with
   | 3 => [{ kind := 2, idx := u.idx / 4 }]
   | 4 => [{ kind := 2, idx := u.idx }]
   | 7 => [{ kind := 6, idx := u.idx / 8 }]
   | 9 => [{ kind := 6, idx := u.idx / 16 }]
   | 12 => [{ kind := 6, idx := u.idx }]
   | 13 => [{ kind := 6, idx := u.idx }]
   | _ => [])

/-- Whether a unit is fenced, itself or through a larger one. -/
def isFenced (s : State) (u : UnitId) : Bool :=
  s.safety.fences.contains u || (coveredBy u).any s.safety.fences.contains

/-- Whether a fence of `big` covers `u`. -/
def covers (big u : UnitId) : Bool := decide (u = big) || (coveredBy u).contains big

/-! ## Waking dies (R314, R325, R382) -/

/-- Issues a step of VARRn toward a setpoint, at most 80 mV, for a divider that waits on it. -/
def issueStep (s : State) (g target : Nat) (div : Option Nat) : State :=
  let d := dieOf s g
  let t := if target > d.vset then min target (d.vset + 80) else max target (d.vset - 80)
  match d.pend with
  | some _ => s
  | none =>
    if t = d.vset then s
    else emit (updDie s g fun d => { d with pend := some { target := t, prev := d.vset, divider := div } })
      (.avs (7 + g) t)

/-- Starts the cores of a die that wakes once its rail is at 576 mV: ACLK at ÷8, every unfenced core enabled
(R325, R382). -/
def startCores (s : State) (g : Nat) : State :=
  updDie s g fun d =>
    { d with
      aclkOn := true, div := 8
      cores := (List.range 4).map fun i =>
        if isFenced s { kind := 2, idx := g * 4 + i } then .off
        else match d.cores.getD i .off with
          | .ready => .ready
          | _ => .waking 1 }

/-- Wakes a Garnet that DOZE gated, unless it is fenced: its rail goes to 576 mV first (R382). -/
def wakeDie (s : State) (g : Nat) : State :=
  if (dieOf s g).aclkOn ∨ isFenced s { kind := 1, idx := g } then s
  else
    let s := updDie s g fun d => { d with woken := true }
    if (dieOf s g).vset ≥ 576 then startCores s g else issueStep s g 576 none

/-- Wakes every unfenced Garnet that DOZE gated (R382). -/
def wakeDies (s : State) : State := (List.range 4).foldl wakeDie s

/-- Gates the cores a fence covers (R341). -/
def gateFenced (s : State) (u : UnitId) : State :=
  match u.kind with
  | 1 => updDie s u.idx fun d => { d with cores := d.cores.map fun _ => .off }
  | 2 => updDie s (u.idx / 4) fun d => { d with cores := d.cores.set (u.idx % 4) .off }
  | _ => s

/-- Kills the commands on a fenced unit; what they serve is rerun elsewhere or ended by the revocation (R139). -/
def killOnUnit (s : State) (u : UnitId) : State :=
  (s.sched.cmds.filter fun c => c.units.any (covers u)).foldl (fun s c => readyAgain s c freshCmd) s

/-- The memory effect of a fence: a Shale die fails its 16 T2 channels, a channel fails (R341). -/
def fenceMemory (s : State) (u : UnitId) (cause : Nat) : State :=
  match u.kind with
  | 6 => (List.range 16).foldl (fun s i => failChannel s .t2 (u.idx * 16 + i) 5) s
  | 8 => failChannel s .t1 u.idx cause
  | 9 => failChannel s .t2 u.idx cause
  | _ => s

/-- Fences a unit for a cause of R370's FENCE record; `det` is the DETECTOR of the fault it reports and
`chan` the cause of a CHANNEL_FAIL record. A fenced unit stays as it is. A module in DOZE leaves it, and outside DOZE every
unfenced core is powered (R326, R354). -/
def fenceUnit (s : State) (u : UnitId) (cause det chan : Nat) (injected : Bool) : State :=
  if s.safety.fences.contains u then s
  else
    let s := updSafety s fun y => { y with fences := y.fences ++ [u] }
    let s := updTelem s fun t => { t with fences := t.fences + 1 }
    let s := recordUnit s u injected 0x1101 (leBytes 2 (unitCode u) ++ leBytes 2 cause)
    let s := gateFenced (killOnUnit s u) u
    let s := postFault s 2 injected det (unitCode u)
    let s := revokeAll s (fun k => k.units.any (covers u)) .faultFenced .faultFenced
    let s := fenceMemory s u chan
    let dozing := decide (s.boot.state = .doze)
    let s := settleState s
    if dozing then wakeDies s else s

/-- Fences a unit for a cause that is no channel failure. -/
def fence (s : State) (u : UnitId) (cause det : Nat) (injected : Bool) : State := fenceUnit s u cause det 5 injected

/-! ## Detections (R335, R338, R339) -/

/-- Writes a detector record, in the class R370 gives it. -/
def detectorRecord (s : State) (det : Nat) (unit : Nat) (injected posted : Bool) (payload : List Byte) : State :=
  recordAs s posted injected (0x1000 + det) unit 0xFF payload

/-- Counts a detection that killed a command, and fences the unit at the third within 1 s (R339). -/
def escalate (s : State) (u : UnitId) (det : Nat) : State :=
  let recent := (s.safety.killed ++ [(u, s.tclk)]).filter fun e => decide (s.tclk < e.2 + 120000000)
  let s := updSafety s fun y => { y with killed := recent }
  if (recent.filter fun e => decide (e.1 = u)).length ≥ 3 then fence s u 0x0101 det false else s

/-- A data-path detection on a unit: its record, the rerun of the commands it kills, and the escalation, which a
LIVE injection does not count toward (R338, R339, R346). -/
def dataPath (s : State) (d : Detection) (cmds : List Cmd) : State :=
  let s := detectorRecord s d.det (unitCode d.unit) d.injected false d.payload
  let s := cmds.foldl (fun s c => rerunCmd s d.det c) s
  if d.injected ∨ cmds = [] then s else escalate s d.unit d.det

/-! ## Retirement (R266, R280) -/

/-- The DETECTOR that FAULT_REPORTED carries for a failed channel of a tier: 0x0081 for T1, and the DRAM detector for T2 (R340). -/
def channelDetector : Tier → Nat
  | .t1 => 0x0081
  | .t2 => 0x0009

/-- Retires a frame. A spare takes its place; with no spare left the assignable count falls by one, charged to the
unassigned pages or to partition 0's unused quota, and otherwise a channel fails. -/
def retireFrame (s : State) (t : Tier) (frame : Nat) : State :=
  let m := tierOf s t
  if m.retired.contains frame then s
  else
    let s := updTier s t fun m => { m with retired := m.retired ++ [frame], spares := m.spares - 1 }
    let s := record s 0x1202 (leBytes 1 (tierNum t) ++ leBytes 4 frame ++ leBytes 4 (m.spares - 1))
    if m.spares > 0 then s
    else
      let s := updTier s t fun m => { m with assignable := m.assignable - 1 }
      let s := record s 0x1206 (leBytes 1 (tierNum t) ++ leBytes 4 (m.assignable - 1))
      let quota (p : Partition) : Nat := match t with | .t1 => p.cfg.t1Pages | .t2 => p.cfg.t2Pages
      let used := match t with | .t1 => (usedPages s 0).1 | .t2 => (usedPages s 0).2
      let q0 := match partOf s 0 with | some p => quota p | none => 0
      if sumNat (s.parts.map quota) < m.assignable then s
      else if used < q0 then
        let s := updPart s 0 fun p => { p with cfg := match t with
          | .t1 => { p.cfg with t1Pages := p.cfg.t1Pages - 1 }
          | .t2 => { p.cfg with t2Pages := p.cfg.t2Pages - 1 } }
        postPartition s 0 (tierNum t) 7
      else
        -- The channel with the most uncorrectable errors; the lowest of equals.
        let best := maxNat m.chUe
        let ch := (List.range 32).find? fun i => m.chUe.getD i 0 == best
        let k := match t with | .t1 => 8 | .t2 => 9
        fenceUnit s { kind := k, idx := ch.getD 0 } 0x0103 (channelDetector t) 4 false

/-- The owner kind and owner id of a POISON record (R370). -/
def useCode : FrameUse → Nat × Nat
  | .none => (0, 0) | .model h => (1, h) | .table h => (2, h) | .index h => (3, h) | .pfx h => (4, h)
  | .cache h _ => (5, h) | .stream => (6, 0) | .case k => (7, k)

/-- The blocks of an index's passage cache that a passage occupies (R203). -/
def cacheBlocks (c : IndexCfg) (p : CachedPassage) : List Nat :=
  (List.range p.blocks).map fun i => (p.blockAt + i) % max 1 (16 * c.cachePages)

/-- What the owner of a poisoned frame suffers (R280). -/
def poisonOwner (s : State) : FrameUse → State
  | .model h =>
    revokeNaming { s with models := s.models.map fun m => if m.handle == h then { m with unavailable := true } else m } h
  | .table h =>
    revokeNaming { s with tables := s.tables.map fun m => if m.handle == h then { m with unavailable := true } else m } h
  | .index h =>
    revokeNaming { s with indexes := s.indexes.map fun m => if m.handle == h then { m with state := .unavailable } else m } h
  | .pfx h =>
    revokeNaming { s with pfxs := s.pfxs.map fun m => if m.handle == h then { m with unavailable := true } else m } h
  | .cache h page => updIndex s h fun x =>
    let keep (p : CachedPassage) : Bool := !(cacheBlocks x.cfg p).any fun b => b / 16 == page
    { x with cache := { x.cache with held := x.cache.held.filter keep } }
  | .case k => match caseOf s k with
    | some c => endCase s k .faultPoison (stageNum c.stage)
    | none => s
  | .stream => s
  | .none => s

end Sys2Proof.Machine
end

