-- ==== Sys2Proof/Machine/PowerUnit.lean ====
section
/-! DEFINITION. Power, clocks and thermal control (chapter 13): divider requests and steps, setpoint steps, the
MIN-SENSE loop, stretching, connection integrity, the throttles and the cap, and the sensor events of
chapter 14 that act on a Garnet. -/

namespace Sys2Proof.Machine

/-! ## The tables of R317 and R115 -/

/-- V_SENSE of a divider, mV (R317). -/
def vSenseMv : Nat → Nat
  | 4 => 680 | 5 => 620 | 6 => 570 | _ => 500

/-- The MIN-SENSE target at the sensor, mV (R317). -/
def minTargetMv : Nat → Nat
  | 4 => 695 | 5 => 635 | 6 => 585 | _ => 515

/-- The LOAD-LINE setpoint of a divider, mV (R317). -/
def loadLineMv : Nat → Nat
  | 4 => 756 | 5 => 696 | 6 => 646 | _ => 576

/-- P_max of a divider, W (R115). -/
def pMaxW : Nat → Nat
  | 4 => 94 | 5 => 80 | 6 => 68 | _ => 55

/-- P_standing in mW at a set of ceilings: the highest selects it, and a voltage between the listed points takes the
next higher one (R115). -/
def standingMw (vceil : List Nat) : Nat := if maxNat vceil ≤ 700 then 16500 else 19000

/-- The next slower divider (R312). -/
def slower : Nat → Nat
  | 4 => 5 | 5 => 6 | _ => 8

/-- The next faster divider (R312). -/
def faster : Nat → Nat
  | 8 => 6 | 6 => 5 | _ => 4

/-- The setpoint a divider needs on a die: the LOAD-LINE setpoint, or the MIN-SENSE target with the IR drop of
30 mV at 40 A in proportion to the load (R317, R323 rule 1). -/
def needMv (d : Die) (div : Nat) : Nat :=
  if d.loadline then loadLineMv div else max 500 (minTargetMv div + ceilDiv (30 * d.loadMa) 40000)

/-- The ceiling of Garnet `g` (R99). -/
def vceilOf (s : State) (g : Nat) : Nat := s.power.policy.vceil.getD g 780

/-! ## Divider targets (R313) -/

/-- The Voltage request: the fastest divider whose need fits under the die's VCEIL (R313). -/
def voltageReq (s : State) (g : Nat) : Nat :=
  match [4, 5, 6, 8].find? fun v => decide (needMv (dieOf s g) v ≤ vceilOf s g) with
  | some v => v
  | none => 8

/-- The target divider of a die: the slowest of the requests, never slower than MIN_DIV (R313). -/
def targetDiv (s : State) (g : Nat) : Nat :=
  let d := dieOf s g
  let throt := if s.power.throtLevel then 4 else s.power.policy.minDiv
  min s.power.policy.minDiv
    (max (max (voltageReq s g) (max d.thermReq s.power.sharedReq)) (max d.capReq throt))

/-- Requests a divider change of a die: idle arrays, vector units and samplers adopt it at once, and each running
array at its next tile boundary (R311). -/
def requestDivider (s : State) (g v : Nat) : State :=
  if (dieOf s g).div = v then s
  else inForce (updDie s g fun d => { d with req := some v, adopting := runningArrays s g }) g

/-- An engine of a die adopts the requested divider (R311). -/
def adopt (s : State) (u : UnitId) : State :=
  match unitGarnet u with
  | some g => inForce (updDie s g fun d => { d with adopting := d.adopting.filter fun x => decide (x ≠ u) }) g
  | none => s

/-! ## Setpoint steps (R314, R316) -/

/-- Moves a die one divider toward its target when no dwell, change or step is in the way: a faster divider only
after its setpoint is in force, a slower one at once (R312, R313, R314). -/
def pursue (s : State) (g : Nat) : State :=
  let d := dieOf s g
  let t := targetDiv s g
  if d.dwell ∨ d.req ≠ none ∨ d.pend ≠ none ∨ !d.aclkOn ∨ t = d.div then s
  else if t > d.div then requestDivider s g (slower d.div)
  else
    let v := faster d.div
    if d.vset ≥ needMv d v then requestDivider s g v else issueStep s g (needMv d v) (some v)

/-- `pursue` on the four Garnets. -/
def pursueAll (s : State) : State := (List.range 4).foldl pursue s

/-- DIVIDER_DWELL_END (R313): at the end of the dwell the die steps toward the target that applies then. -/
def execDividerDwellEnd (g ma : Nat) (s : State) : Res :=
  guardUnit (decide (g < 4)) <| .next <|
    pursue (updDie s g fun d => { d with dwell := false, loadMa := ma }) g

/-- VOLTAGE_STEP_ACK (R316): the step commits, and the divider that waited on it is requested when the target still
allows it (R314). A waking die starts its cores (R382), and one in DOZE goes on down to 500 mV (R381). -/
def execVoltageStepAck (rail : Nat) (s : State) : Res :=
  guardUnit (decide (rail ≤ 10)) <| .next <|
    if rail < 7 then s
    else
      let g := rail - 7
      match (dieOf s g).pend with
      | none => s
      | some p =>
        let s := updDie s g fun d => { d with vset := p.target, pend := none, stepFails := 0 }
        let d := dieOf s g
        match p.divider with
        | some v =>
          if targetDiv s g > v then s
          else if d.vset ≥ needMv d v then requestDivider s g v
          else issueStep s g (needMv d v) (some v)
        | none =>
          if d.woken && !d.aclkOn then (if d.vset ≥ 576 then startCores s g else issueStep s g 576 none)
          else if s.boot.state = .doze ∧ !d.woken then issueStep s g 500 none
          else s

/-- Reverts a die to LOAD-LINE until a warm or cold reset (R319). -/
def revertDie (s : State) (g : Nat) : State :=
  let s := updDie s g fun d => { d with loadline := true, reverted := true }
  let d := dieOf s g
  if d.vset < loadLineMv d.div then issueStep s g (min (loadLineMv d.div) (vceilOf s g)) none else s

/-- A regulator fault: a VARR rail fences its Garnet, any other enters SAFE_HOLD (R335, RAIL_MON). -/
def railFault (s : State) (rail word : Nat) : State :=
  let payload := leBytes 1 rail ++ leBytes 2 word
  if 7 ≤ rail then
    let u : UnitId := { kind := 1, idx := rail - 7 }
    fence (detectorRecord s 0x11 (unitCode u) false true payload) u 0x11 0x11 false
  else enterHold (detectorRecord s 0x11 0 false true payload) 0x11 0 false

/-- VOLTAGE_STEP_TIMEOUT (R316): the step reverts and the divider that waited on it does not change; the third in a
row is a rail fault, whose STATUS_WORD is what the regulator then reads, a free value. -/
def execVoltageStepTimeout (rail : Nat) (s : State) : Res :=
  guardUnit (decide (rail ≤ 10)) <| .next <|
    if rail < 7 then s
    else
      let g := rail - 7
      match (dieOf s g).pend with
      | none => s
      | some p =>
        let s := emit s (.avs rail p.prev)
        let s := updDie s g fun d => { d with vset := p.prev, pend := none, stepFails := d.stepFails + 1 }
        let s := record s 0x1305 (leBytes 1 rail ++ leBytes 2 p.target)
        if (dieOf s g).stepFails ≥ 3 then railFault (bumpFree s) rail ((Config.freeWord s.free).toNat % 65536) else s

/-- RAIL_MON (R335): a regulator fault with its PMBus STATUS_WORD. -/
def execRailMon (rail word : Nat) (s : State) : Res :=
  guardUnit (decide (rail ≤ 10)) <| .next (railFault s rail word)

/-! ## The sensor loop (R318, R319, R323, R327) -/

/-- Captures a region's reading in its minimum-hold (R328); a sensor that fails its self-check is left out from then on. -/
def captureMin (tclk div : Nat) (r : Region) (rd : RegionReading) : Region :=
  let r := { r with excluded := r.excluded || rd.bad }
  if rd.lo < r.minMv then { r with minMv := rd.lo, divAtMin := div, minTs := min tclk rd.ts } else r

/-- Tracks how long a region's IR-drop offset has stayed above its baseline by more than 15 mV (R327). -/
def trackOffset (tclk vsense ma : Nat) (r : Region) (rd : RegionReading) : Region :=
  if (vsense : Int) - rd.lo > Config.bootOffset r.baseline (ma / 5000) + 15 then { r with overSince := some (r.overSince.getD tclk) }
  else { r with overSince := none }

/-- Derates a region: the flag, the DERATE record and the die's reversion (R327). -/
def derate (s : State) (g r sign : Nat) : State :=
  let s := updDie s g fun d =>
    { d with regions := modifyAt d.regions r fun x =>
        { x with derated := true, growth := x.growth || sign == 2, overSince := none } }
  revertDie (record s 0x1304 (leBytes 1 g ++ leBytes 1 r ++ leBytes 1 sign)) g

/-- A forced step (R323 rules 3 and 4): the next slower divider at once, CONFLICTS and the CONFLICT record. -/
def forceStep (s : State) (g : Nat) : State :=
  let d := dieOf s g
  if needMv d d.div ≤ vceilOf s g ∨ d.div = 8 ∨ d.req ≠ none then s
  else
    let s := updPower s fun p => { p with conflicts := (p.conflicts + 1) % 2 ^ 32 }
    let s := record s 0x1302 (leBytes 1 g ++ leBytes 1 d.div ++ leBytes 1 (slower d.div))
    requestDivider s g (slower d.div)

/-- The fastest divider that an engine of a die runs: the one in force, or a faster one that engines are adopting (R311, R314). -/
def runDiv (d : Die) : Nat := min d.div (d.req.getD d.div)

/-- One move of VARR (R318, R319): toward the MIN-SENSE target by at most 10 mV, or to the LOAD-LINE setpoint, never
above VCEIL and never below the floor of any divider that engines run (R314, R323). -/
def loopMove (s : State) (g lowest : Nat) : State :=
  let d := dieOf s g
  let v := runDiv d
  let cap := vceilOf s g
  if !d.aclkOn ∨ needMv d v > cap then s
  else if d.loadline then
    issueStep s g (min cap (loadLineMv v + d.raisedBy)) none
  else
    let t := minTargetMv v + d.raisedBy
    if lowest < t then issueStep s g (min cap (d.vset + min 10 (t - lowest))) none
    else issueStep s g (min cap (max 500 (d.vset - min 10 (lowest - t)))) none

/-- The region and cause of a sensor loop fault in a set of readings, if there is one (R319, chapter 13). -/
def loopFault (rd : LoopReading) : Option (Nat × Nat) :=
  match (List.range 16).find? fun i => match rd.regions[i]? with
      | some x => decide (x.hi > x.lo + 30)
      | none => false with
  | some i => some (i, 1)
  | none => if rd.avsErrors ≥ 3 then some (0, 2) else none

/-- The regions whose offset has grown for 100 ms (R327). -/
def grownRegions (s : State) (g : Nat) : List Nat :=
  (List.range 16).filter fun i =>
    let r := (dieOf s g).regions.getD i Region.reset
    !r.derated && match r.overSince with
      | some t => decide (s.tclk ≥ t + 12000000)
      | none => false

/-- The lowest reading of a loop period. -/
def lowestOf (rd : LoopReading) : Nat := rd.regions.foldl (fun a r => min a r.lo) 0xFFFF

/-- MIN_SENSE_LOOP_PERIOD (R318): the minima, the loop monitor (R319), offset growth (R327), the floor against the
ceiling (R323), and one move of VARR. -/
def execMinSenseLoopPeriod (g ma : Nat) (rd : LoopReading) (s : State) : Res :=
  guardUnit (decide (g < 4)) <| .next <|
    let s := updDie s g fun d =>
      { d with
        loadMa := ma, vsense := rd.vsense, underv := d.underv && decide (lowestOf rd < 470)
        regions := List.zipWith (fun r x => trackOffset s.tclk rd.vsense ma (captureMin s.tclk d.div r x) x)
          d.regions rd.regions ++ d.regions.drop rd.regions.length }
    let s := match loopFault rd with
      | some (r, c) =>
        if (dieOf s g).loadline then s
        else revertDie (detectorRecord s 0x10 (unitCode { kind := 1, idx := g }) false false
          (leBytes 1 r ++ leBytes 1 c)) g
      | none => s
    let s := (grownRegions s g).foldl (fun s r => derate s g r 2) s
    loopMove (forceStep s g) g (lowestOf rd)

/-- UNMATCHED_FALL (R327): the record, and at the third within 1 s the derating. -/
def execUnmatchedFall (g region mv : Nat) (s : State) : Res :=
  guardUnit (decide (g < 4 ∧ region < 16)) <| .next <|
    let s := record s 0x1303 (leBytes 1 g ++ leBytes 1 region ++ leBytes 2 mv)
    let s := updDie s g fun d => { d with regions := modifyAt d.regions region (fun r =>
      { r with unmatched := true,
               falls := (r.falls ++ [s.tclk]).filter (fun t => decide (s.tclk < t + 120000000)) }) }
    let r := (dieOf s g).regions.getD region Region.reset
    if r.falls.length ≥ 3 ∧ !r.derated then derate s g region 1 else s

/-! ## Stretching and voltage faults (R320, R322, R336) -/

/-- CLOCK_STRETCH_START (R320): every ACLK cycle of the die is stretched; the region counts its episode (R328). -/
def execClockStretchStart (g region : Nat) (s : State) : Res :=
  guardUnit (decide (g < 4 ∧ region < 16)) <| .next <|
    if (dieOf s g).stretching then s
    else updDie (chargeAll s) g fun d => { d with stretching := true, regions := modifyAt d.regions region (fun r =>
      { r with stretches := (r.stretches + 1) % 2 ^ 32 }) }

/-- CLOCK_STRETCH_END (R320): stretching ends. -/
def execClockStretchEnd (g : Nat) (s : State) : Res :=
  guardUnit (decide (g < 4)) <| .next <| updDie (chargeAll s) g fun d => { d with stretching := false }

/-- Raises a die's setpoint by 20 mV for 100 ms within its VCEIL; a raise in force is not added to (R322, R336). -/
def raiseSetpoint (s : State) (g : Nat) : State :=
  let d := dieOf s g
  if d.raisedBy > 0 then s
  else
    let t := min (vceilOf s g) (d.vset + 20)
    issueStep (updDie s g fun d => { d with raisedBy := t - d.vset }) g (max t d.vset) none

/-- A stretch budget fault (R322): the commands on the die are killed and rerun, the setpoint is raised and
STRETCH_FAULTS counts it; R339 escalates on the Garnet. -/
def stretchFault (s : State) (g : Nat) (injected : Bool) (payload : List Byte) : State :=
  let s := updPower s fun p => { p with stretchFaults := (p.stretchFaults + 1) % 2 ^ 32 }
  let d : Detection :=
    { det := 0x0F, unit := { kind := 1, idx := g }, injected := injected, dram := none, payload := payload }
  raiseSetpoint (dataPath s d (cmdsOnDie s g)) g

/-- STRETCH_BUDGET_FAULT (R322). -/
def execStretchBudgetFault (g region : Nat) (s : State) : Res :=
  guardUnit (decide (g < 4 ∧ region < 16)) <| .next <|
    stretchFault s g false (leBytes 1 region ++ leBytes 1 (dieOf s g).div)

/-- SETPOINT_RAISE_EXPIRY (R322, R336): the raise ends. -/
def execSetpointRaiseExpiry (g : Nat) (s : State) : Res :=
  guardUnit (decide (g < 4)) <| .next <|
    let d := dieOf s g
    if d.raisedBy = 0 then s
    else issueStep (updDie s g fun d => { d with raisedBy := 0 }) g
      (max (needMv d (runDiv d)) (d.vset - d.raisedBy)) none

/-- An undervoltage on a Garnet: its detection is recorded and posted as recovered, every command on the die is
killed and rerun, and the setpoint is raised (R336). -/
def undervolt (s : State) (g mv : Nat) (injected : Bool) : State :=
  let u : UnitId := { kind := 1, idx := g }
  let s := detectorRecord s 0x0E (unitCode u) injected true (leBytes 2 mv ++ leBytes 1 1 ++ leBytes 1 (7 + g))
  let s := postFault s 1 injected 0x0E (unitCode u)
  let s := (cmdsOnDie s g).foldl (fun s c => rerunCmd s 0x0E c) s
  raiseSetpoint (updDie s g fun d => { d with underv := true }) g

/-- VOLT_MON (R336): an undervoltage reruns the die's commands; an overvoltage enters SAFE_HOLD. -/
def execVoltMon (g mv : Nat) (high : Bool) (s : State) : Res :=
  guardUnit (decide (g < 4)) <| .next <|
    if high then
      let u := unitCode { kind := 1, idx := g }
      enterHold (detectorRecord s 0x0E u false true (leBytes 2 mv ++ leBytes 1 2 ++ leBytes 1 (7 + g))) 0x0E u false
    else undervolt s g mv false

/-- UNDERVOLTAGE_PERSISTENCE (R336): an undervoltage still present after 10 µs fences the die. -/
def execUndervoltagePersistence (g : Nat) (s : State) : Res :=
  guardUnit (decide (g < 4)) <| .next <|
    if (dieOf s g).underv then fence s { kind := 1, idx := g } 0x0E 0x0E false else s

/-! ## THROT_N, the cap and the thermal throttle (R329 to R331) -/

/-- THROT_N_CHANGE (R331, R396): a qualified change is recorded and counted, and requests or withdraws MIN_DIV. -/
def execThrotNChange (level : Bool) (s : State) : Res :=
  .next <|
    if s.power.throtLevel = level ∨ s.boot.state = .off then s
    else
      let s := record s 0x1301 (leBytes 1 (bit level))
      pursueAll (updPower s fun p =>
        { p with throtLevel := level, throtChanges := (p.throtChanges + 1) % 2 ^ 32 })

/-- The fastest divider in force, whose P_max bounds the next 0.4 ms (R330). -/
def fastestDiv (s : State) : Nat := s.power.dies.foldl (fun a d => min a d.div) 8

/-- What the estimate of card power adds to the charge of the engines' activity, in mW: P_standing and the calibration (R330). -/
def baseMw (p : Power) : Nat := standingMw p.policy.vceil + p.calib

/-- POWER_CAP_EVALUATION (R330): the engines' activity in the last 0.6 ms, on average in the last 1 ms, and in the 1 ms window of it
that is largest. The estimate of the last 0.6 ms with 0.4 ms at P_max moves the cap request slower, or withholds BACKGROUND grants at
MIN_DIV; 5 W of room in every window moves it faster. -/
def execPowerCapEvaluation (energyUj avgMw maxMw : Nat) (s : State) : Res :=
  .next <|
    let p := s.power
    let base := baseMw p
    let avg := avgMw + base
    let p := { p with pwr1ms := avg, pwrPeak := max p.pwrPeak avg }
    let minDiv := p.policy.minDiv
    let exceeds := energyUj + base * 6 / 10 + 400 * pMaxW (fastestDiv s) > p.policy.capW * 1000
    let atMin := p.dies.all fun d => decide (d.capReq ≥ minDiv)
    if exceeds then
      if atMin then { s with power := { p with withhold := true } }
      else pursueAll { s with power :=
        { p with dies := p.dies.map fun d => { d with capReq := min minDiv (slower d.capReq) } } }
    else if maxMw + base + 5000 ≤ p.policy.capW * 1000 then
      pursueAll { s with power :=
        { p with withhold := false, dies := p.dies.map fun d => { d with capReq := faster d.capReq } } }
    else { s with power := p }

/-- CAP_CALIBRATION (R330): the calibration rises to telemetry that reads higher than the estimate with the engines' activity `actMw`;
a gap of more than 5 % is recorded. -/
def execCapCalibration (actMw teleMw : Nat) (s : State) : Res :=
  .next <|
    let e := actMw + baseMw s.power
    if teleMw ≤ e then s
    else
      let s' := if e * 100 < teleMw * 95 then record s 0x1306 (leBytes 4 e ++ leBytes 4 teleMw) else s
      updPower s' fun p => { p with calib := p.calib + (teleMw - e), pwr1ms := max p.pwr1ms teleMw,
                                    pwrPeak := max p.pwrPeak (max p.pwr1ms teleMw) }

/-- The hottest of a die's sensors, in 1/16 °C. -/
def hottest (l : List Int) : Int :=
  match l with
  | [] => 0
  | x :: xs => xs.foldl max x

/-- Since when a group of dies has read below 90 °C (R329). -/
def coolFrom (tclk : Nat) (t : Int) (old : Option Nat) : Option Nat :=
  if t < 1440 then some (old.getD tclk) else none

/-- The first sensor at 110 °C or above, by die and sensor. -/
def tripped (temps : List (List Int)) : Option (Nat × Nat × Int) :=
  firstSome ((List.range 7).map fun k =>
    let l := temps.getD k []
    ((List.range l.length).find? fun i => decide (l.getD i 0 ≥ 1760)).map fun i => (k, i, l.getD i 0))

/-- THERMAL_SENSOR_READ (R329): the junction readings, the throttle conditions, and the trip. -/
def execThermalSensorRead (temps : List (List Int)) (s : State) : Res :=
  .next <|
    let tj := (List.range 7).map fun k => hottest (temps.getD k [])
    let shared := max (tj.getD 4 0) (max (tj.getD 5 0) (tj.getD 6 0))
    let s := updPower s fun p =>
      { p with
        tj := tj, tjPeak := List.zipWith max p.tjPeak tj
        sharedHot := decide (shared ≥ 1520), sharedCool := coolFrom s.tclk shared p.sharedCool
        dies := (List.range 4).map fun g =>
          let d := p.dies.getD g Die.reset
          let t := tj.getD g 0
          { d with hot := decide (t ≥ 1520), coolSince := coolFrom s.tclk t d.coolSince } }
    match tripped temps with
    | some (k, i, t) =>
      let s := detectorRecord s 0x16 0 false true (leBytes 1 k ++ leBytes 1 i ++ leBytes 2 (unsignedOf 16 t))
      enterHold s 0x16 0 false
    | none => s

/-- One move of a thermal request, with the time of its last move faster: slower while hot, stopping at MIN_DIV; faster after
10 ms below 90 °C, and again after each further 10 ms (R329). -/
def thermalMove (tclk minDiv req : Nat) (hot : Bool) (cool : Option Nat) (last : Nat) : Nat × Nat :=
  if hot then (max req (min minDiv (slower req)), last)
  else match cool with
    | some t => if tclk ≥ max t last + 1200000 then (faster req, tclk) else (req, last)
    | none => (req, last)

/-- THERMAL_THROTTLE_STEP (R329) on a Garnet's own request (0 to 3), or on the request the Shales and Basalt make of
all four (4). -/
def execThermalThrottleStep (g : Nat) (s : State) : Res :=
  guardUnit (decide (g < 5)) <| .next <|
    let m := s.power.policy.minDiv
    if g < 4 then
      let d := dieOf s g
      let (r, t) := thermalMove s.tclk m d.thermReq d.hot d.coolSince d.thermTs
      pursue (updDie s g fun d => { d with thermReq := r, thermTs := t }) g
    else
      let (r, t) := thermalMove s.tclk m s.power.sharedReq s.power.sharedHot s.power.sharedCool s.power.sharedTs
      pursueAll (updPower s fun p => { p with sharedReq := r, sharedTs := t })

/-! ## DOZE (R381, R382) -/

/-- DOZE_ENTRY (R381): a READY module with no case, BACKGROUND operation or message gates its Garnets, stops ACLK and
lowers the rails to 500 mV. -/
def execDozeEntry (s : State) : Res :=
  .next <|
    if s.boot.state = .ready ∧ s.cases = [] ∧ s.bg = [] ∧ s.msgs = [] then
      let s := gateAll s
      let s := updPower s fun p => { p with dies := p.dies.map fun d =>
        { d with aclkOn := false, req := none, adopting := [], woken := false } }
      setState ((List.range 4).foldl (fun s g => issueStep s g 500 none) s) .doze
    else s

/-- DIE_REGATE (R382): a die woken for BACKGROUND work is gated again, the state still DOZE. -/
def execDieRegate (g : Nat) (s : State) : Res :=
  guardUnit (decide (g < 4)) <| .next <|
    if s.boot.state = .doze ∧ (dieOf s g).woken ∧ cmdsOnDie s g = [] then
      issueStep (updDie s g fun d =>
        { d with cores := d.cores.map fun _ => .off, aclkOn := false, woken := false }) g 500 none
    else s

/-! ## Read-to-clear counters of the power window (R5, R332) and MIN_REARM (R328) -/

/-- CONFLICTS_READ: the read returns the count before the events of the same cycle, which the field then holds (R5). -/
def execConflictsRead (same : Nat) (s : State) : Res :=
  .next <| updPower (emit s (.readValue s.power.conflicts)) fun p => { p with conflicts := same % 2 ^ 32 }

/-- THROT_CHANGES_READ (R5, R332). -/
def execThrotChangesRead (same : Nat) (s : State) : Res :=
  .next <| updPower (emit s (.readValue s.power.throtChanges)) fun p => { p with throtChanges := same % 2 ^ 32 }

/-- STRETCH_FAULTS_READ (R5, R332). -/
def execStretchFaultsRead (same : Nat) (s : State) : Res :=
  .next <| updPower (emit s (.readValue s.power.stretchFaults)) fun p => { p with stretchFaults := same % 2 ^ 32 }

/-- MIN_REARM (R328): every MIN_MV becomes 0xFFFF. -/
def execMinRearm (s : State) : Res :=
  .next <| updPower s fun p => { p with dies := p.dies.map fun d =>
    { d with regions := d.regions.map fun r => { r with minMv := 0xFFFF } } }

end Sys2Proof.Machine
end

