-- ==== Sys2Proof/Machine/SafetyUnit.lean ====
section
/-! DEFINITION. The safety unit's own events (chapter 14): lockstep, the firmware watchdog, the clock monitor, the
diagnostic sweep, HALT_REQ_N, and the SYNC pins (R166, R397, R399). -/

namespace Sys2Proof.Machine

/-! ## Hub detections (R335, R348, R349) -/

/-- A hub detection whose reaction is SAFE_HOLD: its record, and the hold. -/
def hubHold (s : State) (det : Nat) (injected : Bool) (payload : List Byte) : State :=
  enterHold (detectorRecord s det 0 injected true payload) det 0 injected

/-- Whether a pair is running: Basalt runs and the pair is not held in reset (R349). -/
def pairRuns (s : State) (pairB : Bool) : Bool :=
  basaltRuns s && !(if pairB then s.safety.pairB else s.safety.pairA)

/-- Holds a pair in reset; with both held, every mailbox reads RUNNING 0 (R349, chapter 14). -/
def holdPair (s : State) (pairB : Bool) : State :=
  let s := updSafety s fun y => if pairB then { y with pairB := true } else { y with pairA := true }
  if s.safety.pairA && s.safety.pairB then
    { s with mail := s.mail.map fun mb => { mb with st := { mb.st with running := false } } }
  else s

/-- LOCKSTEP_MISMATCH (R335, R349): SAFE_HOLD, and the pair at fault is held in reset. -/
def execLockstepMismatch (pairB : Bool) (pos pc : Nat) (s : State) : Res :=
  .next <|
    if pairRuns s pairB then
      holdPair (hubHold s (if pairB then 0x13 else 0x12) false (leBytes 2 pos ++ leBytes 4 pc)) pairB
    else s

/-- A firmware task has missed its kick (R335). -/
def watchdog (s : State) (pairB : Bool) (task : Nat) : State :=
  holdPair (hubHold s 0x14 false (leBytes 1 (bit pairB) ++ leBytes 2 task)) pairB

/-- FW_WDOG (R335, R349): SAFE_HOLD, and the late pair is held in reset. -/
def execFwWdog (pairB : Bool) (task : Nat) (s : State) : Res :=
  .next <| if pairRuns s pairB then watchdog s pairB task else s

/-! ## Clocks (R350) -/

/-- Whether the root clock has locked in this attempt, so that a loss of it is a fault and not a step of R372. -/
def rootUp (s : State) : Bool :=
  match s.boot.phase with
  | .perst | .verify | .training | .memInit | .done => true
  | _ => false

/-- CLOCK_MON (R335, R350): the always-on island switches to the backup clocks, and SAFE_HOLD. -/
def execClockMon (domain : Nat) (dev : Int) (s : State) : Res :=
  guardUnit (decide (domain ≤ 6)) <| .next <|
    if rootUp s then
      hubHold (updBoot s fun b => { b with locked := false, backup := true, relockTs := none }) 0x15 false
        (leBytes 1 domain ++ leBytes 2 (unsignedOf 16 dev))
    else s

/-- CLOCK_RELOCK_ATTEMPT (R350): after a relock the sequencer switches the clocks back. -/
def execClockRelockAttempt (ok : Bool) (s : State) : Res :=
  .next <|
    if rootUp s && !s.boot.locked && ok then
      updBoot s fun b => { b with locked := true, backup := false, relockTs := some s.tclk }
    else s

/-! ## The diagnostic sweep (R343 to R345) -/

/-- Whether a unit's core is gated, so that its injection points wait for the wake (R343). -/
def isGated (s : State) (u : UnitId) : Bool :=
  let core (c : Nat) := decide ((dieOf s (c / 4)).cores.getD (c % 4) .off ≠ .ready)
  match u.kind with
  | 2 => core u.idx
  | 3 => core (u.idx / 4)
  | 4 => core u.idx
  | _ => false

/-- Whether the sweep exercises a point: a hub point always, a unit's while it is neither fenced nor gated. -/
def pointLive (s : State) (p : PointRec) : Bool :=
  match unitOfCode p.unit with
  | some u => !isFenced s u && !isGated s u
  | none => true

/-- The µs since the least recently exercised live point was exercised, SWEEP_AGE of R355. -/
def sweepAge (s : State) : Nat :=
  let ts := ((s.safety.points.filter fun p => pointLive s p && decide (p.outcome ≠ 0)).map PointRec.ts)
  match ts with
  | [] => 0
  | t :: ts => (s.tclk - ts.foldl min t) / 120

/-- A detector that did not flag an injection (R345): the count, the SELFTEST_FAIL record, FAULT_REPORTED of class 4,
and the fence of its unit, or SAFE_HOLD for a hub detector. -/
def latentFault (s : State) (p : PointRec) : State :=
  let s := updSafety s fun y => { y with latent := (y.latent + 1) % 2 ^ 32 }
  let s := recordUnit s { kind := p.unit / 4096, idx := p.unit % 4096 } false 0x1103 (leBytes 2 p.det ++ leBytes 2 p.unit)
  let s := postFault s 4 false p.det p.unit
  match unitOfCode p.unit with
  | some u => fence s u 0x0102 p.det false
  | none => enterHold s (0x0100 + p.det) 0 false

/-- Sets the outcome and the time of one point. -/
def setPoint (s : State) (i outcome : Nat) : State :=
  updSafety s fun y => { y with points := modifyAt y.points i fun p => { p with outcome := outcome, ts := s.tclk } }

/-- Exercises one point. -/
def exercisePoint (s : State) (i : Nat) (flagged : Bool) : State :=
  match s.safety.points[i]? with
  | none => s
  | some p =>
    let s := setPoint s i (if flagged then 1 else 2)
    if flagged then s else latentFault s p

/-- Exercises, as flagged, every point that a predicate picks (R343, R353, R382). -/
def exerciseAll (s : State) (p : PointRec → Bool) : State :=
  updSafety s fun y => { y with points := modifyWhere y.points p fun x => { x with outcome := 1, ts := s.tclk } }

/-- The points of the units of a Garnet. -/
def pointOnDie (g : Nat) (p : PointRec) : Bool :=
  match unitOfCode p.unit with
  | some u => unitGarnet u == some g
  | none => false

/-- Moves the sweep past a point; after the last one the sweep has ended (R343, R347). -/
def advanceSweep (s : State) : State :=
  updSafety s fun y =>
    if y.sweepPos + 1 ≥ y.points.length then { y with sweepPos := 0, sweeps := y.sweeps + 1, sweepTs := s.tclk }
    else { y with sweepPos := y.sweepPos + 1 }

/-- DIAGNOSTIC_SWEEP_TICK (R343): pair B exercises the next point; a fenced unit's point is skipped and a gated core's
waits for the wake. A SWEEP_AGE above 64,000 is a FW_WDOG fault of pair B (R355), whose task the spec does not
name. -/
def execDiagnosticSweepTick (flagged : Bool) (s : State) : Res :=
  .next <|
    if pairRuns s true ∧ (runState s.boot.state ∨ s.boot.state = .safeHold) then
      let i := s.safety.sweepPos
      let late := decide (sweepAge s > 64000)
      let s := match s.safety.points[i]? with
        | none => s
        | some p =>
          match unitOfCode p.unit with
          | some u =>
            if isFenced s u then
              updSafety s fun y => { y with points := modifyAt y.points i fun p => { p with outcome := 3 } }
            else if isGated s u then s
            else exercisePoint s i flagged
          | none => exercisePoint s i flagged
      let s := advanceSweep s
      if late then watchdog (bumpFree s) true (Config.freeWord s.free).toNat else s
    else s

/-! ## HALT_REQ_N (R351) -/

/-- Acts on a qualified level: a low enters SAFE_HOLD with cause 0x0080, a high only removes the condition. -/
def actHalt (s : State) (level : Bool) : State :=
  let s := updSafety s fun y => { y with haltActed := level, rearm := true }
  if level then s else enterHold s 0x0080 0 false

/-- Whether the module acts on HALT_REQ_N: in no state where it is not sampled, and not in LOCKOUT (R351, R395). -/
def haltServed (s : State) : Bool := decide (s.boot.state ≠ .off ∧ s.boot.state ≠ .lockout)

/-- HALT_REQ_N_CHANGE (R351, R396): a qualified change is recorded, and acted on outside the 10 ms after the last one. -/
def execHaltReqNChange (level : Bool) (s : State) : Res :=
  .next <|
    if s.boot.state = .off ∨ s.safety.haltQual = level then s
    else
      let act := haltServed s && !s.safety.rearm
      let s := record s 0x1107 (leBytes 1 (bit level) ++ leBytes 1 (bit act))
      let s := updSafety s fun y => { y with haltQual := level }
      if act then actHalt s level else s

/-- HALT_REQ_N_REARM_EXPIRY (R351): at the end of the 10 ms the module acts on the qualified level then present, if it
differs from the last one it acted on. -/
def execHaltReqNRearmExpiry (s : State) : Res :=
  .next <|
    if s.safety.rearm then
      let s := updSafety s fun y => { y with rearm := false }
      if haltServed s ∧ s.safety.haltQual ≠ s.safety.haltActed then actHalt s s.safety.haltQual else s
    else s

/-! ## SYNC_IN and SYNC_OUT (R166, R397, R399) -/

/-- SYNC_IN_EDGE (R166, R399): the edge is recorded and pending for every open PERIOD contract, and starts or restarts
the SYNC_OUT pulse. -/
def execSyncInEdge (ts : Nat) (s : State) : Res :=
  .next <|
    if s.boot.state = .off then s
    else
      let s := record s 0x1307 (leBytes 8 ts)
      let latch (k : Contract) : Contract :=
        if isOpen k && k.rcd.terms.arrivalKind == 2 then
          { k with arrival := { k.arrival with pendingEpoch := some ts } }
        else k
      let s := { s with contracts := s.contracts.map latch }
      let pulse := if syncState s.boot.state then some ts else s.pins.pulse
      { s with pins := { s.pins with lastEdge := ts, pulse := pulse } }

/-- SYNC_OUT_PULSE_START (R399): 2.0 µs after the edge the pin goes high. -/
def execSyncOutPulseStart (s : State) : Res :=
  .next <| match s.pins.pulse with
    | some _ => { s with pins := { s.pins with syncOut := true } }
    | none => s

/-- SYNC_OUT_PULSE_END (R399): 4.0 µs later the pin goes low. -/
def execSyncOutPulseEnd (s : State) : Res :=
  .next <| if s.pins.syncOut then { s with pins := { s.pins with syncOut := false, pulse := none } } else s

end Sys2Proof.Machine
end

