-- ==== Sys2Proof/Machine/AmberUnit.lean ====
section
/-! DEFINITION. The Amber recorder's writer and reader (chapter 15): draining the intake queue, persistent appends,
the bytes of a record, and the retained records of a region in reading order (R367). -/

namespace Sys2Proof.Machine

/-! ## Record bytes (R360) -/

/-- Bytes 0 to 59 of a record. -/
def recordHead (r : AmberRec) : List Byte :=
  leBytes 8 r.seq ++ leBytes 8 r.ts ++ leBytes 2 r.code ++ leBytes 2 r.source ++ leBytes 1 r.func ++
  leBytes 1 r.rflags ++ zeros 2 ++ r.payload.take 36 ++ zeros (36 - r.payload.length)

/-- The 64 bytes of a record as stored; those of a slot whose program did not complete are open. -/
def recordBytes (r : AmberRec) : List Byte :=
  match r.damaged with
  | none => recordHead r ++ leBytes 4 (crc32c (recordHead r)).toNat
  | some n => (List.range 64).map (Config.damagedByte n)

/-! ## Writing (R363, R365) -/

/-- AMBER_RING_WRITE (R363): the recorder drains the next queued record into the ring. Once there is space, the records
lost to a full intake queue are reported in one AMBER_OVERRUN record. -/
def execAmberRingWrite (s : State) : Res :=
  .next <|
    if !basaltRuns s then s
    else match s.amber.intake with
      | [] => s
      | r :: rest =>
        let s := { s with amber := ringPut { s.amber with intake := rest } r }
        if s.amber.lost = 0 then s
        else
          let n := s.amber.lost
          record { s with amber := { s.amber with lost := 0 } } 0x1602 (leBytes 4 n)

/-- The number of slots of the persistent region (R358). -/
def persistSlots : Nat := 65536

/-- After a slot has been written: at the last one the region is full, and the queued records are dropped (R365). -/
def settleFull (s : State) : State :=
  if s.amber.slots.length < persistSlots ∨ s.amber.full then s
  else
    let full (a : Amber) : Amber :=
      { a with full := true, dropped := a.dropped + a.queue.length, queue := [] }
    record { s with amber := full s.amber } 0x1603 (leBytes 4 persistSlots)

/-- Appends to the next erased slot. -/
def appendSlot (s : State) (r : AmberRec) (queue : List AmberRec) : State :=
  { s with amber := { s.amber with slots := s.amber.slots ++ [r], queue := queue } }

/-- AMBER_PERSISTENT_APPEND (R358, R365): the record at the head of the pending queue is appended. A program that fails
marks its slot used, writes FLASH_FAULT, and leaves the record for the next slot. -/
def execAmberPersistentAppend (ok : Bool) (s : State) : Res :=
  .next <|
    if s.boot.state = .off ∨ s.amber.full then s
    else match s.amber.queue with
      | [] => s
      | r :: rest =>
        if ok then settleFull (appendSlot s r rest)
        else
          let addr := 0x02020000 + 64 * s.amber.slots.length
          let s := appendSlot (bumpFree s) { r with damaged := some s.free } s.amber.queue
          settleFull (record s 0x1506 (leBytes 1 2 ++ leBytes 4 addr))

/-! ## Reading (R367) -/

/-- The SEQ the next record will take (R361). -/
def nextSeq (a : Amber) : Nat := a.epoch * 2 ^ 40 + a.count

/-- The records of a region, oldest first: 0 the ring, 1 the persistent region. -/
def regionOf (a : Amber) (region : Nat) : List AmberRec := if region = 0 then a.ring else a.slots

/-- Gives damaged records after an intact one their SEQ: one more than that of the slot before. -/
def placeAfter (prev : Nat) : List AmberRec → List (Nat × AmberRec)
  | [] => []
  | r :: rs =>
    let q := match r.damaged with
      | none => r.seq
      | some _ => prev + 1
    (q, r) :: placeAfter q rs

/-- The records of a region with the SEQ that places each: before the first intact record one less than that of the
slot after it, and NEXT_SEQ where no record is intact (R367). -/
def placed (next : Nat) (rs : List AmberRec) : List (Nat × AmberRec) :=
  let bad := rs.takeWhile fun r => decide (r.damaged ≠ none)
  match rs.drop bad.length with
  | [] => rs.map fun r => (next, r)
  | r :: rest =>
    (List.range bad.length).zipWith (fun i x => (r.seq - (bad.length - i), x)) bad ++ (r.seq, r) :: placeAfter r.seq rest

/-- The SEQ of the oldest retained record of a region, or NEXT_SEQ when none is intact (R367, R368). -/
def oldestSeq (a : Amber) (region : Nat) : Nat :=
  match placed (nextSeq a) (regionOf a region) with
  | [] => nextSeq a
  | (q, _) :: _ => q

/-- The records a read returns: in storage order from the first slot whose SEQ is at or above `fromSeq`, at most `n`. -/
def readRecords (a : Amber) (region fromSeq n : Nat) : List (Nat × AmberRec) :=
  let ps := placed (nextSeq a) (regionOf a region)
  let intact := (regionOf a region).any fun r => decide (r.damaged = none)
  let ps := if intact then ps.dropWhile fun e => decide (e.1 < fromSeq) else ps
  ps.take n

/-- The nine 32-bit values of the recorder window, from offset 0x0000 to 0x0020 (R368). -/
def recorderWords (a : Amber) : List Nat :=
  [bit a.full + 2 * bit (!a.queue.isEmpty), a.epoch, nextSeq a % 2 ^ 32, nextSeq a / 2 ^ 32,
   oldestSeq a 0 % 2 ^ 32, oldestSeq a 0 / 2 ^ 32, a.slots.length, a.overrun % 2 ^ 32, a.dropped % 2 ^ 32]

end Sys2Proof.Machine
end

