-- ==== Sys2Proof/Machine/BootUnit.lean ====
section
/-! DEFINITION. Power-up, boot and the resets of the whole module (chapter 16): the sequencer's attempts (R372 to R374),
the boot ROM (R375, R376), bring-up (R379, R380), and the power-on, cold and warm resets (R384). -/

namespace Sys2Proof.Machine

/-! ## The boot control block and the slots (R375) -/

/-- The boot control block in use: the intact copy with the higher sequence number (R375). -/
def bcbOf (b : Boot) : Option BootCtl :=
  (b.bcb.filter BootCtl.intact).foldl (fun best c => match best with
    | none => some c
    | some d => if d.seq < c.seq then some c else some d) none

/-- The settings of the boot control block; with both copies damaged ACTIVE is 0 and TRIAL clear. -/
def bcbInUse (b : Boot) : BootCtl :=
  match bcbOf b with
  | some c => c
  | none => { seq := 0, intact := true, active := 0, trial := false, trialSlot := 0 }

/-- The slot that is not ACTIVE. -/
def inactiveSlot (s : State) : Nat := 1 - (bcbInUse s.boot).active

/-- The facts of an image of `len` bytes, as the bytes written to its slot give them. An erased slot holds no image. -/
def readImage (content : List (Nat × List Byte)) (len : Nat) : FwImage :=
  let fact (k : Nat) : Nat := Config.imageFact content len k 0
  { parses := !content.isEmpty && decide (fact 0 ≠ 0), signatureOk := decide (fact 1 ≠ 0), securityVersion := fact 2,
    version := fact 3, keyList := (List.range (fact 4)).map (Config.imageFact content len 5), fwMinor := fact 6,
    fwBuild := fact 7 }

/-- The image of `len` bytes that a slot holds. -/
def slotImage (w : FwSlot) (len : Nat) : FwImage :=
  match w.image with
  | some i => if len = w.imageLen then i else readImage w.written len
  | none => readImage w.written len

/-- A write of a slot that a reset or a loss of power cuts short leaves the slot partly written: no image in it passes its
checks until it is erased again. -/
def cutStages (s : State) : State :=
  let cut (b : BgOp) : Bool := match b.kind with
    | .fwStage _ _ _ _ _ => true
    | _ => false
  if s.bg.any cut then
    updBoot s fun t => { t with slots := modifyAt t.slots (inactiveSlot s) fun w => { w with image := none, valid := false } }
  else s

/-! ## What the resets clear (R384) -/

/-- A port after the module restarts: its cable stays, and training runs again from the start (R292). -/
def restartPort (p : Port) : Port :=
  { Port.reset with present := p.present, cable := p.cable, st := if p.st = 0 then 0 else 1 }

/-- The Strata unit after the module restarts: a stack of one again (R300). -/
def restartStrata (s : State) : Strata :=
  { Strata.reset s.ident.moduleId with ports := s.strata.ports.map restartPort }

/-- The recorder after Basalt is reset: the ring and the pending queue stay (R357), the intake queue is lost. -/
def restartAmber (a : Amber) : Amber := { a with intake := [], lost := 0 }

/-- What a warm or cold reset leaves (R384): objects, fences, retirements, causes and counters are cleared; the Amber
ring, the TCLK count and the always-on island's state are kept. Live cases end without a record or a completion. -/
def clearModule (s : State) : State :=
  let s := cutStages s
  { State.reset with
    pending := s.pending, ident := s.ident, tclk := s.tclk, free := s.free, nextMsg := s.nextMsg,
    nextHandle := s.nextHandle, nextCase := s.nextCase, nextRun := s.nextRun, nextWait := s.nextWait,
    nextBg := s.nextBg, nextCmd := s.nextCmd, mem := Memory.reset s.ident.part,
    power := { Power.reset with throtLevel := s.power.throtLevel },
    safety := { Safety.reset with
      haltQual := s.safety.haltQual, haltActed := s.safety.haltActed, rearm := s.safety.rearm },
    amber := restartAmber s.amber, boot := { s.boot with
      meas := none, pfUpdate := false, endTs := 0, failCode := 0, failDetail := 0 },
    pins := { s.pins with syncOut := false, pulse := none, lastEdge := 0 }, sideband := s.sideband,
    strata := restartStrata s, out := s.out }

/-! ## The sequencer (R372 to R374) -/

/-- Starts an attempt at step 1: the state is BOOTING and rail 0 is enabled. -/
def startAttempt (s : State) (n : Nat) : State :=
  setState (updBoot s fun b => { b with phase := .rail 0, attempt := n, failCode := 0, failDetail := 0, backup := true,
                                        locked := false }) .booting

/-- Turns off every rail but VAO: Basalt has no power, and its PCIe link is down (R13, R374). -/
def railsOff (s : State) : State :=
  updBoot { s with power := { s.power with dies := s.power.dies.map fun _ => Die.reset, vlogMv := 0 }, pcie := State.reset.pcie }
    fun b => { b with phase := .idle, locked := false, backup := true }

/-- Enters LOCKOUT with a boot-failure code (R374). -/
def lockout (s : State) (code detail : Nat) : State :=
  let s := updBoot (railsOff s) fun b => { b with failCode := code, failDetail := detail, attempt := 0 }
  setState (record s 0x1503 (leBytes 1 code ++ leBytes 1 detail)) .lockout

/-- A failed attempt (R373): the rails go off, and a new attempt follows a wait, or LOCKOUT the fourth. -/
def failAttempt (s : State) (code detail : Nat) : State :=
  if s.boot.attempt ≥ 4 then lockout s code detail
  else updBoot (railsOff s) fun b => { b with phase := .retryWait }

/-- Releases Basalt from reset (step 7 of R372): the boot ROM starts, and the PCIe link trains. -/
def releaseBasalt (s : State) : State :=
  let s := updBoot s fun b => { b with phase := .verify, releaseTs := s.tclk }
  { s with pcie := { s.pcie with linkUp := true } }

/-- Step 7 of R372: Basalt is released at the later of the PLL lock and PERST# deasserted. -/
def toStep7 (s : State) : State :=
  if s.boot.perst then updBoot s fun b => { b with phase := .perst } else releaseBasalt s

/-- RAIL_POWER_GOOD (R372): the next rail is enabled, or after the last one the oscillator; a VARR rail is at 576 mV, and VLOG at
800 mV. -/
def execRailPowerGood (rail : Nat) (s : State) : Res :=
  guardUnit (decide (rail ≤ 10)) <| .next <|
    if s.boot.phase = .rail rail then
      let s := if rail < 7 then s else updDie s (rail - 7) fun d => { d with vset := 576 }
      let s := if rail = 6 then updPower s fun p => { p with vlogMv := 800 } else s
      updBoot s fun b => { b with phase := if rail < 10 then .rail (rail + 1) else .oscillator }
    else s

/-- POWER_GOOD_TIMEOUT (R373). -/
def execPowerGoodTimeout (rail : Nat) (s : State) : Res :=
  guardUnit (decide (rail ≤ 10)) <| .next <|
    if s.boot.phase = .rail rail then
      failAttempt (record s 0x1501 (leBytes 1 rail ++ leBytes 1 s.boot.attempt)) 0x01 rail
    else s

/-- OSCILLATOR_STABLE (R372). -/
def execOscillatorStable (s : State) : Res :=
  .next <| if s.boot.phase = .oscillator then updBoot s fun b => { b with phase := .pll } else s

/-- PLL_LOCK (R310, R372): TCLK now runs from the root. -/
def execPllLock (s : State) : Res :=
  .next <|
    if s.boot.phase = .pll then toStep7 (updBoot s fun b => { b with locked := true, backup := false }) else s

/-- REFCLK_TIMEOUT (R373): the oscillator is not stable, or the PLL has not locked. -/
def execRefclkTimeout (pll : Bool) (s : State) : Res :=
  .next <|
    if s.boot.phase = (if pll then .pll else .oscillator) then
      failAttempt (record s 0x1502 (leBytes 1 s.boot.attempt ++ leBytes 1 (if pll then 2 else 1)))
        (if pll then 0x03 else 0x02) 0
    else s

/-- ATTEMPT_RETRY_WAIT_EXPIRY (R373): the next attempt starts. -/
def execAttemptRetryWaitExpiry (s : State) : Res :=
  .next <| if s.boot.phase = .retryWait then startAttempt s (s.boot.attempt + 1) else s

/-! ## Power events (R354, R371) -/

/-- Whether the rails may be brought up: in AO_ONLY with the slot's supplies present (R372). -/
def tryPowerUp (s : State) : State :=
  if s.boot.state = .aoOnly ∧ s.boot.main then startAttempt s 1 else s

/-- The largest intact persistent SEQ (R361). -/
def largestSeq (a : Amber) : Nat :=
  maxNat ((a.slots.filter fun r => decide (r.damaged = none)).map AmberRec.seq)

/-- The epoch after power-on: one more, or one more than the largest intact persistent epoch when the counter area is
unreadable; it stays at its maximum (R361, chapter 15). -/
def nextEpoch (a : Amber) (epochOk : Bool) : Nat :=
  min (2 ^ 24 - 1) ((if epochOk then a.epoch else largestSeq a / 2 ^ 40) + 1)

/-- The count the first record of an epoch takes: 1, or in the last epoch one more than the largest intact count of
that epoch in the persistent region (chapter 15). -/
def firstCount (a : Amber) (epoch : Nat) : Nat :=
  if epoch = 2 ^ 24 - 1 ∧ largestSeq a / 2 ^ 40 = epoch then largestSeq a % 2 ^ 40 + 1 else 1

/-- What is left when auxiliary power has been away: the persistent region, the NOR flash and the fuses (R384). -/
def powerOff (s : State) : State :=
  let s := cutStages s
  { State.reset with
    pending := s.pending, ident := s.ident, free := s.free, nextMsg := s.nextMsg, nextHandle := s.nextHandle,
    nextCase := s.nextCase, nextRun := s.nextRun, nextWait := s.nextWait, nextBg := s.nextBg, nextCmd := s.nextCmd,
    mem := Memory.reset s.ident.part,
    amber := { Amber.reset with epoch := s.amber.epoch, slots := s.amber.slots, full := s.amber.full },
    boot := { Boot.reset with main := s.boot.main, perst := s.boot.perst, norOk := s.boot.norOk, bcb := s.boot.bcb,
                              slots := s.boot.slots, floor := s.boot.floor },
    strata := restartStrata s, out := s.out }

/-- AUX_POWER_ON (R361, R362, R371): POWER_EPOCH rises, the TCLK count is 0 and POWER_UP is written. An unreadable
counter area is recorded too. -/
def execAuxPowerOn (epochOk : Bool) (s : State) : Res :=
  .next <|
    if s.boot.state ≠ .off then s
    else
      let s := powerOff s
      let e := nextEpoch s.amber epochOk
      let s := { s with amber := { s.amber with epoch := e, count := firstCount s.amber e } }
      let s := updBoot s fun b => { b with aux := true, backup := true }
      let s := record s 0x1601 (leBytes 4 e ++ leBytes 4 s.amber.slots.length)
      let s := if epochOk then s else record s 0x1506 (leBytes 1 6 ++ leBytes 4 0x02010000)
      tryPowerUp (setState s .aoOnly)

/-- A persistent append cut short by a loss of power leaves its slot damaged; the records still pending are lost. -/
def cutAppend (s : State) : State :=
  match s.amber.queue with
  | [] => s
  | r :: _ =>
    let slots := s.amber.slots ++ [{ r with damaged := some s.free }]
    { bumpFree s with amber := { s.amber with slots := slots, queue := [], full := decide (slots.length ≥ persistSlots) } }

/-- AUX_POWER_LOST (R354): the module is OFF. -/
def execAuxPowerLost (s : State) : Res :=
  .next <| if s.boot.state = .off then s else powerOff (if s.amber.full then s else cutAppend s)

/-- MAIN_POWER_PRESENT (R372): in AO_ONLY the first attempt starts. -/
def execMainPowerPresent (s : State) : Res :=
  .next <|
    if s.boot.main then s else tryPowerUp (updBoot s fun b => { b with main := true })

/-- MAIN_POWER_LOST (R354, R384): outside OFF and AO_ONLY a cold reset. -/
def execMainPowerLost (s : State) : Res :=
  .next <|
    let s := updBoot s fun b => { b with main := false }
    match s.boot.state with
    | .off | .aoOnly => s
    | _ => setState (railsOff (clearModule s)) .aoOnly

/-! ## Warm reset (R384) -/

/-- The rails and their dies after a warm reset, which keeps the rails on: the cores are gated until the firmware
wakes them, and each VARR setpoint stays. -/
def keepRails (old : List Die) : List Die := old.map fun d => { Die.reset with vset := d.vset }

/-- A warm reset: Basalt is held from step 7 on, with rails and PLL kept. -/
def warmReset (s : State) : State :=
  let dies := keepRails s.power.dies
  let vlog := s.power.vlogMv
  let s := updBoot (clearModule s) fun b => { b with phase := .perst }
  setState { s with power := { s.power with dies := dies, vlogMv := vlog } } .booting

/-- PERST_ASSERT (R354, R384): a warm reset once Basalt runs; before that, and in LOCKOUT, only the level counts. -/
def execPerstAssert (s : State) : Res :=
  .next <|
    let s := updBoot s fun b => { b with perst := true }
    if basaltRuns s then warmReset s else s

/-- PERST_DEASSERT (R372, R374): Basalt is released, or LOCKOUT is left for a fresh attempt. -/
def execPerstDeassert (s : State) : Res :=
  .next <|
    if !s.boot.perst then s
    else
      let s := updBoot s fun b => { b with perst := false }
      if s.boot.state = .lockout then (if s.boot.main then startAttempt s 1 else s)
      else if s.boot.phase = .perst then releaseBasalt s
      else s

/-! ## The boot ROM (R375, R376, R378) -/

/-- Writes a new boot control block into the copy not in use (R387). -/
def writeBcb (b : Boot) (active : Nat) (trial : Bool) (trialSlot : Nat) : Boot :=
  let cur := bcbOf b
  let new : BootCtl :=
    { seq := (bcbInUse b).seq + 1, intact := true, active := active, trial := trial, trialSlot := trialSlot }
  let i := match cur, b.bcb[0]? with
    | some c, some d => if c = d then 1 else 0
    | _, _ => 0
  { b with bcb := modifyAt b.bcb i fun _ => new }

/-- Why a slot fails verification, if it does: it does not parse, its signature, its SECURITY_VERSION (R376). -/
def slotFails (b : Boot) (slot : Nat) : Option Status :=
  match b.slots[slot]? with
  | none => some .badImage
  | some x =>
    let i := slotImage x x.imageLen
    if !x.valid || !i.parses then some .badImage
    else if !i.signatureOk then some .signatureInvalid
    else if i.securityVersion < b.floor ∨ i.securityVersion > 64 then some .rollbackRefused
    else none

/-- The order in which the ROM tries the slots (R376). -/
def slotOrder (c : BootCtl) : List Nat :=
  if c.trial then [c.trialSlot, c.active] else [c.active, 1 - c.active]

/-- The BOOT_VERIFY_FAIL record of a slot that fails. -/
def slotRecord (s : State) (slot : Nat) : State :=
  match slotFails s.boot slot with
  | some st => record s 0x1504 (leBytes 1 slot ++ leBytes 2 (statusCode st))
  | none => s

/-- The ROM's choice: each slot before the first that passes writes BOOT_VERIFY_FAIL; the first that passes boots and is
measured; if both fail, LOCKOUT with code 0x04 (R376, R378). -/
def bootSlots (s : State) (c : BootCtl) : List Nat → State
  | [] =>
    lockout s 0x04 (bit (slotFails s.boot 0).isSome + 2 * bit (slotFails s.boot 1).isSome)
  | slot :: rest =>
    match slotFails s.boot slot, s.boot.slots[slot]? with
    | none, some w =>
      let i := slotImage w w.imageLen
      let m : Measurements :=
        { slot := slot, trial := c.trial, image := i, content := w.written, floor := s.boot.floor, part := s.ident.part,
          moduleId := s.ident.moduleId }
      let s := updBoot s fun b => { b with meas := some m, phase := .training }
      { s with ident := { s.ident with fwMinor := i.fwMinor, fwBuild := i.fwBuild } }
    | _, _ => bootSlots (slotRecord s slot) c rest

/-- BOOT_VERIFY_COMPLETE (R374 to R378): the ROM has read the flash and verified the slots in order. -/
def execBootVerifyComplete (s : State) : Res :=
  .next <|
    if s.boot.phase ≠ .verify then s
    else if !s.boot.norOk then lockout (record s 0x1506 (leBytes 1 4 ++ leBytes 4 0)) 0x05 0
    else
      let s := if (bcbOf s.boot).isNone then record s 0x1506 (leBytes 1 5 ++ leBytes 4 0) else s
      bootSlots s (bcbInUse s.boot) (slotOrder (bcbInUse s.boot))

/-! ## Bring-up (R379, R380) -/

/-- Trims VLOG to its boot-calibrated value, free within the range of R315 (step 1 of R379; DESIGN CHOICE, log 174). -/
def trimVlog (s : State) : State :=
  let mv := 720 + (Config.freeWord s.free).toNat % 131
  emit (updPower (bumpFree s) fun p => { p with vlogTrimmed := true, vlogMv := mv }) (.avs 6 mv)

/-- Records the IR-drop baselines of the 64 regions (R327, step 1 of R379). -/
def recordBaselines (s : State) : State :=
  let v := s.free
  let mark (g : Nat) (d : Die) : Die :=
    { d with regions := (List.range 16).zipWith (fun i r => { r with baseline := 64 * v + 16 * g + i }) d.regions }
  updPower (bumpFree s) fun p => { p with dies := (List.range 4).zipWith mark p.dies }

/-- MEMORY_TRAINING_COMPLETE (R379, R380): a channel that failed training is fenced and fails; then memory is initialized
while the Garnets wake. -/
def execMemoryTrainingComplete (failed : List (Tier × Nat)) (s : State) : Res :=
  guardUnit (failed.all fun e => decide (e.2 < 32)) <| .next <|
    if s.boot.phase ≠ .training then s
    else
      let unit (e : Tier × Nat) : UnitId := { kind := match e.1 with | .t1 => 8 | .t2 => 9, idx := e.2 }
      let s := failed.foldl (fun s e => fenceUnit s (unit e) 0x0103 (channelDetector e.1) 6 false) s
      let s := recordBaselines (trimVlog s)
      let s := updBoot s fun b => { b with phase := .memInit }
      (List.range 4).foldl (fun s g =>
        startCores (updDie s g fun d => { d with woken := true }) g) s

/-- Partition 0's settings (R53, R268). -/
def partZeroCfg (s : State) : PartCfg :=
  { encrypt := false, pasidEn := false, levelMax := 0, pasid := 0, t1Pages := s.mem.t1.assignable,
    t2Pages := s.mem.t2.assignable, t1Bw := 0, t2Bw := 0, caseQuota := 8192, weight := 1000, cairnFirst := 0,
    cairnCount := 1024, seed := 0 }

/-- The counters of a partition just created (R143). -/
def PartStats.zero : PartStats :=
  { casesPeak := 0, quotaRefused := 0, limitRefused := 0, yields := 0, kills := 0, killedCycles := 0, reruns := 0,
    switches := 0, switchTime := 0, blockMax := 0, signalsHost := 0, signalsDevice := 0, signalsRemote := 0,
    waitTimeouts := 0 }

/-- Partition 0 with its settings (R53). -/
def partZero (s : State) : Partition :=
  { id := 0, cfg := partZeroCfg s, suspended := false, key := none, stats := PartStats.zero }

/-- The cores of every unfenced Garnet are ready: bring-up of the dies has ended (step 4 of R379). -/
def coresReady (s : State) : State :=
  (List.range 4).foldl (fun s g => updDie s g fun d =>
    { d with
      woken := false
      cores := d.cores.map fun c => match c with
        | .off => .off
        | _ => .ready }) s

/-- A trial image that reaches the end of BOOTING becomes ACTIVE, with TRIAL cleared (R388). -/
def promote (s : State) : State :=
  match s.boot.meas with
  | some m =>
    let c := bcbInUse s.boot
    if c.trial ∧ m.slot = c.trialSlot then updBoot s fun b => writeBcb b m.slot false m.slot else s
  | none => s

/-- The mailboxes of the functions that exist are served (step 5 of R379). -/
def serveMailboxes (s : State) : State :=
  (functions s).foldl (fun s f => updMb s f fun mb => { mb with st := { mb.st with running := true } }) s

/-- Starts the first pass of patrol scrub over both tiers (R282). -/
def startScrubs (s : State) : State :=
  let start (t : TierState) : TierState := { t with scrubbing := true, scrubPos := 0 }
  { s with mem := { s.mem with t1 := start s.mem.t1, t2 := start s.mem.t2 } }

/-- The end of BOOTING (step 5 of R379): the state becomes READY, DEGRADED with a unit fenced (R342), or SAFE_HOLD with a
cause kept from BOOTING or HALT_REQ_N low (R351, R380). -/
def endBooting (s : State) : State :=
  let s := serveMailboxes (promote { s with parts := [partZero s] })
  let s := startScrubs (updBoot s fun b => { b with phase := .done, endTs := s.tclk })
  let s := if !s.safety.rearm ∧ s.safety.haltActed ≠ s.safety.haltQual then
    updSafety s fun y => { y with haltActed := y.haltQual, rearm := true } else s
  let s := if !s.safety.haltActed then noteCause s 0x0080 0 else s
  match s.safety.causes with
  | c :: _ => takeHold s c.cause c.unit false
  | [] => setState s (if s.safety.fences ≠ [] then .degraded else .ready)

/-- MEMORY_INIT_COMPLETE (R379, R380): frames that read back wrong are retired, every live injection point is exercised,
the failed ones by sweep position, and BOOTING ends. -/
def execMemoryInitComplete (bad : List (Tier × Nat)) (failed : List Nat) (s : State) : Res :=
  .next <|
    if s.boot.phase ≠ .memInit then s
    else
      let s := bad.foldl (fun s e => retireFrame s e.1 e.2) (coresReady s)
      let s := exerciseAll s (pointLive s)
      let live (i : Nat) : Bool := match s.safety.points[i]? with
        | some p => pointLive s p
        | none => false
      endBooting ((failed.filter live).foldl (fun s i => exercisePoint s i false) s)

/-- TRIAL_BOOT_TIMEOUT (R388): a trial image that has not reached the end of BOOTING within 10 s of release loses TRIAL,
and a warm reset boots the previous slot. The status in its BOOT_VERIFY_FAIL record is open. -/
def execTrialBootTimeout (s : State) : Res :=
  .next <|
    let c := bcbInUse s.boot
    let running := decide (s.boot.state = .booting) && basaltRuns s
    let onTrial := match s.boot.meas with
      | some m => decide (m.slot = c.trialSlot)
      | none => true
    if running && c.trial && onTrial then
      let s := record (bumpFree s) 0x1504 (leBytes 1 c.trialSlot ++ leBytes 2 (Config.freeWord s.free).toNat)
      let s := warmReset (updBoot s fun b => writeBcb b c.active false c.trialSlot)
      if s.boot.perst then s else releaseBasalt s
    else s

end Sys2Proof.Machine
end

