-- ==== Sys2Proof/Machine/Flags.lean ====
section
/-! DEFINITION. What the host reads in the four windows of BAR0: the status bits and registers of R17, R332, R355 and
R368, computed from State. An offset that no table defines reads 0 (R16), and so does every reserved bit (R6). -/

namespace Sys2Proof.Machine

/-- Whether the firmware has been verified and started: the identity registers then hold their values (R17). -/
def served (s : State) : Bool := runState s.boot.state || decide (s.boot.state = .safeHold)

/-! ## The mailbox window (R17) -/

/-- MB_ID. -/
def mbId (s : State) : Nat :=
  if served s then 0xB0 * 2 ^ 24 + s.ident.fwMinor % 256 * 2 ^ 16 + 0x02 * 2 ^ 8 + 0x02 else 0

/-- FUNC_INFO of function `f`. -/
def funcInfo (s : State) (f : Nat) : Nat :=
  f % 64 + 256 * bit (f == 0) + 1024 * partCode s.ident.part + 65536 * (s.strata.stack.pos % 8)

/-- MOD_STATE. -/
def modState (s : State) : Nat := stateCode s.boot.state + 256 * bit s.amber.full

/-- MB_STATUS. -/
def mbStatus (mb : Mailbox) : Nat :=
  bit mb.st.running + 2 * bit mb.st.halted + 4 * bit mb.st.resetBusy + 8 * bit mb.sq.active +
  16 * bit mb.cq.active + 256 * mb.st.haltCause + 4096 * mb.st.cfgErr

/-- The event register at 0x0028. -/
def eventReg (ev : MbEvents) : Nat :=
  2 * bit ev.contractEvt + 4 * bit ev.faultEvt + 8 * bit ev.adminEvt + 16 * bit ev.evtOverflow

/-- Register `k` of a ring, from its base register on: BASE_LO, BASE_HI, the size and PASID, and the two indices. -/
def ringReg (r : Ring) : Nat → Nat
  | 0 => r.baseLo
  | 1 => r.baseHi
  | 2 => r.log2 + 256 * bit r.pasidEn + 4096 * r.pasid
  | 3 => r.hostIdx
  | 4 => r.devIdx
  | _ => 0

/-- One 32-bit word of an MSI-X entry. -/
def msixWord (e : MsixEntry) : Nat → Nat
  | 0 => e.addrLo
  | 1 => e.addrHi
  | 2 => e.data
  | _ => e.ctrl

/-- The first 256 bytes of the window of function `f`. -/
def mailboxReg (s : State) (f off : Nat) : Nat :=
  let mb := mbOf s f
  match off with
  | 0x00 => mbId s
  | 0x04 => if served s then s.ident.fwBuild else 0
  | 0x08 => funcInfo s f
  | 0x0C => modState s
  | 0x10 => mbStatus mb
  | 0x14 => mb.st.haltIndex
  | 0x1C => mb.inl.slotOwn
  | 0x20 => mb.inl.pi
  | 0x24 => mb.inl.ci
  | 0x28 => eventReg mb.ev
  | 0x2C => mb.ev.evtLost
  | 0x30 => mb.ev.complDropped
  | 0x34 => mb.ev.modCount + 65536 * mb.ev.modTime
  | 0x40 => ringReg mb.sq 0
  | 0x44 => ringReg mb.sq 1
  | 0x48 => ringReg mb.sq 2
  | 0x4C => ringReg mb.sq 3
  | 0x50 => ringReg mb.sq 4
  | 0x60 => ringReg mb.cq 0
  | 0x64 => ringReg mb.cq 1
  | 0x68 => ringReg mb.cq 2
  | 0x6C => ringReg mb.cq 3
  | 0x70 => ringReg mb.cq 4
  | _ => 0

/-- A 32-bit read of the mailbox window of function `f`: registers, slots, response slots and the MSI-X structures. -/
def mailboxRead (s : State) (f off : Nat) : Nat :=
  let mb := mbOf s f
  if off < 0x100 then mailboxReg s f off
  else if 0x800 ≤ off ∧ off < 0x1000 then le (mb.inl.slots.getD ((off - 0x800) / 256) []) (off % 256) 4
  else if 0x1000 ≤ off ∧ off < 0x1200 then le (mb.inl.responses.getD ((off - 0x1000) / 64) []) (off % 64) 4
  else if 0x3000 ≤ off ∧ off < 0x3040 then
    msixWord (mb.ev.msix.getD ((off - 0x3000) / 16) MsixEntry.reset) (off % 16 / 4)
  else if off = 0x3800 then mb.ev.pba
  else 0

/-! ## The safety window (R355) -/

/-- Whether a cause of the present hold has an unmet condition (R352). -/
def causeUnmet (s : State) (c : HoldCause) : Bool :=
  let since (t : Option Nat) : Bool := match t with
    | some t => decide (t + 1200000 ≤ s.tclk)
    | none => false
  match c.cause with
  | 0x80 => !s.safety.haltActed
  | 0x15 => s.boot.backup || !since s.boot.relockTs
  | 0x16 => !(s.power.dies.all fun d => since d.coolSince) || !since s.power.sharedCool
  | _ => true

/-- CAUSE_ACTIVE. -/
def causeActive (s : State) : Bool := s.safety.causes.any (causeUnmet s)

/-- SAFE_STATUS. -/
def safeStatus (s : State) : Nat :=
  let y := s.safety
  bit (decide (s.boot.state = .safeHold)) + 2 * bit y.releaseBusy + 4 * bit y.haltActed + 8 * bit y.rearm +
  16 * bit y.resetNeeded + 32 * bit (causeActive s) + 64 * bit (y.pairA && !y.pairB)

/-- The FENCE bits of `n` units of a kind from index `i`: a unit covered by a larger fence shows as fenced (R341). -/
def fenceBits (s : State) (kind i n : Nat) : Nat :=
  sumNat ((List.range n).map fun j => 2 ^ j * bit (isFenced s { kind := kind, idx := i + j }))

/-- A register of the safety window. -/
def safetyRead (s : State) (off : Nat) : Nat :=
  let y := s.safety
  match off with
  | 0x00 => safeStatus s
  | 0x04 => y.holdCause + 65536 * y.holdUnit
  | 0x08 => y.holdTs % 2 ^ 32
  | 0x0C => y.holdTs / 2 ^ 32
  | 0x10 => fenceBits s 1 0 4 + 16 * fenceBits s 6 0 2
  | 0x14 => fenceBits s 2 0 16 + 65536 * fenceBits s 4 0 16
  | 0x18 => fenceBits s 3 0 32
  | 0x1C => fenceBits s 3 32 32
  | 0x20 => fenceBits s 5 0 4 + 16 * fenceBits s 7 0 16 + 2 ^ 20 * fenceBits s 10 0 4
  | 0x24 => fenceBits s 11 0 16
  | 0x28 => fenceBits s 8 0 32
  | 0x2C => fenceBits s 9 0 32
  | 0x30 => y.recovered
  | 0x34 => y.holds
  | 0x38 => y.latent
  | 0x3C => sweepAge s % 2 ^ 32
  | _ => 0

/-! ## The power window (R332) -/

/-- One bit for each Garnet. -/
def dieBits (s : State) (p : Die → Bool) : Nat :=
  sumNat ((List.range 4).map fun g => 2 ^ g * bit (p (dieOf s g)))

/-- A register of the power window. -/
def powerRead (s : State) (off : Nat) : Nat :=
  let w := s.power
  match off with
  | 0x00 => sumNat ((List.range 4).map fun g => 16 ^ g * (dieOf s g).div) + 65536 * w.policy.minDiv
  | 0x04 =>
    dieBits s Die.loadline + 16 * dieBits s Die.reverted +
    256 * dieBits s (fun d => decide (4 < d.thermReq ∨ 4 < w.sharedReq)) +
    4096 * bit (w.dies.any fun d => decide (4 < d.capReq)) + 8192 * bit w.throtLevel
  | 0x40 => w.pwr1ms % 2 ^ 32
  | 0x44 => w.pwrPeak % 2 ^ 32
  | 0x48 => w.conflicts % 2 ^ 32
  | 0x4C => w.throtChanges % 2 ^ 32
  | 0x50 => w.stretchFaults % 2 ^ 32
  | _ =>
    if 0x10 ≤ off ∧ off < 0x20 then
      let d := dieOf s ((off - 0x10) / 4)
      d.vset % 65536 + 65536 * (d.vsense % 65536)
    else if 0x20 ≤ off ∧ off < 0x3C then
      let k := (off - 0x20) / 4
      unsignedOf 16 (w.tj.getD k 0) + 65536 * unsignedOf 16 (w.tjPeak.getD k 0)
    else 0

/-! ## All windows -/

/-- The enables of a function's configuration space, and the PF's link settings, in the model's numbering of its registers (log
12). -/
def configRead (s : State) (f off : Nat) : Nat :=
  let c := fnOf s f
  match off with
  | 0 => 2 ^ 15 * bit c.msixEnable + 2 ^ 14 * bit c.funcMask
  | 4 => 2 ^ 15 * bit c.ats
  | 8 => bit c.pasid
  | 12 => if f = 0 then 32 * Nat.log2 (s.pcie.mps / 128) + 4096 * Nat.log2 (s.pcie.mrrs / 128) else 0
  | 16 => if f = 0 then 8 * bit (s.pcie.rcb == 128) else 0
  | 20 => if f = 0 then s.pcie.ctoValue + 16 * bit s.pcie.ctoDisable else 0
  | _ => 0

/-- A 32-bit read of a window of function `f` at an aligned offset; only the PF has the last three windows (R16). -/
def readReg (s : State) (f : Nat) (w : Window) (off : Nat) : Nat :=
  if off % 4 ≠ 0 then 0
  else match w with
    | .mailbox => mailboxRead s f off
    | .safety => if f = 0 then safetyRead s off else 0
    | .power => if f = 0 then powerRead s off else 0
    | .recorder => if f = 0 then (recorderWords s.amber).getD (off / 4) 0 else 0
    | .config => configRead s f off

end Sys2Proof.Machine
end

