-- ==== Sys2Proof/Machine/Operands.lean ====
section
/-! DEFINITION. The operands of a message: the header (R27), the opcodes (R58), the fields of each body with their
ranges (chapter 03), and the checks of R35 steps 1 to 8, in their order. -/

namespace Sys2Proof.Machine

/-! ## Refusals -/

/-- Why a message, or a structure it names, is refused: its status, ERR_OFFSET and RESULT (R48, R55). -/
structure Refuse where
  st     : Status
  off    : Nat
  result : List Byte
  deriving DecidableEq, Repr

/-- The outcome of a check. -/
abbrev Check := Option Refuse

/-- ERR_OFFSET names a field for a malformed status and for ST_DMA_ADDR_DENIED only (R48). -/
def errOffset (st : Status) (off : Nat) : Nat :=
  if statusClass st = 1 ∨ st = .dmaAddrDenied then off else 0xFFFF

/-- Refuses with a status, naming the field at `off`, when the condition holds. -/
def failIf (bad : Bool) (st : Status) (off : Nat := 0xFFFF) : Check :=
  if bad then some { st := st, off := errOffset st off, result := [] } else none

/-- The refusal of a structure check: the failing field's offset in the structure and in the message (R55). -/
def failStruct (bad : Bool) (st : Status) (field msgOff : Nat) : Check :=
  if bad then some { st := st, off := 0xFFFF, result := zeros 24 ++ leBytes 4 field ++ leBytes 4 msgOff } else none

/-- A check that needs an object: refused with ST_BAD_REFERENCE at `off` when there is none. -/
def withRef {α : Type} (x : Option α) (off : Nat) (k : α → Check) : Check :=
  match x with
  | none => failIf true .badReference off
  | some a => k a

/-- What a failed host read refuses with (R55, R390). -/
def readFailed {α : Type} (r : HostRead α) : Check :=
  match r with
  | .data _ => none
  | _ => failIf true .faultHostDma

/-! ## Field layouts -/

/-- The range of a body field (R37, R38). -/
inductive FieldKind where
  | any
  | within (ranges : List (Nat × Nat)) (step : Nat)
  | flags (mask : Nat)
  | aligned (step : Nat)
  | unit
  deriving DecidableEq, Repr

/-- A field of a body: its offset, its size in bytes and its range. -/
structure FieldSpec where
  off  : Nat
  size : Nat
  kind : FieldKind
  deriving DecidableEq, Repr

/-- A field that takes `lo` to `hi`. -/
def fRange (off size lo hi : Nat) : FieldSpec := { off := off, size := size, kind := .within [(lo, hi)] 1 }

/-- A field that takes the multiples of `step` from `lo` to `hi`. -/
def fStep (off size lo hi step : Nat) : FieldSpec := { off := off, size := size, kind := .within [(lo, hi)] step }

/-- A field of flag bits. -/
def fFlags (off size mask : Nat) : FieldSpec := { off := off, size := size, kind := .flags mask }

/-- An address field. -/
def fAddr (off al : Nat) : FieldSpec := { off := off, size := 8, kind := .aligned al }

/-- A field that takes any value, a handle among them. -/
def fAny (off size : Nat) : FieldSpec := { off := off, size := size, kind := .any }

/-- The value of a field in a message. -/
def fieldVal (b : List Byte) (x : FieldSpec) : Nat := le b x.off x.size

/-- The reserved bits of a body, in offset order: the gaps between fields from `pos` to `len`, and the bits of a flags
field outside its mask (R38). A nonzero gap is named by its first byte. -/
def reservedCheck (b : List Byte) (len : Nat) : Nat → List FieldSpec → Check
  | pos, [] => failIf (le b pos (len - pos) ≠ 0) .reservedNonzero pos
  | pos, x :: xs => firstSome
      [failIf (le b pos (x.off - pos) ≠ 0) .reservedNonzero pos,
       (match x.kind with
        | .flags mask => failIf (fieldVal b x ||| mask ≠ mask) .reservedNonzero x.off
        | _ => none),
       reservedCheck b len (x.off + x.size) xs]

/-- The range or alignment of one field (R37). -/
def rangeCheck (b : List Byte) (x : FieldSpec) : Check :=
  let v := fieldVal b x
  match x.kind with
  | .within rs step =>
    failIf (!(rs.any fun r => decide (r.1 ≤ v ∧ v ≤ r.2)) || v % step != 0) .fieldRange x.off
  | .aligned al => failIf (v % al ≠ 0) .badAlignment x.off
  | .unit => failIf (unitOfCode v = none) .fieldRange x.off
  | _ => none

/-! ## Opcodes (R58) -/

/-- The States column of R58. -/
inductive OpStates where
  | run
  | runHold
  | serve
  deriving DecidableEq, Repr

/-- One row of R58. -/
structure OpInfo where
  len    : Nat
  pfOnly : Bool
  states : OpStates
  resp   : Bool
  deriving DecidableEq, Repr

/-- The opcodes of protocol revision 2 (R58). -/
def opInfo : Nat → Option OpInfo
  | 0x0101 => some ⟨80, true, .run, false⟩
  | 0x0102 => some ⟨64, true, .run, false⟩
  | 0x0103 => some ⟨40, true, .run, false⟩
  | 0x0104 => some ⟨40, false, .run, true⟩
  | 0x0201 => some ⟨64, false, .run, false⟩
  | 0x0202 => some ⟨40, false, .run, false⟩
  | 0x0203 => some ⟨40, false, .run, false⟩
  | 0x0301 => some ⟨64, false, .run, false⟩
  | 0x0302 => some ⟨64, false, .run, false⟩
  | 0x0303 => some ⟨40, false, .run, false⟩
  | 0x0401 => some ⟨64, false, .run, false⟩
  | 0x0402 => some ⟨64, false, .run, false⟩
  | 0x0403 => some ⟨64, false, .run, false⟩
  | 0x0404 => some ⟨64, false, .run, false⟩
  | 0x0405 => some ⟨40, false, .run, false⟩
  | 0x0406 => some ⟨64, false, .run, false⟩
  | 0x0407 => some ⟨40, false, .run, false⟩
  | 0x0408 => some ⟨40, false, .run, false⟩
  | 0x0801 => some ⟨64, false, .run, false⟩
  | 0x0802 => some ⟨40, false, .run, false⟩
  | 0x0501 => some ⟨64, false, .run, true⟩
  | 0x0502 => some ⟨40, false, .run, true⟩
  | 0x0503 => some ⟨40, false, .run, false⟩
  | 0x0601 => some ⟨80, false, .serve, false⟩
  | 0x0602 => some ⟨48, false, .run, false⟩
  | 0x0603 => some ⟨48, false, .run, true⟩
  | 0x0701 => some ⟨48, false, .run, false⟩
  | 0x0702 => some ⟨48, false, .run, false⟩
  | 0x0703 => some ⟨48, false, .run, false⟩
  | 0x0704 => some ⟨48, false, .run, false⟩
  | 0x0705 => some ⟨48, false, .run, false⟩
  | 0x0901 => some ⟨48, false, .runHold, true⟩
  | 0x0902 => some ⟨40, false, .runHold, true⟩
  | 0x0A01 => some ⟨32, true, .runHold, true⟩
  | 0x0A02 => some ⟨48, true, .run, false⟩
  | 0x0A03 => some ⟨40, true, .runHold, false⟩
  | 0x0A04 => some ⟨32, true, .runHold, false⟩
  | 0x0B01 => some ⟨48, true, .run, false⟩
  | 0x0B02 => some ⟨32, true, .run, false⟩
  | 0x0C01 => some ⟨48, true, .runHold, true⟩
  | 0x0D01 => some ⟨64, true, .runHold, false⟩
  | 0x0D02 => some ⟨48, true, .runHold, false⟩
  | 0x0D03 => some ⟨40, true, .runHold, true⟩
  | _ => none

/-- Whether a state is in a group of R58. -/
def stateAllows (m : ModState) : OpStates → Bool
  | .run => runState m
  | .runHold => runState m || decide (m = .safeHold)
  | .serve => decide (m = .serving ∨ m = .degraded)

/-- The opcodes a suspended partition may still send (R62). -/
def suspendedMay (op : Nat) : Bool := [0x0104, 0x0901, 0x0902, 0x0602, 0x0503].contains op

/-- The SHARED flag bit of a FLAGS field is reserved on a VF (R52). -/
def sharedMask (f mask bitNo : Nat) : Nat := if f = 0 then mask else setBit mask bitNo false

/-- The largest usable T2 page count of a part (R59, R261). -/
def t2Max (s : State) : Nat := t2Usable s.ident.part

/-- The fields that PARTITION_CREATE and PARTITION_SET_QUOTA share, from byte 40 to byte 55 (R59, R61). -/
def quotaFields (s : State) : List FieldSpec :=
  [fRange 40 4 0 983040, fRange 44 4 0 (t2Max s), fRange 48 2 0 1000, fRange 50 2 0 1000, fRange 52 2 0 8192,
   fRange 54 2 1 1000]

/-- The body fields of an opcode, in offset order, for a message of function `f` (chapter 03). -/
def bodyFields (s : State) (f : Nat) (b : List Byte) : Nat → List FieldSpec
  | 0x0101 =>
    [{ off := 32, size := 1, kind := .within [(1, 32), (255, 255)] 1 }, fFlags 33 1 3, fRange 34 1 0 3,
     fRange 36 4 0 (if byteAt b 33 / 2 % 2 = 1 then 0xFFFFF else 0)] ++ quotaFields s ++
    [fStep 56 4 0 130048 64, fAny 64 8]
  | 0x0102 => [fRange 32 1 0 32, fRange 34 1 0 3] ++ quotaFields s
  | 0x0103 => [fRange 32 1 1 32, fRange 33 1 1 3]
  | 0x0104 => [{ off := 32, size := 1, kind := .within [(0, 32), (255, 255)] 1 }]
  | 0x0201 => [fAddr 32 4096, fRange 40 8 4096 34359738368, fRange 48 1 1 2, fFlags 49 1 (sharedMask f 3 1)]
  | 0x0202 => [fAny 32 4, fRange 36 1 1 2]
  | 0x0203 => [fAny 32 4]
  | 0x0301 =>
    [fRange 32 4 1 2147483648, fRange 36 2 1 1024, fRange 38 1 0 1, fRange 39 1 0 2,
     fRange 40 8 0 (if byteAt b 39 = 1 then 2 ^ 64 - 1 else 0),
     fRange 48 4 0 (if byteAt b 39 = 2 then 2 ^ 32 - 1 else 0),
     fRange 52 4 0 (if byteAt b 39 = 2 then 2 ^ 32 - 1 else 0), fFlags 56 1 (sharedMask f 1 0)]
  | 0x0302 => [fAny 32 4, fAny 36 4, fRange 40 4 1 2147483648, fAddr 48 64, fAny 56 8]
  | 0x0303 => [fAny 32 4]
  | 0x0401 =>
    [fRange 32 4 1 1048576, { off := 36, size := 1, kind := .within [(32, 32), (64, 64)] 1 }, fRange 37 1 0 2,
     fFlags 38 1 (sharedMask f 1 0), fRange 39 1 0 (byteAt b 40 - 1), fRange 40 1 1 8, fRange 44 4 0 4194304,
     fRange 48 8 1 12884901888]
  | 0x0402 =>
    [fAny 32 4, fAny 36 2, fFlags 38 1 1, fAddr 40 4096,
     fStep 48 8 4096 17179869184 (if byteAt b 38 % 2 = 1 then 1 else 4096)]
  | 0x0403 => [fAny 32 4, fRange 36 4 1 65536, fAddr 40 64, fRange 48 8 64 8388608]
  | 0x0404 => [fAny 32 4, fRange 36 4 1 65536, fAddr 40 8, fRange 48 8 64 8388608]
  | 0x0405 => [fAny 32 4]
  | 0x0406 => [fAny 32 4, fAddr 40 4096, fAny 48 8]
  | 0x0407 => [fAny 32 4]
  | 0x0408 => [fAny 32 4]
  | 0x0801 =>
    [fAny 32 4, fRange 36 4 1 65536, fAddr 40 4, fRange 48 4 4 262144, fRange 52 1 0 2,
     fFlags 53 1 (sharedMask f 1 0)]
  | 0x0802 => [fAny 32 4]
  | 0x0501 => [fAddr 32 64, fRange 40 4 256 65536, fFlags 44 2 1]
  | 0x0502 => [fAny 32 4]
  | 0x0503 => [fAny 32 4, fRange 36 1 1 2]
  | 0x0601 => [fAny 32 4, fRange 36 4 64 4096, fAny 40 8, fAddr 48 64, fAddr 56 4096, fRange 64 4 4096 67108864]
  | 0x0602 => [fAny 32 8, fAny 40 4]
  | 0x0603 => [fAny 32 4, fRange 36 4 0 8191, fRange 40 4 1 8192]
  | 0x0701 => [fRange 32 4 1 131072, fAny 36 4]
  | 0x0702 => [fRange 32 4 0 131071, fRange 36 4 1 131072]
  | 0x0703 => [fRange 32 4 0 131071, fRange 36 4 1 0xFFFFFFFE]
  | 0x0704 => [fRange 32 4 0 131071, fAny 36 4, fRange 40 4 0 10000000]
  | 0x0705 => [fRange 32 4 0 131071, fRange 36 4 1 8]
  | 0x0901 =>
    let subject := match le b 32 2 with
      | 2 => fRange 36 4 0 32
      | 3 => fAny 36 4
      | 6 => fRange 36 4 0 32
      | _ => fRange 36 4 0 0
    [fRange 32 2 1 6, subject] ++ (if le b 32 2 = 6 then [fFlags 40 8 0x1FFFFFFFF] else [])
  | 0x0902 => [{ off := 32, size := 1, kind := .within [(0, 32), (255, 255)] 1 }]
  | 0x0A02 => [fRange 32 2 1 0x1A, { off := 34, size := 2, kind := .unit }, fRange 36 1 1 2]
  | 0x0A03 => [{ off := 32, size := 2, kind := .unit }, fRange 34 1 1 2]
  | 0x0B01 =>
    [{ off := 32, size := 1, kind := .within [(4, 6), (8, 8)] 1 }, fRange 33 1 0 1, fRange 34 1 25 75,
     fRange 36 2 500 780, fRange 38 2 500 780, fRange 40 2 500 780, fRange 42 2 500 780]
  | 0x0C01 => [fRange 32 1 0 1, fRange 36 4 1 65536, fAny 40 8]
  | 0x0D01 => [fStep 32 4 0 16773120 4096, fStep 36 4 4096 1048576 4096, fAddr 40 4096, fFlags 48 1 1]
  | 0x0D02 => [fRange 32 4 4096 16777216]
  | _ => []

/-! ## Steps 1 to 5 of R35 -/

/-- Step 1: the header, in offset order. -/
def headerCheck (b : List Byte) : Check := firstSome
  [failIf (le b 4 2 < 32 || 256 < le b 4 2) .badLength 4,
   failIf (le b 6 2 / 2 ≠ 0) .reservedNonzero 6,
   failIf (byteAt b 20 ≠ 2) .badProtocol 20,
   failIf (le b 21 3 ≠ 0) .reservedNonzero 21]

/-- Step 2: the opcode and its defined length. -/
def opcodeCheck (b : List Byte) : Check :=
  match opInfo (le b 0 2) with
  | none => failIf true .badOpcode 0
  | some i => failIf (le b 4 2 ≠ i.len) .badLength 4

/-- Step 3: the function and its partition. -/
def functionCheck (s : State) (f op : Nat) : Check :=
  let pf := match opInfo op with
    | some i => i.pfOnly
    | none => false
  firstSome
    [failIf (pf && decide (f ≠ 0)) .pfOnly,
     (match partOf s f with
      | none => failIf true .partitionNotOpen
      | some p => failIf (p.suspended && !suspendedMay op) .partitionSuspended)]

/-- Step 4: the module state. -/
def stateCheck (s : State) (op : Nat) : Check :=
  match opInfo op with
  | some i => failIf (!stateAllows s.boot.state i.states) .stateNotServing
  | none => none

/-- Step 5: the reserved bits of the body, then its ranges and alignments. -/
def bodyCheck (s : State) (f op : Nat) (b : List Byte) : Check :=
  let fs := bodyFields s f b op
  firstSome (reservedCheck b (le b 4 2) 32 fs :: fs.map (rangeCheck b))

/-- Steps 1 to 5 of R35. -/
def commonCheck (s : State) (f : Nat) (b : List Byte) : Check :=
  let op := le b 0 2
  firstSome [headerCheck b, opcodeCheck b, functionCheck s f op, stateCheck s op, bodyCheck s f op b]

/-! ## Steps 7 and 8 of R35 -/

/-- Step 7 for one host range that the firmware reads (`write` false) or writes, named by the field at `off`. -/
def addrCheck (s : State) (h : HostView) (f : Nat) (write : Bool) (addr len off : Nat) : Check :=
  failIf (dmaDenied s h f (partPasid s f) write addr len) .dmaAddrDenied off

/-- Step 8: the response buffer, for a largest response of `need` bytes. -/
def respCheck (s : State) (h : HostView) (f need : Nat) (b : List Byte) : Check :=
  let addr := le b 8 8
  let len := le b 16 4
  firstSome
    [failIf (addr = 0) .respBufferSmall 8,
     failIf (addr % 8 ≠ 0) .badAlignment 8,
     failIf (16777216 < len) .fieldRange 16,
     failIf (len < need) .respBufferSmall 16,
     addrCheck s h f true addr len 8]

end Sys2Proof.Machine
end

