-- ==== Sys2Proof/Machine/MailboxUnit.lean ====
section
/-! DEFINITION. The mailboxes (chapter 02): index observation, ring fetches, ring enables, mailbox reset, register
writes, and the path every message takes from the head of its channel to its completion. -/

namespace Sys2Proof.Machine

/-! ## Starting messages (R31, R41, R47) -/

/-- Whether the firmware serves the mailbox of function `f`: it observes and starts (R44, R45, R404). -/
def mbServes (s : State) (f : Nat) : Bool :=
  let st := (mbOf s f).st
  funcExists s f && served s && st.running && !st.halted && !st.resetBusy

/-- Whether a completion entry can be reserved, with sixteen held back for events (R31). -/
def canReserve (s : State) (f : Nat) : Bool :=
  let r := (mbOf s f).cq
  r.active && decide (cqOut r + ringMsgs s f + 16 < ringSize r)

/-- The message at the head of a channel: the submitted one that its consumer index names. -/
def headOf (s : State) (f : Nat) (src : Src) : Option MsgIn :=
  let mb := mbOf s f
  match src with
  | .inl => mb.inlQ.head?
  | .ring => match mb.sqQ with
    | m :: _ => if m.index = mb.sq.devIdx then some m else none
    | [] => none

/-- The opcode of a message. -/
def opcodeOf (m : MsgIn) : Nat := le m.bytes 0 2

/-- Whether the head message of a channel may start now: the mailbox is served, a ring message can reserve its entry
(R31), and an ORDERED one has no earlier message of its channel open (R41). -/
def mayStart (s : State) (f : Nat) (src : Src) (m : MsgIn) : Bool :=
  mbServes s f && (decide (src = .inl) || canReserve s f) &&
  (byteAt m.bytes 6 % 2 == 0 || !(s.msgs.any fun o => o.f == f && decide (o.src = src)))

/-- What the firmware knows of a message it has started. -/
structure MsgCtx where
  id    : Nat
  f     : Nat
  src   : Src
  origin : Nat
  bytes : List Byte
  obsTs : Nat
  deriving DecidableEq, Repr

/-- The context of the message that starts next. -/
def ctxOf (s : State) (f : Nat) (src : Src) (m : MsgIn) : MsgCtx :=
  let origin := match src with
    | .inl => m.index % 8
    | .ring => m.index
  { id := s.nextMsg, f := f, src := src, origin := origin, bytes := m.bytes, obsTs := m.obsTs }

/-- Starts the head message of a channel: its consumer index passes it (R47). -/
def startMsg (s : State) (x : MsgCtx) : State :=
  let o : OpenMsg :=
    { id := x.id, f := x.f, src := x.src, origin := x.origin, opcode := le x.bytes 0 2, tag := le x.bytes 2 2,
      cookie := le x.bytes 24 8, respAddr := le x.bytes 8 8 }
  let s := updMb s x.f fun mb => match x.src with
    | .inl => { mb with inl := { mb.inl with ci := (mb.inl.ci + 1) % 16 }, inlQ := mb.inlQ.drop 1 }
    | .ring => { mb with sq := { mb.sq with devIdx := (mb.sq.devIdx + 1) % (2 * ringSize mb.sq) }, sqQ := mb.sqQ.drop 1 }
  { s with msgs := s.msgs ++ [o], nextMsg := s.nextMsg + 1 }

/-- Counts a CASE_SUBMIT refused at validation, for the module, the partition and the contract (R14, R143, R126). -/
def countRefused (s : State) (x : MsgCtx) (st : Status) : State :=
  if le x.bytes 0 2 ≠ 0x0601 then s
  else
    let limit := bit (st == .caseLimit)
    let s := updTelem s fun t => { t with submitRefused := t.submitRefused + 1, limitRefused := t.limitRefused + limit }
    let s := updStats s x.f fun p =>
      { p with limitRefused := p.limitRefused + limit, quotaRefused := p.quotaRefused + bit (st == .partitionCaseQuota) }
    if st = .arrivalExceeded then
      updContract s (le x.bytes 32 4) fun k => { k with stats := { k.stats with arrivalRefused := k.stats.arrivalRefused + 1 } }
    else s

/-- Completes a message that a check refuses: a security status and a failed host read are recorded (R48, R55). -/
def reject (s : State) (x : MsgCtx) (r : Refuse) : State :=
  let op := leBytes 2 (le x.bytes 0 2)
  let s := countRefused s x r.st
  let s := if statusClass r.st = 6 then
      recordFunc s x.f 0x0103 (op ++ leBytes 2 (statusCode r.st) ++ leBytes 2 (le x.bytes 2 2))
    else s
  complete s x.id r.st r.off r.result

/-- The AER status bit of a failed read (R370, R390). -/
def aerBit {α : Type} : HostRead α → Nat
  | .data _ => 0
  | .ur => 2 ^ 20
  | .ca => 2 ^ 15
  | .timeout => 2 ^ 14
  | .poison => 2 ^ 12

/-- The HOST_DMA record of a failed read for a message. -/
def hostDmaRecord {α : Type} (s : State) (x : MsgCtx) (r : HostRead α) : State :=
  if aerBit r = 0 then s
  else recordFunc s x.f 0x0104 (leBytes 2 (le x.bytes 0 2) ++ zeros 8 ++ leBytes 4 (aerBit r))

/-- Refuses a message by the first check that fails, and otherwise applies it (R34). -/
def settle (s : State) (x : MsgCtx) (c : Check) (apply : State → State) : State :=
  match c with
  | some r => reject s x r
  | none => apply s

/-- `settle` for a message that reads `len` bytes of host memory at `addr`, which answers `r`: the read leaves once every
check before it has passed, and a failed one is recorded (R54, R55). -/
def settleRead {α : Type} (s : State) (x : MsgCtx) (addr len : Nat) (r : HostRead α) (c : Check)
    (apply : State → State) : State :=
  match c with
  | some e => reject (if e.st = .faultHostDma then hostDmaRecord (hostRead s x.f addr len) x r else s) x e
  | none => apply (hostRead s x.f addr len)

/-- Serves the messages at the head of a channel whose OPCODE no row of R58 names: they are refused at once. -/
def serveStrays (f : Nat) (src : Src) : Nat → State → State
  | 0, s => s
  | n + 1, s => match headOf s f src with
    | none => s
    | some m =>
      if (opInfo (opcodeOf m)).isNone && mayStart s f src m then
        let x := ctxOf s f src m
        let s := startMsg s x
        serveStrays f src n (settle s x (commonCheck s f m.bytes) id)
      else s

/-- `serveStrays` over all that is submitted on a channel. -/
def sweepStrays (s : State) (f : Nat) (src : Src) : State :=
  serveStrays f src ((mbOf s f).inlQ.length + (mbOf s f).sqQ.length) s

/-- An opcode's command: it starts the head message of its channel when that message carries the opcode, may start, and
is not `held` behind another message on its object (R42). Steps 1 to 5 of R35 come first, then `k`. -/
def onMessage (s : State) (f : Nat) (src : Src) (op : Nat) (held : List Byte → Bool) (k : State → MsgCtx → State) :
    Res :=
  guardUnit (decide (f < 33)) <| .next <|
    match headOf s f src with
    | none => s
    | some m =>
      if opcodeOf m = op ∧ mayStart s f src m ∧ held m.bytes = false then
        let x := ctxOf s f src m
        let s := startMsg s x
        sweepStrays (settle s x (commonCheck s f m.bytes) fun s => k s x) f src
      else s

/-- A message that no other one can hold. -/
def notHeld (_ : List Byte) : Bool := false

/-- RESULT bytes at their offsets, each (offset, size, value) of a rule little-endian and the rest zero (R407). -/
def resultAt (parts : List (Nat × Nat × Nat)) : List Byte :=
  parts.foldl (fun r p => putBytes r p.1 (leBytes p.2.1 p.2.2)) (zeros 32)

/-- Writes the response of a message and completes it: at most the bytes given (R57). -/
def respond (s : State) (x : MsgCtx) (b result : List Byte) : State :=
  complete (hostWrite s x.f (le x.bytes 8 8) b) x.id .ok 0xFFFF result b.length

/-! ## Observation (R22 to R24, R404) -/

/-- Whether the firmware observes index writes of function `f` now; in D3hot it observes none (R390). -/
def observes (s : State) (f : Nat) : Bool := mbServes s f && !s.pcie.d3hot

/-- Whether a producer index is valid on a channel of `n` entries (R23). -/
def validPi (n seen ci p : Nat) : Bool :=
  let m := 2 * n
  decide (p ≤ m - 1 ∧ (p + m - seen) % m ≤ n - (seen + m - ci) % m)

/-- The indices from `a` up to but not including `b`, on a channel of `n` entries. -/
def indicesFrom (n a b : Nat) : List Nat :=
  (List.range ((b + 2 * n - a) % (2 * n))).map fun i => (a + i) % (2 * n)

/-- Copies a newly submitted inline slot and takes its ownership (R26). -/
def takeSlot (ts : Nat) (mb : Mailbox) (i : Nat) : Mailbox :=
  { mb with
    inl := { mb.inl with slotOwn := setBit mb.inl.slotOwn (i % 8) true }
    inlQ := mb.inlQ ++ [{ index := i, bytes := mb.inl.slots.getD (i % 8) [], obsTs := ts }] }

/-- INL_PI_OBSERVED (R22, R23, R26). -/
def execInlPiObserved (f : Nat) (s : State) : Res :=
  guardUnit (decide (f < 33)) <| .next <|
    let c := (mbOf s f).inl
    if !observes s f ∨ c.pi = c.seen then s
    else if validPi 8 c.seen c.ci c.pi then
      let s := updMb s f fun mb =>
        (indicesFrom 8 c.seen c.pi).foldl (takeSlot s.tclk) { mb with inl := { mb.inl with seen := c.pi } }
      sweepStrays s f .inl
    else haltMailbox s f 1 c.pi

/-- SQ_PI_OBSERVED (R22, R23): the entries become submitted, and their DMA fetches wait. An inactive ring's index is
never observed (R21). -/
def execSqPiObserved (f : Nat) (s : State) : Res :=
  guardUnit (decide (f < 33)) <| .next <|
    let r := (mbOf s f).sq
    if !observes s f ∨ !r.active ∨ r.hostIdx = r.seen then s
    else if validPi (ringSize r) r.seen r.devIdx r.hostIdx then
      updMb s f fun mb =>
        { mb with
          sq := { mb.sq with seen := r.hostIdx }
          sqFetch := mb.sqFetch ++ (indicesFrom (ringSize r) r.seen r.hostIdx).map fun i => (i, s.tclk) }
    else haltMailbox s f 2 r.hostIdx

/-- CQ_CI_OBSERVED (R22, R24): the consumed completion entries are free again. -/
def execCqCiObserved (f : Nat) (s : State) : Res :=
  guardUnit (decide (f < 33)) <| .next <|
    let r := (mbOf s f).cq
    let m := 2 * ringSize r
    if !observes s f ∨ !r.active ∨ r.hostIdx = r.seen then s
    else if r.hostIdx ≤ m - 1 ∧ (r.hostIdx + m - r.seen) % m ≤ (r.devIdx + m - r.seen) % m then
      sweepStrays (updMb s f fun mb => { mb with cq := { mb.cq with seen := r.hostIdx } }) f .ring
    else haltMailbox s f 3 r.hostIdx

/-- Where index `i` stands in the order of a submission channel of `n` entries whose consumer index is `ci`. -/
def orderKey (n ci i : Nat) : Nat := (i + 2 * n - ci) % (2 * n)

/-- The bytes of a ring entry that are its message: the firmware reads the LENGTH bytes and no more (R20, R49). An entry whose
LENGTH is no message's length is read as a header alone, which is what its check reads (log 142). -/
def messageOf (b : List Byte) : List Byte :=
  let n := le b 4 2
  b.take (if 32 ≤ n ∧ n ≤ 256 then n else 32)

/-- Takes the entry of index `i` off the list of fetches. -/
def dropFetch (s : State) (f i : Nat) : State :=
  updMb s f fun mb => { mb with sqFetch := mb.sqFetch.filter fun e => e.1 != i }

/-- Whether the firmware runs the mailbox of function `f`, halted or not. -/
def mbRuns (s : State) (f : Nat) : Bool :=
  let st := (mbOf s f).st
  funcExists s f && served s && st.running && !st.resetBusy

/-- The read of ring entry `i`, at its address and under the ring's PASID, of the `len` bytes of its message (R17, R20). -/
def fetchRead (s : State) (f i len : Nat) : State :=
  let q := (mbOf s f).sq
  emit s (.hostRead f (activePasid s f q) (entryAddr q 256 i) len)

/-- The fetch of ring entry `i` ends (R26, R44, R390): its content is the message, or the mailbox halts; one that is halted
already records the further cause. The firmware fetches only while a completion entry can be reserved (R31). -/
def endFetch (s : State) (f i : Nat) (r : HostRead (List Byte)) : State :=
  match (mbOf s f).sqFetch.find? fun e => e.1 == i with
  | none => s
  | some e =>
    match r with
    | .data b =>
      if !mbServes s f ∨ !canReserve s f then s
      else
        let s := fetchRead (dropFetch s f i) f i (messageOf b).length
        let n := ringSize (mbOf s f).sq
        let ci := (mbOf s f).sq.devIdx
        let m : MsgIn := { index := i, bytes := messageOf b, obsTs := e.2 }
        let ahead (a c : MsgIn) : Bool := decide (orderKey n ci a.index < orderKey n ci c.index)
        sweepStrays (updMb s f fun mb => { mb with sqQ := insertBy ahead m mb.sqQ }) f .ring
    | _ =>
      if !mbRuns s f then s
      else haltMailbox (fetchRead (dropFetch s f i) f i 32) f 4 0

/-- SQ_ENTRY_FETCH_COMPLETE (R26, R44). -/
def execSqEntryFetchComplete (f index : Nat) (r : HostRead (List Byte)) (s : State) : Res :=
  guardUnit (decide (f < 33)) (.next (endFetch s f index r))

/-! ## Mailbox reset (R45, R46) -/

/-- The registers of a mailbox after a reset (R45): all at their reset values but COMPL_DROPPED and EVT_LOST. The slot
memories and the MSI-X structures are no mailbox registers. -/
def resetRegs (mb : Mailbox) (dropped : Nat) : Mailbox :=
  let ev := { MbEvents.reset with
    evtLost := mb.ev.evtLost, complDropped := (mb.ev.complDropped + dropped) % 2 ^ 32, msix := mb.ev.msix, pba := mb.ev.pba }
  { Mailbox.reset with
    st := { Mailbox.reset.st with running := true }
    inl := { InlineChan.reset with slots := mb.inl.slots, responses := mb.inl.responses }
    ev := ev }

/-- A write of 1 to MB_RESET (R45): the completions not yet written are discarded and counted, the entries not started
are discarded, armed waits are disarmed (R149), and the reset completes with the admin vector. With no firmware running it stays busy. -/
def resetMailbox (s : State) (f : Nat) : State :=
  let n := (s.msgs.filter fun m => m.f == f).length
  let s := { s with msgs := s.msgs.filter fun m => m.f != f, waits := s.waits.filter fun w => w.owner != f }
  if s.safety.pairA && s.safety.pairB then
    updMb s f fun mb =>
      { mb with st := { mb.st with resetBusy := true }
                ev := { mb.ev with complDropped := (mb.ev.complDropped + n) % 2 ^ 32 } }
  else fireVector (updMb s f fun mb => resetRegs mb n) f 3

/-- Whether a host write to the mailbox window of function `f` reaches its registers (R16, R405, R45, R390). -/
def windowOpen (s : State) (f : Nat) : Bool :=
  funcExists s f && s.pcie.linkUp && !s.pcie.d3hot && served s && !(mbOf s f).st.resetBusy

/-- Whether a host read of the mailbox window of function `f` reaches its registers: R405 and R45 stop writes only. -/
def windowReadable (s : State) (f : Nat) : Bool := funcExists s f && s.pcie.linkUp && !s.pcie.d3hot

/-- MB_RESET (R45). -/
def execMbReset (f : Nat) (s : State) : Res :=
  guardUnit (decide (f < 33)) <| .next <| if windowOpen s f then resetMailbox s f else s

/-! ## Ring enables (R18 to R21) -/

/-- The configuration that a ring's registers hold. -/
def ringCfgOf (r : Ring) : RingCfg :=
  { base := r.baseLo + 2 ^ 32 * r.baseHi, log2 := r.log2, pasidEn := r.pasidEn, pasid := r.pasid }

/-- Whether a ring's range fails the DMA check with the PASID it will carry (R17, R19, R20). -/
def ringDenied (s : State) (f : Nat) (h : HostView) (r : Ring) (write : Bool) (entry : Nat) : Bool :=
  dmaDenied s h f (ringPasid s f r.pasidEn r.pasid) write (ringCfgOf r).base (2 ^ r.log2 * entry)

/-- CFG_ERR of an enable, in the order in which R19 lists its causes; 0 for a success. -/
def enableError (sizeBad denied noCq active idxBad : Bool) : Nat :=
  if sizeBad then 2 else if denied then 3 else if noCq then 4 else if active then 5 else if idxBad then 6 else 0

/-- A ring that has just been enabled (R18, R21). -/
def enabled (r : Ring) : Ring := { r with active := true, cfg := ringCfgOf r, devIdx := 0, seen := 0 }

/-- SQ_ENABLE (R18, R19, R21). Written with CQ_ENABLE in one write it follows it, and a success then leaves that
enable's CFG_ERR. -/
def execSqEnable (f : Nat) (withCq : Bool) (h : HostView) (s : State) : Res :=
  guardUnit (decide (f < 33)) <| .next <|
    let mb := mbOf s f
    let r := mb.sq
    if !windowOpen s f ∨ !mb.st.running then s
    else
      let e := enableError (!decide (4 ≤ r.log2 ∧ r.log2 ≤ 12)) (ringDenied s f h r false 256) (!mb.cq.active) r.active
        (r.hostIdx != 0)
      if e = 0 then
        learnGrants (updMb s f fun mb =>
          { mb with sq := enabled mb.sq, st := { mb.st with cfgErr := if withCq then mb.st.cfgErr else 0 } }) f h
      else updMb s f fun mb => { mb with st := { mb.st with cfgErr := e } }

/-- CQ_ENABLE (R18, R19, R21). -/
def execCqEnable (f : Nat) (h : HostView) (s : State) : Res :=
  guardUnit (decide (f < 33)) <| .next <|
    let mb := mbOf s f
    let r := mb.cq
    if !windowOpen s f ∨ !mb.st.running then s
    else
      let e := enableError (!decide (6 ≤ r.log2 ∧ r.log2 ≤ 16)) (ringDenied s f h r true 64) false r.active
        (r.hostIdx != 0)
      if e = 0 then
        learnGrants (updMb s f fun mb => { mb with cq := enabled mb.cq, st := { mb.st with cfgErr := 0 } }) f h
      else updMb s f fun mb => { mb with st := { mb.st with cfgErr := e } }

/-! ## Registers with behaviour of their own (R3 to R5) -/

/-- The event register after a write of ones, with the bits the device sets in the same cycle (R4). -/
def clearEvents (ev : MbEvents) (mask same : Nat) : MbEvents :=
  let b (i : Nat) (x : Bool) : Bool := (x && !mask.testBit i) || same.testBit i
  { ev with contractEvt := b 1 ev.contractEvt, faultEvt := b 2 ev.faultEvt, adminEvt := b 3 ev.adminEvt,
            evtOverflow := b 4 ev.evtOverflow }

/-- EVENT_PENDING_CLEAR (R3, R4). -/
def execEventPendingClear (f mask same : Nat) (s : State) : Res :=
  guardUnit (decide (f < 33)) <| .next <|
    if windowOpen s f then updMb s f fun mb => { mb with ev := clearEvents mb.ev mask same } else s

/-- EVT_LOST_READ (R5): the count before the events of the same cycle, which the field then holds. -/
def execEvtLostRead (f same : Nat) (s : State) : Res :=
  guardUnit (decide (f < 33)) <| .next <|
    if !windowReadable s f then s
    else emit (updMb s f fun mb => { mb with ev := { mb.ev with evtLost := same % 2 ^ 32 } }) (.readValue (mbOf s f).ev.evtLost)

/-- COMPL_DROPPED_READ (R5). -/
def execComplDroppedRead (f same : Nat) (s : State) : Res :=
  guardUnit (decide (f < 33)) <| .next <|
    if !windowReadable s f then s
    else emit (updMb s f fun mb => { mb with ev := { mb.ev with complDropped := same % 2 ^ 32 } })
      (.readValue (mbOf s f).ev.complDropped)

/-- MOD_TIME_EXPIRY (R33): the vector fires for the completions unsignalled, and the counts restart. -/
def execModTimeExpiry (f : Nat) (s : State) : Res :=
  guardUnit (decide (f < 33)) <| .next <|
    if (mbOf s f).ev.unsignalled = 0 then s
    else fireVector (updMb s f fun mb => { mb with ev := { mb.ev with unsignalled := 0 } }) f 0

/-! ## REGISTER_WRITE (R3, R6, R16, R17) -/

/-- Writes word `k` of a ring's registers: BASE_LO holds bits 31:12, the size field `sizeBits` bits, the index
`idxBits`. -/
def writeRing (r : Ring) (sizeBits idxBits v : Nat) : Nat → Ring
  | 0 => { r with baseLo := v / 4096 * 4096 }
  | 1 => { r with baseHi := v }
  | 2 => { r with log2 := v % 2 ^ sizeBits, pasidEn := bitOf v 8, pasid := v / 4096 }
  | 3 => { r with hostIdx := v % 2 ^ idxBits }
  | _ => r

/-- Writes word `k` of an MSI-X entry; only the mask bit of its control word is writable. -/
def writeMsix (e : MsixEntry) (v : Nat) : Nat → MsixEntry
  | 0 => { e with addrLo := v / 4 * 4 }
  | 1 => { e with addrHi := v }
  | 2 => { e with data := v }
  | _ => { e with ctrl := v % 2 }

/-- Sends the pending message of a vector that is no longer masked (R33). -/
def unmaskVector (s : State) (f i : Nat) : State :=
  if (mbOf s f).ev.pba.testBit i && (fnOf s f).msixEnable && !vectorMasked s f i then
    emit (updMb s f fun mb => { mb with ev := { mb.ev with pba := setBit mb.ev.pba i false } }) (.msix f i)
  else s

/-- A 32-bit write to the MSI-X table, which the PCIe endpoint holds (R405). -/
def msixWrite (s : State) (f off v : Nat) : State :=
  let i := (off - 0x3000) / 16
  unmaskVector (updMb s f fun mb =>
    { mb with ev := { mb.ev with msix := modifyAt mb.ev.msix i fun e => writeMsix e v (off % 16 / 4) } }) f i

/-- The configuration of a function after a write of a register of it. The model numbers them: 0 is MSI-X Message Control, with
MSI-X Enable in bit 15 and the Function Mask in bit 14, 4 is the ATS Control register, with its enable in bit 15, and 8 the
PASID Control register, with its enable in bit 0 (log 12). -/
def writeFn (c : PcieFn) (off v : Nat) : PcieFn :=
  match off with
  | 0 => { c with msixEnable := bitOf v 15, funcMask := bitOf v 14 }
  | 4 => { c with ats := bitOf v 15 }
  | 8 => { c with pasid := bitOf v 0 }
  | _ => c

/-- The link settings after a write of a register of the PF: 12 is Device Control, with the Max Payload Size in bits 7:5, at most 512
bytes, and the Max Read Request Size in bits 14:12, at most 4,096 bytes (R389), 16 Link Control, with the Read Completion Boundary in
bit 3 (R110), and 20 Device Control 2, with the Completion Timeout Value in bits 3:0 and Completion Timeout Disable in bit 4 (R390,
log 12). -/
def writeLink (p : Pcie) (off v : Nat) : Pcie :=
  match off with
  | 12 => { p with mps := min 512 (128 * 2 ^ (v / 32 % 8)), mrrs := min 4096 (128 * 2 ^ (v / 4096 % 8)) }
  | 16 => { p with rcb := if bitOf v 3 then 128 else 64 }
  | 20 => { p with ctoValue := v % 16, ctoDisable := bitOf v 4 }
  | _ => p

/-- A 32-bit write to the configuration space of a function: pending messages that are no longer masked are sent (R33). -/
def configWrite (s : State) (f off v : Nat) : State :=
  let p := if f = 0 then writeLink s.pcie off v else s.pcie
  let s := { s with pcie := { p with fns := modifyAt p.fns f fun c => writeFn c off v } }
  (List.range 4).foldl (fun s i => unmaskVector s f i) s

/-- MOD_TIME, in which a value above 1,000 acts as 1,000, stands in the register as it is written. -/
def modWrite (ev : MbEvents) (v : Nat) : MbEvents :=
  { ev with modCount := v % 65536, modTime := v / 65536 % 1024 }

/-- A 32-bit write to a field of the mailbox window with no behaviour of its own. -/
def mailboxWrite (s : State) (f off v : Nat) : State :=
  if 0x40 ≤ off ∧ off < 0x50 then updMb s f fun mb => { mb with sq := writeRing mb.sq 4 13 v ((off - 0x40) / 4) }
  else if 0x60 ≤ off ∧ off < 0x70 then updMb s f fun mb => { mb with cq := writeRing mb.cq 5 17 v ((off - 0x60) / 4) }
  else if off = 0x20 then updMb s f fun mb => { mb with inl := { mb.inl with pi := v % 16 } }
  else if off = 0x34 then updMb s f fun mb => { mb with ev := modWrite mb.ev v }
  else if 0x800 ≤ off ∧ off < 0x1000 then
    updMb s f fun mb => { mb with inl := { mb.inl with
      slots := modifyAt mb.inl.slots ((off - 0x800) / 256) fun b => putBytes b (off % 256) (leBytes 4 v) } }
  else s

/-- REGISTER_WRITE (R3, R6): a 32-bit write at an aligned offset. Read-only fields, reserved bits and the windows with
no RW field ignore it; the fields that act when written have commands of their own. The chapters do not give the width and
alignment of host accesses: the model knows aligned 32-bit ones, ignores any other write and reads 0 at any other offset
(log 143). Configuration space stays writable in D3hot. -/
def execRegisterWrite (f : Nat) (win : Window) (off val : Nat) (s : State) : Res :=
  guardUnit (decide (f < 33)) <| .next <|
    let v := val % 2 ^ 32
    match win with
    | .mailbox =>
      if off % 4 ≠ 0 then s
      else if 0x3000 ≤ off ∧ off < 0x3040 then
        if funcExists s f ∧ s.pcie.linkUp ∧ !s.pcie.d3hot then msixWrite s f off v else s
      else if windowOpen s f then mailboxWrite s f off v else s
    | .config => if funcExists s f ∧ s.pcie.linkUp then configWrite s f off v else s
    | _ => s

end Sys2Proof.Machine
end

