-- ==== Sys2Proof/Machine/Partitions.lean ====
section
/-! DEFINITION. Partitions and quotas (R59 to R63), and what a partition's end frees (R62, R385, R386). -/

namespace Sys2Proof.Machine

/-! ## Freeing what a partition holds -/

/-- Drops the commands that serve BACKGROUND operations which no longer exist. -/
def dropDeadBg (s : State) : State :=
  let dead (c : Cmd) : Bool := match c.serves with
    | .bg op => !(s.bg.any fun b => b.id == op)
    | _ => false
  dropCmds s ((s.sched.cmds.filter dead).map Cmd.id)

/-- Frees the objects of partition `i`, and abandons its BACKGROUND operations (R62, R385). -/
def freeObjects (s : State) (i : Nat) : State :=
  let s := ((s.contracts.filter fun k => k.owner == i).map Contract.handle).foldl removeContract s
  dropDeadBg (abandonBg { s with
    models := s.models.filter fun m => m.owner != i
    tables := s.tables.filter fun t => t.owner != i
    indexes := s.indexes.filter fun x => x.owner != i
    pfxs := s.pfxs.filter fun p => p.owner != i } fun b => b.owner == i)

/-- Returns the cairns of a partition's range to FREE. -/
def freeCairns (s : State) (p : Partition) : State :=
  { s with cairns := s.cairns.filter fun c =>
      !decide (p.cfg.cairnFirst ≤ c.num ∧ c.num < p.cfg.cairnFirst + p.cfg.cairnCount) }

/-- Completes every armed wait of partition `i` (R149). -/
def endWaits (s : State) (i : Nat) (st : Status) : State :=
  let ws := s.waits.filter fun w => w.owner == i
  ws.foldl (fun s w => complete s w.msg st) { s with waits := s.waits.filter fun w => w.owner != i }

/-- Cancels a live case: it ends with ST_CASE_CANCELLED, with no failed stage (R90). -/
def cancelCase (s : State) (c : Case) : State := endCase s c.hd.key .caseCancelled 0

/-- The bits of TIERS for two tiers whose settings are involved (R406). -/
def tierBits (t1 t2 rest : Bool) : Nat := bit t1 + 2 * bit t2 + 4 * bit rest

/-- The tiers in which a partition has a nonzero quota or share. -/
def givenTiers (c : PartCfg) : Nat :=
  tierBits (c.t1Pages != 0 || c.t1Bw != 0) (c.t2Pages != 0 || c.t2Bw != 0) false

/-- Clears the engine time of partition `i` (R142). -/
def clearAccounts (s : State) (i : Nat) : State :=
  updSched s fun d =>
    { d with accounts := d.accounts.filter fun a => a.owner != i, vts := d.vts.filter fun v => v.owner != i }

/-! ## Bodies -/

/-- The settings that bytes 34 and 40 to 55 of a body give (R59, R61). -/
def quotaOf (b : List Byte) (old : PartCfg) : PartCfg :=
  { old with
    levelMax := byteAt b 34, t1Pages := le b 40 4, t2Pages := le b 44 4, t1Bw := le b 48 2, t2Bw := le b 50 2
    caseQuota := le b 52 2, weight := le b 54 2 }

/-- The sum of a setting over the partitions other than `i`. -/
def sumOthers (s : State) (i : Nat) (g : PartCfg → Nat) : Nat :=
  sumNat ((s.parts.filter fun p => p.id != i).map fun p => g p.cfg)

/-- Whether the page quotas of all partitions fit the assignable pages when `i` takes new settings (R60, R268). -/
def pagesFit (s : State) (i : Nat) (c : PartCfg) : Bool :=
  decide (sumOthers s i PartCfg.t1Pages + c.t1Pages ≤ s.mem.t1.assignable ∧
          sumOthers s i PartCfg.t2Pages + c.t2Pages ≤ s.mem.t2.assignable)

/-- Whether the bandwidth shares of all partitions fit when `i` takes new settings (R60). -/
def sharesFit (s : State) (i : Nat) (c : PartCfg) : Bool :=
  decide (sumOthers s i PartCfg.t1Bw + c.t1Bw ≤ 1000 ∧ sumOthers s i PartCfg.t2Bw + c.t2Bw ≤ 1000)

/-- Whether a run of `n` cairns from `a` lies outside every partition's range. -/
def runFree (s : State) (n a : Nat) : Bool :=
  decide (a + n ≤ 131072) && s.parts.all fun p => !overlaps a n p.cfg.cairnFirst p.cfg.cairnCount

/-- The first cairn of the lowest-numbered run of `n` cairns outside every range: it starts at 0 or where a range
ends (R60). -/
def cairnRun (s : State) (n : Nat) : Option Nat :=
  if n = 0 then some 0
  else
    let starts := 0 :: s.parts.map fun p => p.cfg.cairnFirst + p.cfg.cairnCount
    (sortBy (fun a b => decide (a < b)) starts).find? (runFree s n)

/-- The partition number a PARTITION_CREATE binds: 0xFF picks the lowest enabled VF without a partition (R59). -/
def bindTo (s : State) (v : Nat) : Option Nat :=
  let ok (i : Nat) : Bool := funcExists s i && (partOf s i).isNone
  if v = 255 then (List.range 33).find? fun i => i != 0 && ok i
  else if ok v then some v else none

/-! ## The opcodes -/

/-- The settings of a new partition. -/
def newCfg (b : List Byte) (first : Nat) : PartCfg :=
  quotaOf b
    { encrypt := bitOf (byteAt b 33) 0, pasidEn := bitOf (byteAt b 33) 1, levelMax := 0, pasid := le b 36 4, t1Pages := 0,
      t2Pages := 0, t1Bw := 0, t2Bw := 0, caseQuota := 0, weight := 1, cairnFirst := first, cairnCount := le b 56 4,
      seed := le b 64 8 }

/-- Creates a partition, with a new key when ENCRYPT is set (R60, R285). -/
def createPartition (s : State) (i : Nat) (c : PartCfg) : State :=
  let key := if c.encrypt then some (Config.freeDWord s.free).toNat else none
  let s := if c.encrypt then bumpFree s else s
  let p : Partition := { id := i, cfg := c, suspended := false, key := key, stats := PartStats.zero }
  postPartition { s with parts := s.parts ++ [p] } i (givenTiers c) 1

/-- PARTITION_CREATE (R59, R60). -/
def execPartitionCreate (f : Nat) (src : Src) (s : State) : Res :=
  onMessage s f src 0x0101 notHeld fun s x =>
    let b := x.bytes
    let v := byteAt b 32
    let i := (bindTo s v).getD 33
    let first := cairnRun s (le b 56 4)
    let c := newCfg b (first.getD 0)
    settle s x (firstSome
      [failIf ((bindTo s v).isNone && v != 255) .badReference 32,
       failIf (bindTo s v).isNone .partitionLimit,
       failIf (!pagesFit s i c) .quotaPages,
       failIf (!sharesFit s i c) .quotaBandwidth,
       failIf first.isNone .cairnExhausted]) fun s =>
      complete (createPartition s i c) x.id .ok 0xFFFF
        (resultAt [(0, 1, i), (4, 4, c.cairnFirst), (8, 4, c.cairnCount)])

/-- The slots per frame that the open contracts of partition `i` reserve in T1 and T2 (R114). -/
def slotsReserved (s : State) (i : Nat) : Nat × Nat :=
  let own := sumPair (s.contracts.filter fun k => k.owner == i && isOpen k) fun k => (k.pf.t1Slots, k.pf.t2Slots)
  let shards := sumPair (s.strata.rsvs.filter fun r => r.owner == i) fun r => (0, r.t2Slots)
  (own.1 + shards.1, own.2 + shards.2)

/-- The slots per frame that a share admits (R112). -/
def slotsOf (share : Nat) : Nat := 92 * share / 1000

/-- TIERS of a change of settings (R406). -/
def changedTiers (a b : PartCfg) : Nat :=
  tierBits (a.t1Pages != b.t1Pages || a.t1Bw != b.t1Bw) (a.t2Pages != b.t2Pages || a.t2Bw != b.t2Bw)
    (a.levelMax != b.levelMax || a.caseQuota != b.caseQuota || a.weight != b.weight)

/-- PARTITION_SET_QUOTA (R61). -/
def execPartitionSetQuota (f : Nat) (src : Src) (s : State) : Res :=
  onMessage s f src 0x0102 notHeld fun s x =>
    let i := byteAt x.bytes 32
    let old := (partOf s i).map Partition.cfg
    let c := quotaOf x.bytes (old.getD (newCfg x.bytes 0))
    let used := usedPages s i
    let slots := slotsReserved s i
    settle s x (firstSome
      [failIf old.isNone .badReference 32,
       failIf (decide (c.t1Pages < used.1 ∨ c.t2Pages < used.2)) .quotaPages,
       failIf (!pagesFit s i c) .quotaPages,
       failIf (!sharesFit s i c) .quotaBandwidth,
       failIf (decide (slotsOf c.t1Bw < slots.1 ∨ slotsOf c.t2Bw < slots.2)) .inUseByContract,
       failIf (s.contracts.any fun k => k.owner == i && isOpen k && decide (k.rcd.terms.level < c.levelMax))
         .inUseByContract]) fun s =>
      let s := updPart s i fun p => { p with cfg := c }
      complete (postPartition s i (changedTiers (old.getD c) c) 2) x.id .ok

/-- Whether a PARTITION_CONTROL waits: DESTROY lets every message of the partition that has started complete, but for
CASE_SUBMITs and armed waits (R62). -/
def controlHeld (s : State) (b : List Byte) : Bool :=
  byteAt b 33 == 3 && s.msgs.any fun m => m.f == byteAt b 32 && m.opcode != 0x0601 && m.opcode != 0x0704

/-- The partition that a PARTITION field names: 0xFF is the sender's own. -/
def namedPart (f v : Nat) : Nat := if v = 255 then f else v

/-- The check of a PARTITION field at `off` that a VF may use for its own partition only (R63, R93, R94). -/
def ownPartCheck (s : State) (f i off : Nat) : Check :=
  failIf (decide (f ≠ 0 ∧ i ≠ f) || (partOf s i).isNone) .badReference off

/-- The 24 CONFIG bytes of a partition (R63). -/
def configBytes (p : Partition) : List Byte :=
  let c := p.cfg
  leBytes 1 p.id ++ leBytes 1 (bit c.encrypt + 2 * bit c.pasidEn) ++ leBytes 1 c.levelMax ++ zeros 1 ++ leBytes 4 c.pasid ++
  leBytes 4 c.t1Pages ++ leBytes 4 c.t2Pages ++ leBytes 2 c.t1Bw ++ leBytes 2 c.t2Bw ++ leBytes 2 c.caseQuota ++
  leBytes 2 c.weight

/-- The 128-byte response of PARTITION_QUERY (R63). -/
def partitionInfo (s : State) (p : Partition) : List Byte :=
  let u := usedPages s p.id
  let left (n : Nat) (g : PartCfg → Nat) : Nat := if p.id = 0 then n - sumNat (s.parts.map fun p => g p.cfg) else 0
  configBytes p ++ leBytes 4 (if p.cfg.cairnCount = 0 then 0 else p.cfg.cairnFirst) ++ leBytes 4 p.cfg.cairnCount ++
  leBytes 1 (if p.suspended then 2 else 1) ++ zeros 3 ++ leBytes 4 u.1 ++ leBytes 4 u.2 ++
  leBytes 4 (liveCases s p.id) ++ leBytes 4 (s.contracts.filter fun k => k.owner == p.id).length ++
  leBytes 4 (left s.mem.t1.assignable PartCfg.t1Pages) ++ leBytes 4 (left s.mem.t2.assignable PartCfg.t2Pages) ++ zeros 68

/-- PARTITION_QUERY (R63). -/
def execPartitionQuery (f : Nat) (src : Src) (h : HostView) (s : State) : Res :=
  onMessage s f src 0x0104 notHeld fun s x =>
    let i := namedPart f (byteAt x.bytes 32)
    settle s x (firstSome [respCheck s h f 128 x.bytes, ownPartCheck s f i 32]) fun s =>
      match partOf s i with
      | some p => respond s x (partitionInfo s p) []
      | none => s

end Sys2Proof.Machine
end

