-- ==== Sys2Proof/Machine/Cairns.lean ====
section
/-! DEFINITION. Cairns and armed waits (R92, R144 to R149). -/

namespace Sys2Proof.Machine

/-! ## The store -/

/-- The cairn of a number; one that is not listed is FREE. -/
def cairnOf (s : State) (n : Nat) : Option CairnRec := s.cairns.find? fun c => c.num == n

/-- Whether a cairn lies in the range of a partition (R60). -/
def inRange (p : Partition) (n : Nat) : Bool :=
  decide (p.cfg.cairnFirst ≤ n ∧ n < p.cfg.cairnFirst + p.cfg.cairnCount)

/-- The cairn of a number when it is allocated in the range of partition `f`. -/
def ownCairn (s : State) (f n : Nat) : Option CairnRec :=
  (cairnOf s n).filter fun _ => match partOf s f with
    | some p => inRange p n
    | none => false

/-- The HOST cairn of a number in the range of partition `f` (R92). -/
def hostCairn (s : State) (f n : Nat) : Option CairnRec := (ownCairn s f n).filter fun c => decide (c.st = .host)

/-- Sets a cairn's value, and with it the commit journal's copy. -/
def setCairn (s : State) (n v : Nat) : State :=
  { s with cairns := modifyWhere s.cairns (fun c => c.num == n) fun c => { c with val := v, copy := v } }

/-- The partition in whose range a cairn lies. -/
def cairnPart (s : State) (n : Nat) : Option Nat := (s.parts.find? fun p => inRange p n).map Partition.id

/-- The value of a cairn. -/
def cairnVal (s : State) (n : Nat) : Nat := ((cairnOf s n).map CairnRec.val).getD 0

/-- The TCLK count at which a wait expires (R148). -/
def waitExpiry (w : WaitRec) : Nat := w.armTs + 120 * w.timeoutUs

/-- Whether a wait is satisfied at the end of a TCLK count: the value has come to its threshold, and the count is not past its
expiry (R148). -/
def satisfied (s : State) (w : WaitRec) : Bool := decide (w.threshold ≤ cairnVal s w.cairn) && decide (s.tclk ≤ waitExpiry w)

/-- Ends a wait with ST_CAIRN_TIMEOUT and the value it found (R148). -/
def waitExpires (s : State) (w : WaitRec) : State :=
  let s := updStats s w.owner fun p => { p with waitTimeouts := p.waitTimeouts + 1 }
  complete s w.msg .cairnTimeout 0xFFFF (leBytes 4 (cairnVal s w.cairn))

/-- The end of a TCLK count resolves the waits: those satisfied complete with the value after every signal of the count, and one
with no timeout, which is tested once, ends unsatisfied (R92, R148). -/
def resolveWaits (s : State) : State :=
  let ends (w : WaitRec) : Bool := satisfied s w || w.timeoutUs == 0
  (s.waits.filter ends).foldl (fun t w =>
    if satisfied s w then complete t w.msg .ok 0xFFFF (leBytes 4 (cairnVal s w.cairn)) else waitExpires t w)
    { s with waits := s.waits.filter fun w => !ends w }

/-- A device signal: it adds modulo 2^32, and a wrap writes a record (R146, R147). -/
def deviceSignal (s : State) (n add : Nat) (remote : Bool) : State :=
  match cairnOf s n with
  | none => s
  | some c =>
    let v := (c.val + add) % 2 ^ 32
    let s := setCairn s n v
    let s := if c.val + add ≥ 2 ^ 32 then record s 0x0207 (leBytes 4 n) else s
    match cairnPart s n with
    | some i => updStats s i fun p =>
        { p with signalsDevice := p.signalsDevice + 1, signalsRemote := p.signalsRemote + bit remote }
    | none => s

/-! ## The opcodes (R92) -/

/-- Whether `n` cairns from `a` are FREE and lie in the range of partition `p`. -/
def freeRunAt (s : State) (p : Partition) (n a : Nat) : Bool :=
  decide (p.cfg.cairnFirst ≤ a ∧ a + n ≤ p.cfg.cairnFirst + p.cfg.cairnCount) &&
  !(s.cairns.any fun c => decide (a ≤ c.num ∧ c.num < a + n))

/-- The first cairn of the lowest run of `n` FREE cairns: it begins the range or follows a cairn in use. -/
def freeRun (s : State) (p : Partition) (n : Nat) : Option Nat :=
  let starts := p.cfg.cairnFirst :: (s.cairns.filter fun c => inRange p c.num).map fun c => c.num + 1
  (sortBy (fun a b => decide (a < b)) starts).find? (freeRunAt s p n)

/-- CAIRN_ALLOC. -/
def execCairnAlloc (f : Nat) (src : Src) (s : State) : Res :=
  onMessage s f src 0x0701 notHeld fun s x =>
    let n := le x.bytes 32 4
    let v := le x.bytes 36 4
    let run := (partOf s f).bind fun p => freeRun s p n
    settle s x (failIf run.isNone .cairnExhausted) fun s =>
      let a := run.getD 0
      let new := (List.range n).map fun i =>
        ({ num := a + i, st := .host, val := v, copy := v, run := s.nextRun } : CairnRec)
      let s := { s with cairns := s.cairns ++ new, nextRun := s.nextRun + 1 }
      complete s x.id .ok 0xFFFF (resultAt [(0, 4, a), (4, 4, n)])

/-- The check of R92 that a range lies inside the store. -/
def cairnSpan (b : List Byte) : Check := failIf (decide (131072 < le b 32 4 + le b 36 4)) .lenExceedsBuffer 36

/-- The cairn numbers of a range opcode. -/
def cairnNums (b : List Byte) : List Nat := (List.range (le b 36 4)).map fun i => le b 32 4 + i

/-- Whether an open contract names a cairn: one of its stage cairns, or its DONE_CAIRN (R144). -/
def cairnInUse (s : State) (n : Nat) : Bool :=
  s.contracts.any fun k => isOpen k && (k.stageCairns.contains n || k.rcd.terms.doneCairn == n)

/-- CAIRN_FREE (R92, R144): STAGE cairns pass the reference check and are then in use. -/
def execCairnFree (f : Nat) (src : Src) (s : State) : Res :=
  onMessage s f src 0x0702 notHeld fun s x =>
    let ns := cairnNums x.bytes
    let stage (n : Nat) : Bool := (cairnOf s n).any fun c => decide (c.st = .stage)
    settle s x (firstSome
      [cairnSpan x.bytes,
       failIf (ns.any fun n => (ownCairn s f n).isNone) .badReference 32,
       failIf (ns.any fun n => stage n || cairnInUse s n) .inUseByContract,
       failIf (s.waits.any fun w => ns.contains w.cairn) .busy]) fun s =>
      complete { s with cairns := s.cairns.filter fun c => !ns.contains c.num } x.id .ok

/-- CAIRN_SIGNAL (R92, R146): a host signal never wraps. -/
def execCairnSignal (f : Nat) (src : Src) (s : State) : Res :=
  onMessage s f src 0x0703 notHeld fun s x =>
    let n := le x.bytes 32 4
    let add := le x.bytes 36 4
    settle s x (withRef (hostCairn s f n) 32 fun c => failIf (decide (2 ^ 32 ≤ c.val + add)) .fieldRange 36) fun s =>
      match cairnOf s n with
      | none => s
      | some c =>
        let s := updStats s f fun p => { p with signalsHost := p.signalsHost + 1 }
        complete (setCairn s n (c.val + add)) x.id .ok

/-- CAIRN_WAIT_ARM (R92, R148): the wait is armed. Where its threshold is already met, or TIMEOUT_US is 0, the end of this TCLK
count resolves it. -/
def execCairnWaitArm (f : Nat) (src : Src) (s : State) : Res :=
  onMessage s f src 0x0704 notHeld fun s x =>
    let n := le x.bytes 32 4
    let us := le x.bytes 40 4
    settle s x (failIf (hostCairn s f n).isNone .badReference 32) fun s =>
      let w : WaitRec :=
        { id := s.nextWait, owner := f, cairn := n, threshold := le x.bytes 36 4, msg := x.id, armTs := s.tclk,
          timeoutUs := us }
      { s with waits := s.waits ++ [w], nextWait := s.nextWait + 1 }

/-- CAIRN_QUERY (R92). -/
def execCairnQuery (f : Nat) (src : Src) (s : State) : Res :=
  onMessage s f src 0x0705 notHeld fun s x =>
    let ns := cairnNums x.bytes
    settle s x (firstSome
      [cairnSpan x.bytes, failIf (ns.any fun n => (hostCairn s f n).isNone) .badReference 32]) fun s =>
      complete s x.id .ok 0xFFFF (ns.flatMap fun n => leBytes 4 ((cairnOf s n).map CairnRec.val |>.getD 0))

/-- CAIRN_WAIT_TIMEOUT (R148): an armed wait ends whose expiry has passed; a signal at the instant of the expiry still comes
first. -/
def execCairnWaitTimeout (w : Nat) (s : State) : Res :=
  .next <| match s.waits.find? fun x => x.id == w with
    | none => s
    | some x =>
      if s.tclk ≤ waitExpiry x then s
      else waitExpires { s with waits := s.waits.filter fun y => y.id != w } x

end Sys2Proof.Machine
end

