-- ==== Sys2Proof/Machine/Weights.lean ====
section
/-! DEFINITION. The weights of a model image (R246, R250, R251): Q4B32 and Q8C tensors read from their bytes, their values, and the
bounds that MODEL_LOAD recomputes; and the scales of activation rows (R252). -/

namespace Sys2Proof.Machine

/-! ## Q4B32 (R250) -/

/-- The blocks of a channel: 32 mantissas each. -/
def Tensor.blocks (t : Tensor) : Nat := ceilDiv t.steps 32

/-- Mantissa `k` of channel `c`: the mantissa plane holds 16 bytes for each block, in channel-major, then block order, the even
mantissa of a byte in its low nibble. -/
def q4Mant (t : Tensor) (c k : Nat) : Int :=
  let b := byteAt t.bytes (16 * (c * t.blocks + k / 32) + k % 32 / 2)
  signed 4 (if k % 2 = 0 then b % 16 else b / 16)

/-- The exponent byte of block `b` of channel `c`, in the plane after the mantissas. -/
def q4Exp (t : Tensor) (c b : Nat) : Nat := byteAt t.bytes (16 * t.channels * t.blocks + c * t.blocks + b)

/-- The exponent bytes of a channel. -/
def q4Exps (t : Tensor) (c : Nat) : List Nat := (List.range t.blocks).map (q4Exp t c)

/-- The smallest exponent of a channel, e_min. -/
def q4Min (t : Tensor) (c : Nat) : Nat := (q4Exps t c).foldl Nat.min 255

/-- The value m × 2^(e − 127) of a weight. -/
def q4Value (t : Tensor) (c k : Nat) : Int × Int := (q4Mant t c k, (q4Exp t c (k / 32) : Int) - 127)

/-- The operand of a weight in an array: m × 2^(e − e_min). The rescale multiplies by 2^(e_min − 127). -/
def q4Operand (t : Tensor) (c k : Nat) : Int := q4Mant t c k * 2 ^ (q4Exp t c (k / 32) - q4Min t c)

/-- The factor 2^(e_min − 127) of a channel's rescale (R253). -/
def q4Scale (t : Tensor) (c : Nat) : Word := fpPow2 ((q4Min t c : Int) - 127)

/-- Whether a channel parses: exponents of 0 to 254 that spread over at most 23, and an int32 chain below 2^31 (R246). -/
def q4ChannelOk (t : Tensor) (c : Nat) : Bool :=
  let hi := maxNat (q4Exps t c)
  decide (hi ≤ 254 ∧ hi - q4Min t c ≤ 23) &&
  decide (sumNat ((List.range t.steps).map fun k => (q4Operand t c k).natAbs) * 127 < 2 ^ 31)

/-! ## Q8C (R251) -/

/-- Element `k` of channel `c`. -/
def q8Elem (t : Tensor) (c k : Nat) : Int := signed 8 (byteAt t.bytes (c * t.steps + k))

/-- The scale of a channel, after the elements of all channels. -/
def q8Scale (t : Tensor) (c : Nat) : Word := BitVec.ofNat 32 (le t.bytes (t.channels * t.steps + 4 * c) 4)

/-- The value of a weight: scale × element. -/
def q8Value (t : Tensor) (c k : Nat) : Word := fpMul .nearest (q8Scale t c) (fpOfInt (q8Elem t c k))

/-- Whether a channel parses: elements of −127 to 127, and an int32 chain below 2^31 (R246). -/
def q8ChannelOk (t : Tensor) (c : Nat) : Bool :=
  let xs := (List.range t.steps).map (q8Elem t c)
  xs.all (fun x => decide (-127 ≤ x)) && decide (sumNat (xs.map Int.natAbs) * 127 < 2 ^ 31)

/-! ## A tensor -/

/-- The bytes that a tensor of its format and shape takes. -/
def Tensor.size (t : Tensor) : Nat :=
  if t.q4 then 17 * t.channels * t.blocks else t.channels * t.steps + 4 * t.channels

/-- Whether a tensor parses. -/
def tensorOk (t : Tensor) : Bool :=
  decide (t.bytes.length = t.size) &&
  (List.range t.channels).all fun c => if t.q4 then q4ChannelOk t c else q8ChannelOk t c

/-! ## Activation rows (R252) -/

/-- An activation row: its scale taken from the row or fixed by the image, and its elements quantized. -/
def actRow (a : ActScale) (xs : List Word) : QuantRow :=
  match a with
  | .dynamic => quantizeRow xs
  | .static scale =>
    let q := xs.map (quantize 127 scale)
    { scale := scale, elems := q.map Quant.val, sats := (q.filter Quant.sat).length }

end Sys2Proof.Machine
end

