-- ==== Sys2Proof/Machine/Network.lean ====
section
/-! DEFINITION. What a model's command computes from the positions it reads (R212, R213, R252, R258, R259): the values of its output
heads, and the saturations of its activation rows. -/

namespace Sys2Proof.Machine

/-- Positions of which each reads every earlier one. -/
def plainCtx (ps : List Position) : List Seen := ps.map fun p => { at' := p, pfx := 0, lo := 0 }

/-- Value `i` of a head: the partial outputs of the four Garnets, summed in fp32 in their fixed order (R212, R258). -/
def headValue (img : ModelImage) (kv : Nat) (h : OutHead) (ctx : List Seen) (i : Nat) : Word :=
  let part := Config.partialOut img kv h ctx i
  reduceGarnets (part 0) (part 1) (part 2) (part 3)

/-- The first `n` values of a head. -/
def headValues (img : ModelImage) (kv : Nat) (h : OutHead) (ctx : List Seen) (n : Nat) : List Word :=
  (List.range n).map (headValue img kv h ctx)

/-- The saturations of the activation rows of the last of some positions (R249, R252). -/
def rowSats (img : ModelImage) (kv : Nat) (ctx : List Seen) : Nat :=
  sumNat ((List.range img.acts.length).map fun t => match img.acts[t]? with
    | some a => (actRow a (Config.activation img kv ctx t)).sats
    | none => 0)

/-- The saturations of the positions from the `lo`th on. -/
def ctxSats (img : ModelImage) (kv : Nat) (ctx : List Seen) (lo : Nat) : Nat :=
  sumNat ((List.range (ctx.length - lo)).map fun i => rowSats img kv (ctx.take (lo + i + 1)))

end Sys2Proof.Machine
end

