-- ==== Sys2Proof/Machine/Kv.lean ====
section
/-! DEFINITION. Key/value caches (R215, R216, R218, R221, R254, R255): head groups and page counts, the entries of positions, the
advance of the committed length, the sealing of pages, and a case's copy of a prefix page. -/

namespace Sys2Proof.Machine

/-! ## Formats and groups (R215, R254) -/

/-- The half bytes of an element of a KV_FORMAT: KV16, KV8 or KV4. -/
def kvHalfBytes : Nat → Nat
  | 0 => 4
  | 1 => 2
  | _ => 1

/-- The heads of a head group, when the format gives the model a valid one (R215). -/
def headGroup (sh : HeadShape) (kv : Nat) : Option Nat :=
  let w := sh.dh * kvHalfBytes kv
  if w = 0 ∨ 256 % w ≠ 0 then none
  else if sh.hkv / 4 % (256 / w) = 0 then some (256 / w) else none

/-- The KV pages of `n` positions of a model (R215). -/
def kvPages (sh : HeadShape) (kv n : Nat) : Nat :=
  match headGroup sh kv with
  | some g => ceilDiv n 256 * sh.layers * (sh.hkv / g)
  | none => 0

/-- The limit of a quantized format's elements: 127 for KV8, 7 for KV4 (R249). -/
def kvLimit (kv : Nat) : Int := if kv = 1 then 127 else 7

/-! ## Stored elements (R254) -/

/-- Where a page's element stands among those of its head: the keys of 256 positions, then the values, each position-major. -/
def kvIndex (dh head : Nat) (value : Bool) (p d : Nat) : Nat := (2 * head + bit value) * 256 * dh + p * dh + d

/-- The elements of a page in the order of R254, `f` giving each. -/
def kvLayout {α : Type} (g dh : Nat) (f : Nat → Bool → Nat → Nat → α) : List α :=
  (List.range g).flatMap fun h => [false, true].flatMap fun v => (List.range 256).flatMap fun p => (List.range dh).map (f h v p)

/-- The bytes of stored integers: one byte each for KV8, a nibble each for KV4, the even index in the low one. -/
def kvPack (kv : Nat) (xs : List Int) : List Byte :=
  if kv = 1 then xs.map (BitVec.ofInt 8)
  else (List.range (ceilDiv xs.length 2)).map fun i =>
    BitVec.ofNat 8 (unsignedOf 4 (xs.getD (2 * i) 0) + 16 * unsignedOf 4 (xs.getD (2 * i + 1) 0))

/-- The stored integer at an index. -/
def kvElem (kv : Nat) (b : List Byte) (i : Nat) : Int :=
  if kv = 1 then signed 8 (byteAt b i)
  else signed 4 (if i % 2 = 0 then byteAt b (i / 2) % 16 else byteAt b (i / 2) / 16)

/-- Element `d` of a head's key or value in a slot. -/
def slotElem (dh : Nat) (slot : List Word) (head : Nat) (value : Bool) (d : Nat) : Word :=
  slot.getD ((2 * head + bit value) * dh + d) 0

/-- The 64 KiB of a page: a sealed one's, or a KV16 page's elements. -/
def pageBytes (dh g : Nat) (p : KvPage) : List Byte :=
  if p.steps = [] then
    (kvLayout g dh fun h v i d => slotElem dh (p.slots.getD i []) h v d).flatMap fun w => leBytes 2 (bf16OfFp w).toNat
  else p.bytes

/-! ## Writing entries (R216, R221, R255) -/

/-- The entry of the last of the positions `ctx` in a page of a layer and a group; a KV16 element is rounded to bf16. -/
def kvSlot (img : ModelImage) (kv g : Nat) (ctx : List Seen) (layer group : Nat) : List Word :=
  (List.range g).flatMap fun h => [false, true].flatMap fun v => (List.range img.shape.dh).map fun d =>
    let x := Config.kvEntry img kv ctx layer (group * g + h) v d
    if kv = 0 then fpOfBf16 (bf16OfFp x) else x

/-- A list with a value at a place, grown to it if need be. -/
def putAt (xs : List (List Word)) (i : Nat) (x : List Word) : List (List Word) :=
  (List.range (max xs.length (i + 1))).map fun j => if j = i then x else xs.getD j []

/-- Whether a page is the one of a layer, a group and a number. -/
def KvPage.is (p : KvPage) (layer group num : Nat) : Bool := p.layer == layer && p.group == group && p.num == num

/-- A cache with a slot written: its page is opened if need be, a sealed page is never written, and a stale entry is overwritten. -/
def putSlot (c : KvCache) (layer group pos : Nat) (x : List Word) : KvCache :=
  let mine (p : KvPage) : Bool := p.is layer group (pos / 256)
  let write (p : KvPage) : KvPage := if p.steps = [] then { p with slots := putAt p.slots (pos % 256) x } else p
  if c.pages.any mine then { c with pages := modifyWhere c.pages mine write }
  else
    { c with
      pages := c.pages ++
        [write { layer := layer, group := group, num := pos / 256, len := 0, slots := [], steps := [], bytes := [] }] }

/-- The entries of one position, in every layer and head group. -/
def writeEntry (img : ModelImage) (kv : Nat) (ctx : List Seen) (c : KvCache) (pos : Nat) : KvCache :=
  match headGroup img.shape kv with
  | none => c
  | some g =>
    (List.range img.shape.layers).foldl (fun c l => (List.range (img.shape.hkv / g)).foldl (fun c j =>
      putSlot c l j pos (kvSlot img kv g (ctx.take (pos + 1)) l j)) c) c

/-- The entries of the positions from `lo` up to `hi`. -/
def writeEntries (img : ModelImage) (kv : Nat) (ctx : List Seen) (c : KvCache) (lo hi : Nat) : KvCache :=
  (List.range (hi - lo)).foldl (fun c i => writeEntry img kv ctx c (lo + i)) c

/-! ## Sealing and the advance of the committed length (R216, R221, R255) -/

/-- A page sealed over its first `n` slots, with the saturations of its elements: each head has a key step and a value step. -/
def sealPage (img : ModelImage) (kv g n : Nat) (p : KvPage) : KvPage × Nat :=
  let dh := img.shape.dh
  let elems (h : Nat) (v : Bool) : List Word :=
    (List.range n).flatMap fun i => (List.range dh).map fun d => slotElem dh (p.slots.getD i []) h v d
  let step (h : Nat) (v : Bool) : Word := kvStep (kvLimit kv) (elems h v)
  let put (h : Nat) (v : Bool) (i d : Nat) : Quant :=
    if i < n then quantize (kvLimit kv) (step h v) (slotElem dh (p.slots.getD i []) h v d) else ⟨0, false⟩
  let qs := kvLayout g dh put
  ({ p with len := n, slots := [], steps := (List.range g).map fun h => (step h false, step h true),
            bytes := kvPack kv (qs.map Quant.val) },
   (qs.filter Quant.sat).length)

/-- A page after a commit that brings the cache's committed length to `n`: a KV8 or KV4 page of 256 committed slots seals. -/
def settlePage (img : ModelImage) (kv g n : Nat) (p : KvPage) : KvPage × Nat :=
  let m := min 256 (n - 256 * p.num)
  if kv ≠ 0 ∧ m = 256 ∧ p.steps = [] then sealPage img kv g 256 p else ({ p with len := m }, 0)

/-- A cache after a commit that brings its committed length to `n`, with the saturations of what seals: pages that only rejected
positions opened return to the pool. -/
def advanceCache (img : ModelImage) (kv n : Nat) (c : KvCache) : KvCache × Nat :=
  let g := (headGroup img.shape kv).getD 1
  let ps := (c.pages.filter fun p => decide (256 * p.num < n)).map (settlePage img kv g n)
  ({ c with len := n, pages := ps.map Prod.fst }, sumNat (ps.map Prod.snd))

/-! ## Prefixes (R217, R218, R255) -/

/-- The pages of a registered prefix: each sealed over its own positions. -/
def prefixKv (img : ModelImage) (kv : Nat) (toks : List Nat) : List KvPage :=
  let n := toks.length
  let ctx : List Seen := toks.map fun t => { at' := .tok t, pfx := n, lo := n }
  let c := writeEntries img kv ctx { model := 0, len := 0, pages := [] } 0 n
  let g := (headGroup img.shape kv).getD 1
  c.pages.map fun p =>
    let m := min 256 (n - 256 * p.num)
    if kv = 0 then { p with len := m } else (sealPage img kv g m p).1

/-- The value of a stored element: step × element. -/
def kvDecoded (img : ModelImage) (kv : Nat) (p : KvPage) (head : Nat) (value : Bool) (i d : Nat) : Word :=
  let steps := p.steps.getD head (0, 0)
  fpMul .nearest (if value then steps.2 else steps.1) (fpOfInt (kvElem kv p.bytes (kvIndex img.shape.dh head value i d)))

/-- A case's private copy of a prefix page: an open page that starts with the decoded prefix values. -/
def copyPage (img : ModelImage) (kv : Nat) (p : KvPage) : KvPage :=
  if p.steps = [] then p
  else
    let g := p.steps.length
    let slot (i : Nat) : List Word :=
      (List.range g).flatMap fun h => [false, true].flatMap fun v => (List.range img.shape.dh).map (kvDecoded img kv p h v i)
    { p with slots := (List.range p.len).map slot, steps := [], bytes := [] }

/-- The cache with which a case starts under the model of its registered prefix: copies of the pages that are not full. -/
def copiedCache (img : ModelImage) (kv model n : Nat) (ps : List KvPage) : KvCache :=
  { model := model, len := n, pages := (ps.filter fun p => decide (p.len < 256)).map (copyPage img kv) }

end Sys2Proof.Machine
end

