-- ==== Sys2Proof/Machine/Objects.lean ====
section
/-! DEFINITION. Models (R64 to R67), embedding tables (R68 to R71) and registered prefixes (R81, R82). -/

namespace Sys2Proof.Machine

/-! ## References (R36, R52) -/

/-- Whether function `f` may name an object that it only reads: its own, or a shared one of partition 0. -/
def mayRead (f owner : Nat) (shared : Bool) : Bool := owner == f || shared

/-- The model of a handle that `f` may name. -/
def readModel (s : State) (f h : Nat) : Option Model := (modelOf s h).filter fun m => mayRead f m.owner m.shared

/-- The model of a handle that `f` may change. -/
def ownModel (s : State) (f h : Nat) : Option Model := (modelOf s h).filter fun m => m.owner == f

/-- The table of a handle that `f` may name. -/
def readTable (s : State) (f h : Nat) : Option Table := (tableOf s h).filter fun t => mayRead f t.owner t.shared

/-- The table of a handle that `f` may change. -/
def ownTable (s : State) (f h : Nat) : Option Table := (tableOf s h).filter fun t => t.owner == f

/-- The index of a handle that `f` may name. -/
def readIndex (s : State) (f h : Nat) : Option Index := (indexOf s h).filter fun x => mayRead f x.owner x.shared

/-- The index of a handle that `f` may change. -/
def ownIndex (s : State) (f h : Nat) : Option Index := (indexOf s h).filter fun x => x.owner == f

/-- The prefix of a handle that `f` may name; a released one names no object. -/
def readPfx (s : State) (f h : Nat) : Option Pfx :=
  (pfxOf s h).filter fun p => mayRead f p.owner p.shared && !p.released

/-- The prefix of a handle that `f` may change. -/
def ownPfx (s : State) (f h : Nat) : Option Pfx := (pfxOf s h).filter fun p => p.owner == f && !p.released

/-- Refuses an allocation of `t2` T2 pages while a failed channel keeps T2 from accepting any (R287). -/
def tierOpen (s : State) (t2 : Nat) : Check := failIf (t2 != 0 && !s.mem.t2.accepts) .tierUnavailable

/-- Whether an open contract names an object, or one that is being opened: an open that waits holds what it names (R42). -/
def inUse (s : State) (h : Nat) : Bool :=
  (s.contracts.any fun k => isOpen k && (contractHandles k).contains h) ||
  s.strata.opens.any fun o => (recordHandles o.rcd).contains h

/-- Applies a BACKGROUND operation: it holds its pages, and a command of level 3 waits for its engines (R56, R127). -/
def startBg (s : State) (x : MsgCtx) (kind : BgKind) (t1 t2 : Nat) : State :=
  let s := addCmd s (.bg s.nextBg) x.f 3 0 0 s.tclk false []
  addBg s x.f (some x.id) kind t1 t2

/-- Whether an operation is the firmware's own zeroing of frames, no operation of a message of R56. -/
def isZeroing : BgKind → Bool
  | .zero _ _ _ _ => true
  | _ => false

/-- Completes a message that was given `pages` frames: they are zeroed first, as BACKGROUND page-mover work, and the message, with a
response of `resp` bytes at `addr`, completes at its commit (R264). -/
def zeroThen (s : State) (f id handle pages addr : Nat) (st : Status) (resp result : List Byte) : State :=
  if pages = 0 then
    let s := if addr = 0 then s else hostWrite s f addr resp
    complete s id st 0xFFFF result resp.length
  else
    let s := addCmd s (.bg s.nextBg) f 3 0 0 s.tclk false []
    addBg s f (some id) (.zero handle addr resp result) 0 0

/-! ## Models -/

/-- A level's work area of a core: 0.75 MiB (R132). -/
def workAreaBytes : Nat := 3 * 1024 * 1024 / 4

/-- Whether a model image parses: its own syntax, its work area (R133), its heads (R212), its encoder width (R163)
and its weights (R246, R250). -/
def imageParses (i : ModelImage) : Bool :=
  let role := match i.role with
    | .generator => decide (i.shape.hq % 4 = 0 ∧ i.shape.hkv % 4 = 0)
    | .encoder => decide (i.enc.outDim = 256)
    | .reranker => true
  i.parses && decide (i.workArea ≤ workAreaBytes) && role && i.tensors.all tensorOk

/-- A model as a load would register it. -/
def newModel (handle owner : Nat) (shared pin : Bool) (home : Tier) (img : ModelImage) : Model :=
  { handle := handle, owner := owner, shared := shared, img := img, home := home, pinned := pin, unavailable := false,
    t2Lost := false }

/-- The models registered or being loaded. -/
def modelCount (s : State) : Nat :=
  s.models.length + (s.bg.filter fun b => match b.kind with | .modelLoad _ _ _ _ => true | _ => false).length

/-- The tier a HOME_TIER byte names. -/
def tierOfByte (v : Nat) : Tier := if v = 1 then .t1 else .t2

/-- The four checks of R65, in their order. Where a failing field stands in the image is Brieb's matter and not given:
`at'` is a free value. -/
def modelChecks (s : State) (x : MsgCtx) (i : ModelImage) (at' : Nat) : Check :=
  let b := x.bytes
  let m := newModel 0 x.f false (bitOf (byteAt b 49) 0) (tierOfByte (byteAt b 48)) i
  let p := modelPages m
  firstSome
    [failStruct (decide (le b 40 8 < i.statedLen)) .lenExceedsBuffer at' 40,
     failStruct (!imageParses i) .badImage at' 32,
     failIf (!i.signatureOk) .signatureInvalid,
     failIf (decide (64 ≤ modelCount s)) .modelLimit,
     failIf (!fitsQuota s x.f p.1 p.2) .quotaPages,
     tierOpen s p.2]

/-- MODEL_LOAD (R64, R65): the checks, then the load as BACKGROUND work. -/
def execModelLoad (f : Nat) (src : Src) (h : HostView) (r : HostRead ModelImage) (s : State) : Res :=
  onMessage s f src 0x0201 notHeld fun s x =>
    let b := x.bytes
    let at' := (Config.freeWord s.free).toNat
    let s := bumpFree s
    settleRead s x (le b 32 8) (le b 40 8) r (firstSome [addrCheck s h f false (le b 32 8) (le b 40 8) 32, readFailed r]) fun s =>
      match r with
      | .data i =>
        settle s x (modelChecks s x i at') fun s =>
          let pin := bitOf (byteAt b 49) 0
          let home := tierOfByte (byteAt b 48)
          let p := modelPages (newModel 0 f false pin home i)
          startBg s x (.modelLoad i home pin (bitOf (byteAt b 49) 1)) p.1 p.2
      | _ => s

/-- Whether an open contract was proven with a model resident in T1 (R66). -/
def residenceInUse (s : State) (h : Nat) : Bool := s.contracts.any fun k => isOpen k && k.resident.contains h

/-- Changes the model of a handle. -/
def updModel (s : State) (h : Nat) (g : Model → Model) : State :=
  { s with models := modifyWhere s.models (fun m => m.handle == h) g }

/-- MODEL_PIN (R66): a model homed in T1 is always resident; the T1 copy of another is charged or released. -/
def execModelPin (f : Nat) (src : Src) (s : State) : Res :=
  onMessage s f src 0x0202 notHeld fun s x =>
    let h := le x.bytes 32 4
    let pin := byteAt x.bytes 36 == 1
    match ownModel s f h with
    | none => settle s x (failIf true .badReference 32) id
    | some m =>
      if m.unavailable then settle s x (failIf true .tierUnavailable) id
      else if m.home = .t1 ∨ m.pinned = pin then complete s x.id .okNoChange
      else if pin then
        settle s x (failIf (!fitsQuota s f (pagesOf m.img.weightBytes) 0) .quotaPages) fun s =>
          complete (updModel s h fun m => { m with pinned := true }) x.id .ok
      else
        settle s x (failIf (residenceInUse s h) .inUseByContract) fun s =>
          complete (updModel s h fun m => { m with pinned := false, unavailable := m.t2Lost }) x.id .ok

/-- Whether a prefix is being registered on the model that a message names: the message waits (R42). -/
def modelHeld (s : State) (b : List Byte) : Bool :=
  s.bg.any fun o => match o.kind with
    | .prefixRegister m _ _ _ _ => m == le b 32 4
    | _ => false

/-- Whether a model's load into the slice pool is under way (R67, R135). -/
def modelLoading (s : State) (h : Nat) : Bool :=
  match s.sched.poolLoading with
  | some p => p.model == h
  | none => false

/-- MODEL_EVICT (R67): the model goes with its prefixes, and its pages are freed. -/
def execModelEvict (f : Nat) (src : Src) (s : State) : Res :=
  onMessage s f src 0x0203 (modelHeld s) fun s x =>
    let h := le x.bytes 32 4
    let named := inUse s h || s.pfxs.any fun p => p.model == h && inUse s p.handle
    settle s x (firstSome
      [failIf (ownModel s f h).isNone .badReference 32,
       failIf named .inUseByContract,
       failIf (modelLoading s h) .busy]) fun s =>
      let s := { s with models := s.models.filter fun m => m.handle != h, pfxs := s.pfxs.filter fun p => p.model != h }
      complete (unplace s) x.id .ok

/-! ## Embedding tables -/

/-- The table that TABLE_CREATE describes (R68). -/
def newTable (handle owner : Nat) (b : List Byte) : Table :=
  { handle := handle, owner := owner, shared := bitOf (byteAt b 56) 0, nrows := le b 32 4, dim := le b 36 2,
    format := byteAt b 38, kind := byteAt b 39, hashKey := le b 40 8, partA := le b 48 4, partB := le b 52 4, rows := [],
    unavailable := false }

/-- The checks of a composed table's parts, after step 9 (R69). -/
def composedChecks (s : State) (f : Nat) (t : Table) : Check :=
  if t.kind ≠ 2 then none
  else
    withRef (readTable s f t.partA) 48 fun a => withRef (readTable s f t.partB) 52 fun c => firstSome
      [failIf (a.unavailable || c.unavailable) .tierUnavailable,
       failIf (a.kind == 2 || c.kind == 2 || a.dim != t.dim || c.dim != t.dim || a.format != t.format ||
         c.format != t.format) .fieldRange 36,
       failIf (decide (a.nrows * c.nrows < t.nrows)) .productRange 32]

/-- TABLE_CREATE (R68, R69): the table is zero-filled and charged to T1. -/
def execTableCreate (f : Nat) (src : Src) (s : State) : Res :=
  onMessage s f src 0x0301 notHeld fun s x =>
    let t := newTable s.nextHandle f x.bytes
    let bytes := t.nrows * rowBytes t.format t.dim
    settle s x (firstSome
      [failIf (t.kind != 2 && decide (34359738368 < bytes)) .productRange 32,
       composedChecks s f t,
       failIf (!fitsQuota s f (tablePages t) 0) .quotaPages]) fun s =>
      let s := newHandle { s with tables := s.tables ++ [t] }
      zeroThen s f x.id t.handle (tablePages t) 0 .ok [] (resultAt [(0, 4, t.handle), (4, 4, tablePages t)])

/-- Whether a TABLE_LOAD of the table that a message names is under way: the message waits (R42). -/
def tableHeld (s : State) (b : List Byte) : Bool :=
  s.bg.any fun o => match o.kind with
    | .tableLoad t _ _ => t == le b 32 4
    | _ => false

/-- Cuts bytes into `n` rows of `w` bytes. -/
def cutRows (w : Nat) (b : List Byte) : Nat → List (List Byte)
  | 0 => []
  | n + 1 => b.take w :: cutRows w (b.drop w) n

/-- Where a row of a format breaks the rules of R157: an int8 row's SCALE that is negative or not finite, or a bf16
element that is not finite. DEDUCED (log 45): a SCALE of −0 is not negative. -/
def badInRow (format dim : Nat) (row : List Byte) : Option Nat :=
  if format = 0 then
    let w := BitVec.ofNat 32 (le row 0 4)
    if fpFinite w ∧ fpLt w 0#32 = false then none else some 0
  else ((List.range dim).find? fun j => !fpFinite (fpOfBf16 (BitVec.ofNat 16 (le row (2 * j) 2)))).map fun j => 2 * j

/-- The offset of the first fault in a list of rows. -/
def badInRows (format dim : Nat) : Nat → List (List Byte) → Option Nat
  | _, [] => none
  | off, r :: rs => match badInRow format dim r with
    | some i => some (off + i)
    | none => badInRows format dim (off + rowBytes format dim) rs

/-- TABLE_LOAD (R70): the rows replace those of the table as one BACKGROUND commit. -/
def execTableLoad (f : Nat) (src : Src) (h : HostView) (r : HostRead (List Byte)) (s : State) : Res :=
  onMessage s f src 0x0302 (tableHeld s) fun s x =>
    let b := x.bytes
    let th := le b 32 4
    let first := le b 36 4
    let n := le b 40 4
    settleRead s x (le b 48 8) (le b 56 8) r (firstSome
      [addrCheck s h f false (le b 48 8) (le b 56 8) 48,
       withRef (ownTable s f th) 32 fun t => firstSome
         [failIf t.unavailable .tierUnavailable,
          failIf (t.kind == 2) .badReference 32,
          failIf (decide (t.nrows < first + n)) .lenExceedsBuffer 36,
          failIf (decide (le b 56 8 < n * rowBytes t.format t.dim)) .lenExceedsBuffer 40,
          failIf (inUse s th) .inUseByContract],
       readFailed r]) fun s =>
      match r, tableOf s th with
      | .data d, some t =>
        let rows := cutRows (rowBytes t.format t.dim) d n
        let bad := badInRows t.format t.dim 0 rows
        settle s x (failStruct bad.isSome .fieldRange (bad.getD 0) 48) fun s =>
          startBg s x (.tableLoad th first rows) 0 0
      | _, _ => s

/-- TABLE_DESTROY (R71). -/
def execTableDestroy (f : Nat) (src : Src) (s : State) : Res :=
  onMessage s f src 0x0303 (tableHeld s) fun s x =>
    let h := le x.bytes 32 4
    settle s x (firstSome
      [failIf (ownTable s f h).isNone .badReference 32,
       failIf (inUse s h) .inUseByContract,
       failIf (s.tables.any fun t => t.kind == 2 && (t.partA == h || t.partB == h)) .busy]) fun s =>
      complete { s with tables := s.tables.filter fun t => t.handle != h } x.id .ok

/-! ## Registered prefixes -/

/-- The tokens of a list of 4-byte values. -/
def tokensOf (b : List Byte) (n : Nat) : List Nat := (List.range n).map fun i => le b (4 * i) 4

/-- The first token at or above a vocabulary size, by its place in the list (R82). -/
def badToken (vocab : Nat) (toks : List Nat) : Option Nat := toks.findIdx? fun t => decide (vocab ≤ t)

/-- The prefixes registered or being registered. -/
def pfxCount (s : State) : Nat :=
  (s.pfxs.filter fun p => !p.released).length +
  (s.bg.filter fun b => match b.kind with | .prefixRegister _ _ _ _ _ => true | _ => false).length

/-- PREFIX_REGISTER (R81, R82): the prefill runs as BACKGROUND work and holds its T1 pages from now on. -/
def execPrefixRegister (f : Nat) (src : Src) (h : HostView) (r : HostRead (List Byte)) (s : State) : Res :=
  onMessage s f src 0x0801 notHeld fun s x =>
    let b := x.bytes
    let n := le b 36 4
    let kv := byteAt b 52
    let sh := (modelOf s (le b 32 4)).map fun m => m.img.shape
    let pages := match sh with
      | some sh => kvPages sh kv n
      | none => 0
    settleRead s x (le b 40 8) (le b 48 4) r (firstSome
      [failIf (decide (le b 48 4 < n * 4)) .lenExceedsBuffer 36,
       addrCheck s h f false (le b 40 8) (le b 48 4) 40,
       withRef (readModel s f (le b 32 4)) 32 fun m => firstSome
         [failIf (m.img.role != .generator || !m.img.gen.hasKv) .badReference 32,
          failIf m.unavailable .tierUnavailable,
          failIf (headGroup m.img.shape kv).isNone .fieldRange 52],
       failIf (decide (256 ≤ pfxCount s)) .prefixLimit,
       failIf (!fitsQuota s f pages 0) .quotaPages,
       readFailed r]) fun s =>
      match r, modelOf s (le b 32 4) with
      | .data d, some m =>
        let toks := tokensOf d n
        let bad := badToken m.img.vocab toks
        settle s x (failStruct bad.isSome .fieldRange (4 * bad.getD 0) 40) fun s =>
          startBg (if s.boot.state = .doze then wakeDies s else s) x
            (.prefixRegister m.handle toks kv pages (bitOf (byteAt b 53) 0)) pages 0
      | _, _ => s

/-- Removes the released prefixes of which no case holds a page (R82, R217). -/
def reapPfxs (s : State) : State := { s with pfxs := s.pfxs.filter fun p => !(p.released && pfxPages p == 0) }

/-- PREFIX_RELEASE (R82): the registration's reference is dropped; the pages stay while a case holds them. -/
def execPrefixRelease (f : Nat) (src : Src) (s : State) : Res :=
  onMessage s f src 0x0802 notHeld fun s x =>
    let h := le x.bytes 32 4
    settle s x (firstSome
      [failIf (ownPfx s f h).isNone .badReference 32,
       failIf (inUse s h) .inUseByContract]) fun s =>
      let release (p : Pfx) : Pfx := { p with released := true }
      complete (reapPfxs { s with pfxs := modifyWhere s.pfxs (fun p => p.handle == h) release }) x.id .ok

end Sys2Proof.Machine
end

