-- ==== Sys2Proof/Machine/ContractRecord.lean ====
section
/-! DEFINITION. The contract record (R106): reading it from its bytes, and the checks of R84 steps 1 to 6 with the areas
TEMPLATE (R193), FEATURES (R155), SAMPLER (R222) and STOPS (R227). -/

namespace Sys2Proof.Machine

/-! ## Structures as lists of fields (R55) -/

/-- A field of a structure: its offset and size, and the status it fails with. -/
structure SField where
  off  : Nat
  size : Nat
  fail : Option Status
  deriving DecidableEq, Repr

/-- A field that must satisfy a range. -/
def sOk (off size : Nat) (ok : Bool) : SField :=
  { off := off, size := size, fail := if ok then none else some .fieldRange }

/-- A number in a range, of a structure that begins at `base`. -/
def sRange (b : List Byte) (base off size lo hi : Nat) : SField :=
  sOk off size (decide (lo ≤ le b (base + off) size ∧ le b (base + off) size ≤ hi))

/-- Flag bits: a bit outside the mask is reserved. -/
def sFlags (b : List Byte) (base off size mask : Nat) : SField :=
  { off := off, size := size,
    fail := if le b (base + off) size ||| mask = mask then none else some .reservedNonzero }

/-- The reserved bytes of a structure from `pos` to `stop`: a nonzero one is named by its offset. -/
def gapCheck (b : List Byte) (msg base pos stop : Nat) : Check :=
  (firstNonzero b (base + pos) (stop - pos)).bind fun i => failStruct true .reservedNonzero i msg

/-- A structure of `len` bytes at `base`, in offset order: fields, and reserved bytes between them (R84 step 1). -/
def structCheck (b : List Byte) (msg base len : Nat) : Nat → List SField → Check
  | pos, [] => gapCheck b msg base pos len
  | pos, x :: xs => firstSome
      [gapCheck b msg base pos x.off,
       x.fail.bind fun st => failStruct true st (base + x.off) msg,
       structCheck b msg base len (x.off + x.size) xs]

/-! ## Reading the record -/

/-- `n` 4-byte values from an offset. -/
def wordsAt (b : List Byte) (off n : Nat) : List Nat := (List.range n).map fun i => le b (off + 4 * i) 4

/-- The identity fields (R106). -/
def termsAt (b : List Byte) : ContractTerms :=
  { caseType := byteAt b 4, level := byteAt b 5, preempt := byteAt b 6, topology := byteAt b 7, deadline := le b 8 4,
    energyUj := le b 12 4, arrivalKind := byteAt b 16, burst := le b 18 2, interval := le b 20 4, phase := le b 24 4,
    doneCairn := le b 28 4 }

/-- The handles (R106). -/
def refsAt (b : List Byte) : ContractRefs :=
  { encModel := le b 32 4, index := le b 36 4, rerankModel := le b 40 4, genModel := le b 44 4, draftModel := le b 48 4,
    fbGenModel := le b 52 4, pfx := le b 56 4 }

/-- The limits (R106). -/
def limitsAt (b : List Byte) : ContractLimits :=
  { nprobe := le b 60 2, candC := le b 62 2, rerankDepth := byteAt b 64, draftLen := byteAt b 65, genMax := le b 66 2,
    fbGenMax := le b 68 2, fbMask := le b 70 2, holdUs := le b 72 4, contextMax := le b 76 4, kvFormat := byteAt b 80,
    passageSrc := byteAt b 81, passageTok := le b 82 2, t3Budget := le b 84 4 }

/-- The TEMPLATE area (R193). -/
def templateAt (b : List Byte) (o : Nat) : Template :=
  { version := le b o 2, slotCount := le b (o + 2) 2, caseTok := le b (o + 4) 4, slotTok := le b (o + 8) 2,
    rrCaseTok := le b (o + 10) 2, passBudget := le b (o + 12) 4, familyMax := byteAt b (o + 16),
    order := byteAt b (o + 17), caseTrunc := byteAt b (o + 18), rrBatch := byteAt b (o + 19),
    caseOpen := le b (o + 20) 4, caseClose := le b (o + 24) 4, slotOpen := le b (o + 28) 4,
    slotClose := le b (o + 32) 4, truncMark := le b (o + 36) 4, storeBase := le b (o + 48) 8,
    storeBuckets := le b (o + 56) 8, storeKey := le b (o + 64) 8, dataBase := le b (o + 72) 8,
    dataLen := le b (o + 80) 8, probeMax := byteAt b (o + 88) }

/-- The bag entries that an area of `len` bytes at `o` holds (R155). -/
def bagsAt (b : List Byte) (o len : Nat) : List BagSpec :=
  (List.range (min (byteAt b (o + 12)) ((len - 16) / 16))).map fun i =>
    let e := o + 16 + 16 * i
    { table := le b e 4, pool := byteAt b (e + 4), bagMax := le b (e + 6) 2 }

/-- The FEATURES area (R155). -/
def featuresAt (b : List Byte) (o len : Nat) : Features :=
  { payloadMax := le b o 4, encBytes := le b (o + 4) 4, chunkLen := le b (o + 8) 2, chunkMax := le b (o + 10) 2,
    bags := bagsAt b o len }

/-- Where the forbidden-token bitmap of a SAMPLER area begins: the header and the bias entries, padded to 64 bytes. -/
def bitmapOff (b : List Byte) (o : Nat) : Nat := ceilDiv (64 + 8 * le b (o + 2) 2) 64 * 64

/-- The bytes of the bitmap for a vocabulary (R222). -/
def bitmapLen (vocab : Nat) : Nat := 64 * ceilDiv vocab 512

/-- The SAMPLER area (R222); an absent one is greedy with nothing biased or forbidden. -/
def samplerAt (b : List Byte) (a : Area) (vocab : Nat) : Sampler :=
  if a.len = 0 then
    { version := 2, temp := 0, topK := 0, fileContext := 0, topP := fpOfInt 1, bias := [], hasForbid := false, forbid := [] }
  else
    let o := a.off
    let has := byteAt b (o + 11) == 1
    { version := le b o 2, temp := fpAt b (o + 4), topK := le b (o + 8) 2, fileContext := byteAt b (o + 10),
      topP := fpAt b (o + 12),
      bias := (List.range (le b (o + 2) 2)).map fun i => (le b (o + 64 + 8 * i) 4, fpAt b (o + 68 + 8 * i)),
      hasForbid := has,
      forbid := if has then
          (List.range vocab).filter fun t => bitOf (byteAt b (o + bitmapOff b o + t / 8)) (t % 8)
        else [] }

/-- A stop sequence or a label: its length and its tokens. -/
def seqAt (b : List Byte) (o : Nat) : List Nat := wordsAt b (o + 4) (byteAt b o)

/-- The STOPS area (R227); an absent one never stops. -/
def stopsAt (b : List Byte) (a : Area) : Stops :=
  if a.len = 0 then { version := 2, stopToks := [], seqs := [], labels := [], labelStop := false, timeBudget := 0 }
  else
    let o := a.off
    { version := le b o 2, stopToks := wordsAt b (o + 16) (byteAt b (o + 2)),
      seqs := (List.range (byteAt b (o + 3))).map fun i => seqAt b (o + 80 + 68 * i),
      labels := (List.range (byteAt b (o + 4))).map fun i => seqAt b (o + 624 + 36 * i),
      labelStop := bitOf (byteAt b (o + 5)) 0, timeBudget := le b (o + 8) 4 }

/-- An area of the fixed part. -/
def areaAt (b : List Byte) (off : Nat) : Area := { off := le b off 4, len := le b (off + 4) 4 }

/-- The contract record of its bytes, for a generator of `vocab` tokens. -/
def recordAt (b : List Byte) (vocab : Nat) : ContractRec :=
  { version := le b 0 2, bytes := le b 2 2, terms := termsAt b, refs := refsAt b, lim := limitsAt b,
    tplArea := areaAt b 88, featArea := areaAt b 96, smpArea := areaAt b 104, stpArea := areaAt b 112,
    tpl := templateAt b (areaAt b 88).off, feat := featuresAt b (areaAt b 96).off (areaAt b 96).len,
    smp := samplerAt b (areaAt b 104) vocab, stp := stopsAt b (areaAt b 112) }

/-! ## Chains of forms (R108) -/

/-- Whether a fallback of FB_MASK is declared. -/
def declares (l : ContractLimits) (bitNo : Nat) : Bool := bitOf l.fbMask bitNo

/-- The chain of a stage, richest form first (R108). A pipeline without a re-rank model has no form of re-rank. -/
def chainOf (r : ContractRec) : Stage → List Form
  | .fetch => .full :: (if declares r.lim 1 then [.cache] else []) ++ (if declares r.lim 2 then [.idsOnly] else [])
  | .rerank =>
    if r.refs.rerankModel = 0 then [.absent] else .full :: (if declares r.lim 0 then [.distanceOrder] else [])
  | .generation =>
    .full :: (if declares r.lim 4 then [.smallGen] else []) ++ (if declares r.lim 3 then [.scoreHead] else [])
  | _ => [.full]

/-- The last form of a stage's chain, which the fallback-complete path runs (R109). -/
def lastForm (r : ContractRec) (g : Stage) : Form := (chainOf r g).getLast?.getD .full

/-- HOST_DEPENDENT: a fetch chain that still reads T3 (R109). -/
def hostDependent (r : ContractRec) : Bool := r.lim.passageSrc == 1 && !declares r.lim 2

/-- The tokens a case may generate, G of R107. -/
def genTokens (l : ContractLimits) : Nat := if declares l 4 then max l.genMax l.fbGenMax else l.genMax

/-- The separators present among two tokens. -/
def present (a c : Nat) : Nat := bit (a != 0xFFFFFFFF) + bit (c != 0xFFFFFFFF)

/-- TOK_OFF of the result buffer (R233). -/
def tokOff (l : ContractLimits) : Nat := 4096 + 4096 * ceilDiv (32 + 32 * l.candC) 4096

/-- RESULT_NEED (R233). -/
def resultNeed (l : ContractLimits) : Nat := tokOff l + 4096 * ceilDiv (64 + 4 * max l.genMax l.fbGenMax) 4096

/-! ## R84 step 1: the fixed part -/

/-- The message field that names the record: REC_ADDR. -/
def recMsg : Nat := 32

/-- A record check: a structure check of the record. -/
def recFail (bad : Bool) (st : Status) (off : Nat) : Check := failStruct bad st off recMsg

/-- Whether a count is zero exactly when a condition holds. -/
def zeroExactly (v : Nat) (c : Bool) : Bool := (v == 0) == c

/-- The fields of the fixed part in offset order (R106). -/
def fixedFields (b : List Byte) : List SField :=
  let t := termsAt b
  let k := refsAt b
  let l := limitsAt b
  [sRange b 0 0 2 2 2, sRange b 0 2 2 256 65535, sRange b 0 4 1 1 3, sRange b 0 5 1 0 2, sRange b 0 6 1 1 2,
   sRange b 0 7 1 0 2, sRange b 0 8 4 12000 1200000000, sRange b 0 12 4 1 750000000, sRange b 0 16 1 1 2,
   sRange b 0 18 2 1 (if t.arrivalKind = 2 then 1 else 4096), sRange b 0 20 4 1200 1200000000,
   sRange b 0 24 4 0 (if t.arrivalKind = 1 then 0 else t.interval - 1),
   sOk 28 4 (decide (t.doneCairn ≤ 131071 ∨ t.doneCairn = 0xFFFFFFFF)),
   sOk 32 28 true, sRange b 0 60 2 1 1024, sRange b 0 62 2 1 1024,
   sOk 64 1 (decide (l.rerankDepth ≤ 64) && zeroExactly l.rerankDepth (k.rerankModel == 0)),
   sOk 65 1 (decide (l.draftLen ≤ 8) && zeroExactly l.draftLen (k.draftModel == 0)),
   sRange b 0 66 2 0 4096, sRange b 0 68 2 0 4096, sFlags b 0 70 2 31, sRange b 0 72 4 0 500,
   sRange b 0 76 4 1 1048576, sRange b 0 80 1 0 2, sRange b 0 81 1 1 3, sRange b 0 82 2 1 2048,
   sOk 84 4 (decide (l.t3Budget ≤ 120000000) && zeroExactly l.t3Budget (l.passageSrc != 1)), sOk 88 32 true]

/-- Step 1 for a record of which the message gives `len` bytes. -/
def fixedCheck (b : List Byte) (len : Nat) : Check :=
  let bytes := le b 2 2
  firstSome
    [recFail (le b 0 2 != 2) .fieldRange 0,
     recFail (!decide (256 ≤ bytes)) .fieldRange 2,
     recFail (decide (len < bytes)) .lenExceedsBuffer 2,
     structCheck b recMsg 0 256 0 (fixedFields b)]

/-! ## Step 2: the areas' places -/

/-- The places of one area, named by its field at `off`, after the areas of `seen`. -/
def placeCheck (bytes : Nat) (seen : List Area) (a : Area) (absent : Bool) (off : Nat) : Check :=
  if absent ∨ a.len = 0 then firstSome
    [recFail (a.off != 0) .fieldRange off, recFail (a.len != 0 || !absent) .fieldRange (off + 4)]
  else firstSome
    [recFail (a.off % 64 != 0 || decide (a.off < 256) || seen.any fun x => overlaps a.off a.len x.off x.len)
       .fieldRange off,
     recFail (decide (bytes < a.off + a.len)) .lenExceedsBuffer (off + 4)]

/-- Step 2: TEMPLATE, FEATURES, SAMPLER and STOPS. The last two are absent exactly when nothing is generated (R222). -/
def areasCheck (r : ContractRec) : Check :=
  let none' := r.lim.genMax == 0 && r.lim.fbGenMax == 0
  firstSome
    [placeCheck r.bytes [] r.tplArea false 88,
     placeCheck r.bytes [r.tplArea] r.featArea false 96,
     placeCheck r.bytes [r.tplArea, r.featArea] r.smpArea none' 104,
     placeCheck r.bytes [r.tplArea, r.featArea, r.smpArea] r.stpArea none' 112]

/-! ## Step 3: references -/

/-- A model reference: it names a model of the right kind that is not UNAVAILABLE; `opt` allows 0 for none. -/
def modelRef (s : State) (f h off : Nat) (opt : Bool) (fits : Model → Bool) : Check :=
  if opt ∧ h = 0 then none
  else match (readModel s f h).filter fits with
    | none => recFail true .badReference off
    | some m => recFail m.unavailable .tierUnavailable off

/-- Whether a model is an image of a role. -/
def isRole (r : ModelRole) (m : Model) : Bool := decide (m.img.role = r)

/-- Whether a model is a generator with a classifier head. -/
def isHeaded (m : Model) : Bool := isRole .generator m && m.img.gen.hasHead

/-- The reference to the index: it is not UNAVAILABLE, EMPTY or LOADING. -/
def indexRef (s : State) (f h : Nat) : Check :=
  match readIndex s f h with
  | none => recFail true .badReference 36
  | some x => firstSome
      [recFail (decide (x.state = .unavailable)) .tierUnavailable 36,
       recFail (decide (x.state = .empty ∨ x.state = .loading)) .busy 36]

/-- The reference to the prefix. -/
def pfxRef (s : State) (f h : Nat) : Check :=
  if h = 0 then none
  else match readPfx s f h with
    | none => recFail true .badReference 56
    | some p => recFail p.unavailable .tierUnavailable 56

/-- The reference to a bag's table, in its entry at `off`. -/
def tableRef (s : State) (f h off : Nat) : Check :=
  match readTable s f h with
  | none => recFail true .badReference off
  | some t => recFail t.unavailable .tierUnavailable off

/-- Step 3, in its order. -/
def refsCheck (s : State) (f : Nat) (r : ContractRec) : Check :=
  let k := r.refs
  firstSome <|
    [modelRef s f k.encModel 32 false (isRole .encoder), indexRef s f k.index,
     modelRef s f k.rerankModel 40 true (isRole .reranker), modelRef s f k.genModel 44 false isHeaded,
     modelRef s f k.draftModel 48 true (isRole .generator), modelRef s f k.fbGenModel 52 true isHeaded,
     pfxRef s f k.pfx,
     recFail (r.terms.doneCairn != 0xFFFFFFFF && (hostCairn s f r.terms.doneCairn).isNone) .badReference 28] ++
    (List.range r.feat.bags.length).map fun i => match r.feat.bags[i]? with
      | some g => tableRef s f g.table (r.featArea.off + 16 + 16 * i)
      | none => none

/-! ## Step 5: the contents of the areas -/

/-- The TEMPLATE area (R193). -/
def templateCheck (b : List Byte) (r : ContractRec) : Check :=
  let o := r.tplArea.off
  let t := r.tpl
  let store := t.storeBase == 0
  firstSome
    [recFail (r.tplArea.len != 128) .fieldRange 92,
     structCheck b recMsg o 128 0
       [sRange b o 0 2 2 2, sRange b o 2 2 1 64, sRange b o 4 4 1 65536, sRange b o 8 2 1 2048,
        sOk 10 2 (decide (t.rrCaseTok ≤ 2048) && zeroExactly t.rrCaseTok (r.refs.rerankModel == 0)),
        sRange b o 12 4 1 131072, sRange b o 16 1 1 64, sRange b o 17 1 0 1, sRange b o 18 1 0 1, sRange b o 19 1 1 64,
        sOk 20 20 true, sOk 48 8 (t.storeBase % 4096 == 0),
        sOk 56 8 (decide (t.storeBuckets ≤ 68719476736) && zeroExactly t.storeBuckets store), sOk 64 8 true,
        sOk 72 8 (t.dataBase % 64 == 0 && zeroExactly t.dataBase store),
        sOk 80 8 (decide (t.dataLen ≤ 2 ^ 48) && zeroExactly t.dataLen store),
        sOk 88 1 (decide (t.probeMax ≤ 4) && zeroExactly t.probeMax store)]]

/-- The range of PAYLOAD_MAX for a case type (R155). -/
def payloadRange (caseType v : Nat) : Bool :=
  match caseType with
  | 1 => decide (v ≤ 65536)
  | 2 => decide (1 ≤ v ∧ v ≤ 1048576)
  | _ => decide (1 ≤ v ∧ v ≤ 16777216)

/-- The FEATURES area (R155). -/
def featuresCheck (b : List Byte) (r : ContractRec) : Check :=
  let o := r.featArea.off
  let n := byteAt b (o + 12)
  let ct := r.terms.caseType
  let file := ct == 2
  firstSome <|
    [recFail (r.featArea.len != 16 + 16 * n) .fieldRange 100,
     structCheck b recMsg o 16 0
       [sOk 0 4 (payloadRange ct (le b o 4)),
        sOk 4 4 (if ct = 1 then decide (1 ≤ le b (o + 4) 4 ∧ le b (o + 4) 4 ≤ 65536) else le b (o + 4) 4 == 0),
        sOk 8 2 (if file then [512, 1024, 2048, 4096].contains (le b (o + 8) 2) else le b (o + 8) 2 == 0),
        sOk 10 2 (if file then decide (1 ≤ le b (o + 10) 2 ∧ le b (o + 10) 2 ≤ 2048) else le b (o + 10) 2 == 0),
        sRange b o 12 1 0 32]] ++
    (List.range n).map fun i =>
      let e := o + 16 + 16 * i
      structCheck b recMsg e 16 0 [sOk 0 4 true, sRange b e 4 1 0 2, sRange b e 6 2 1 252]

/-- Whether a word is in [lo, hi] as fp32. -/
def fpWithin (w lo hi : Word) : Bool := !fpLt w lo && !fpLt hi w

/-- The first byte of a bitmap that sets a reserved bit: one for a token at or above the vocabulary (R222). -/
def bitmapStray (b : List Byte) (base vocab : Nat) : Option Nat :=
  (List.range (bitmapLen vocab)).findSome? fun i =>
    if (List.range 8).any fun j => decide (vocab ≤ 8 * i + j) && bitOf (byteAt b (base + i)) j then some (base + i)
    else none

/-- The SAMPLER area (R222). -/
def samplerCheck (b : List Byte) (r : ContractRec) (vocab : Nat) : Check :=
  if r.smpArea.len = 0 then none
  else
    let o := r.smpArea.off
    let n := le b (o + 2) 2
    let forbid := byteAt b (o + 11) == 1
    let need := bitmapOff b o + (if forbid then bitmapLen vocab else 0)
    firstSome <|
      [recFail (r.smpArea.len != need) .fieldRange 108,
       structCheck b recMsg o 64 0
         [sRange b o 0 2 2 2, sRange b o 2 2 0 256,
          sOk 4 4 (fpKey r.smp.temp == 0 || fpWithin r.smp.temp 0x3D800000#32 0x41800000#32), sRange b o 8 2 0 256,
          sRange b o 10 1 0 (if r.terms.caseType = 2 then 2 else 0), sRange b o 11 1 0 1,
          sOk 12 4 (fpPositive r.smp.topP && !fpLt (fpOfInt 1) r.smp.topP)]] ++
      ((List.range n).map fun i =>
        let e := o + 64 + 8 * i
        structCheck b recMsg e 8 0 [sOk 0 4 (decide (le b e 4 < vocab)), sOk 4 4 (fpFinite (fpAt b (e + 4)))]) ++
      [gapCheck b recMsg o (64 + 8 * n) (bitmapOff b o),
       if forbid then (bitmapStray b (o + bitmapOff b o) vocab).bind fun i => recFail true .reservedNonzero i else none]

/-- A stop sequence or a label of at most `m` tokens at `o`; an entry that is not used is all zero (R227). -/
def seqCheck (b : List Byte) (o m : Nat) (used : Bool) : Check :=
  let n := byteAt b o
  if used then firstSome
    [recFail (!decide (1 ≤ n ∧ n ≤ m)) .fieldRange o, gapCheck b recMsg o 1 4, gapCheck b recMsg o (4 + 4 * n) (4 + 4 * m)]
  else gapCheck b recMsg o 0 (4 + 4 * m)

/-- The STOPS area (R227). -/
def stopsCheck (b : List Byte) (r : ContractRec) : Check :=
  if r.stpArea.len = 0 then none
  else
    let o := r.stpArea.off
    let tb := r.stp.timeBudget
    firstSome <|
      [recFail (r.stpArea.len != 1216) .fieldRange 116,
       structCheck b recMsg o 16 0
         [sRange b o 0 2 2 2, sRange b o 2 1 0 16, sRange b o 3 1 0 8, sRange b o 4 1 0 16, sFlags b o 5 1 1,
          sOk 8 4 (tb == 0 || decide (1200 ≤ tb ∧ tb ≤ r.terms.deadline))],
       gapCheck b recMsg o (16 + 4 * byteAt b (o + 2)) 80] ++
      ((List.range 8).map fun i => seqCheck b (o + 80 + 68 * i) 16 (decide (i < byteAt b (o + 3)))) ++
      ((List.range 16).map fun i => seqCheck b (o + 624 + 36 * i) 8 (decide (i < byteAt b (o + 4)))) ++
      [gapCheck b recMsg o 1200 1216]

/-! ## Step 6: rules across fields -/

/-- The objects a record names, once step 3 has found them. -/
structure RecObjs where
  enc   : ModelImage
  rr    : Option ModelImage
  gen   : ModelImage
  draft : Option ModelImage
  fb    : Option ModelImage
  index : IndexCfg
  pfx   : Option Pfx
  deriving DecidableEq, Repr

/-- The objects a record names. -/
def objsOf (s : State) (r : ContractRec) : Option RecObjs :=
  let img (h : Nat) : Option ModelImage := (modelOf s h).map Model.img
  let k := r.refs
  (img k.encModel).bind fun e => (img k.genModel).bind fun g => (indexOf s k.index).map fun x =>
    { enc := e, rr := img k.rerankModel, gen := g, draft := img k.draftModel, fb := img k.fbGenModel, index := x.cfg,
      pfx := pfxOf s k.pfx }

/-- The positions of the file region at its largest (R231). -/
def fileRegionMax (r : ContractRec) : Nat :=
  match r.smp.fileContext with
  | 1 => r.feat.chunkMax
  | 2 => r.feat.payloadMax
  | _ => 0

/-- The context that a contract reserves (R107, R231). -/
def contextNeed (r : ContractRec) (o : RecObjs) : Nat :=
  (o.pfx.map fun p => p.toks.length).getD 0 + r.tpl.caseTok + max r.lim.rerankDepth 1 * r.lim.passageTok +
    genTokens r.lim + fileRegionMax r

/-- Whether every FB_MASK bit names a form that the pipeline can use (R107). -/
def maskUsable (r : ContractRec) (o : RecObjs) : Bool :=
  let l := r.lim
  (!declares l 0 || r.refs.rerankModel != 0) &&
  (!declares l 1 || (decide (0 < o.index.cachePages) && l.passageSrc == 1)) &&
  (!declares l 2 || l.passageSrc != 3) &&
  (!(declares l 3 || declares l 4) || decide (0 < l.genMax)) &&
  (!declares l 4 || (r.refs.fbGenModel != 0 && decide (0 < l.fbGenMax)))

/-- The rules of R107 in table order; each is named by the first field it reads. -/
def rulesR107 (r : ContractRec) (o : RecObjs) : Check :=
  let l := r.lim
  let tooLong (i : ModelImage) : Bool := decide (i.maxPos < l.contextMax)
  firstSome
    [recFail (decide (o.index.lists < l.nprobe)) .fieldRange 60,
     recFail (decide (l.candC < l.rerankDepth)) .fieldRange 62,
     recFail (decide (l.contextMax < contextNeed r o)) .productRange 76,
     recFail (tooLong o.gen || o.draft.any tooLong || (declares l 4 && o.fb.any tooLong)) .fieldRange 76,
     recFail (!maskUsable r o) .fieldRange 70,
     recFail ((r.refs.fbGenModel != 0) != declares l 4) .fieldRange 52,
     recFail (!o.enc.enc.caseTypes.contains r.terms.caseType) .badReference 32,
     recFail (o.pfx.any fun p => p.model != r.refs.genModel) .badReference 56,
     recFail ((r.terms.topology == 0) != (o.index.shardCount == 1)) .fieldRange 7]

/-- The rules of R156. -/
def rulesR156 (s : State) (r : ContractRec) (o : RecObjs) : Check :=
  let a := r.featArea.off
  let t := r.feat
  let n := t.bags.length
  let dim (h : Nat) : Nat := ((tableOf s h).map Table.dim).getD 0
  let file := r.terms.caseType == 2
  let flow := r.terms.caseType == 1
  firstSome
    [recFail (file && decide (1048576 < t.chunkLen * t.chunkMax)) .productRange (a + 8),
     recFail (file && decide (t.chunkLen * t.chunkMax < t.payloadMax)) .productRange a,
     recFail (flow && decide (o.enc.maxPos < 1 + n + t.encBytes)) .productRange (a + 4),
     recFail (file && decide (o.enc.maxPos < t.chunkLen + 1)) .productRange (a + 8),
     recFail (file && decide (o.enc.maxPos < 2 + n + t.chunkMax)) .productRange (a + 10),
     recFail (n != o.enc.enc.bagDims.length) .fieldRange (a + 12),
     ((List.range n).find? fun i => match t.bags[i]?, o.enc.enc.bagDims[i]? with
       | some g, some d => dim g.table != d
       | _, _ => true).bind fun i => recFail true .fieldRange (a + 16 + 16 * i)]

/-- The token fields of a TEMPLATE area with their offsets. -/
def templateTokens (t : Template) : List (Nat × Nat) :=
  [(20, t.caseOpen), (24, t.caseClose), (28, t.slotOpen), (32, t.slotClose), (36, t.truncMark)]

/-- The rules of R194. -/
def rulesR194 (s : State) (h : HostView) (f : Nat) (r : ContractRec) (o : RecObjs) : Check :=
  let a := r.tplArea.off
  let t := r.tpl
  let l := r.lim
  let caseSep := present t.caseOpen t.caseClose
  let slotSep := present t.slotOpen t.slotClose
  let denied (base len : Nat) : Bool := len != 0 && dmaDenied s h f (partPasid s f) false base len
  firstSome
    [recFail ((t.storeBase != 0) != (l.passageSrc == 1)) .fieldRange (a + 48),
     recFail (decide (max l.rerankDepth 1 < t.slotCount)) .fieldRange (a + 2),
     recFail (decide (l.passageTok < t.slotTok)) .fieldRange (a + 8),
     recFail (decide (t.slotTok < 1 + slotSep)) .fieldRange (a + 8),
     recFail (decide (t.caseTok < 1 + caseSep)) .fieldRange (a + 4),
     recFail (decide (t.slotCount * t.slotTok < t.passBudget)) .productRange (a + 12),
     recFail (o.rr.any fun i => decide (i.maxPos < 3 + t.rrCaseTok + l.passageTok)) .productRange (a + 10),
     recFail (r.terms.caseType == 3 && t.caseTok != 1 + caseSep) .fieldRange (a + 4),
     recFail (r.terms.caseType == 3 && decide (1 < t.rrCaseTok)) .fieldRange (a + 10),
     ((templateTokens t).find? fun e => e.2 != 0xFFFFFFFF && decide (o.gen.vocab ≤ e.2)).bind fun e =>
       recFail true .fieldRange (a + e.1),
     recFail (denied t.storeBase (128 * t.storeBuckets)) .dmaAddrDenied (a + 48),
     recFail (denied t.dataBase t.dataLen) .dmaAddrDenied (a + 72)]

/-- The rules of R214, R215 and R217. -/
def rulesModels (r : ContractRec) (o : RecObjs) : Check :=
  let bad (i : ModelImage) : Bool := (headGroup i.shape r.lim.kvFormat).isNone
  firstSome
    [recFail (o.fb.any fun i => i.gen.verdicts != o.gen.gen.verdicts) .fieldRange 52,
     recFail (bad o.gen || o.draft.any bad || o.fb.any bad) .fieldRange 80,
     recFail (o.pfx.any fun p => p.kvFormat != r.lim.kvFormat) .fieldRange 80]

/-- Whether tokens stand in increasing order with no repeat. -/
def increasing : List Nat → Bool
  | a :: b :: rest => decide (a < b) && increasing (b :: rest)
  | _ => true

/-- The rules of R223. -/
def rulesR223 (r : ContractRec) (o : RecObjs) : Check :=
  let a := r.smpArea.off
  let m := r.smp
  if r.smpArea.len = 0 then
    recFail (o.draft.any fun i => i.vocab != o.gen.vocab) .fieldRange 48
  else firstSome
    [recFail (o.draft.any fun i => i.vocab != o.gen.vocab) .fieldRange 48,
     recFail (o.fb.any fun i => i.vocab != o.gen.vocab) .fieldRange 52,
     recFail (fpKey m.temp == 0 && m.topK != 0) .fieldRange (a + 8),
     recFail (fpKey m.temp == 0 && m.topP != fpOfInt 1) .fieldRange (a + 12),
     recFail (m.hasForbid && (List.range o.gen.vocab).all m.forbid.contains) .fieldRange (a + 11),
     recFail (!increasing (m.bias.map Prod.fst)) .fieldRange (a + 64)]

/-- Whether a list of tokens begins another one. -/
def begins (a c : List Nat) : Bool := a == c.take a.length

/-- Whether one of the labels begins another one (R228). -/
def labelClash (ls : List (List Nat)) : Bool :=
  (List.range ls.length).any fun i => (List.range ls.length).any fun j =>
    i != j && begins (ls.getD i []) (ls.getD j [])

/-- The rules of R228, and R231's on the file region. -/
def rulesStops (r : ContractRec) (o : RecObjs) : Check :=
  let a := r.stpArea.off
  let t := r.stp
  let l := r.lim
  let long (x : List Nat) : Bool := decide (l.genMax < x.length) || (declares l 4 && decide (l.fbGenMax < x.length))
  firstSome
    [recFail ((t.stopToks ++ t.seqs.flatten ++ t.labels.flatten).any fun k => decide (o.gen.vocab ≤ k)) .fieldRange (a + 16),
     recFail (labelClash t.labels) .fieldRange (a + 624),
     recFail (t.labels.any fun x => x.any r.smp.forbid.contains) .fieldRange (a + 624),
     recFail (t.labels.any long) .fieldRange (a + 624),
     recFail (t.labelStop && t.labels.isEmpty) .fieldRange (a + 5)]

/-- The rules of R231. -/
def rulesR231 (r : ContractRec) (o : RecObjs) : Check :=
  let at' := r.smpArea.off + 10
  match r.smp.fileContext with
  | 1 => recFail (!o.gen.gen.adapters.contains o.enc.imageId) .fieldRange at'
  | 2 => firstSome
      [recFail (o.gen.gen.wFile == 0) .fieldRange at',
       recFail (declares r.lim 4 || r.refs.draftModel != 0) .fieldRange at']
  | _ => none

/-- Step 6. -/
def crossCheck (s : State) (h : HostView) (f : Nat) (r : ContractRec) : Check :=
  match objsOf s r with
  | none => none
  | some o => firstSome
      [rulesR107 r o, rulesR156 s r o, rulesR194 s h f r o, rulesModels r o, rulesR223 r o, rulesStops r o, rulesR231 r o]

/-- R84 steps 1 to 6, for a record of which the message gives `len` bytes. -/
def recordCheck (s : State) (h : HostView) (f : Nat) (b : List Byte) (len : Nat) (r : ContractRec) : Check :=
  let vocab := ((modelOf s r.refs.genModel).map fun m => m.img.vocab).getD 0
  let levelMax := ((partOf s f).map fun p => p.cfg.levelMax).getD 0
  firstSome
    [fixedCheck b len, areasCheck r, refsCheck s f r,
     recFail (decide (r.terms.level < levelMax)) .fieldRange 5,
     templateCheck b r, featuresCheck b r, samplerCheck b r vocab, stopsCheck b r, crossCheck s h f r]

end Sys2Proof.Machine
end

