-- ==== Sys2Proof/Machine/Journal.lean ====
section
/-! DEFINITION. The commit journal (R337): the entry of a commit, made from the state before it and the state that it leaves.
Entries stay in order until the module's reset, and how an entry's bytes lie is free (DESIGN CHOICE, log 172). -/

namespace Sys2Proof.Machine

/-- The things of `new` that `old` does not hold as they are, by their numbers. -/
def changedIn {α : Type} [DecidableEq α] (old new : List α) (num : α → Nat) : List Nat :=
  (new.filter fun x => !old.contains x).map num

/-- The handles of the objects that a commit changes or makes: models, tables, indexes and prefixes, and their contracts. -/
def changedObjects (s t : State) : List Nat :=
  changedIn s.models t.models Model.handle ++ changedIn s.tables t.tables Table.handle ++
    changedIn s.indexes t.indexes Index.handle ++ changedIn s.pfxs t.pfxs Pfx.handle ++
    changedIn s.contracts t.contracts Contract.handle

/-- The KV pages of a case's caches that a commit writes, `old` the same case's caches before it (R215). -/
def changedPages (key : Nat) (old new : List KvCache) : List JournalPage :=
  new.flatMap fun x =>
    let before := ((old.find? fun y => y.model == x.model).map KvCache.pages).getD []
    (x.pages.filter fun p => !before.contains p).map fun p =>
      { case := key, model := x.model, layer := p.layer, group := p.group, num := p.num }

/-- The pages that a commit writes, over every case. -/
def changedKv (s t : State) : List JournalPage :=
  t.cases.flatMap fun c =>
    changedPages c.hd.key (((s.cases.find? fun d => d.hd.key == c.hd.key).map fun d => d.gen.kv).getD []) c.gen.kv

/-- The increments that a commit makes: each cairn, and by how much its value goes up. -/
def cairnSteps (s t : State) : List (Nat × Nat) :=
  (t.cairns.map fun c =>
    (c.num, c.val - ((s.cairns.find? fun d => d.num == c.num && d.run == c.run).map CairnRec.val).getD 0)).filter
    fun e => decide (0 < e.2)

/-- The numbers that an entry is made of, the length of each part before it. -/
def entryNumbers (cmds objects cases : List Nat) (pages : List JournalPage) (steps : List (Nat × Nat)) : List Nat :=
  (cmds.length :: cmds) ++ (objects.length :: objects) ++ (cases.length :: cases) ++
    (pages.length :: pages.flatMap fun p => [p.case, p.model, p.layer, p.group, p.num]) ++
    (steps.length :: steps.flatMap fun e => [e.1, e.2])

/-- The entry of the commit of the commands `ids` that takes `s` to `t`, with the CRC-32C over it. -/
def journalEntry (s t : State) (ids : List Nat) : JournalEntry :=
  let objects := changedObjects s t
  let cases := changedIn s.cases t.cases fun c => c.hd.key
  let pages := changedKv s t
  let steps := cairnSteps s t
  { cmds := ids, objects := objects, cases := cases, pages := pages, cairns := steps,
    crc := crc32c (Config.journalBytes (entryNumbers ids objects cases pages steps)) }

/-- The state `t` that the commit of `cmds` leaves from `s`, with the entry of the commit: of those commands that have ended with it.
Nothing sees the state between the entry and the commit's effects. -/
def journaled (s : State) (cmds : List Cmd) (t : State) : State :=
  let ids := (cmds.map Cmd.id).filter fun i => !(t.sched.cmds.any fun c => c.id == i)
  updSafety t fun y => { y with journal := if ids.isEmpty then y.journal else y.journal ++ [journalEntry s t ids] }

end Sys2Proof.Machine
end

