-- ==== Sys2Proof/Machine/MemoryUnit.lean ====
section
/-! DEFINITION. DRAM reads and writes as the ECC sees them (R275 to R280), patrol scrub (R282, R283), channel retraining
and failure (R286 to R288), and ATS invalidation (R272). -/

namespace Sys2Proof.Machine

/-! ## Granules (R275 to R279) -/

/-- The syndrome a granule holds; one the list does not name is clean. -/
def granuleSyn (s : State) (t : Tier) (frame granule : Nat) : Syndrome :=
  match s.mem.granules.find? fun g => decide (g.tier = t ∧ g.frame = frame ∧ g.granule = granule) with
  | some g => g.syn
  | none => { s0 := 0, s1 := 0 }

/-- The sum of two syndromes: the code is linear. -/
def addSyn (a b : Syndrome) : Syndrome := { s0 := a.s0 ^^^ b.s0, s1 := a.s1 ^^^ b.s1 }

/-- Writes a granule so that it holds a syndrome: none after fresh check data, the mask when poisoned. -/
def setSyn (s : State) (t : Tier) (frame granule : Nat) (y : Syndrome) : State :=
  let rest := s.mem.granules.filter fun g => !decide (g.tier = t ∧ g.frame = frame ∧ g.granule = granule)
  let gs := if y = { s0 := 0, s1 := 0 } then rest
    else rest ++ [{ tier := t, frame := frame, granule := granule, syn := y }]
  { s with mem := { s.mem with granules := gs } }

/-- The channel unit of a tier. -/
def channelUnit (t : Tier) (ch : Nat) : UnitId := { kind := match t with | .t1 => 8 | .t2 => 9, idx := ch }

/-- The detector of a tier's DRAM (R335). -/
def dramDetector : Tier → Nat
  | .t1 => 0x08
  | .t2 => 0x09

/-- Fails a channel for a cause of the CHANNEL_FAIL record: the fence carries the effect (R286 to R288). -/
def channelFails (s : State) (t : Tier) (ch chan : Nat) : State :=
  fenceUnit s (channelUnit t ch) 0x0103 (channelDetector t) chan false

/-- Counts an uncorrectable error of a channel, which fails at 16 (R286). -/
def countChUe (s : State) (t : Tier) (ch : Nat) : State :=
  let s := updTier s t fun m => { m with chUe := modifyAt m.chUe ch (· + 1) }
  if (tierOf s t).chUe.getD ch 0 = 16 then channelFails s t ch 3 else s

/-- Queues a corrected granule's address on its channel, or counts it as dropped from a full queue of 64 (R277). -/
def queueCorrection (s : State) (t : Tier) (ch frame granule : Nat) : State :=
  if ((tierOf s t).queues.filter fun e => e.1 == ch).length < 64 then
    updTier s t fun m => { m with queues := m.queues ++ [(ch, frame, granule)] }
  else { s with mem := { s.mem with ceDropped := s.mem.ceDropped + 1 } }

/-- The record of a DRAM detection (R409): symbol 0xFF when none is known. -/
def dramRecord (s : State) (d : DramRead) (sym outcome : Nat) (injected : Bool) : State :=
  detectorRecord s (dramDetector d.tier) (unitCode (channelUnit d.tier (granuleChannel d.frame d.granule))) injected
    false (leBytes 1 (tierNum d.tier) ++ leBytes 4 d.frame ++ leBytes 2 d.granule ++ leBytes 1 sym ++ leBytes 1 outcome)

/-- A poison read (R280): the POISON record, the frame is retired, and its owner suffers. -/
def poisonRead (s : State) (d : DramRead) : State :=
  let (kind, id) := useCode d.use
  let id := match d.use with
    | .case k => (match caseOf s k with | some c => c.hd.caseId | none => 0)
    | _ => id
  let s := record s 0x1201
    (leBytes 1 (tierNum d.tier) ++ leBytes 4 d.frame ++ leBytes 2 d.granule ++ leBytes 1 kind ++ leBytes 8 id)
  poisonOwner (retireFrame s d.tier d.frame) d.use

/-- The injection that the next read of a channel meets. -/
def armedOn (s : State) (t : Tier) (ch : Nat) : Option Syndrome :=
  (s.mem.armed.find? fun e => decide (e.1 = t) && e.2.1 == ch).map fun e => e.2.2

/-- Takes the first injection of a channel away: a read has met it. -/
def disarm (s : State) (t : Tier) (ch : Nat) : State :=
  let rest := s.mem.armed.eraseP fun e => decide (e.1 = t) && e.2.1 == ch
  { s with mem := { s.mem with armed := rest } }

/-- What a read of a granule decodes to: the error it finds, the one the granule holds already, and a LIVE injection on its
channel (R275, R335). -/
def readResult (s : State) (d : DramRead) : EccResult :=
  let inj := (armedOn s d.tier (granuleChannel d.frame d.granule)).getD { s0 := 0, s1 := 0 }
  eccDecode (addSyn (addSyn (granuleSyn s d.tier d.frame d.granule) d.syn) inj)

/-- A read of a granule (R276): a corrected one is counted and queued, an uncorrectable one is counted, written with the
poison mask and handled as poison, and a poisoned one is counted. One that meets a LIVE injection is marked injected; the cells
do not hold the injected error. A corrected error has a record only where it was injected (R96, chapter 11, log 169). -/
def dramRead (s : State) (d : DramRead) (injected : Bool) : State :=
  let ch := granuleChannel d.frame d.granule
  let result := readResult s d
  let injected := injected || (armedOn s d.tier ch).isSome
  let s := disarm s d.tier ch
  match result with
  | .clean => s
  | .corrected p =>
    let s := setSyn s d.tier d.frame d.granule (addSyn (granuleSyn s d.tier d.frame d.granule) d.syn)
    let s := updTier s d.tier fun m => { m with ce := m.ce + 1 }
    let s := queueCorrection s d.tier ch d.frame d.granule
    if injected then dramRecord s d p 1 true else s
  | .uncorrectable =>
    let s := setSyn s d.tier d.frame d.granule poisonMask
    let s := updTier s d.tier fun m => { m with ue := m.ue + 1 }
    poisonRead (countChUe (dramRecord s d 0xFF 2 injected) d.tier ch) d
  | .poisoned =>
    let s := { s with mem := { s.mem with poisonReads := s.mem.poisonReads + 1 } }
    poisonRead (dramRecord s d 0xFF 3 injected) d

/-- Whether a read fails the command that consumes it. -/
def readFails (s : State) (d : DramRead) : Bool :=
  match readResult s d with
  | .uncorrectable | .poisoned => true
  | _ => false

/-- A write of a granule (R278, R279): a full one clears poison; a partial one merges what its read finds, a LIVE injection on its
channel included, and stores poison over an error it cannot correct. -/
def dramWrite (s : State) (w : DramWrite) : State :=
  let held := granuleSyn s w.tier w.frame w.granule
  if w.full then
    let s := setSyn s w.tier w.frame w.granule { s0 := 0, s1 := 0 }
    if held = poisonMask then { s with mem := { s.mem with poisonCleared := s.mem.poisonCleared + 1 } } else s
  else
    let ch := granuleChannel w.frame w.granule
    let inj := armedOn s w.tier ch
    let s := disarm s w.tier ch
    match eccDecode (addSyn (addSyn held w.syn) (inj.getD { s0 := 0, s1 := 0 })) with
    | .clean => s
    | .corrected p =>
      let s := setSyn s w.tier w.frame w.granule { s0 := 0, s1 := 0 }
      let s := { s with mem := { s.mem with rmwCe := s.mem.rmwCe + 1 } }
      let d : DramRead := { tier := w.tier, frame := w.frame, granule := w.granule, syn := w.syn, use := .none }
      if inj.isSome then dramRecord s d p 1 true else s
    | r =>
      let s := setSyn s w.tier w.frame w.granule poisonMask
      let s := { s with mem := { s.mem with rmwUe := s.mem.rmwUe + 1 } }
      let s := record s 0x1203 (leBytes 1 (tierNum w.tier) ++ leBytes 4 w.frame ++ leBytes 2 w.granule)
      match r with
      | .uncorrectable => countChUe s w.tier ch
      | _ => s

/-- The writes of a command, in order. -/
def dramWrites (s : State) (ws : List DramWrite) : State := ws.foldl dramWrite s

/-! ## Patrol scrub (R277, R282, R283) -/

/-- The granules of one channel of a tier: 32 to a frame (R282). -/
def passLength (s : State) (t : Tier) : Nat :=
  32 * (match t with | .t1 => 983040 | .t2 => t2Usable s.ident.part)

/-- Whether the scrub of a tier runs: outside SAFE_HOLD, and not while a channel retrains (R282, R286). -/
def scrubRuns (s : State) (t : Tier) : Bool :=
  runState s.boot.state && !s.mem.selfRefresh && (tierOf s t).retraining.isNone

/-- The granule of a channel that a pass checks at its position: 32 to a frame (R262, R282). -/
def scrubGranule (t : Tier) (ch pos : Nat) : DramRead :=
  let f := pos / 32
  let i := ((List.range 32).find? fun i => pieceChannel f i == ch).getD 0
  { tier := t, frame := f, granule := 32 * i + pos % 32, syn := { s0 := 0, s1 := 0 }, use := .none }

/-- The scrub's reads of the channels that a LIVE injection waits on. -/
def scrubArmed (s : State) (t : Tier) : State :=
  let chs := (s.mem.armed.filter fun e => decide (e.1 = t)).map fun e => e.2.1
  chs.eraseDups.foldl (fun s ch => dramRead s (scrubGranule t ch (tierOf s t).scrubPos) true) s

/-- Writes back every queued granule that still holds a correctable error; one that reads clean is left (R277). -/
def drainQueue (s : State) (t : Tier) : State :=
  let fix (s : State) (e : Nat × Nat × Nat) : State :=
    match eccDecode (granuleSyn s t e.2.1 e.2.2) with
    | .corrected _ => setSyn s t e.2.1 e.2.2 { s0 := 0, s1 := 0 }
    | _ => s
  updTier ((tierOf s t).queues.foldl fix s) t fun m => { m with queues := [] }

/-- Starts a pass over a tier. -/
def startPass (s : State) (t : Tier) : State :=
  updTier s t fun m => { m with scrubbing := true, scrubPos := 0, scrubDue := false }

/-- Moves the pass on by one granule of every channel; at the end of the pass it is counted, and a pass that fell due
starts (R282). -/
def advanceScrub (s : State) (t : Tier) : State :=
  let m := tierOf s t
  if !m.scrubbing then s
  else if m.scrubPos + 1 < passLength s t then updTier s t fun m => { m with scrubPos := m.scrubPos + 1 }
  else
    let s := updTier s t fun m =>
      { m with scrubPasses := m.scrubPasses + 1, scrubLast := s.tclk, scrubbing := false, scrubPos := 0 }
    if m.scrubDue then startPass s t else s

/-- PATROL_SCRUB_TICK (R277, R282, R283): the scrubber drains the correction queues, checks one granule on every channel
of the tier, and moves on; its time on a page mover counts to partition 0 (R140, log 156). -/
def execPatrolScrubTick (t : Tier) (reads : List DramRead) (s : State) : Res :=
  .next <|
    if !scrubRuns s t then s
    else
      let s := addHeld (drainQueue s t) 0 3 [({ kind := 13, idx := 0 }, 15 * Config.scrubCycles s.tclk)]
      let s := if (tierOf s t).scrubbing then
        scrubArmed ((reads.filter fun d => decide (d.tier = t)).foldl (fun s d => dramRead s d false) s) t else s
      advanceScrub s t

/-- SCRUB_PASS_START (R282): 24 h after the start of the last pass the next one starts, or falls due while a pass or
SAFE_HOLD is in progress. -/
def execScrubPassStart (t : Tier) (s : State) : Res :=
  .next <|
    if s.boot.state = .safeHold ∨ (runState s.boot.state ∧ (tierOf s t).scrubbing) then
      updTier s t fun m => { m with scrubDue := true }
    else if runState s.boot.state then startPass s t
    else s

/-! ## Retraining (R286) -/

/-- The cases that a retrain can make late carry LATE_CAUSE 3 (R286). -/
def noteRetrain (s : State) : State :=
  { s with cases := s.cases.map fun c => if c.lateCause = 0 then { c with lateCause := 3 } else c }

/-- CHANNEL_READ_TIMEOUT (R286): the channel is retrained. A third retrain within 1 s of the first fails it. -/
def execChannelReadTimeout (t : Tier) (ch : Nat) (s : State) : Res :=
  guardUnit (decide (ch < 32)) <| .next <|
    let m := tierOf s t
    if !runState s.boot.state ∨ m.retraining.isSome ∨ m.chFailed.contains ch then s
    else
      let recent := (m.retrains.filter fun e => e.1 == ch && decide (s.tclk < e.2 + 120000000)) ++ [(ch, s.tclk)]
      let s := updTier s t fun m =>
        { m with retraining := some ch, retrains := m.retrains.filter (fun e => e.1 != ch) ++ recent }
      let s := { s with mem := { s.mem with retrainCount := s.mem.retrainCount + 1 } }
      let s := noteRetrain (record s 0x1204 (leBytes 1 (tierNum t) ++ leBytes 1 ch))
      if recent.length ≥ 3 then channelFails s t ch 2 else s

/-- The retrains of a channel that have failed in a row. -/
def failsInRow (m : TierState) (ch : Nat) : Nat :=
  match m.retrainFails.find? fun e => e.1 == ch with
  | some e => e.2
  | none => 0

/-- RETRAIN_END (R286): transfers of the tier resume; two consecutive failures fail the channel. -/
def execRetrainEnd (t : Tier) (ch : Nat) (ok : Bool) (s : State) : Res :=
  guardUnit (decide (ch < 32)) <| .next <|
    if (tierOf s t).retraining ≠ some ch then s
    else
      let n := if ok then 0 else failsInRow (tierOf s t) ch + 1
      let s := updTier s t fun m =>
        { m with retraining := none, retrainFails := m.retrainFails.filter (fun e => e.1 != ch) ++ [(ch, n)] }
      if n ≥ 2 then channelFails s t ch 1 else s

/-! ## ATS (R272) -/

/-- What an invalidation of [lo, hi) leaves of a granted range. -/
def cutRange (lo hi : Nat) (r : AtsRange) : List AtsRange :=
  if r.hi ≤ lo ∨ hi ≤ r.lo then [r]
  else ([{ r with hi := lo }, { r with lo := hi }] : List AtsRange).filter fun x => decide (x.lo < x.hi)

/-- ATS_INVALIDATION (R272): the module honours it at once. A later access in the range is translated again, which
succeeds when the host grants it in a later command. -/
def execAtsInvalidation (f lo hi : Nat) (s : State) : Res :=
  guardUnit (decide (f < 33)) <| .next <|
    let cut (e : Nat × AtsRange) : List (Nat × AtsRange) :=
      if e.1 = f then (cutRange lo hi e.2).map fun r => (f, r) else [e]
    { s with pcie := { s.pcie with atc := s.pcie.atc.flatMap cut } }

end Sys2Proof.Machine
end

