-- ==== Sys2Proof/Machine/StrataUnit.lean ====
section
/-! DEFINITION. What happens on Strata ports: training (R292), link loss (R307), retry (R295), forming a stack (R300), time
alignment (R304, R305) and collectives (R306). -/

namespace Sys2Proof.Machine

/-! ## Training (R292, R401) -/

/-- A failed attempt (R292): one TRAIN_FAIL record; the port waits 10 ms, or 1 s after 8 failures in a row. -/
def trainFail (s : State) (p step : Nat) : State :=
  record (updPort s p fun x => { x with fails := x.fails + 1, waiting := true, step := 0 }) 0x1402
    (leBytes 1 p ++ leBytes 1 step)

/-- Whether a cable's EEPROM gives a kind and a length that R290 supports (R401). -/
def cableKind (eeprom : Option (List Byte)) : Nat :=
  match eeprom with
  | none => 0
  | some b =>
    let len := byteAt b 1
    if byteAt b 0 = 1 ∧ 2 ≤ len ∧ len ≤ 10 then 1
    else if byteAt b 0 = 2 ∧ 10 ≤ len ∧ len ≤ 100 then 2
    else 0

/-- CABLE_INSERTION (R292, R401): training starts with a valid cable; any other is recorded and not trained. -/
def execCableInsertion (p : Nat) (eeprom : Option (List Byte)) (s : State) : Res :=
  guardUnit (decide (p < 4)) <| .next <|
    if !basaltRuns s ∨ (portOf s p).present then s
    else
      let k := cableKind eeprom
      let s := updPort s p fun _ =>
        { Port.reset with present := true, cable := k, st := bit (k != 0), step := bit (k != 0) }
      if k = 0 then record s 0x1402 (leBytes 1 p ++ leBytes 1 0) else s

/-- LINK_TRAINING_ATTEMPT (R291, R292): a port with a valid cable whose link is not up starts the training pattern. -/
def execLinkTrainingAttempt (p : Nat) (s : State) : Res :=
  guardUnit (decide (p < 4)) <| .next <|
    let x := portOf s p
    if basaltRuns s ∧ x.present ∧ x.cable ≠ 0 ∧ (x.st = 1 ∨ x.st = 3) ∧ !x.waiting then
      updPort s p fun x => { x with st := 1, step := 1, echoes := [] }
    else s

/-- TRAINING_STEP_TIMEOUT (R292): a step that misses its time fails the attempt. -/
def execTrainingStepTimeout (p step : Nat) (s : State) : Res :=
  guardUnit (decide (p < 4 ∧ 1 ≤ step ∧ step ≤ 5)) <| .next <|
    let x := portOf s p
    if basaltRuns s ∧ x.st = 1 ∧ !x.waiting ∧ x.step ≠ 0 then trainFail s p step else s

/-- TRAINING_RETRY_TIMER (R292): the wait ends and the port tries again. -/
def execTrainingRetryTimer (p : Nat) (s : State) : Res :=
  guardUnit (decide (p < 4)) <| .next <|
    let x := portOf s p
    if basaltRuns s ∧ x.st = 1 ∧ x.waiting then updPort s p fun x => { x with waiting := false, step := 1 } else s

/-- The receive buffers of the VCs, in flits (R296). -/
def vcBuffers : List Nat := [256, 64, 512, 8]

/-- The LINK flit that this module sends: the link version 1, the cable kind, the credits of the VCs and 16 latency echoes, which are
free (R292, R296, log 113). -/
def linkOut (s : State) (p : Nat) : Flit :=
  let b := leBytes 1 1 ++ leBytes 1 (portOf s p).cable ++ vcBuffers.flatMap (leBytes 2) ++
    (List.range 32).map (Config.detailByte s.free)
  sealFlit { bareFlit (portOf s p) 3 0 with credit := 0, bytes := b.length, payload := b }

/-- L: the largest echo, halved and rounded up (R292). -/
def latency (echoes : List Nat) : Nat := ceilDiv (maxNat echoes) 2

/-- The link comes up (step 5 of R292): counters of the link start afresh, and HELLO is sent. A link that comes up while
a stack contract is open carries only bulk and time traffic until the next epoch (R301). -/
def bringUp (s : State) (p : Nat) (credits echoes : List Nat) : State :=
  let retry : PortRetry :=
    { txSeq := 65535, ackSeq := 65535, rxSeq := 65535, unacked := [], resends := 0, naking := false, crcTimes := [] }
  let busy := stackBusy s
  let s := updPort s p fun x =>
    { x with st := 2, fails := 0, waiting := false, step := 0, latNs := latency echoes, echoes := echoes,
             bulkOnly := busy, retry := retry, vcs := credits.map fun c => { VcState.reset with limit := c } }
  sendOn s p 0x01 (helloData s p)

/-- LINK_FLIT (R292): the link version, cable kind, credits and 16 latency echoes, in this order. Another version than 1
fails the attempt at step 4; otherwise this module's own LINK flit completes the exchange and the link comes up. -/
def execLinkFlit (p : Nat) (fl : Flit) (s : State) : Res :=
  guardUnit (decide (p < 4)) <| .next <|
    let x := portOf s p
    if !basaltRuns s ∨ x.st ≠ 1 ∨ x.waiting ∨ x.step = 0 ∨ fl.ftype ≠ 3 then s
    else if !flitOk fl then updPort s p fun x => { x with crcErrors := x.crcErrors + 1 }
    else if byteAt fl.payload 0 ≠ 1 then trainFail s p 4
    else
      bringUp (emit (bumpFree s) (.flit p (linkOut s p))) p ((List.range 4).map fun i => le fl.payload (2 + 2 * i) 2)
        ((List.range 16).map fun i => le fl.payload (10 + 2 * i) 2)

/-! ## Losing a link (R307) -/

/-- The time bound follows the depth of the parent path (R305). -/
def rebound (s : State) : State :=
  if myPos s = 0 then updTime s fun t => { t with bound := 0 }
  else match hops s (myPos s) 0 with
    | some d => updTime s fun t => { t with bound := d }
    | none => s

/-- Clears TIME_LOCKED when there is no path to position 0, and records a change (R305). -/
def checkLock (s : State) : State :=
  if myPos s = 0 ∨ (hops s (myPos s) 0).isSome ∨ !s.strata.time.locked then s
  else record (updTime s fun t => { t with locked := false, good := 0 }) 0x1405
    (leBytes 1 0 ++ leBytes 1 s.strata.time.bound)

/-- The links that a stack contract's proof uses, named by every end: those on the routes to its shard modules and back (R124, R150,
R301). -/
def contractLinks (s : State) (k : Contract) : List (Nat × Nat) := k.shards.flatMap fun a => routeEnds s a.pos

/-- Revokes a stack contract for a lost link, with KILL to the peers for each live case (R307). -/
def revokeLink (s : State) (h : Nat) : State :=
  let live := s.cases.filter fun c => c.hd.contract == h && c.ending.isNone
  live.foldl (fun s c => killPeers s .faultLink c) (revoke s .faultLink .faultLink h)

/-- Discards the collectives in progress and reruns their commands, as a first loss under STACK_REROUTE does (R307). -/
def rerunCollectives (s : State) : State :=
  let undecided := s.strata.colls.filter fun c => c.decision.isNone
  let s := { s with strata := { s.strata with colls := s.strata.colls.filter fun c => c.decision.isSome } }
  undecided.foldl (fun s c => match cmdOf s c.cmd with
    | some k => rerunCmd s 0 k
    | none => s) s

/-- What the loss of a link does to a contract whose routes used it: STACK_STRICT is revoked, STACK_REROUTE survives its
first loss (R124, R307). -/
def contractLoses (s : State) (h : Nat) : State :=
  match contractOf s h with
  | none => s
  | some k =>
    let s := updContract s h fun k => { k with linksLost := k.linksLost + 1 }
    if k.rcd.terms.topology = 1 ∨ k.linksLost ≥ 1 then revokeLink s h else rerunCollectives s

/-- The loss of a link (R301, R305, R307): the routes and their generation move on, each contract over it is handled by
its TOPOLOGY, and unacknowledged messages are sent again. A link reported down already changes nothing. -/
def loseLink (s : State) (pos port : Nat) : State :=
  let down := s.strata.stack.down
  let twin := match neighbour s pos port with
    | some x => down.contains x
    | none => false
  if down.contains (pos, port) || twin then s
  else
    let hs := (s.contracts.filter fun k => stackContract k && (contractLinks s k).contains (pos, port)).map Contract.handle
    let s := updStack s fun t =>
      { t with down := t.down ++ [(pos, port)], routeGen := t.routeGen + 1, linksLost := t.linksLost + 1 }
    resendAll (checkLock (rebound (hs.foldl contractLoses s)))

/-- Floods LINK_STATE for a port of this module (R299, R307). -/
def floodLinkState (s : State) (p : Nat) (up : Bool) : State :=
  sendMsg s 0x03 0xFF (leBytes 1 (myPos s) ++ leBytes 1 p ++ leBytes 1 (bit up) ++ leBytes 4 s.strata.stack.routeGen)

/-- Takes a link that was up down, for a cause of the LINK_DOWN record: incomplete messages are discarded, LINK_STATE is
flooded (R307). -/
def takeDown (s : State) (p cause : Nat) : State :=
  let s := updPort s p fun x =>
    { x with st := 3, step := 0, waiting := false, vcs := x.vcs.map fun v => { v with asm := none, queue := [] },
             retry := { x.retry with unacked := [], naking := false } }
  let s := record s 0x1401 (leBytes 1 p ++ leBytes 1 cause)
  floodLinkState (loseLink s (myPos s) p) p false

/-- Loss of signal at a port: a link that is up goes down, and a training attempt fails (R292, R307). -/
def lossAt (s : State) (p cause : Nat) : State :=
  let x := portOf s p
  if x.st = 2 ∨ x.st = 4 then takeDown s p cause
  else if x.st = 1 ∧ x.step ≠ 0 then trainFail s p x.step
  else s

/-- LOSS_OF_SIGNAL (R307). -/
def execLossOfSignal (p : Nat) (s : State) : Res :=
  guardUnit (decide (p < 4)) <| .next <| if basaltRuns s then lossAt s p 1 else s

/-- CBL_INT_N (R401): handled as a loss of signal. -/
def execCblIntN (p : Nat) (s : State) : Res :=
  guardUnit (decide (p < 4)) <| .next <| if basaltRuns s then lossAt s p 4 else s

/-- CABLE_REMOVAL (R292): a link that is up is lost first; the port returns to STATE 0 and its retries stop. -/
def execCableRemoval (p : Nat) (s : State) : Res :=
  guardUnit (decide (p < 4)) <| .next <|
    let up := (portOf s p).st = 2 ∨ (portOf s p).st = 4
    let s := if basaltRuns s ∧ up then takeDown s p 1 else s
    updPort s p fun x => { Port.reset with flitsTx := x.flitsTx, flitsRx := x.flitsRx, retries := x.retries,
                                           crcErrors := x.crcErrors }

/-- MEMBER_SILENT_TIMEOUT (R307): the member is treated as lost, which counts as the loss of every link of it. -/
def execMemberSilentTimeout (pos : Nat) (s : State) : Res :=
  .next <|
    if !basaltRuns s ∨ pos = myPos s ∨ pos ≥ s.strata.stack.members.length then s
    else
      let s := record s 0x1406 (leBytes 1 pos)
      let mine := (List.range 4).filter fun p =>
        decide ((portOf s p).st = 2) && decide ((neighbour s (myPos s) p).map Prod.fst = some pos)
      let s := mine.foldl (fun s p => takeDown s p 5) s
      (List.range 4).foldl (fun s r => if (neighbour s pos r).isSome then loseLink s pos r else s) s

/-! ## Received flits (R294, R295, R297) -/

/-- Takes ACK_SEQ and the credit of a received flit. -/
def takeAck (s : State) (n : Nat) (f : Flit) : State :=
  updPort s n fun p =>
    let gone := (f.ackSeq + 65536 - p.retry.ackSeq) % 65536
    let r := if gone ≤ p.retry.unacked.length ∧ gone > 0 then
        { p.retry with ackSeq := f.ackSeq, unacked := p.retry.unacked.drop gone, resends := 0 }
      else p.retry
    let vcs := modifyAt p.vcs f.credVc fun v =>
      { v with peerFreed := v.peerFreed + (f.credit + 16384 - v.peerFreed % 16384) % 16384 }
    { p with retry := r, vcs := vcs }

/-- Asks for a resend with a NAK flit. -/
def sendNak (s : State) (n : Nat) : State :=
  emit (updPort s n fun p => { p with retry := { p.retry with naking := true } }) (.flit n (bareFlit (portOf s n) 2 0))

/-- A flit whose CRC fails is counted and discarded, and the retry counts as a recovery (R355); 1,024 failures in 1 ms
take the link down (R294, R295). -/
def crcFailure (s : State) (n : Nat) : State :=
  let s := updPort s n fun p =>
    { p with crcErrors := p.crcErrors + 1,
             retry := { p.retry with
               crcTimes := (p.retry.crcTimes ++ [s.tclk]).filter fun t => decide (s.tclk < t + 120000) } }
  if (portOf s n).retry.crcTimes.length ≥ 1024 then takeDown s n 3
  else sendNak (updSafety s fun y => { y with recovered := (y.recovered + 1) % 2 ^ 32 }) n

/-- Adds the payload of a DATA flit received in order to its VC's message; at EOM the message stands in the inbox. -/
def assemble (s : State) (n : Nat) (f : Flit) : State :=
  let v := (portOf s n).vcs.getD f.vc VcState.reset
  let b := (if f.som then [] else v.asm.getD []) ++ f.payload.take f.bytes
  let lost := !f.som && v.asm.isNone
  let s := updPort s n fun p =>
    { p with
      flitsRx := p.flitsRx + 1, retry := { p.retry with rxSeq := f.seq, naking := false }
      vcs := modifyAt p.vcs f.vc fun v =>
        { v with freed := v.freed + 1, asm := if f.eom || lost then none else some b } }
  if f.eom && !lost then updMl s fun l => { l with inbox := l.inbox ++ [(n, b)] } else s

/-- Sends what can go on a port; with nothing to send, an IDLE flit carries ACK_SEQ and the credit of a VC (R293, R297). -/
def reply (s : State) (n vc : Nat) : State :=
  if waitingFlits (portOf s n) = 0 then emit s (.flit n (bareFlit (portOf s n) 0 vc)) else pumpPort s n

/-- DATA_FLIT (R294, R295, R297): an intact flit in SEQ order is delivered and acknowledged; a failure or a gap asks for a resend; an
old one is discarded. -/
def execDataFlit (n : Nat) (f : Flit) (s : State) : Res :=
  guardUnit (decide (n < 4)) <| .next <|
    let p := portOf s n
    if !basaltRuns s ∨ !(p.st = 2 ∨ p.st = 4) ∨ f.ftype ≠ 1 then s
    else if !flitOk f then crcFailure s n
    else
      let s := takeAck s n f
      if f.seq = (p.retry.rxSeq + 1) % 65536 then reply (assemble s n f) n f.vc
      else if (f.seq + 65536 - p.retry.rxSeq) % 65536 ≤ 512 then sendNak s n
      else s

/-- IDLE_FLIT (R297): acknowledgements and credits. -/
def execIdleFlit (n : Nat) (f : Flit) (s : State) : Res :=
  guardUnit (decide (n < 4)) <| .next <|
    let p := portOf s n
    if !basaltRuns s ∨ !(p.st = 2 ∨ p.st = 4) ∨ f.ftype ≠ 0 then s
    else if !flitOk f then crcFailure s n
    else pumpPort (takeAck s n f) n

/-- NAK_FLIT (R295): the transmitter resends from ACK_SEQ + 1; the 16th resend without progress takes the link down. -/
def execNakFlit (n : Nat) (f : Flit) (s : State) : Res :=
  guardUnit (decide (n < 4)) <| .next <|
    let p := portOf s n
    if !basaltRuns s ∨ !(p.st = 2 ∨ p.st = 4) ∨ f.ftype ≠ 2 then s
    else if !flitOk f then crcFailure s n
    else
      let s := takeAck s n f
      let p := portOf s n
      if p.retry.unacked = [] then pumpPort s n
      else if p.retry.resends + 1 ≥ 16 then takeDown s n 2
      else
        let s := updPort s n fun p =>
          { p with retries := p.retries + 1, retry := { p.retry with resends := p.retry.resends + 1 } }
        p.retry.unacked.foldl (fun s f => emit s (.flit n f)) s

/-! ## Formation (R300) and LINK_STATE (R301) -/

/-- What a HELLO says (R299). -/
def helloInfo (p : Nat) (b : List Byte) : HelloInfo :=
  { port := p, id := le b 0 8, epoch := le b 11 8, pos := byteAt b 19, ts := le b 20 8 }

/-- HELLO (R300): the neighbour is known. In a formed epoch a module of the epoch takes back its position, and any other
is refused. -/
def execHello (p : Nat) (m : StrataMsg) (s : State) : Res :=
  guardUnit (decide (p < 4)) <| .next <|
    let s := takeInbox s p m
    if !basaltRuns s ∨ !portCarries (portOf s p) 0x01 ∨ m.type ≠ 0x01 then s
    else
      let h := helloInfo p m.data
      let t := s.strata.stack
      let s := updStack s fun t => { t with hellos := (t.hellos.filter fun e => e.port != p) ++ [h] }
      let s := updPort s p fun x => { x with peerId := h.id, peerPort := byteAt m.data 10, peerPos := h.pos }
      if t.epoch ≠ 0 ∧ !t.members.contains h.id then
        record (updPort s p fun x => { x with st := 4, peerPos := 0xFF }) 0x1403 (leBytes 1 p ++ leBytes 8 h.id)
      else
        let pos := if t.epoch ≠ 0 then t.members.idxOf h.id else h.pos
        sendAck (updPort s p fun x => { x with st := 2, peerPos := pos }) { m with src := pos }

/-- The data of FORM (R299). -/
def formData (t : Stack) : List Byte :=
  leBytes 8 t.epoch ++ leBytes 1 t.shape ++ t.members.flatMap (leBytes 8) ++ leBytes 4 t.routeGen

/-- Enters an epoch (R300, R304): positions, shape and members are fixed, links down at formation count as lost, and
time is locked at position 0 only. -/
def enterEpoch (s : State) (epoch shape gen : Nat) (members : List Nat) : State :=
  let pos := members.idxOf s.ident.moduleId
  let s := updStack s fun t =>
    { t with epoch := epoch, shape := shape, members := members, pos := pos, routeGen := gen, linksLost := 0, down := [] }
  let s := { s with strata := { s.strata with ports := s.strata.ports.map fun x =>
    { x with bulkOnly := false, peerPos := if members.contains x.peerId then members.idxOf x.peerId else x.peerPos } } }
  let gone := (List.range 4).filter fun p =>
    (peerOf shape members.length pos p).isSome && decide ((portOf s p).st ≠ 2)
  let s := updStack s fun t => { t with down := gone.map fun p => (pos, p), linksLost := gone.length }
  let s := updTime s fun t => { t with locked := pos == 0, good := 0, t1 := none }
  rebound s

/-- Whether a shape and its members in position order fit what HELLO told of position 0's own cables (R300): eight members in a torus;
in a shape every neighbour stands at its position and its port; in shape NONE the members stand in MODULE_ID order (log 116). -/
def cablingFits (s : State) (shape : Nat) (members : List Nat) : Bool :=
  let fits (h : HelloInfo) : Bool :=
    (portOf s h.port).st != 2 ||
    match peerOf shape members.length 0 h.port with
    | some (q, r) => members.getD q 0 == h.id && (portOf s h.port).peerPort == r
    | none => shape == 0 && members.contains h.id
  decide members.Nodup && (shape != 3 || members.length == 8) &&
  (shape != 0 || sortBy (fun a b => decide (a < b)) members == members) && s.strata.stack.hellos.all fits

/-- FORMATION_QUIET_TIMEOUT (R300): the module with the lowest MODULE_ID among those reachable becomes position 0, starts
a new epoch and floods FORM; with no live case it first steps its time forward to the latest among the members (R304).
The shape and the members in position order follow from the cabling: those that do not fit it change nothing. -/
def execFormationQuietTimeout (shape : Nat) (members : List Nat) (s : State) : Res :=
  .next <|
    let me := s.ident.moduleId
    if !basaltRuns s ∨ stackBusy s ∨ shape > 3 ∨ members.head? ≠ some me ∨ members.any (fun i => decide (i < me)) ∨
      members.length < 2 ∨ members.length > 8 ∨ !cablingFits s shape members then s
    else
      let t := s.strata.stack
      let epoch := max t.epoch (maxNat (t.hellos.map HelloInfo.epoch)) + 1
      let s := if s.cases = [] then { s with tclk := max s.tclk (maxNat (t.hellos.map HelloInfo.ts)) } else s
      let s := enterEpoch s epoch shape (t.routeGen + 1) members
      sendMsg s 0x02 0xFF (formData s.strata.stack)

/-- The members that FORM lists. -/
def formMembers (b : List Byte) : List Nat := (List.range ((b.length - 13) / 8)).map fun i => le b (9 + 8 * i) 8

/-- FORM (R300): the epoch, the shape and the positions are fixed. No new epoch forms while a stack contract is open. -/
def execForm (p : Nat) (m : StrataMsg) (s : State) : Res :=
  strataMsg s p 0x02 m fun s =>
    let members := formMembers m.data
    if stackBusy s ∨ !members.contains s.ident.moduleId ∨ le m.data 0 8 ≤ s.strata.stack.epoch then s
    else enterEpoch s (le m.data 0 8) (byteAt m.data 8) (le m.data (9 + 8 * members.length) 4) members

/-- LINK_STATE (R301, R307): a link reported down is lost; one reported up is used again unless a stack contract is open. -/
def execLinkState (p : Nat) (m : StrataMsg) (s : State) : Res :=
  strataMsg s p 0x03 m fun s =>
    let pos := byteAt m.data 0
    let port := byteAt m.data 1
    if byteAt m.data 2 = 0 then loseLink s pos port
    else if stackBusy s then s
    else
      let twin := neighbour s pos port
      updStack s fun t => { t with down := t.down.filter fun e => !(e == (pos, port) || some e == twin) }

/-- The entries of an ACK: source position, VC and MSG_ID (R299). -/
def ackEntries (b : List Byte) : List (Nat × Nat × Nat) :=
  (List.range (min 8 (b.length / 10))).map fun i => (byteAt b (10 * i), byteAt b (10 * i + 1), le b (10 * i + 2) 8)

/-- ACK (R299): the messages it covers are released. A flooded message is released by the first acknowledgement. -/
def execAck (p : Nat) (m : StrataMsg) (s : State) : Res :=
  strataMsg s p 0x04 m fun s =>
    let es := ackEntries m.data
    let done (x : StrataMsg) : Bool := es.any fun e =>
      e.1 == x.src && e.2.1 == x.vc && decide (x.id ≤ e.2.2) && (x.dst == m.src || x.dst == 0xFF)
    updMl s fun l => { l with unacked := l.unacked.filter fun x => !done x }

/-- BULK (R296): BACKGROUND page data is received; what it holds is the sending operation's. -/
def execBulk (p : Nat) (m : StrataMsg) (s : State) : Res := strataMsg s p 0x70 m id

/-- UNKNOWN_MESSAGE_TYPE (R299): the message is dropped, and acknowledged if its VC is 1. -/
def execUnknownMessageType (p : Nat) (m : StrataMsg) (s : State) : Res :=
  guardUnit (decide (p < 4)) <| .next <|
    let s := takeInbox s p m
    let known := [0x01, 0x02, 0x03, 0x04, 0x10, 0x11, 0x12, 0x20, 0x30, 0x31, 0x32, 0x40, 0x41, 0x42, 0x43, 0x50,
                  0x60, 0x61, 0x70]
    if !basaltRuns s ∨ (portOf s p).st ≠ 2 ∨ known.contains m.type then s
    else if m.dst ≠ myPos s ∧ m.dst ≠ 0xFF then forward s m
    else if m.vc = 1 then sendAck s m
    else s

/-- THROTTLE_ADVISE (R308): advisory. A module may lower its divider to match; this one does not. -/
def execThrottleAdvise (p : Nat) (m : StrataMsg) (s : State) : Res := strataMsg s p 0x50 m id

/-! ## Time (R304, R305) -/

/-- SYNC_EXCHANGE_TIMER (R304): a member sends SYNC_REQ to its time parent, its next hop toward position 0. -/
def execSyncExchangeTimer (s : State) : Res :=
  .next <|
    if !basaltRuns s ∨ myPos s = 0 then s
    else match nextHop s 0 with
      | none => checkLock s
      | some p =>
        let t1 := 256 * s.tclk
        let seq := (s.strata.time.seq + 1) % 2 ^ 32
        let s := updTime s fun t => { t with seq := seq, t1 := some t1 }
        match neighbour s (myPos s) p with
        | some (parent, _) => sendMsg s 0x60 parent (leBytes 4 seq ++ leBytes 8 t1)
        | none => s

/-- SYNC_REQ (R304): the time parent answers with the times t2 at which it arrived and t3 at which the answer leaves. -/
def execSyncReq (p : Nat) (m : StrataMsg) (t2 t3 : Nat) (s : State) : Res :=
  strataMsg s p 0x60 m fun s =>
    sendMsg s 0x61 m.src (leBytes 4 (le m.data 0 4) ++ leBytes 8 (le m.data 4 8) ++ leBytes 8 t2 ++ leBytes 8 t3)

/-- The offset of a member to its parent, in 1/256 TCLK (R304). -/
def syncOffset (t1 t2 t3 t4 : Nat) : Int := (((t2 : Int) - t1) - ((t4 : Int) - t3)) / 2

/-- Whether an offset lies within a bound in ns: 1 ns is 30.72 units of 1/256 TCLK (R305). -/
def withinBound (off : Int) (ns : Nat) : Bool := decide (off.natAbs * 100 ≤ ns * 3072)

/-- SYNC_RESP (R304, R305): the member steers its counter's rate by at most ±500 ppm, or with no live case steps forward
to its parent's time; 16 consecutive exchanges within the bound lock it. How far the rate is steered is open. -/
def execSyncResp (p : Nat) (m : StrataMsg) (t4 : Nat) (s : State) : Res :=
  strataMsg s p 0x61 m fun s =>
    let t := s.strata.time
    if t.t1 ≠ some (le m.data 4 8) ∨ t.seq ≠ le m.data 0 4 then s
    else
      let off := syncOffset (le m.data 4 8) (le m.data 12 8) (le m.data 20 8) t4
      let s := if s.cases = [] ∧ off > 0 then { s with tclk := s.tclk + (off / 256).toNat } else s
      let rate : Int := ((Config.freeWord s.free).toNat % 1001 : Nat) - 500
      let good := if withinBound off t.bound then min 16 (t.good + 1) else 0
      let s := updTime (bumpFree s) fun t => { t with t1 := none, good := good, rate := rate }
      if good ≥ 16 ∧ !t.locked then
        record (updTime s fun t => { t with locked := true }) 0x1405 (leBytes 1 1 ++ leBytes 1 t.bound)
      else s

/-! ## Collectives (R306) -/

/-- Changes the collective of a transaction. -/
def updColl (s : State) (txn : Nat) (g : Coll → Coll) : State :=
  { s with strata := { s.strata with colls := modifyWhere s.strata.colls (fun c => c.txn == txn) g } }

/-- The collective of a transaction. -/
def collOf (s : State) (txn : Nat) : Option Coll := s.strata.colls.find? fun c => c.txn == txn

/-- A collective as it becomes known: a transaction bears the number of its command at the coordinator, which is this
module when it runs that command, and else the lowest position taking part (R306). Every member takes part. -/
def newColl (s : State) (txn : Nat) : Coll :=
  let home := (cmdOf s txn).isSome
  { txn := txn, cmd := if home then txn else 0, coord := if home then myPos s else 0, parts := positions s,
    partials := [], votes := [], voted := false, decision := none }

/-- The value at place `i` of a partial, of 4 bytes or of the 2 of bf16. -/
def partialWord (bf : Bool) (b : List Byte) (i : Nat) : Word :=
  if bf then fpOfBf16 (BitVec.ofNat 16 (le b (2 * i) 2)) else BitVec.ofNat 32 (le b (4 * i) 4)

/-- The bytes of a value of a collective's result. -/
def resultBytes (bf : Bool) (w : Word) : List Byte := if bf then leBytes 2 (bf16OfFp w).toNat else leBytes 4 w.toNat

/-- One part of the whole result: the participants' partials, this module's own among them, summed in the fixed order of the stack's
tree by position (R258, R306). -/
def partResult (own : Nat) (c : Coll) (part : Nat) : List Byte :=
  let bf := Config.collBf16 c.txn
  let mine := c.partials.filter fun e => e.2.1 == part
  let len := maxNat (mine.map fun e => e.2.2.length)
  let n := len / if bf then 2 else 4
  let ownBytes := (List.range len).map (Config.ownPartial c.txn part)
  let at' (p i : Nat) : Option Word :=
    if p = own then some (partialWord bf ownBytes i) else (mine.find? fun e => e.1 == p).map fun e => partialWord bf e.2.2 i
  (List.range n).flatMap fun i => resultBytes bf ((reduceStack bf ((List.range 8).map fun p => at' p i)).getD 0)

/-- The whole result of a collective, in part order. -/
def collResult (own : Nat) (c : Coll) : List Byte :=
  (sortBy (fun a b => decide (a < b)) ((c.partials.map fun e => e.2.1).eraseDups)).flatMap (partResult own c)

/-- Ends a collective by its decision: on abort its command is rerun (R306). -/
def endColl (s : State) (c : Coll) (commit : Bool) : State :=
  let s := updColl s c.txn fun x => { x with decision := some commit }
  if commit then s
  else match cmdOf s c.cmd with
    | some k => rerunCmd s 0 k
    | none => s

/-- Sends DECIDE to every other participant. -/
def sendDecide (s : State) (c : Coll) (commit : Bool) : State :=
  (c.parts.filter fun q => q != myPos s).foldl (fun s q => sendMsg s 0x31 q (leBytes 8 c.txn ++ leBytes 1 (bit commit))) s

/-- The coordinator's decision: it enters its journal before DECIDE goes out; an abort is recorded with its cause. -/
def decideColl (s : State) (c : Coll) (commit : Bool) (cause : Nat) : State :=
  let s := endColl s c commit
  let s := if commit then s else record s 0x1404 (leBytes 8 c.txn ++ leBytes 1 cause)
  sendDecide s c commit

/-- Counts the votes: commit when every vote is ok and every CRC equal, abort on a fail vote or an unequal CRC. -/
def countVotes (s : State) (txn : Nat) : State :=
  match collOf s txn with
  | none => s
  | some c =>
    if c.decision.isSome ∨ c.coord ≠ myPos s then s
    else if c.votes.any fun v => !v.2.1 then decideColl s c false 1
    else match c.votes with
      | [] => s
      | v :: vs =>
        if vs.any fun w => w.2.2 != v.2.2 then decideColl s c false 2
        else if c.parts.all fun q => c.votes.any fun w => w.1 == q then decideColl s c true 0
        else s

/-- Casts this module's vote once all partials have arrived: to the coordinator, or to itself (R306). -/
def castVote (s : State) (c : Coll) : State :=
  let crc := (crc32c (collResult (myPos s) c)).toNat
  let s := updColl s c.txn fun x => { x with voted := true }
  if c.coord = myPos s then
    countVotes (updColl s c.txn fun x => { x with votes := x.votes ++ [(myPos s, true, crc)] }) c.txn
  else sendMsg s 0x30 c.coord (leBytes 8 c.txn ++ leBytes 1 1 ++ leBytes 4 crc)

/-- PARTIAL (R306): a partial is received toward the local result; with the last of them this module votes. -/
def execPartialMsg (p : Nat) (m : StrataMsg) (s : State) : Res :=
  strataMsg s p 0x42 m fun s =>
    let txn := le m.data 0 8
    let s := match collOf s txn with
      | some _ => s
      | none => { s with strata := { s.strata with colls := s.strata.colls ++ [newColl s txn] } }
    let s := updColl s txn fun c =>
      if c.partials.any fun e => e.1 == m.src && e.2.1 == le m.data 8 2 then c
      else { c with partials := c.partials ++ [(m.src, le m.data 8 2, m.data.drop 10)] }
    match collOf s txn with
    | none => s
    | some c =>
      let full := c.parts.all fun q => q == myPos s || c.partials.any fun e => e.1 == q
      if full ∧ !c.voted ∧ c.decision.isNone then castVote s c else s

/-- VOTE (R306): the coordinator collects it and decides when it can. -/
def execVote (p : Nat) (m : StrataMsg) (s : State) : Res :=
  strataMsg s p 0x30 m fun s =>
    let txn := le m.data 0 8
    let v := (m.src, byteAt m.data 8 == 1, le m.data 9 4)
    countVotes (updColl s txn fun c =>
      if c.votes.any fun w => w.1 == m.src then c else { c with votes := c.votes ++ [v] }) txn

/-- VOTE_TIMEOUT (R306): a vote missing 50 µs after the coordinator's own aborts the collective. -/
def execVoteTimeout (txn : Nat) (s : State) : Res :=
  .next <| match collOf s txn with
    | some c => if c.decision.isNone ∧ c.coord = myPos s ∧ c.voted then decideColl s c false 3 else s
    | none => s

/-- DECIDE (R306): a participant commits the collective, or discards it and reruns its command. -/
def execDecide (p : Nat) (m : StrataMsg) (s : State) : Res :=
  strataMsg s p 0x31 m fun s => match collOf s (le m.data 0 8) with
    | some c => if c.decision.isNone ∧ c.coord ≠ myPos s then endColl s c (byteAt m.data 8 == 1) else s
    | none => s

/-- DECISION_WAIT_TIMEOUT (R306): a participant that has voted asks the coordinator, or discards its result when it has no
path to it. -/
def execDecisionWaitTimeout (txn : Nat) (s : State) : Res :=
  .next <| match collOf s txn with
    | some c =>
      if !c.voted ∨ c.decision.isSome ∨ c.coord = myPos s then s
      else if (nextHop s c.coord).isSome then sendMsg s 0x32 c.coord (leBytes 8 txn)
      else { s with strata := { s.strata with colls := s.strata.colls.filter fun x => x.txn != txn } }
    | none => s

/-- DECISION_QUERY (R306): the coordinator answers with its journaled decision. -/
def execDecisionQuery (p : Nat) (m : StrataMsg) (s : State) : Res :=
  strataMsg s p 0x32 m fun s => match collOf s (le m.data 0 8) with
    | some c => match c.decision with
      | some d => sendMsg s 0x31 m.src (leBytes 8 c.txn ++ leBytes 1 (bit d))
      | none => s
    | none => s

end Sys2Proof.Machine
end

