-- ==== Sys2Proof/Machine/Detect.lean ====
section
/-! DEFINITION. What each detector's finding does (R335, R346), for the detections that stop a command before its commit
and for LIVE injections, and what the firmware answers a host that injects, fences and releases (R95 to R98, R352, R353). -/

namespace Sys2Proof.Machine

/-! ## Detections (R335) -/

/-- Counts a detection that a retry has recovered (R355). -/
def countRecovered (s : State) : State := updSafety s fun y => { y with recovered := (y.recovered + 1) % 2 ^ 32 }

/-- Ends what a command serves because it consumed poison (R280). -/
def poisonConsumer (s : State) (c : Cmd) : State :=
  match c.serves with
  | .cases keys => keys.foldl (fun s k => endCase s k .faultPoison c.stage) s
  | .pass _ _ _ keys => keys.foldl (fun s k => endQuery s k .faultPoison c.stage) s
  | .bg op => endBg s op c.id .faultPoison

/-- A Garnet SRAM detection (R281): a single-bit error is corrected and counted, a double-bit one kills its command. -/
def sramDetection (s : State) (d : Detection) (cmds : List Cmd) : State :=
  if byteAt d.payload 4 = 1 then
    detectorRecord { s with mem := { s.mem with t0Ce := s.mem.t0Ce + 1 } } d.det (unitCode d.unit) d.injected false d.payload
  else dataPath { s with mem := { s.mem with t0Ue := s.mem.t0Ue + 1 } } d cmds

/-- A die-to-die CRC failure: the flit is retried, and its 16th retry fences the die. -/
def d2dDetection (s : State) (d : Detection) : State :=
  if byteAt d.payload 4 ≥ 16 then
    fence (detectorRecord s d.det (unitCode d.unit) d.injected true d.payload) d.unit d.det d.det d.injected
  else countRecovered (detectorRecord s d.det (unitCode d.unit) d.injected false d.payload)

/-- A preemption point that came too late: a wait that ended is reported, and one of 240 TCLK fences the unit. -/
def preemptDetection (s : State) (d : Detection) : State :=
  let s := detectorRecord s d.det (unitCode d.unit) d.injected true d.payload
  let s := recordAs s (amberSafety 0x1108) d.injected 0x1108 0 0xFF (leBytes 2 (unitCode d.unit) ++ slice d.payload 0 4)
  if byteAt d.payload 4 = 2 then fence s d.unit d.det d.det d.injected else postFault s 1 d.injected d.det (unitCode d.unit)

/-- What a detection does that takes hold of the commands `cmds`. -/
def detect (s : State) (d : Detection) (cmds : List Cmd) : State :=
  let u := unitCode d.unit
  match d.det with
  | 0x07 => sramDetection s d cmds
  | 0x08 | 0x09 => match d.dram with
    | some r => if readFails s r then cmds.foldl poisonConsumer (dramRead s r d.injected) else dramRead s r d.injected
    | none => s
  | 0x0A => d2dDetection s d
  | 0x0B => s
  | 0x0C => preemptDetection s d
  | 0x0D => fence (detectorRecord s d.det u d.injected true d.payload) d.unit d.det d.det d.injected
  | 0x0E => undervolt s d.unit.idx (le d.payload 0 2) d.injected
  | 0x0F => stretchFault s d.unit.idx d.injected d.payload
  | 0x10 => revertDie (detectorRecord s d.det u d.injected false d.payload) d.unit.idx
  | 0x11 =>
    let s := detectorRecord s d.det u d.injected true d.payload
    if d.unit.kind = 1 then fence s d.unit d.det d.det d.injected else enterHold s d.det 0 d.injected
  | 0x12 => holdPair (hubHold s d.det d.injected d.payload) false
  | 0x13 => holdPair (hubHold s d.det d.injected d.payload) true
  | 0x14 => holdPair (hubHold s d.det d.injected d.payload) (byteAt d.payload 0 == 1)
  | 0x17 =>
    if byteAt d.payload 4 = 1 then
      countRecovered (detectorRecord { s with mem := { s.mem with t0Ce := s.mem.t0Ce + 1 } } d.det 0 d.injected false d.payload)
    else hubHold { s with mem := { s.mem with t0Ue := s.mem.t0Ue + 1 } } d.det d.injected d.payload
  | 0x18 =>
    if byteAt d.payload 4 = 1 then
      let n := le d.payload 0 4
      let restore (c : CairnRec) : CairnRec := { c with val := c.copy }
      let s := { s with cairns := modifyWhere s.cairns (fun c => c.num == n) restore }
      let s := detectorRecord s d.det 0 d.injected false d.payload
      cmds.foldl (fun s c => rerunCmd s d.det c) s
    else hubHold s d.det d.injected d.payload
  | 0x15 | 0x16 | 0x19 => hubHold s d.det d.injected d.payload
  | 0x1A => s
  | _ => dataPath s d cmds

/-- Whether a command still runs as it did before a detection. -/
def stillRuns (s : State) (c : Cmd) : Bool :=
  (cmdOf s c.id).any fun x => decide (x.phase = .running) && x.reruns == c.reruns

/-- A commit of the commands `cmds`, before which a detection may fall: it happens when the detection leaves them
running. -/
def commitUnder (s : State) (det : Option Detection) (cmds : List Cmd) (k : State → State) : State :=
  match det with
  | none => journaled s cmds (k s)
  | some d =>
    let s := detect s d cmds
    if cmds.all (stillRuns s) then journaled s cmds (k s) else s

/-! ## SAFETY_INJECT (R96, R344, R346) -/

/-- `n` bytes of a detail that an injection leaves open, from byte `i` of the free value `v`. -/
def freeDetail (v i n : Nat) : List Byte := (List.range n).map fun j => Config.detailByte v (i + j)

/-- The stage and CASE_ID bytes of a command's detection (R409). -/
def servedBytes (s : State) : List Cmd → List Byte
  | [] => zeros 9
  | c :: _ => leBytes 1 c.stage ++ leBytes 8 (cmdCaseId s c)

/-- The number of a die in a D2D_CRC record. -/
def dieNumber (u : UnitId) : Nat := if u.kind = 6 then 4 + u.idx else u.idx

/-- The detail of a LIVE injection, the bytes it does not fix taken from the free value `v` (R409). -/
def injectedDetail (s : State) (det : Nat) (u : UnitId) (v : Nat) (cmds : List Cmd) : List Byte :=
  let c := servedBytes s cmds
  match det with
  | 0x02 => freeDetail v 0 2 ++ leBytes 2 (unitCode { u with idx := if u.idx % 2 = 0 then u.idx + 1 else u.idx - 1 }) ++ c
  | 0x05 => freeDetail v 0 4 ++ c.drop 1
  | 0x06 => freeDetail v 0 8
  | 0x07 => freeDetail v 0 4 ++ leBytes 1 2
  | 0x0A => leBytes 1 (dieNumber u) ++ freeDetail v 0 3 ++ leBytes 1 1
  | 0x0C => freeDetail v 0 4 ++ leBytes 1 1
  | 0x0D => leBytes 1 (1 + (Config.detailByte v 0).toNat % 4) ++ leBytes 1 u.idx
  | 0x0E => leBytes 2 ((Config.freeWord v).toNat % 470) ++ leBytes 1 1 ++ leBytes 1 (7 + u.idx)
  | 0x0F => leBytes 1 ((Config.detailByte v 0).toNat % 16) ++ leBytes 1 (dieOf s u.idx).div
  | 0x10 => leBytes 1 ((Config.detailByte v 0).toNat % 16) ++ leBytes 1 1
  | 0x11 => leBytes 1 (7 + u.idx) ++ freeDetail v 0 2
  | _ => freeDetail v 0 2 ++ c

/-- The syndrome of an error `e` confined to symbol `p` of a granule (R275). -/
def symbolSyn (p : Nat) (e : Symbol) : Syndrome :=
  if p = 32 then { s0 := e, s1 := 0 } else if p = 33 then { s0 := 0, s1 := e } else { s0 := e, s1 := gfMul (gfPow p) e }

/-- One symbol error put on the next read of a channel (R335): which symbol, and what error, is open. -/
def injectDram (s : State) (u : UnitId) (v : Nat) : State :=
  let t : Tier := if u.kind = 8 then .t1 else .t2
  let y := symbolSyn ((Config.detailByte v 2).toNat % 34) (BitVec.ofNat 16 (1 + (Config.freeWord v).toNat % 65535))
  { s with mem := { s.mem with armed := s.mem.armed ++ [(t, u.idx, y)] } }

/-- An IDLE flit with one wrong CRC bit leaves a port that is up; the peer finds it (R295), and no flit has a record of its own. -/
def injectStrata (s : State) (p : Nat) : State :=
  let f := bareFlit (portOf s p) 0 0
  if (portOf s p).st = 2 then emit s (.flit p { f with crc := f.crc ^^^ 1#32 }) else s

/-- A LIVE injection: it is handled as a real detection on the commands that run on the unit. -/
def injectLive (s : State) (det : Nat) (u : UnitId) : State :=
  let v := s.free
  let s := bumpFree s
  let cmds := (cmdsOnUnit s u).filter fun c => decide (c.phase = .running)
  match det with
  | 0x08 | 0x09 => injectDram s u v
  | 0x0B => injectStrata s u.idx
  | _ => detect s { det := det, unit := u, payload := injectedDetail s det u v cmds, injected := true, dram := none } cmds

/-- Notes an injection that was flagged at its point. -/
def notePoint (s : State) (det unit : Nat) : State := exerciseAll s fun p => p.det == det && p.unit == unit

/-- Whether a detector has an injection point on a unit (R347). -/
def hasPoint (s : State) (det unit : Nat) : Bool := s.safety.points.any fun p => p.det == det && p.unit == unit && p.unit != 0

/-- SAFETY_INJECT (R96, R346). -/
def execSafetyInject (f : Nat) (src : Src) (s : State) : Res :=
  onMessage s f src 0x0A02 notHeld fun s x =>
    let det := le x.bytes 32 2
    let unit := le x.bytes 34 2
    let live := byteAt x.bytes 36 == 1
    match unitOfCode unit with
    | none => s
    | some u =>
      settle s x (firstSome
        [failIf (!hasPoint s det unit) .fieldRange 32,
         failIf (live && isFenced s u) .faultFenced]) fun s =>
        let s := notePoint s det unit
        complete (if live then injectLive s det u else s) x.id .ok

/-! ## SAFETY_FENCE (R97) -/

/-- Enables the unfenced cores of a die after an unfence outside SAFE_HOLD; a die whose clock DOZE stopped wakes first (R325,
R326). -/
def wakeCores (s : State) (g : Nat) : State :=
  if s.boot.state = .safeHold then s
  else if !(dieOf s g).aclkOn then wakeDie s g
  else updDie s g fun d =>
    { d with
      cores := (List.range 4).map fun i =>
        if isFenced s { kind := 2, idx := g * 4 + i } then .off
        else match d.cores.getD i .off with
          | .off => .waking 1
          | c => c }

/-- The channels whose fence or failure an unfence of a unit ends: the channel itself, or a Shale's sixteen. -/
def unfencedChannels (u : UnitId) : List Nat :=
  match u.kind with
  | 6 => (List.range 16).map fun i => u.idx * 16 + i
  | 8 | 9 => [u.idx]
  | _ => []

/-- A tier after the unfence of channels: it accepts allocations again when no channel is failed (R287). -/
def reopenTier (t : TierState) (chs : List Nat) : TierState :=
  let left := t.chFailed.filter fun c => !chs.contains c
  { t with chFailed := left, accepts := left.isEmpty, lost := t.lost && !left.isEmpty }

/-- Ends the memory effect of a unit's fence: T2 accepts allocations again, T1 only after a reset (R287, R288). -/
def unfenceMemory (s : State) (u : UnitId) : State :=
  match u.kind with
  | 6 | 9 => updTier s .t2 fun t => reopenTier t (unfencedChannels u)
  | _ => s

/-- The points of a unit and of the units inside it. -/
def pointOfUnit (u : UnitId) (p : PointRec) : Bool :=
  match unitOfCode p.unit with
  | some v => covers u v
  | none => false

/-- Removes a fence after the unit's self-test has passed. -/
def unfence (s : State) (u : UnitId) : State :=
  let s := exerciseAll s (pointOfUnit u)
  let s := updSafety s fun y => { y with fences := y.fences.filter fun v => decide (v ≠ u) }
  let s := unfenceMemory (recordUnit s u false 0x1102 (leBytes 2 (unitCode u))) u
  let s := match u.kind, unitGarnet u with
    | 1, some g | 2, some g => wakeCores s g
    | _, _ => s
  settleState s

/-- SAFETY_FENCE (R97): `testOk` is what the unit's self-test finds. -/
def execSafetyFence (f : Nat) (src : Src) (testOk : Bool) (s : State) : Res :=
  onMessage s f src 0x0A03 notHeld fun s x =>
    match unitOfCode (le x.bytes 32 2) with
    | none => s
    | some u =>
      let want := byteAt x.bytes 34 == 1
      if s.safety.fences.contains u = want then complete s x.id .okNoChange
      else if want then complete (fence s u 0x0100 0 false) x.id .ok
      else settle s x (failIf (!testOk) .faultFenced) fun s => complete (unfence s u) x.id .ok

/-! ## SAFETY_HOLD_RELEASE (R98, R352, R353) -/

/-- Wakes every unfenced Garnet for the release: ACLK runs and the unfenced cores are ready (step 2 of R353). -/
def releaseDies (s : State) : State :=
  (List.range 4).foldl (fun s g =>
    if isFenced s { kind := 1, idx := g } then s
    else updDie s g fun d =>
      { d with
        aclkOn := true
        cores := (List.range 4).map fun i => if isFenced s { kind := 2, idx := g * 4 + i } then .off else .ready }) s

/-- The points that fail in a release, by their place in the sweep, that belong to powered units. -/
def failingPoints (s : State) (failed : List Nat) : List Nat :=
  failed.filter fun i => match s.safety.points[i]? with
    | some p => pointLive s p
    | none => false

/-- Whether a point belongs to a hub detector. -/
def isHubPoint (s : State) (i : Nat) : Bool :=
  match s.safety.points[i]? with
  | some p => p.unit == 0
  | none => false

/-- Ends the hold: its causes are cleared and the state is the one R342 gives. -/
def leaveHold (s : State) : State :=
  let s := updSafety s fun y => { y with causes := [], resetNeeded := false }
  setState s (properState s)

/-- The SAFE_HOLD_RELEASE record and the completion of a release. -/
def endRelease (s : State) (x : MsgCtx) (st : Status) : State :=
  complete (record s 0x1105 (leBytes 2 (statusCode st))) x.id st

/-- The sequence of R353, in which the points `failed` fail. -/
def releaseHold (s : State) (x : MsgCtx) (failed : List Nat) : State :=
  let s := releaseDies { s with mem := { s.mem with selfRefresh := false } }
  let bad := failingPoints s failed
  let s := exerciseAll s (pointLive s)
  let s := bad.foldl (fun s i => exercisePoint s i false) s
  if bad.any (isHubPoint s) then
    endRelease (gateAll { s with mem := { s.mem with selfRefresh := true } }) x .fault
  else endRelease (leaveHold s) x .ok

/-- SAFETY_HOLD_RELEASE (R98): it is refused while a cause has an unmet condition (R352). -/
def execSafetyHoldRelease (f : Nat) (src : Src) (failed : List Nat) (s : State) : Res :=
  onMessage s f src 0x0A04 notHeld fun s x =>
    if s.boot.state ≠ .safeHold then complete s x.id .okNoChange
    else if causeActive s then endRelease s x .busy
    else releaseHold s x failed

end Sys2Proof.Machine
end

