-- ==== Sys2Proof/Machine/Indexes.lean ====
section
/-! DEFINITION. Indexes (chapter 07, R72 to R80): the image checks, bulk load, the scree, settling and snapshots. -/

namespace Sys2Proof.Machine

/-! ## Sizes (R167, R168, R180) -/

/-- The entries of a 4 KiB block, E_B (R168). -/
def blockEntries (codeBytes : Nat) : Nat := if codeBytes = 32 then 124 else 63

/-- The bytes of a scree slot (R180). -/
def slotBytes (codeBytes : Nat) : Nat := if codeBytes = 32 then 64 else 128

/-- The id that marks "no entry" (R169). -/
def noId : Nat := 2 ^ 64 - 1

/-- The most live records of a scree (R77). -/
def screeMax : Nat := 16777216

/-- The entries of the main lists. -/
def mainEntries (ls : List IdxList) : Nat := sumNat (ls.map fun l => l.entries.length)

/-- The live inserts of a scree. -/
def liveInserts (rs : List ScreeRec) : Nat := (rs.filter fun r => !r.del).length

/-! ## Creation -/

/-- The product limit of INDEX_CREATE (R73). -/
def productMax (s : State) : Nat :=
  match s.ident.part with
  | .c4256 => 212600881152
  | _ => 425201762304

/-- The parameters INDEX_CREATE gives (R72). -/
def indexCfgOf (b : List Byte) : IndexCfg :=
  { lists := le b 32 4, codeBytes := byteAt b 36, metric := byteAt b 37, shard := byteAt b 39, shardCount := byteAt b 40,
    cachePages := le b 44 4, maxEntries := le b 48 8 }

/-- An EMPTY index. -/
def newIndex (handle owner : Nat) (shared : Bool) (c : IndexCfg) : Index :=
  { handle := handle, owner := owner, shared := shared, cfg := c, state := .empty, hdr := none, segs := 0, image := [],
    centroids := [], codebook := [], centScale := 0, gen := 0, lists := [], scree := [], nextSeq := 1, old := none,
    cache := { head := 0, held := [] }, listPages := 0, bulkBusy := false, snapBusy := false }

/-- INDEX_CREATE (R72, R73). R73 does not say which factor ERR_OFFSET names for the product: it names MAX_ENTRIES (log 147). -/
def execIndexCreate (f : Nat) (src : Src) (s : State) : Res :=
  onMessage s f src 0x0401 notHeld fun s x =>
    let c := indexCfgOf x.bytes
    let p := indexFixedPages c
    settle s x (firstSome
      [failIf (decide (productMax s < c.maxEntries * (c.codeBytes + 1))) .productRange 48,
       failIf (decide (16 ≤ s.indexes.length)) .indexLimit,
       failIf (!fitsQuota s f p.1 p.2) .quotaPages,
       tierOpen s p.2]) fun s =>
      let h := s.nextHandle
      let s := newHandle { s with indexes := s.indexes ++ [newIndex h f (bitOf (byteAt x.bytes 38) 0) c] }
      zeroThen s f x.id h (p.1 + p.2) 0 .ok [] (resultAt [(0, 4, h), (4, 4, p.1), (8, 4, p.2)])

/-! ## The image (R171 to R173) -/

/-- The first nonzero gap of a header's reserved bytes, named by its first byte (R171). -/
def headerGap (b : List Byte) : Option Nat :=
  if le b 14 2 ≠ 0 then some 14 else if (slice b 116 3980).any (· != 0) then some 116 else none

/-- The header that an image begins with (R171). -/
def headerAt (b : List Byte) : IndexHeader :=
  { magic := le b 0 4, imgVersion := le b 4 2, codeBytes := byteAt b 6, metric := byteAt b 7, lists := le b 8 4,
    shard := byteAt b 12, shardCount := byteAt b 13, layoutId := le b 16 8, imageBytes := le b 24 8,
    mainEntries := le b 32 8, listBlocks := le b 40 8, runCount := le b 48 8, screeRecords := le b 56 4,
    centScale := fpAt b 60, codebookOff := le b 64 8, centOff := le b 72 8, dirOff := le b 80 8, runOff := le b 88 8,
    blockOff := le b 96 8, screeOff := le b 104 8, imageCrc := le b 112 4, reserved := headerGap b }

/-- Entry `i` of the directory section (R172). -/
def dirAt (h : IndexHeader) (b : List Byte) (i : Nat) : DirEntry :=
  let o := h.dirOff + 32 * i
  { count := le b o 4, capacity := le b (o + 4) 4, block := le b (o + 8) 8, runFirst := le b (o + 16) 8,
    runs := le b (o + 24) 4, reserved := le b (o + 28) 4 }

/-- Entry `j` of the run section (R172). -/
def runAt (h : IndexHeader) (b : List Byte) (j : Nat) : RunEntry :=
  let o := h.runOff + 16 * j
  { firstId := le b o 8, len := le b (o + 8) 4, reserved := le b (o + 12) 4 }

/-- Slot `k` of the scree section (R180). -/
def slotAt (h : IndexHeader) (b : List Byte) (k : Nat) : ScreeSlot :=
  let n := slotBytes h.codeBytes
  let o := h.screeOff + n * k
  { rcd := { id := le b o 8, list := le b (o + 8) 4, bound := byteAt b (o + 12), del := byteAt b (o + 13) == 2,
             code := (slice b (o + 16) h.codeBytes).map BitVec.toNat, seq := le b (o + 16 + h.codeBytes) 8 },
    kind := byteAt b (o + 13), gap := le b (o + 14) 2 != 0,
    tail := le b (o + 24 + h.codeBytes) (n - 24 - h.codeBytes) != 0 }

/-- The directory of an image. -/
def dirOf (h : IndexHeader) (b : List Byte) : List DirEntry := (List.range h.lists).map (dirAt h b)
/-- The runs of an image. -/
def imageRuns (h : IndexHeader) (b : List Byte) : List RunEntry := (List.range h.runCount).map (runAt h b)
/-- The scree slots of an image. -/
def imageScree (h : IndexHeader) (b : List Byte) : List ScreeSlot := (List.range h.screeRecords).map (slotAt h b)

/-- A field of an image header that must lie in a range. -/
def headRange (v lo hi off : Nat) : Check := failStruct (!decide (lo ≤ v ∧ v ≤ hi)) .fieldRange off 40

/-- A section offset of an image header. -/
def headOffset (v off : Nat) : Check := failStruct (v % 4096 != 0) .fieldRange off 40

/-- The header fields in offset order (R173). -/
def headerFields (c : IndexCfg) (h : IndexHeader) : Check :=
  let same (a b off : Nat) : Check := failStruct (a != b) .badImage off 40
  let early := match h.reserved with
    | some o => decide (o < 116)
    | none => false
  firstSome
    [same h.magic 0x58444951 0, same h.imgVersion 2 4, same h.codeBytes c.codeBytes 6, same h.metric c.metric 7,
     same h.lists c.lists 8, same h.shard c.shard 12, same h.shardCount c.shardCount 13,
     failStruct early .reservedNonzero (h.reserved.getD 0) 40,
     headRange h.imageBytes 135168 549755813888 24, headRange h.mainEntries 0 12884901888 32,
     headRange h.listBlocks 0 125829120 40, headRange h.runCount 0 h.mainEntries 48,
     headRange h.screeRecords 0 screeMax 56, failStruct (!fpPositive h.centScale) .fieldRange 60 40,
     headOffset h.codebookOff 64, headOffset h.centOff 72, headOffset h.dirOff 80, headOffset h.runOff 88,
     headOffset h.blockOff 96, headOffset h.screeOff 104,
     failStruct h.reserved.isSome .reservedNonzero (h.reserved.getD 0) 40]

/-- The sections of an image in order: the offset field's place, the offset and the size (R171). -/
def sections (h : IndexHeader) : List (Nat × Nat × Nat) :=
  [(64, h.codebookOff, 131072), (72, h.centOff, h.lists * 256), (80, h.dirOff, h.lists * 32),
   (88, h.runOff, h.runCount * 16), (96, h.blockOff, h.listBlocks * 4096),
   (104, h.screeOff, h.screeRecords * slotBytes h.codeBytes)]

/-- The sections lie in order, each from the end of the one before it, and end by IMAGE_BYTES (R171). -/
def sectionOrder (imageBytes : Nat) : Nat → List (Nat × Nat × Nat) → Check
  | stop, [] => failStruct (decide (imageBytes < stop)) .badImage 104 40
  | stop, (field, off, size) :: rest =>
    firstSome [failStruct (decide (off < stop)) .badImage field 40, sectionOrder imageBytes (off + size) rest]

/-- The checks of segment 0 (R173). -/
def segmentZero (s : State) (x : Index) (h : IndexHeader) : Check := firstSome
  [headerFields x.cfg h,
   sectionOrder h.imageBytes 4096 (sections h),
   failStruct (decide (x.cfg.maxEntries < h.mainEntries + h.screeRecords)) .lenExceedsBuffer 32 40,
   failIf (!fitsQuota s x.owner 0 (headerPages h)) .quotaPages]

/-- The blocks of a list of some capacity (R168). -/
def listBlocks (codeBytes cap : Nat) : Nat := ceilDiv cap (blockEntries codeBytes)

/-- The rules of directory entry `i` (R172). -/
def dirCheck (h : IndexHeader) (runs : List RunEntry) (i : Nat) (d : DirEntry) : Check :=
  let at' (o : Nat) : Nat := h.dirOff + 32 * i + o
  let bad (c : Bool) (o : Nat) : Check := failStruct c .badImage (at' o) 40
  let mine := (runs.drop d.runFirst).take d.runs
  firstSome
    [bad (decide (d.capacity < d.count)) 0, bad (decide (2147483648 < d.capacity)) 4,
     bad (if d.capacity = 0 then d.block != 0
          else decide (h.listBlocks < d.block + listBlocks h.codeBytes d.capacity)) 8,
     bad (if d.runs = 0 then d.runFirst != 0 else decide (h.runCount < d.runFirst + d.runs)) 16,
     bad (decide (d.count < d.runs)) 24, bad (d.reserved != 0) 28,
     bad (sumNat (mine.map RunEntry.len) != d.count) 24]

/-- The rules of run entry `j` (R172). -/
def runCheck (h : IndexHeader) (j : Nat) (r : RunEntry) : Check :=
  let bad (c : Bool) (o : Nat) : Check := failStruct c .badImage (h.runOff + 16 * j + o) 40
  firstSome
    [bad (decide (noId - 1 < r.firstId)) 0, bad (!decide (1 ≤ r.len ∧ r.len ≤ 2147483648)) 8,
     bad (decide (noId - 1 < r.firstId + r.len - 1)) 8, bad (r.reserved != 0) 12]

/-- The rules of scree slot `k` (R180). -/
def slotCheck (h : IndexHeader) (k : Nat) (e : ScreeSlot) : Check :=
  let bad (c : Bool) (o : Nat) : Check := failStruct c .badImage (h.screeOff + slotBytes h.codeBytes * k + o) 40
  let del := e.kind == 2
  firstSome
    [bad (e.rcd.id == noId) 0,
     bad (if del then e.rcd.list != 0xFFFFFFFF else decide (h.lists ≤ e.rcd.list)) 8,
     bad (!(e.kind == 1 || del)) 13,
     bad e.gap 14,
     bad (del && e.rcd.code.any fun c => c != 0) 16,
     bad (!decide (1 ≤ e.rcd.seq ∧ e.rcd.seq < 2 ^ 64)) (16 + h.codeBytes),
     bad e.tail (24 + h.codeBytes)]

/-- The first failure of a check over a list, by place. -/
def checkAll {α : Type} (g : Nat → α → Check) (l : List α) : Check :=
  firstSome ((List.range l.length).zipWith g l)

/-- The first entry, in order, whose blocks overlap those of an entry before it, by place (R172). -/
def blockClash (codeBytes : Nat) (ds : List DirEntry) : Option Nat :=
  let hit (a b : DirEntry) : Bool :=
    overlaps a.block (listBlocks codeBytes a.capacity) b.block (listBlocks codeBytes b.capacity)
  (List.range ds.length).find? fun j => match ds[j]? with
    | some e => (ds.take j).any (hit e)
    | none => false

/-- The checks of a FINAL segment (R173): all bytes have arrived, the CRC over them matches, and every rule of R172 and R180.
R173 gives no order to them and does not say that MAIN_ENTRIES must be the sum of COUNT: the model takes the bytes, the CRC,
that sum, the directory, the runs and the scree in this order (log 145). -/
def finalCheck (h : IndexHeader) (b : List Byte) : Check :=
  let dir := dirOf h b
  let runs := imageRuns h b
  firstSome
  [failStruct (b.length != h.imageBytes) .badImage 24 40,
   failStruct ((crc32c (b.drop 4096)).toNat != h.imageCrc) .badImage 112 40,
   failStruct (sumNat (dir.map DirEntry.count) != h.mainEntries) .badImage 32 40,
   checkAll (dirCheck h runs) dir,
   (blockClash h.codeBytes dir).bind fun j => failStruct true .badImage (h.dirOff + 32 * j + 8) 40,
   checkAll (runCheck h) runs,
   checkAll (slotCheck h) (imageScree h b)]

/-- The header of the image that a segment belongs to: its own bytes in segment 0, and those of segment 0 later. -/
def segmentHeader (x : Index) (d : List Byte) : IndexHeader := headerAt (x.image ++ d)

/-- The checks that a segment's bytes decide (R173, R75). -/
def segmentCheck (s : State) (x : Index) (final : Bool) (d : List Byte) : Check :=
  let h := segmentHeader x d
  firstSome
    [if x.segs = 0 then segmentZero s x h else none,
     failStruct (decide (h.imageBytes < x.image.length + d.length)) .lenExceedsBuffer 24 40,
     if final then finalCheck h (x.image ++ d) else none]

/-- Whether a segment of the index that a message names is being applied: the message waits (R42). -/
def bulkHeld (s : State) (b : List Byte) : Bool :=
  match indexOf s (le b 32 4) with
  | some x => x.bulkBusy
  | none => false

/-- Refuses with ST_BUSY an index in a state other than those that a rule accepts (R75, R77, R78). -/
def stateRefusal (x : Index) (ok : List IndexState) : Check := failIf (!ok.contains x.state) .busy

/-- INDEX_BULK_LOAD (R74, R75, R173). -/
def execIndexBulkLoad (f : Nat) (src : Src) (h : HostView) (r : HostRead (List Byte)) (s : State) : Res :=
  onMessage s f src 0x0402 (bulkHeld s) fun s x =>
    let b := x.bytes
    let ih := le b 32 4
    let len := le b 48 8
    let final := bitOf (byteAt b 38) 0
    settleRead s x (le b 40 8) len r (firstSome
      [addrCheck s h f false (le b 40 8) len 40,
       withRef (ownIndex s f ih) 32 fun i => firstSome
         [stateRefusal i [.empty, .loading], failIf (le b 36 2 != i.segs) .fieldRange 36],
       readFailed r]) fun s =>
      match r, indexOf s ih with
      | .data d, some i =>
        let seg := readBytes d len
        settle s x (segmentCheck s i final seg) fun s =>
          let pages := if i.segs = 0 then headerPages (headerAt seg) else 0
          startBg (updIndex s ih fun i => { i with bulkBusy := true }) x (.bulkLoad ih seg final) 0 pages
      | _, _ => s

/-- The ids of a run. -/
def runIds (r : RunEntry) : List Nat := (List.range r.len).map fun i => r.firstId + i

/-- Entry `k` of a list of an image: its code and its bound stand in block k div E_B of the list (R168). -/
def blockEntry (h : IndexHeader) (b : List Byte) (d : DirEntry) (id k : Nat) : IdxEntry :=
  let eb := blockEntries h.codeBytes
  let o := h.blockOff + 4096 * (d.block + k / eb)
  { id := id, code := (slice b (o + h.codeBytes * (k % eb)) h.codeBytes).map BitVec.toNat,
    bound := byteAt b (o + eb * h.codeBytes + k % eb) }

/-- The list that a directory entry of an image describes: its ids from its runs, its entries from its blocks (R168, R172). -/
def listOf (h : IndexHeader) (b : List Byte) (runs : List RunEntry) (d : DirEntry) : IdxList :=
  let ids := (((runs.drop d.runFirst).take d.runs).flatMap runIds).take d.count
  { capacity := d.capacity, entries := (List.range ids.length).zipWith (fun k id => blockEntry h b d id k) ids }

/-- Row `i` of the centroid section. -/
def centroidAt (h : IndexHeader) (b : List Byte) (i : Nat) : List Int :=
  (slice b (h.centOff + 256 * i) 256).map BitVec.toInt

/-- A LOADING index whose image is whole becomes LIVE at generation 1, with the next SEQ of R181 (R75, R170). -/
def goLive (x : Index) (b : List Byte) : Index :=
  let h := headerAt b
  let scree := (imageScree h b).map ScreeSlot.rcd
  { x with
    state := .live, gen := 1, image := [], centroids := (List.range h.lists).map (centroidAt h b)
    codebook := (slice b h.codebookOff 131072).map BitVec.toNat, centScale := h.centScale
    lists := (dirOf h b).map (listOf h b (imageRuns h b)), scree := scree
    nextSeq := maxNat (scree.map ScreeRec.seq) + 1 }

/-- The commit of a bulk-load segment (R75): LOADING, or LIVE with the FINAL one. -/
def commitSegment (x : Index) (d : List Byte) (final : Bool) : Index :=
  let h := segmentHeader x d
  let b := x.image ++ d
  let x := { x with
    state := .loading, hdr := some h, segs := x.segs + 1, image := b
    listPages := if x.segs = 0 then headerPages h else x.listPages, bulkBusy := false }
  if final then goLive x b else x

/-! ## The scree (R76, R77, R180, R181) -/

/-- Insert record `k` of a record list. -/
def insertRec (codeBytes : Nat) (b : List Byte) (k : Nat) : ScreeRec :=
  let o := slotBytes codeBytes * k
  { id := le b o 8, list := le b (o + 8) 4, bound := byteAt b (o + 12), del := false,
    code := (slice b (o + 16) codeBytes).map BitVec.toNat, seq := 0 }

/-- The checks of insert record `k`: its id, its list, and KIND, SEQ and the bytes not listed all zero (R169, R180). -/
def insertCheck (c : IndexCfg) (b : List Byte) (k : Nat) : Check :=
  let n := slotBytes c.codeBytes
  let o := n * k
  let zero (a len : Nat) : Check := failStruct (le b (o + a) len != 0) .reservedNonzero (o + a) 40
  firstSome
    [failStruct (le b o 8 == noId) .fieldRange o 40,
     failStruct (decide (c.lists ≤ le b (o + 8) 4)) .fieldRange (o + 8) 40,
     zero 13 1, zero 14 2, zero (16 + c.codeBytes) 8, zero (24 + c.codeBytes) (n - 24 - c.codeBytes)]

/-- Appends records to the scree with consecutive SEQs (R181). -/
def appendScree (x : Index) (rs : List ScreeRec) : Index :=
  let numbered := (List.range rs.length).zipWith (fun i (r : ScreeRec) => { r with seq := x.nextSeq + i }) rs
  { x with scree := x.scree ++ numbered, nextSeq := x.nextSeq + rs.length }

/-- REC_COUNT records of `width` bytes against REC_LEN (R39, R77). -/
def recordLengths (b : List Byte) (width : Nat) : Check :=
  failIf (decide (le b 48 8 < le b 36 4 * width)) .lenExceedsBuffer 36

/-- The checks that INDEX_INSERT and INDEX_DELETE share; the length of a record that depends on the index is checked among
them (R77). -/
def recordChecks (s : State) (f : Nat) (b : List Byte) (lengths : IndexCfg → Check) : Check :=
  withRef (ownIndex s f (le b 32 4)) 32 fun i => firstSome
    [stateRefusal i [.live, .settling], lengths i.cfg,
     failIf (decide (screeMax < i.scree.length + le b 36 4)) .screeFull]

/-- INDEX_INSERT (R76, R77, R180). -/
def execIndexInsert (f : Nat) (src : Src) (h : HostView) (r : HostRead (List Byte)) (s : State) : Res :=
  onMessage s f src 0x0403 notHeld fun s x =>
    let b := x.bytes
    let ih := le b 32 4
    let n := le b 36 4
    settleRead s x (le b 40 8) (le b 48 8) r (firstSome
      [addrCheck s h f false (le b 40 8) (le b 48 8) 40,
       recordChecks s f b fun c => recordLengths b (slotBytes c.codeBytes),
       withRef (indexOf s ih) 32 fun i =>
         failIf (decide (i.cfg.maxEntries < mainEntries i.lists + liveInserts i.scree + n)) .lenExceedsBuffer 36,
       readFailed r]) fun s =>
      match r, indexOf s ih with
      | .data d, some i =>
        settle s x (firstSome ((List.range n).map (insertCheck i.cfg d))) fun s =>
          let rs := (List.range n).map (insertRec i.cfg.codeBytes d)
          complete (updIndex s ih fun i => appendScree i rs) x.id .ok
      | _, _ => s

/-- Delete record `k` of an id list. -/
def deleteRec (codeBytes : Nat) (b : List Byte) (k : Nat) : ScreeRec :=
  { id := le b (8 * k) 8, list := 0xFFFFFFFF, bound := 0, del := true, code := List.replicate codeBytes 0, seq := 0 }

/-- INDEX_DELETE (R76, R77): its records have 8 bytes whatever the index, so their length is checked at step 6. A delete of an id that is not present is stored all the same. -/
def execIndexDelete (f : Nat) (src : Src) (h : HostView) (r : HostRead (List Byte)) (s : State) : Res :=
  onMessage s f src 0x0404 notHeld fun s x =>
    let b := x.bytes
    let ih := le b 32 4
    let n := le b 36 4
    settleRead s x (le b 40 8) (le b 48 8) r (firstSome
      [recordLengths b 8, addrCheck s h f false (le b 40 8) (le b 48 8) 40, recordChecks s f b fun _ => none,
       readFailed r]) fun s =>
      match r, indexOf s ih with
      | .data d, some i =>
        let bad (k : Nat) : Check := failStruct (le d (8 * k) 8 == noId) .fieldRange (8 * k) 40
        settle s x (firstSome ((List.range n).map bad)) fun s =>
          let rs := (List.range n).map (deleteRec i.cfg.codeBytes d)
          complete (updIndex s ih fun i => appendScree i rs) x.id .ok
      | _, _ => s

/-! ## Settling (R187, R188) -/

/-- What a fold makes of the lists and the scree, with the folded records and the lists it changed. -/
structure FoldRes where
  lists   : List IdxList
  kept    : List ScreeRec
  folded  : Nat
  changed : List Nat
  deriving DecidableEq, Repr

/-- The folded deletes applied to the lists. -/
def foldDeletes (dels : List ScreeRec) (ls : List IdxList) : List IdxList :=
  ls.map fun l => { l with entries := l.entries.filter fun e => !(dels.any fun d => d.id == e.id) }

/-- Appends one insert at the end of its list while that list is below its capacity, and keeps it otherwise. -/
def foldInsert (a : FoldRes) (r : ScreeRec) : FoldRes :=
  match a.lists[r.list]? with
  | some l =>
    if l.entries.length < l.capacity then
      let e : IdxEntry := { id := r.id, code := r.code, bound := r.bound }
      { a with
        lists := modifyAt a.lists r.list fun l => { l with entries := l.entries ++ [e] }
        folded := a.folded + 1, changed := r.list :: a.changed }
    else { a with kept := a.kept ++ [r] }
  | none => { a with kept := a.kept ++ [r] }

/-- The fold of every scree record with SEQ at most `p` (R187). -/
def fold (x : Index) (p : Nat) : FoldRes :=
  let rs := x.scree.filter fun r => decide (r.seq ≤ p)
  let dels := rs.filter ScreeRec.del
  let dropped (i : ScreeRec) : Bool := dels.any fun d => d.id == i.id && decide (i.seq < d.seq)
  let ins := rs.filter fun r => !r.del
  let gone := (ins.filter dropped).length
  let ls := foldDeletes dels x.lists
  let hit := (List.range x.lists.length).filter fun i =>
    (x.lists[i]?.map fun l => l.entries.length) != (ls[i]?.map fun l => l.entries.length)
  let start : FoldRes := { lists := ls, kept := [], folded := dels.length + gone, changed := hit }
  let live := sortBy (fun (a b : ScreeRec) => decide (a.seq < b.seq)) (ins.filter fun i => !dropped i)
  live.foldl foldInsert start

/-- The id runs of a list: consecutive ids join (R172). -/
def runsOf : List Nat → List (Nat × Nat)
  | [] => []
  | id :: ids => match runsOf ids with
    | (a, n) :: rest => if a = id + 1 then (id, n + 1) :: rest else (id, 1) :: (a, n) :: rest
    | [] => [(id, 1)]

/-- The runs of every list. -/
def runTable (ls : List IdxList) : List (List (Nat × Nat)) := ls.map fun l => runsOf (l.entries.map IdxEntry.id)

/-- The copy-on-write pages of a fold: its changed lists, the directory pages they touch, and the new run area. -/
def foldPages (x : Index) (r : FoldRes) : Nat :=
  let ls := r.changed.eraseDups
  let blocks := sumNat (ls.map fun i => listBlocks x.cfg.codeBytes ((x.lists[i]?.map IdxList.capacity).getD 0))
  let dirs := (ls.map fun i => i / 2048).eraseDups.length
  ceilDiv blocks 16 + dirs + ceilDiv (16 * sumNat ((runTable r.lists).map List.length)) 65536

/-- p of a settle: the largest committed SEQ whose fold fits the owner's free T2 quota (R187). -/
def settlePoint (s : State) (x : Index) : Nat :=
  let tops := sortBy (fun a b => decide (b < a)) (x.scree.map ScreeRec.seq)
  (tops.find? fun p => fitsQuota s x.owner 0 (foldPages x (fold x p))).getD 0

/-- RESULT of a settle: generation, records folded, records left (R78). -/
def settleResult (gen folded left : Nat) : List Byte := resultAt [(0, 8, gen), (8, 4, folded), (12, 4, left)]

/-- INDEX_SETTLE (R78, R187, R188). -/
def execIndexSettle (f : Nat) (src : Src) (s : State) : Res :=
  onMessage s f src 0x0405 notHeld fun s x =>
    let ih := le x.bytes 32 4
    settle s x (withRef (ownIndex s f ih) 32 fun i => stateRefusal i [.live]) fun s =>
      match indexOf s ih with
      | none => s
      | some i =>
        let p := settlePoint s i
        let r := fold i p
        if r.folded = 0 then complete s x.id .okNoChange 0xFFFF (settleResult i.gen 0 i.scree.length)
        else startBg (updIndex s ih fun i => { i with state := .settling }) x (.settle ih p) 0 (foldPages i r)

/-- The root swap of a settle (R188): generation G stays as the superseded one, and the kept inserts go to the tail of
the scree with their SEQs. -/
def swapRoot (x : Index) (p : Nat) : Index :=
  let r := fold x p
  let o : OldGen := { gen := x.gen, lists := x.lists, scree := x.scree, pages := foldPages x r }
  { x with
    state := .live, gen := x.gen + 1, lists := r.lists, old := some o
    scree := (x.scree.filter fun c => decide (p < c.seq)) ++ r.kept }

/-! ## Snapshots (R79, R190) -/

/-- The lists and the scree of a generation that an index still holds. -/
def genParts (x : Index) (g : Nat) : List IdxList × List ScreeRec :=
  match x.old with
  | some o => if o.gen = g then (o.lists, o.scree) else (x.lists, x.scree)
  | none => (x.lists, x.scree)

/-- The scree section of a snapshot with sequence bound `q`, in SEQ order. -/
def snapScree (rs : List ScreeRec) (q : Nat) : List ScreeRec :=
  sortBy (fun (a b : ScreeRec) => decide (a.seq < b.seq)) (rs.filter fun r => decide (r.seq ≤ q))

/-- A multiple of 4 KiB at or above `n`. -/
def align4k (n : Nat) : Nat := ceilDiv n 4096 * 4096

/-- The header of a snapshot's image. R190 fixes what the sections hold and R171 their order; that each begins at the first
4 KiB multiple after the one before it, that runs are as long as they can be, and that the blocks stand in list order is the
model's choice (log 146). -/
def snapHeader (x : Index) (ls : List IdxList) (rs : List ScreeRec) : IndexHeader :=
  let c := x.cfg
  let runs := sumNat ((runTable ls).map List.length)
  let blocks := sumNat (ls.map fun l => listBlocks c.codeBytes l.capacity)
  let cent := 135168
  let dir := align4k (cent + c.lists * 256)
  let run := align4k (dir + c.lists * 32)
  let blk := align4k (run + runs * 16)
  let scr := blk + blocks * 4096
  { magic := 0x58444951, imgVersion := 2, codeBytes := c.codeBytes, metric := c.metric, lists := c.lists,
    shard := c.shard, shardCount := c.shardCount, layoutId := (x.hdr.map IndexHeader.layoutId).getD 0,
    imageBytes := scr + rs.length * slotBytes c.codeBytes, mainEntries := mainEntries ls, listBlocks := blocks,
    runCount := runs, screeRecords := rs.length, centScale := x.centScale, codebookOff := 4096, centOff := cent,
    dirOff := dir, runOff := run, blockOff := blk, screeOff := scr, imageCrc := 0, reserved := none }

/-- The bytes of a header, with the image's CRC (R171). -/
def headerBytes (h : IndexHeader) (crc : Nat) : List Byte :=
  leBytes 4 h.magic ++ leBytes 2 h.imgVersion ++ leBytes 1 h.codeBytes ++ leBytes 1 h.metric ++ leBytes 4 h.lists ++
  leBytes 1 h.shard ++ leBytes 1 h.shardCount ++ zeros 2 ++ leBytes 8 h.layoutId ++ leBytes 8 h.imageBytes ++
  leBytes 8 h.mainEntries ++ leBytes 8 h.listBlocks ++ leBytes 8 h.runCount ++ leBytes 4 h.screeRecords ++
  leBytes 4 h.centScale.toNat ++ leBytes 8 h.codebookOff ++ leBytes 8 h.centOff ++ leBytes 8 h.dirOff ++
  leBytes 8 h.runOff ++ leBytes 8 h.blockOff ++ leBytes 8 h.screeOff ++ leBytes 4 crc ++ zeros 3980

/-- One block of list entries: the codes of entries 0 to E_B - 1, the bounds of the same entries, and zeros (R168). -/
def blockBytes (codeBytes : Nat) (es : List IdxEntry) : List Byte :=
  let codes := es.flatMap fun e => padTo 0 codeBytes (e.code.map (BitVec.ofNat 8))
  padTo 0 4096 (padTo 0 (blockEntries codeBytes * codeBytes) codes ++ es.map fun e => BitVec.ofNat 8 e.bound)

/-- The blocks of a list at its capacity. -/
def listBytes (codeBytes : Nat) (l : IdxList) : List Byte :=
  let eb := blockEntries codeBytes
  (List.range (listBlocks codeBytes l.capacity)).flatMap fun k => blockBytes codeBytes ((l.entries.drop (k * eb)).take eb)

/-- The directory entries of an image, with each list's first block and first run (R172). -/
def dirBytes (codeBytes : Nat) : Nat → Nat → List IdxList → List Byte
  | _, _, [] => []
  | blk, run, l :: ls =>
    let n := listBlocks codeBytes l.capacity
    let r := (runsOf (l.entries.map IdxEntry.id)).length
    leBytes 4 l.entries.length ++ leBytes 4 l.capacity ++ leBytes 8 (if l.capacity = 0 then 0 else blk) ++
    leBytes 8 (if r = 0 then 0 else run) ++ leBytes 4 r ++ zeros 4 ++ dirBytes codeBytes (blk + n) (run + r) ls

/-- The bytes of a scree slot (R180). -/
def screeBytes (codeBytes : Nat) (r : ScreeRec) : List Byte :=
  let b := leBytes 8 r.id ++ leBytes 4 r.list ++ leBytes 1 r.bound ++ leBytes 1 (if r.del then 2 else 1) ++ zeros 2 ++
    r.code.map (BitVec.ofNat 8) ++ leBytes 8 r.seq
  padTo 0 (slotBytes codeBytes) b

/-- The image of a snapshot (R190): generation `g` and the scree as seen under `q`. -/
def snapImage (x : Index) (g q : Nat) : List Byte :=
  let ls := (genParts x g).1
  let rs := snapScree (genParts x g).2 q
  let h := snapHeader x ls rs
  let cb := x.cfg.codeBytes
  let body := x.codebook.map (BitVec.ofNat 8)
  let body := padTo 4096 h.centOff body ++ (x.centroids.flatten.map fun v => BitVec.ofInt 8 v)
  let body := padTo 4096 h.dirOff body ++ dirBytes cb 0 0 ls
  let runs := (runTable ls).flatten.flatMap fun r => leBytes 8 r.1 ++ leBytes 4 r.2 ++ zeros 4
  let body := padTo 4096 h.runOff body ++ runs
  let body := padTo 4096 h.blockOff body ++ ls.flatMap (listBytes cb)
  let body := padTo 4096 h.screeOff body ++ rs.flatMap (screeBytes cb)
  headerBytes h (crc32c body).toNat ++ body

/-- The size of the image of a snapshot taken now. -/
def snapSize (x : Index) : Nat :=
  (snapHeader x x.lists (snapScree x.scree (x.nextSeq - 1))).imageBytes

/-- INDEX_SNAPSHOT (R79, R190). -/
def execIndexSnapshot (f : Nat) (src : Src) (h : HostView) (s : State) : Res :=
  onMessage s f src 0x0406 notHeld fun s x =>
    let b := x.bytes
    let ih := le b 32 4
    settle s x (firstSome
      [addrCheck s h f true (le b 40 8) (le b 48 8) 40,
       withRef (readIndex s f ih) 32 fun i => firstSome
         [failIf (decide (i.state = .unavailable)) .tierUnavailable, stateRefusal i [.live, .settling],
          failIf i.snapBusy .busy,
          failIf (decide (le b 48 8 < snapSize i)) .lenExceedsBuffer 48]]) fun s =>
      match indexOf s ih with
      | some i =>
        startBg (updIndex s ih fun i => { i with snapBusy := true }) x
          (.snapshot ih (le b 40 8) i.gen (i.nextSeq - 1) (snapSize i)) 0 0
      | none => s

/-! ## Removal and query (R80) -/

/-- Whether a shard reservation for a contract of another module names an index (R302). -/
def shardNames (s : State) (h : Nat) : Bool := s.strata.rsvs.any fun r => r.index == h

/-- INDEX_DESTROY (R80). -/
def execIndexDestroy (f : Nat) (src : Src) (s : State) : Res :=
  onMessage s f src 0x0407 notHeld fun s x =>
    let ih := le x.bytes 32 4
    settle s x (withRef (ownIndex s f ih) 32 fun i => firstSome
      [failIf (inUse s ih || shardNames s ih) .inUseByContract,
       failIf (decide (i.state = .settling) || i.snapBusy || i.bulkBusy) .busy]) fun s =>
      complete { s with indexes := s.indexes.filter fun i => i.handle != ih } x.id .ok

/-- RESULT of INDEX_QUERY (R80). -/
def indexInfo (i : Index) : List Byte :=
  resultAt [(0, 1, indexStateCode i.state), (4, 8, mainEntries i.lists), (12, 4, i.scree.length),
    (16, 4, (i.scree.filter ScreeRec.del).length), (20, 8, i.gen), (28, 4, i.segs)]

/-- INDEX_QUERY (R80). -/
def execIndexQuery (f : Nat) (src : Src) (s : State) : Res :=
  onMessage s f src 0x0408 notHeld fun s x =>
    match readIndex s f (le x.bytes 32 4) with
    | none => settle s x (failIf true .badReference 32) id
    | some i => complete s x.id .ok 0xFFFF (indexInfo i)

end Sys2Proof.Machine
end

