-- ==== Sys2Proof/Machine/HostServices.lean ====
section
/-! DEFINITION. What the firmware reads out and sets for the host: telemetry and accounts (R14, R93, R94, R126, R143, R289,
R309, R328), self-test results (R347), the power policy (R99 to R101, R324), the recorder (R102), firmware update (R103,
R104, R387) and measurements (R105, R378). -/

namespace Sys2Proof.Machine

/-! ## Bytes -/

/-- A response of `n` bytes with values at offsets: (offset, size, value). -/
def fieldsAt (n : Nat) (parts : List (Nat × Nat × Nat)) : List Byte :=
  parts.foldl (fun r p => putBytes r p.1 (leBytes p.2.1 p.2.2)) (zeros n)

/-- Consecutive 8-byte values from an offset. -/
def words8 (off : Nat) (vs : List Nat) : List (Nat × Nat × Nat) :=
  (List.range vs.length).zipWith (fun i v => (off + 8 * i, 8, v)) vs

/-- Consecutive 4-byte values from an offset. -/
def words4 (off : Nat) (vs : List Nat) : List (Nat × Nat × Nat) :=
  (List.range vs.length).zipWith (fun i v => (off + 4 * i, 4, v)) vs

/-! ## Set 1: the module (R14, R309) -/

/-- Bytes 0 to 255. -/
def modulePart (s : State) : List (Nat × Nat × Nat) :=
  let t := s.telem
  [(0, 1, stateCode s.boot.state), (1, 1, partCode s.ident.part), (2, 1, (s.parts.filter fun p => p.id != 0).length),
   (3, 1, fenceBits s 1 0 4 + 16 * fenceBits s 6 0 2)] ++
  words4 4 [s.contracts.length, s.cases.length, t.casesPeak] ++
  words8 16 [s.boot.endTs, s.boot.stateTs, t.accepted, t.doneOk, t.doneFallback, t.doneLate, t.faulted, t.cancelled,
    t.submitRefused, t.limitRefused] ++
  words4 96 t.stageTimeMax ++
  words8 136 [t.reruns, t.fences, t.safeHolds, t.energySum, t.bgCommitted, t.revocations]

/-- The block of a port (R309). -/
def portPart (off : Nat) (p : Port) : List (Nat × Nat × Nat) :=
  [(off, 1, p.st), (off + 1, 1, p.cable), (off + 2, 1, p.peerPos), (off + 3, 1, p.peerPort), (off + 4, 4, p.latNs)] ++
  words8 (off + 8) [p.peerId, p.flitsTx, p.flitsRx, p.retries, p.crcErrors]

/-- The stack block from offset 256 (R309). -/
def stackPart (s : State) : List (Nat × Nat × Nat) :=
  let k := s.strata.stack
  [(256, 1, k.shape), (257, 1, k.members.length), (258, 1, bit s.strata.time.locked), (259, 1, s.strata.time.bound),
   (260, 1, k.linksLost), (264, 8, k.epoch), (272, 8, s.ident.moduleId), (280, 4, k.routeGen)] ++
  (List.range 4).flatMap fun p => portPart (288 + 48 * p) (portOf s p)

/-- The 512 bytes of set 1. -/
def set1 (s : State) : List Byte := fieldsAt 512 (modulePart s ++ stackPart s)

/-! ## Set 2: a partition (R143) -/

/-- The cairns of a partition's range in a state. -/
def cairnsIn (s : State) (p : Partition) (st : CairnState) : Nat :=
  (s.cairns.filter fun c => inRange p c.num && decide (c.st = st)).length

/-- The cycles of a partition at a level, over all engines. -/
def levelCycles (s : State) (i level : Nat) : Nat :=
  sumNat ((s.sched.accounts.filter fun a => a.owner == i && a.level == level).map Account.whole)

/-- The 512 bytes of set 2, with the commands that run now charged up to now. -/
def set2 (s : State) (p : Partition) : List Byte :=
  let s := chargeAll s
  let t := p.stats
  let bgs := s.bg.filter fun b => b.owner == p.id && !isZeroing b.kind
  let oldest := match bgs.map BgOp.applyTs with
    | [] => 0
    | a :: as => as.foldl min a
  fieldsAt 512 ([(0, 1, p.id), (1, 1, if p.suspended then 2 else 1)] ++
    words4 4 [liveCases s p.id, t.casesPeak] ++
    words8 16 [t.quotaRefused, t.limitRefused, t.yields, t.kills, t.killedCycles, t.reruns, t.switches, t.switchTime] ++
    words4 80 [t.blockMax, cairnsIn s p .host, cairnsIn s p .stage, (s.waits.filter fun w => w.owner == p.id).length] ++
    words8 96 [t.signalsHost, t.signalsDevice, t.signalsRemote, t.waitTimeouts] ++
    words8 128 ((List.range 4).map (levelCycles s p.id)) ++ [(160, 4, bgs.length), (168, 8, oldest)])

/-! ## Set 3: a contract (R126) -/

/-- CSTATE's code. -/
def cstateCode : CState → Nat
  | .opened => 1
  | .closing => 2
  | .revoked => 3

/-- The 1,024 bytes of set 3. -/
def set3 (k : Contract) : List Byte :=
  let t := k.stats
  let cause := match k.revokeCause with
    | some c => statusCode c
    | none => 0
  fieldsAt 1024 ([(0, 4, k.handle), (4, 1, cstateCode k.state), (6, 2, cause)] ++
    words8 8 [t.accepted, t.arrivalRefused, t.doneOk, t.doneFallback, t.doneLate, t.faulted, t.cancelled, t.timeMax,
      t.timeSum, t.energySum] ++
    words8 88 t.fbCounts ++ words8 136 [t.t3Late, t.reruns] ++ t.histogram.map fun e => (512 + 8 * e.1, 8, e.2))

/-! ## Set 4: memory (R289) -/

/-- The usable pages of a tier (R261). -/
def usablePages (s : State) : Tier → Nat
  | .t1 => 983040
  | .t2 => t2Usable s.ident.part

/-- The pages that all partitions hold in a tier. -/
def allUsed (s : State) (t : Tier) : Nat :=
  sumNat (s.parts.map fun p => match t with
    | .t1 => (usedPages s p.id).1
    | .t2 => (usedPages s p.id).2)

/-- The POOL frames of a tier: assignable and held by nothing (R263). -/
def poolFrames (s : State) (t : Tier) : Nat := (tierOf s t).assignable - allUsed s t

/-- One bit for each channel of a list. -/
def channelBits (l : List Nat) : Nat := sumNat ((List.range 32).map fun i => 2 ^ i * bit (l.contains i))

/-- The 512 bytes of set 4. -/
def set4 (s : State) : List Byte :=
  let a := s.mem.t1
  let b := s.mem.t2
  fieldsAt 512
    (words4 0 [usablePages s .t1, usablePages s .t2, a.assignable, b.assignable, poolFrames s .t1, poolFrames s .t2,
      a.spares, b.spares, a.retired.length, b.retired.length, channelBits a.chFailed, channelBits b.chFailed] ++
    words8 48 [a.ce, b.ce, a.ue, b.ue, s.mem.rmwCe, s.mem.rmwUe, s.mem.poisonCleared, s.mem.poisonReads,
      s.mem.retrainCount, a.scrubPasses, b.scrubPasses, a.scrubLast, b.scrubLast] ++
    words4 152 [a.scrubPos, b.scrubPos] ++ words8 160 [s.mem.t0Ce, s.mem.t0Ue, s.mem.ceDropped] ++
    [(184, 1, bit b.accepts)] ++ words4 256 (a.chUe ++ b.chUe))

/-! ## Set 5: voltage minima (R328) -/

/-- The 16 bytes of a region. -/
def regionEntry (r : Region) : List Byte :=
  leBytes 2 r.minMv ++ leBytes 1 r.divAtMin ++
  leBytes 1 (bit r.derated + 2 * bit r.unmatched + 4 * bit r.growth + 8 * bit r.excluded) ++
  leBytes 4 r.stretches ++ leBytes 8 r.minTs

/-- The 1,024 bytes of set 5. -/
def set5 (s : State) : List Byte :=
  (List.range 64).flatMap fun i => regionEntry ((dieOf s (i / 16)).regions.getD (i % 16) Region.reset)

/-! ## Set 6: the objects of a partition (R93) -/

/-- One entry of set 6: its cursor, which is its place in the order, and its bytes. -/
structure ObjEntry where
  cursor : Nat
  bytes  : List Byte
  deriving DecidableEq, Repr

/-- An entry of set 6. -/
def objEntry (cursor id kind st pages count : Nat) : ObjEntry :=
  { cursor := cursor
    bytes := leBytes 4 id ++ leBytes 1 kind ++ leBytes 1 st ++ zeros 2 ++ leBytes 4 pages ++ leBytes 4 count }

/-- An entry of an object with a handle. -/
def handleEntry (h kind st : Nat) (pages : Nat × Nat) : ObjEntry := objEntry h h kind st (pages.1 + pages.2) 0

/-- The runs of consecutive cairns of one allocation, in a list in increasing order: first cairn and count. -/
def cairnBlocks : List CairnRec → List (Nat × Nat × Nat)
  | [] => []
  | c :: cs => match cairnBlocks cs with
    | (a, n, r) :: bs => if a = c.num + 1 ∧ r = c.run then (c.num, n + 1, r) :: bs else (c.num, 1, c.run) :: (a, n, r) :: bs
    | [] => [(c.num, 1, c.run)]

/-- The objects of partition `i` in the order of set 6. -/
def objectsOf (s : State) (i : Nat) : List ObjEntry :=
  let hs :=
    ((s.models.filter fun m => m.owner == i).map fun m => handleEntry m.handle 1 (bit m.unavailable) (modelPages m)) ++
    ((s.tables.filter fun t => t.owner == i).map fun t => handleEntry t.handle 2 (bit t.unavailable) (tablePages t, 0)) ++
    ((s.indexes.filter fun x => x.owner == i).map fun x => handleEntry x.handle 3 (indexStateCode x.state) (indexPages x)) ++
    ((s.pfxs.filter fun p => p.owner == i && !p.released).map fun p => handleEntry p.handle 4 (bit p.unavailable) (p.pages, 0)) ++
    ((s.contracts.filter fun k => k.owner == i).map fun k => handleEntry k.handle 5 (cstateCode k.state) (contractPages k))
  let mine (c : CairnRec) : Bool := decide (c.st = .host) && match partOf s i with
    | some p => inRange p c.num
    | none => false
  let cs := sortBy (fun a b => decide (a.num < b.num)) (s.cairns.filter mine)
  sortBy (fun a b => decide (a.cursor < b.cursor)) hs ++
    (cairnBlocks cs).map fun e => objEntry (e.1 + 2 ^ 32) e.1 6 0 0 e.2.1

/-- The page of set 6 that follows a cursor: its entries, all the objects, and the next cursor. -/
def set6Page (s : State) (i cursor : Nat) : List ObjEntry × Nat × Nat :=
  let all := objectsOf s i
  let after := if cursor = 0 then all else all.filter fun e => decide (cursor < e.cursor)
  let now := after.take 4096
  (now, all.length, if after.length ≤ 4096 then 0 else (now.getLast?.map ObjEntry.cursor).getD 0)

/-! ## TELEMETRY_READ and ACCOUNT_READ (R93, R94, R141) -/

/-- The bytes a set can take. -/
def setSize (set : Nat) : Nat := if set = 6 then 65536 else if set = 3 ∨ set = 5 then 1024 else 512

/-- The check of SUBJECT at step 9: the sender's own partition or contract, or for the PF any partition. -/
def subjectCheck (s : State) (f set subject : Nat) : Check :=
  match set with
  | 2 | 6 => ownPartCheck s f subject 36
  | 3 => failIf (!((contractOf s subject).any fun k => k.owner == f)) .badReference 36
  | _ => none

/-- TELEMETRY_READ (R93). -/
def execTelemetryRead (f : Nat) (src : Src) (h : HostView) (s : State) : Res :=
  onMessage s f src 0x0901 notHeld fun s x =>
    let set := le x.bytes 32 2
    let subject := le x.bytes 36 4
    settle s x (firstSome
      [failIf (decide (f ≠ 0) && (set == 1 || set == 4 || set == 5)) .pfOnly,
       respCheck s h f (setSize set) x.bytes,
       subjectCheck s f set subject]) fun s =>
      match set, partOf s subject, contractOf s subject with
      | 1, _, _ => respond s x (set1 s) []
      | 2, some p, _ => respond s x (set2 s p) []
      | 3, _, some k => respond s x (set3 k) []
      | 4, _, _ => respond s x (set4 s) []
      | 5, _, _ => respond s x (set5 s) []
      | 6, _, _ =>
        let (es, total, next) := set6Page s subject (le x.bytes 40 8)
        respond s x (es.flatMap ObjEntry.bytes) (resultAt [(0, 4, es.length), (4, 4, total), (8, 8, next)])
      | _, _, _ => s

/-- One entry of an ACCOUNT_READ response. -/
def accountEntry (a : Account) : List Byte :=
  leBytes 2 (unitCode a.unit) ++ leBytes 1 a.level ++ zeros 5 ++ leBytes 8 a.whole

/-- ACCOUNT_READ (R94, R142): every count reflects the apply time. -/
def execAccountRead (f : Nat) (src : Src) (h : HostView) (s : State) : Res :=
  onMessage s f src 0x0902 notHeld fun s x =>
    let i := namedPart f (byteAt x.bytes 32)
    settle s x (firstSome [respCheck s h f 8192 x.bytes, ownPartCheck s f i 32]) fun s =>
      let es := (chargeAll s).sched.accounts.filter fun a => a.owner == i
      respond s x (es.flatMap accountEntry) (resultAt [(0, 4, es.length)])

/-! ## SAFETY_SELFTEST_READ (R347) -/

/-- One entry of the self-test response. -/
def pointEntry (p : PointRec) : List Byte :=
  leBytes 2 p.det ++ leBytes 2 p.unit ++ leBytes 1 p.outcome ++ zeros 3 ++ leBytes 8 p.ts

/-- The header and the entries in sweep order. -/
def selftestBytes (s : State) : List Byte :=
  let y := s.safety
  fieldsAt 32 [(0, 2, 476), (8, 8, y.sweeps), (16, 8, y.sweepTs), (24, 4, y.latent)] ++ y.points.flatMap pointEntry

/-- SAFETY_SELFTEST_READ (R96, R347). -/
def execSafetySelftestRead (f : Nat) (src : Src) (h : HostView) (s : State) : Res :=
  onMessage s f src 0x0A01 notHeld fun s x =>
    settle s x (respCheck s h f 8192 x.bytes) fun s => respond s x (selftestBytes s) (resultAt [(0, 4, 476)])

/-! ## The power policy (R99 to R101, R324) -/

/-- A sum of powers in mW as a fraction: E µJ every INTERVAL TCLK is E · 120,000 ÷ INTERVAL (R115). -/
def addPower (a : Nat × Nat) (energy interval : Nat) : Nat × Nat :=
  (a.1 * interval + energy * 120000 * a.2, a.2 * interval)

/-- ΣP over contracts, as a fraction of mW. -/
def powerSum (ks : List Contract) : Nat × Nat :=
  ks.foldl (fun a k => addPower a k.energy k.rcd.terms.interval) (0, 1)

/-- Whether a fraction of mW exceeds a cap in W. -/
def overCap (standing : Nat) (p : Nat × Nat) (capW : Nat) : Bool := decide (standing * p.2 + p.1 > capW * 1000 * p.2)

/-- The contracts that are open, in the order of their handles. -/
def openContracts (s : State) : List Contract :=
  sortBy (fun a b => decide (a.handle < b.handle)) (s.contracts.filter isOpen)

/-- The policy in bytes 32 to 43 of a body. -/
def policyOf (b : List Byte) : Policy :=
  { minDiv := byteAt b 32, regMode := byteAt b 33, capW := byteAt b 34
    vceil := [le b 36 2, le b 38 2, le b 40 2, le b 42 2] }

/-- Bytes 32 to 43 of a policy. -/
def policyBytes (p : Policy) : List Byte :=
  leBytes 1 p.minDiv ++ leBytes 1 p.regMode ++ leBytes 1 p.capW ++ zeros 1 ++ p.vceil.flatMap (leBytes 2)

/-- The first open contract whose proof a policy would break: by a slower divider, by P_max, or by the sustained sum of
the contracts up to it (R100). -/
def brokenBy (p : Policy) (seen : List Contract) : List Contract → Option Contract
  | [] => none
  | k :: ks =>
    let sofar := seen ++ [k]
    if k.divider < p.minDiv ∨ pMaxW p.minDiv > p.capW ∨ overCap (standingMw p.vceil) (powerSum sofar) p.capW then some k
    else brokenBy p sofar ks

/-- A policy takes the place of the old one: the regulation mode of every die that has not reverted, and the dividers
and ceilings it asks for (R100, R324). -/
def applyPolicy (s : State) (p : Policy) : State :=
  let s := updPower s fun w =>
    { w with policy := p, dies := w.dies.map fun d => { d with loadline := p.regMode == 1 || d.reverted } }
  pursueAll ((List.range 4).foldl forceStep s)

/-- POWER_POLICY_SET (R99, R100, R324). -/
def execPowerPolicySet (f : Nat) (src : Src) (s : State) : Res :=
  onMessage s f src 0x0B01 notHeld fun s x =>
    let p := policyOf x.bytes
    let low (g : Nat) : Check := failIf (decide (p.vceil.getD g 0 < loadLineMv p.minDiv)) .fieldRange (36 + 2 * g)
    let broken := brokenBy p [] (openContracts s)
    let proof : Check := broken.map fun k =>
      { st := .policyBreaksProof, off := 0xFFFF, result := resultAt [(0, 4, k.handle)] }
    settle s x (firstSome [low 0, low 1, low 2, low 3, proof]) fun s => complete (applyPolicy s p) x.id .ok

/-- POWER_POLICY_GET (R100). -/
def execPowerPolicyGet (f : Nat) (src : Src) (s : State) : Res :=
  onMessage s f src 0x0B02 notHeld fun s x =>
    complete s x.id .ok 0xFFFF
      (policyBytes s.power.policy ++ (List.range 4).flatMap fun g => leBytes 1 (dieOf s g).div)

/-! ## AMBER_READ (R102, R367) -/

/-- The FROM_SEQ that continues a read. -/
def continueSeq (s : State) (region fromSeq : Nat) (rs : List (Nat × AmberRec)) : Nat :=
  let intact := (regionOf s.amber region).any fun r => decide (r.damaged = none)
  match rs.getLast? with
  | none => fromSeq
  | some e => if intact then e.1 + 1 else nextSeq s.amber

/-- AMBER_READ (R102). -/
def execAmberRead (f : Nat) (src : Src) (h : HostView) (s : State) : Res :=
  onMessage s f src 0x0C01 notHeld fun s x =>
    let b := x.bytes
    let region := byteAt b 32
    let n := le b 36 4
    let fromSeq := le b 40 8
    settle s x (respCheck s h f (n * 64) b) fun s =>
      let rs := readRecords s.amber region fromSeq n
      let bad := (rs.filter fun e => decide (e.2.damaged ≠ none)).length
      respond s x (rs.flatMap fun e => recordBytes e.2)
        (resultAt [(0, 4, rs.length), (4, 4, bad), (8, 8, continueSeq s region fromSeq rs),
                   (16, 8, oldestSeq s.amber region), (24, 1, bit s.amber.full)])

/-! ## Firmware update (R103, R104, R387) -/

/-- Whether an update message is being applied: the next one on the inactive slot waits (R42). -/
def updateHeld (s : State) (_ : List Byte) : Bool :=
  s.bg.any fun o => match o.kind with
    | .fwStage _ _ _ _ _ => true
    | .fwActivate _ _ => true
    | _ => false

/-- FW_STAGE (R103): the bytes are read, and their write runs as BACKGROUND work on the hub. FIRST starts a PF update (R387). -/
def execFwStage (f : Nat) (src : Src) (h : HostView) (r : HostRead (List Byte)) (flashOk : Bool) (s : State) : Res :=
  onMessage s f src 0x0D01 (updateHeld s) fun s x =>
    let b := x.bytes
    let off := le b 32 4
    let len := le b 36 4
    let first := bitOf (byteAt b 48) 0
    settleRead s x (le b 40 8) len r (firstSome
      [failIf (decide (16777216 < off + len)) .lenExceedsBuffer 36,
       addrCheck s h f false (le b 40 8) len 40,
       failIf s.boot.sbUpdate .updateInProgress,
       readFailed r]) fun s =>
      match r with
      | .data d =>
        let s' := updBoot s fun t => { t with pfUpdate := t.pfUpdate || first }
        addBg s' f (some x.id) (.fwStage off (readBytes d len) first (first && !s.boot.pfUpdate) flashOk) 0 0
      | _ => s

/-- The image of `len` bytes that the inactive slot holds. -/
def stagedImage (s : State) (len : Nat) : FwImage :=
  match s.boot.slots[inactiveSlot s]? with
  | some w => slotImage w len
  | none => readImage [] len

/-- The three checks of a staged image (R104). A slot that a flash failure has marked invalid holds no image. -/
def imageChecks (s : State) (slot : Nat) (img : FwImage) : Check :=
  let valid := match s.boot.slots[slot]? with
    | some t => t.valid
    | none => false
  firstSome
    [failIf (!img.parses || !valid) .badImage,
     failIf (!img.signatureOk) .signatureInvalid,
     failIf (decide (img.securityVersion < s.boot.floor)) .rollbackRefused]

/-- FW_ACTIVATE (R104): the image is what the first IMAGE_LEN bytes of the inactive slot hold. Its completion ends a PF
update. -/
def execFwActivate (f : Nat) (src : Src) (s : State) : Res :=
  onMessage s f src 0x0D02 (updateHeld s) fun s x =>
    let len := le x.bytes 32 4
    let img := stagedImage s len
    let c := firstSome [failIf s.boot.sbUpdate .updateInProgress, imageChecks s (inactiveSlot s) img]
    match c with
    | some r => reject (updBoot s fun t => { t with pfUpdate := false }) x r
    | none => addBg s f (some x.id) (.fwActivate len img) 0 0

/-- A write of the inactive slot, after an erase when `first`; a flash failure marks the slot invalid. -/
def writeSlot (s : State) (slot off : Nat) (data : List Byte) (first flashOk : Bool) : State :=
  updBoot s fun t => { t with slots := modifyAt t.slots slot fun w =>
    if flashOk then
      { image := none, imageLen := 16777216, valid := w.valid || first,
        written := (if first then [] else w.written) ++ [(off, data)] }
    else { w with image := none, valid := false } }

/-- The FLASH_FAULT record of a failed write of a slot (R375): which byte failed, and, with FIRST, whether at the erase or
at the program, is open. -/
def flashFailed (s : State) (slot off len : Nat) (first : Bool) : State :=
  let v := (Config.freeWord s.free).toNat
  let op := if first && v % 2 == 1 then 3 else 2
  record (bumpFree s) 0x1506 (leBytes 1 op ++ leBytes 4 (0x00010000 + 0x01000000 * slot + off + v / 2 % len))

/-- An image of the inactive slot is activated: TRIAL and TRIAL_SLOT in a new control block copy, and FW_ACTIVATED
(R387). -/
def activateImage (s : State) (len : Nat) (img : FwImage) : State :=
  let slot := inactiveSlot s
  let s := updBoot s fun t =>
    writeBcb { t with slots := modifyAt t.slots slot fun w => { w with image := some img, imageLen := len } }
      (bcbInUse t).active true slot
  record s 0x1507 (leBytes 1 slot ++ leBytes 4 img.version)

/-! ## ATTEST_MEASUREMENTS (R105, R378) -/

/-- What the boot ROM measures at an index of R378, as numbers: nothing that varies for the ROM itself; the booted slot's
bytes and facts; the key list; SECURITY_VERSION and the floor; the slot and TRIAL; the fused identity. -/
def measured (m : Measurements) : Nat → List Nat
  | 2 => [bit m.image.parses, bit m.image.signatureOk, m.image.securityVersion, m.image.version, m.image.fwMinor,
          m.image.fwBuild] ++ m.image.keyList ++ m.content.flatMap fun e => e.1 :: e.2.map BitVec.toNat
  | 3 => m.image.keyList
  | 4 => [m.image.securityVersion, m.floor]
  | 5 => [m.slot, bit m.trial]
  | 6 => [partCode m.part, m.moduleId]
  | _ => []

/-- An SPDM measurement block: its index, the DMTF specification, and the SHA-384 digest of what was measured. -/
def measurementBlock (m : Measurements) (index : Nat) : List Byte :=
  leBytes 1 index ++ leBytes 1 1 ++ leBytes 2 51 ++ leBytes 1 (if index = 1 then 0 else if index = 2 then 1 else 3) ++
  leBytes 2 48 ++ (List.range 48).map fun i => Config.digestByte index (measured m index) i

/-- The measured-boot log: the six blocks of what the boot ROM recorded at this boot (R378). -/
def measurementLog (s : State) : List Byte :=
  match s.boot.meas with
  | some m => (List.range 6).flatMap fun i => measurementBlock m (i + 1)
  | none => []

/-- ATTEST_MEASUREMENTS (R105): the measured-boot log, unsigned. -/
def execAttestMeasurements (f : Nat) (src : Src) (h : HostView) (s : State) : Res :=
  onMessage s f src 0x0D03 notHeld fun s x =>
    settle s x (respCheck s h f 8192 x.bytes) fun s => respond s x (measurementLog s) []

end Sys2Proof.Machine
end

