-- ==== Sys2Proof/Machine/CostModel.lean ====
section
/-! DEFINITION. The cost model (R109 to R115, R303, R321): the units a contract's work is placed on (R408), what each item of
work is charged, the worst cases it assumes, and the figures of a proof. Brieb schedules are not given: what they state of a
contract's stages is an operand (log 35). -/

namespace Sys2Proof.Machine

/-! ## The units of a proof (R408) -/

/-- The unfenced units of a kind, in index order. -/
def freeUnits (s : State) (kind : Nat) : List UnitId :=
  ((List.range (unitCount kind)).map fun i => ({ kind := kind, idx := i } : UnitId)).filter fun u => !isFenced s u

/-- All units of a kind. -/
def allUnits (kind : Nat) : List UnitId := (List.range (unitCount kind)).map fun i => { kind := kind, idx := i }

/-- The unfenced cores of Garnet `g`. -/
def dieCores (s : State) (g : Nat) : List Nat :=
  ((List.range 4).map fun i => 4 * g + i).filter fun c => !isFenced s { kind := 2, idx := c }

/-- Whether array `i` of a core is unfenced. -/
def arrayOn (s : State) (c i : Nat) : Bool := !isFenced s { kind := 3, idx := 4 * c + i }

/-- The unfenced arrays of a core. -/
def coreArrays (s : State) (c : Nat) : Nat := ((List.range 4).filter (arrayOn s c)).length

/-- The pairs of a core: arrays 0 and 1, and arrays 2 and 3 (R245). -/
def corePairs (s : State) (c : Nat) : Nat := bit (arrayOn s c 0 && arrayOn s c 1) + bit (arrayOn s c 2 && arrayOn s c 3)

/-- How many arrays, pairs, whole cores and vector units Garnet `g` can place work on. -/
def dieUnits (s : State) (g : Nat) : DieWork :=
  let cs := dieCores s g
  { split := sumNat (cs.map (coreArrays s)), pair := sumNat (cs.map (corePairs s)),
    gang := (cs.filter fun c => coreArrays s c == 4).length,
    vector := (cs.filter fun c => !isFenced s { kind := 4, idx := c }).length }

/-- The time of `w` ACLK of work spread over `n` units. -/
def spread (w n : Nat) : Nat := if w = 0 then 0 else ceilDiv w n

/-- The time of a Garnet's share on its placement: fewer units give proportionally more work to each of the rest (R408). A
pair-mode tile takes both arrays of a pair for its time (R110). -/
def dieTime (u w : DieWork) : Nat :=
  spread w.split u.split + spread w.pair u.pair + spread w.gang u.gang + spread w.vector u.vector

/-- Whether a Garnet's share can be placed (R408). -/
def dieHolds (u w : DieWork) : Bool :=
  decide (0 < u.vector) && (w.split == 0 || u.split != 0) && (w.pair == 0 || u.pair != 0) && (w.gang == 0 || u.gang != 0)

/-- The sampler that generation uses: that of the lowest Garnet whose sampler is not fenced. -/
def samplerUnits (s : State) (l : ContractLimits) : List UnitId :=
  if l.genMax = 0 ∧ l.fbGenMax = 0 then [] else (freeUnits s 5).take 1

/-- The state with every link of the stack up. -/
def allLinksUp (s : State) : State := updStack s fun t => { t with down := [] }

/-- The ports of this module on the routes of a stack contract to and from its shard modules; STACK_REROUTE takes the routes with
all links up (R301, R408). -/
def routePorts (s : State) (topology : Nat) (peers : List Nat) : List UnitId :=
  if topology = 0 then []
  else
    let ends := peers.flatMap (routeEnds (if topology = 2 then allLinksUp s else s))
    ((List.range 4).filter fun p => ends.contains (myPos s, p)).map fun p => { kind := 10, idx := p }

/-- The units on which a proof places the contract's work (R408); `peers` are the positions of its shard modules. -/
def proofUnits (s : State) (r : ContractRec) (peers : List Nat) : List UnitId :=
  allUnits 1 ++ freeUnits s 2 ++ freeUnits s 3 ++ freeUnits s 4 ++ samplerUnits s r.lim ++ allUnits 6 ++ freeUnits s 7 ++
  allUnits 8 ++ allUnits 9 ++ freeUnits s 11 ++ routePorts s r.terms.topology peers

/-! ## Placing models (R132, R134) -/

/-- The T0 residency of a Garnet in bytes: 9 MiB in each core and 12 MiB of its shared SRAM (R132). -/
def residencyBytes : Nat := (4 * 9 + 12) * 1024 * 1024

/-- The rest of a Garnet's T0 SRAM: a work area for each level in each core, and the staging area (R132). -/
def workAreasBytes : Nat := 4 * 4 * workAreaBytes

/-- The staging area: where DMA and page moves land, coarse-search centroid blocks and sampler input stand. -/
def stagingBytes : Nat := 4 * 1024 * 1024

/-- The footprint of a model. -/
def footprintOf (s : State) (h : Nat) : Nat := ((modelOf s h).map fun m => m.img.footprint).getD 0

/-- The residency that PINNED models take. -/
def pinnedBytes (s : State) : Nat := sumNat ((s.sched.placed.filter Placed.pinned).map fun p => footprintOf s p.model)

/-- Places one model, PINNED when its footprint fits the unpinned residency and SLICED otherwise (R134). -/
def placeModel (s : State) (h : Nat) : State :=
  if h = 0 ∨ s.sched.placed.any (fun p => p.model == h) then s
  else
    let pin := decide (pinnedBytes s + footprintOf s h ≤ residencyBytes)
    updSched s fun d => { d with placed := d.placed ++ [{ model := h, pinned := pin, resident := pin }] }

/-- The models of a record in its field order. -/
def modelRefs (k : ContractRefs) : List Nat := [k.encModel, k.rerankModel, k.genModel, k.draftModel, k.fbGenModel]

/-- The models of a record that are SLICED once it is open. -/
def slicedFor (s : State) (r : ContractRec) : List Nat :=
  (((modelRefs r.refs).foldl placeModel s).sched.placed.filter fun p => !p.pinned).map Placed.model

/-! ## Charges (R110, R113, R303, R321) -/

/-- ACLK work in TCLK at a divider, with the factor 20/17 of clock stretching (R110, R321): 32 ÷ `div` ACLK a TCLK. -/
def stretched (div aclk : Nat) : Nat := ceilDiv (aclk * div * 20) (32 * 17)

/-- The bytes that one slot of a frame moves across a tier: 15,360 on each of 32 channels, of whose pages each takes 2,048 a channel
(R113). -/
def slotTierBytes : Nat := 15360 * 32

/-- The frames that a transfer of `b` bytes takes at `k` slots, one for alignment included, in TCLK (R113). -/
def framesTclk (k b : Nat) : Nat := if b = 0 then 0 else (ceilDiv b (k * slotTierBytes) + 1) * 12000

/-- The charge of a transfer: its frames, and the slot that may be lent when it starts (R113, R114). -/
def transferTclk (k b : Nat) : Nat := if b = 0 then 0 else framesTclk k b + 120

/-- The encoding of the link at a signalling rate in 0.1 GT/s (R110). -/
def linkCode (rate : Nat) : Nat × Nat := if 80 ≤ rate then (128, 130) else (8, 10)

/-- The charge of `b` bytes over PCIe in TLPs of `p` bytes at the link as it trained (R110). -/
def dmaTclk (s : State) (p b : Nat) : Nat :=
  let e := linkCode s.pcie.rate
  if b = 0 then 0 else ceilDiv (b * 96 * (p + 24) * 10 * e.2) (s.pcie.width * s.pcie.rate * e.1 * p * 98)

/-- The flits of a message of `b` data bytes (R298). -/
def flitsOf (b : Nat) : Nat := 1 + ceilDiv (b - 224) 240

/-- The latency of a link in ns: this module's own as it measured it, and for a link between others, whose latency no message
carries, the largest of its own (log 149). -/
def linkNs (s : State) (e : Nat × Nat) : Nat :=
  if e.1 = myPos s then (portOf s e.2).latNs else maxNat (s.strata.ports.map Port.latNs)

/-- The charge of a Strata transfer over a route, with one retry, behind `queued` flits on each port of it, in TCLK (R303). -/
def strataTclk (s : State) (route : List (Nat × Nat)) (b queued : Nat) : Nat :=
  let ls := route.map (linkNs s)
  let tenths := (flitsOf b + queued * route.length) * 16 + 10 * (sumNat (ls.map fun l => l + 40) + maxNat (ls.map fun l => 2 * l + 250))
  if route = [] then 0 else ceilDiv (tenths * 12) 1000

/-! ## What the schedules state -/

/-- Work that issues nothing. -/
def Work.none : Work := { dies := [], sampler := 0, scan := 0, t1 := 0, t2 := 0, holds := 0, energy := [] }

/-- The schedule of a form of stage `i`. -/
def schedOf (w : Schedules) (i : Nat) (f : Form) : FormSched :=
  (w.forms.find? fun x => x.stage == i && decide (x.form = f)).getD
    { stage := i, form := f, fixed := Work.none, each := Work.none, token := Work.none, layer := 0, longest := 0 }

/-- A figure of a form's work for `n` items and tokens. -/
def total (x : FormSched) (n : Nat × Nat) (g : Work → Nat) : Nat := g x.fixed + n.1 * g x.each + n.2 * g x.token

/-- The share of Garnet `g` in a form's work. -/
def dieShare (x : FormSched) (n : Nat × Nat) (g : Nat) : DieWork :=
  let part (p : DieWork → Nat) : Nat := total x n fun k => ((k.dies[g]?).map p).getD 0
  { split := part DieWork.split, pair := part DieWork.pair, gang := part DieWork.gang, vector := part DieWork.vector }

/-- The engine time of a form in ACLK: the slowest Garnet, the scan engines and the sampler (R408). -/
def engineAclk (s : State) (x : FormSched) (n : Nat × Nat) : Nat :=
  maxNat ((List.range 4).map fun g => dieTime (dieUnits s g) (dieShare x n g)) +
  spread (total x n Work.scan) (freeUnits s 7).length + total x n Work.sampler

/-- The energy, in nJ, at the highest listed voltage up to `mv`, or at the lowest one (R115). -/
def energyAt (mv : Nat) (l : List (Nat × Nat)) : Nat :=
  let by' := sortBy (fun a b => decide (a.1 < b.1)) l
  (((by'.filter fun e => decide (e.1 ≤ mv)).getLast?.or by'.head?).map Prod.snd).getD 0

/-! ## The worst cases (R111) -/

/-- What rules fix of a form's charge, beside its schedule: the items and tokens it works on, its bytes in T1 and T2 and over
PCIe, the time it waits whatever happens, the engine acquisitions, and the invocations of models. -/
structure Charge where
  count  : Nat × Nat
  t1     : Nat
  t2     : Nat
  dmaIn  : Nat
  dmaOut : Nat
  wait   : Nat
  holds  : Nat
  models : List (Nat × Nat)
  deriving DecidableEq, Repr

/-- A charge of nothing beside the schedule, for `n` items and `m` tokens. -/
def Charge.of (n m : Nat) : Charge :=
  { count := (n, m), t1 := 0, t2 := 0, dmaIn := 0, dmaOut := 0, wait := 0, holds := 0, models := [] }

/-- The passages charged: RERANK_DEPTH, or CAND_C when re-rank is absent or in distance order. -/
def passagesCharged (r : ContractRec) : Nat :=
  if lastForm r .rerank = .full then r.lim.rerankDepth else r.lim.candC

/-- The bytes of the `n` largest lists of an index at their capacity: 4 KiB a block (R168). -/
def visitedBytes (x : Index) (n : Nat) : Nat :=
  let blocks := x.lists.map fun l => listBlocks x.cfg.codeBytes l.capacity
  4096 * sumNat ((sortBy (fun a b => decide (b < a)) blocks).take n)

/-- The bytes of the scree at its limit of 16,777,216 records (R183). -/
def screeFull (x : Index) : Nat := screeMax * slotBytes x.cfg.codeBytes

/-- Whether a form of passage fetch reads T3: the full one of PASSAGE_SRC 1, and the cache form that may not give identifiers for
its misses (R109, R200). -/
def readsT3 (r : ContractRec) (f : Form) : Bool :=
  r.lim.passageSrc == 1 && (decide (f = .full) || (decide (f = .cache) && hostDependent r))

/-- Whether a form of passage fetch reads the T2 passage cache. -/
def readsCache (r : ContractRec) (f : Form) : Bool := decide (f = .cache) || (decide (f = .full) && r.lim.passageSrc == 2)

/-- The charge of passage fetch (R109, R203): the store's answer at T3_BUDGET, or the passages' blocks in T2. -/
def fetchCharge (r : ContractRec) (f : Form) : Charge :=
  let n := passagesCharged r
  let tok := r.lim.passageTok
  { Charge.of n (n * tok) with
    t1 := if readsT3 r f || readsCache r f then 4 * n * tok else 0
    t2 := if readsCache r f then 4096 * n * ceilDiv (64 + 4 * tok) 4096 else 0
    wait := if readsT3 r f then r.lim.t3Budget else 0 }

/-- The charge of re-rank: its batches and pairs, or distance order (R206, R207). -/
def rerankCharge (r : ContractRec) (f : Form) : Charge :=
  let n := r.lim.rerankDepth
  match f with
  | .full =>
    let batches := ceilDiv n (max 1 r.tpl.rrBatch)
    { Charge.of batches (n * (3 + r.tpl.rrCaseTok + r.lim.passageTok)) with models := [(r.refs.rerankModel, batches)] }
  | _ => Charge.of n 0

/-- The charge of generation: a prefill of the whole context with the classifier head, and for each further token of GEN_MAX a
verify pass that accepts no draft token (R213, R219). -/
def generationCharge (r : ContractRec) (f : Form) : Charge :=
  let l := r.lim
  let run (h passes drafts : Nat) : Charge :=
    { Charge.of passes l.contextMax with
      models := (h, 1 + passes) :: if r.refs.draftModel = 0 ∨ drafts = 0 then [] else [(r.refs.draftModel, 1 + passes * drafts)] }
  match f with
  | .smallGen => run r.refs.fbGenModel (l.fbGenMax - 1) 0
  | .scoreHead => run r.refs.genModel 0 0
  | _ => run r.refs.genModel (l.genMax - 1) l.draftLen

/-- The charge of a form of stage `i`, in R10's numbers, for an index. -/
def chargeOf (r : ContractRec) (x : Index) (i : Nat) (f : Form) : Charge :=
  let pay := r.feat.payloadMax
  match i with
  | 1 => { Charge.of 1 pay with t1 := pay, dmaIn := 4096 + pay, holds := 1 }
  | 2 => Charge.of (sumNat (r.feat.bags.map BagSpec.bagMax)) pay
  | 3 =>
    let runs := if r.terms.caseType = 2 then r.feat.chunkMax + 1 else 1
    { Charge.of runs pay with models := [(r.refs.encModel, runs)] }
  | 4 => { Charge.of x.cfg.lists 0 with t1 := 260 * x.cfg.lists }
  | 5 =>
    { Charge.of r.lim.nprobe (x.cfg.shardCount * r.lim.candC) with
      t2 := visitedBytes x r.lim.nprobe + screeFull x, wait := r.lim.holdUs * 120 }
  | 6 => fetchCharge r f
  | 7 => rerankCharge r f
  | 8 => Charge.of (passagesCharged r) r.lim.contextMax
  | 9 => generationCharge r f
  | _ => { Charge.of 1 0 with dmaOut := resultNeed r.lim, holds := 1 }

/-! ## One contract to prove -/

/-- A contract as its proof sees it: its record, what the schedules state, the divider charged, its slots, and its shard modules'
answers. -/
structure Proving where
  rcd    : ContractRec
  scheds : Schedules
  div    : Nat
  k1     : Nat
  k2     : Nat
  shards : List ShardAck
  deriving DecidableEq, Repr

/-- The load that another open contract, or a shard reservation, puts before a case (R110, R111). -/
structure Load where
  level    : Nat
  burst    : Nat
  interval : Nat
  demand   : List Nat
  flits    : Nat
  deriving DecidableEq, Repr

/-- The bytes of a DISPATCH, of a SHARD_RESULT, and of the SIGNAL that goes with it (R192, R299). -/
def dispatchBytes (nprobe : Nat) : Nat := 284 + 4 * nprobe

/-- The bytes of a shard's result for `candC` candidates. -/
def shardResultBytes (candC : Nat) : Nat := 49 + 32 * candC

/-- The flits that a case of a stack contract sends and receives on the collective VC. -/
def collectiveFlits (r : ContractRec) : Nat :=
  if r.terms.topology = 0 then 0 else flitsOf (dispatchBytes r.lim.nprobe) + flitsOf (shardResultBytes r.lim.candC)

/-- The load of an open contract: its proven engine demand. -/
def loadOf (k : Contract) : Load :=
  { level := k.rcd.terms.level, burst := k.rcd.terms.burst, interval := k.rcd.terms.interval,
    demand := k.pf.stages.map StageFigures.demand, flits := collectiveFlits k.rcd }

/-- The load of a shard reservation: list scans alone. -/
def rsvLoad (r : ShardRsv) : Load :=
  { level := r.level, burst := r.burst, interval := r.interval, demand := [0, 0, 0, 0, r.demand],
    flits := flitsOf (shardResultBytes r.candC) }

/-- The loads on this module beside a contract. -/
def loadsBut (s : State) (h : Nat) : List Load :=
  ((s.contracts.filter fun k => isOpen k && k.handle != h).map loadOf) ++ s.strata.rsvs.map rsvLoad

/-- The arrivals of a load within a window: BURST at once, then one every INTERVAL (R111). -/
def arrivals (l : Load) (window : Nat) : Nat := l.burst + window / max 1 l.interval

/-- The arrivals of the loads that a test picks, each with a figure of it. -/
def arrivalSum (ls : List Load) (pick : Load → Bool) (window : Nat) (g : Load → Nat) : Nat :=
  sumNat ((ls.filter pick).map fun l => arrivals l window * g l)

/-- The engine demand of one case in a form of stage `i`: its engines, transfers and model switches (R110). A switch is charged at
every invocation of a SLICED model, with the wait for the pool (R135). -/
def stageDemand (s : State) (p : Proving) (x : Index) (sliced : List Nat) (i : Nat) (f : Form) : Nat :=
  let c := chargeOf p.rcd x i f
  let w := schedOf p.scheds i f
  let switch (e : Nat × Nat) : Nat :=
    if sliced.contains e.1 then e.2 * (framesTclk p.k1 (4 * footprintOf s e.1) + 120) else 0
  stretched p.div (engineAclk s w c.count) + dmaTclk s s.pcie.rcb c.dmaIn + dmaTclk s s.pcie.mps c.dmaOut +
  transferTclk p.k1 (c.t1 + total w c.count Work.t1) + transferTclk p.k2 (c.t2 + total w c.count Work.t2) +
  sumNat (c.models.map switch)

/-- The collective flits of the loads at the same or a higher level within the contract's deadline (R303). -/
def queuedFlits (t : ContractTerms) (ls : List Load) : Nat :=
  arrivalSum ls (fun l => decide (l.level ≤ t.level)) t.deadline Load.flits

/-- The time until the slowest shard module has a case's DISPATCH. -/
def dispatchTclk (s : State) (p : Proving) (ls : List Load) : Nat :=
  maxNat (p.shards.map fun a =>
    strataTclk s (routeLinks s a.pos 8 (myPos s)) (dispatchBytes p.rcd.lim.nprobe) (queuedFlits p.rcd.terms ls))

/-- The time of one case in a form of stage `i` with nothing before it: its demand, 120 TCLK of blocking for every engine
acquisition, the hold or T3_BUDGET it may wait, and at list scan the shards' DISPATCH and bounds (R109, R110, R302). -/
def stageService (s : State) (p : Proving) (x : Index) (sliced : List Nat) (ls : List Load) (i : Nat) (f : Form) : Nat :=
  let c := chargeOf p.rcd x i f
  let own := stageDemand s p x sliced i f + 120 * (c.holds + total (schedOf p.scheds i f) c.count Work.holds) + c.wait
  if i = 5 then max own (dispatchTclk s p ls + maxNat (p.shards.map ShardAck.bound)) else own

/-- The chain of forms of stage `i`. -/
def formsAt (r : ContractRec) (i : Nat) : List Form :=
  match i with
  | 6 => chainOf r .fetch
  | 7 => chainOf r .rerank
  | 9 => chainOf r .generation
  | _ => [.full]

/-- The last form of stage `i`, which the fallback-complete path runs (R109). -/
def lastAt (r : ContractRec) (i : Nat) : Form := (formsAt r i).getLast?.getD .full

/-- The longest killable command of stage `i`, in TCLK. -/
def killTclk (p : Proving) (i : Nat) : Nat :=
  stretched p.div (maxNat ((formsAt p.rcd i).map fun f => (schedOf p.scheds i f).longest))

/-- The stage that holds a contract's longest command: a rerun after each KILL is charged there. -/
def killStage (p : Proving) : Nat :=
  ((List.range 10).foldl (fun (best : Nat × Nat) j =>
    if best.2 < killTclk p (j + 1) then (j + 1, killTclk p (j + 1)) else best) (1, 0)).1

/-- Queueing and preemption at stage `i` (R110, R130), with `own` demand of a case: within its deadline every arrival of a contract at
the same or a higher level is served first, each as one whole demand, the contract's own others included; and a higher level preempts
with its demand (log 155). -/
def queueing (t : ContractTerms) (ls : List Load) (own i : Nat) : Nat :=
  let at' (l : Load) : Nat := l.demand.getD (i - 1) 0
  arrivalSum ls (fun l => decide (l.level ≤ t.level)) t.deadline at' + (t.burst - 1 + t.deadline / max 1 t.interval) * own +
  arrivalSum ls (fun l => decide (l.level < t.level)) t.deadline at'

/-- What KILL adds at stage `i`: each arrival of a higher level makes the contract's longest command run again (R110). -/
def killReruns (p : Proving) (ls : List Load) (i : Nat) : Nat :=
  let t := p.rcd.terms
  if t.preempt = 2 ∧ i = killStage p then
    arrivalSum ls (fun l => decide (l.level < t.level)) t.deadline fun _ => killTclk p i
  else 0

/-- The energy, in µJ, of a form of stage `i` at a voltage. -/
def formEnergy (r : ContractRec) (w : Schedules) (x : Index) (mv i : Nat) (f : Form) : Nat :=
  ceilDiv (total (schedOf w i f) (chargeOf r x i f).count fun k => energyAt mv k.energy) 1000

/-- The energy of the costliest form of stage `i` at the highest voltage that VCEIL allows, with the shards' at list scan (R115,
R302). -/
def stageEnergy (s : State) (p : Proving) (x : Index) (i : Nat) : Nat :=
  maxNat ((formsAt p.rcd i).map (formEnergy p.rcd p.scheds x (maxNat s.power.policy.vceil) i)) +
  (if i = 5 then sumNat (p.shards.map ShardAck.energy) else 0)

/-- The figures of stage `i` (R118): the last form of its chain, with queueing, and the full one for reference. -/
def stageFigures (s : State) (p : Proving) (x : Index) (sliced : List Nat) (ls : List Load) (i : Nat) : StageFigures :=
  let f := lastAt p.rcd i
  let d := stageDemand s p x sliced i f
  let q := queueing p.rcd.terms ls d i + killReruns p ls i
  { bFb := stageService s p x sliced ls i f + q
    bFull := stageService s p x sliced ls i ((formsAt p.rcd i).headD .full) + q
    queue := q, energy := stageEnergy s p x i, demand := d }

/-- The reserved slack: for each stage one prefetch of the largest layer of its form (R110). -/
def slackOf (p : Proving) : Nat :=
  sumNat ((List.range 10).map fun j => transferTclk p.k1 (schedOf p.scheds (j + 1) (lastAt p.rcd (j + 1))).layer)

/-! ## Pages (R216, R255, R267, R273) -/

/-- The pages of one fp32 shadow of an open page (R255). -/
def shadowPages : Nat → Nat
  | 0 => 0
  | 1 => 4
  | _ => 8

/-- The blocks of 256 positions of a case that can be open at once: the one at its committed length, and the one after it that
speculative positions may open (log 150). -/
def openBlocks (l : ContractLimits) : Nat := if l.draftLen = 0 then 1 else 2

/-- The KV pages and shadows of one case on a generator model: the largest prompt, the tokens it may generate and DRAFT_LEN
speculative positions (R216). -/
def caseKvPages (r : ContractRec) (o : RecObjs) (i : ModelImage) : Nat :=
  kvPages i.shape r.lim.kvFormat (contextNeed r o + r.lim.draftLen) +
  shadowPages r.lim.kvFormat * kvPages i.shape r.lim.kvFormat (256 * openBlocks r.lim)

/-- The stream window of a model at its stage (R273). -/
def streamPages (s : State) (w : Schedules) (h i : Nat) : Nat :=
  match modelOf s h with
  | some m =>
    if m.home = .t2 ∧ !m.pinned then
      (m.img.lookahead + 1) * pagesOf (maxNat ((w.forms.filter fun x => x.stage == i).map FormSched.layer))
    else 0
  | none => 0

/-- The T1 pages of one live case: its payload, its KV pages and shadows on each generator, and a stream window for each model
(R154, R216, R255, R273). -/
def casePages (s : State) (r : ContractRec) (w : Schedules) : Nat :=
  match objsOf s r with
  | none => 0
  | some o =>
    pagesOf r.feat.payloadMax + sumNat (([o.gen] ++ o.draft.toList ++ o.fb.toList).map (caseKvPages r o)) +
    streamPages s w r.refs.encModel 3 + streamPages s w r.refs.rerankModel 7 +
    sumNat ([r.refs.genModel, r.refs.draftModel, r.refs.fbGenModel].map fun h => streamPages s w h 9)

/-- The stage cairns of a contract (R145): one for each case that can be live at once. -/
def cairnCount (t : ContractTerms) (bound : Nat) : Nat := ceilDiv bound t.interval + t.burst

/-! ## The figures of a proof -/

/-- Whether a contract's work can be placed (R408): each Garnet's share of every form, and no other kind of unit that the work needs
is fenced away. A tier that it moves bytes in takes at least one slot. -/
def canPlace (s : State) (p : Proving) (x : Index) : Bool :=
  let r := p.rcd
  let holds (j : Nat) : Bool := (formsAt r (j + 1)).all fun f => (List.range 4).all fun g =>
    dieHolds (dieUnits s g) (dieShare (schedOf p.scheds (j + 1) f) (chargeOf r x (j + 1) f).count g)
  (List.range 10).all holds && decide (0 < p.k1) && decide (0 < p.k2) && (freeUnits s 6).length == 2 &&
  !(freeUnits s 7).isEmpty && !(freeUnits s 11).isEmpty && (freeUnits s 8).length == 32 &&
  (freeUnits s 9).length == 32 && ((r.lim.genMax == 0 && r.lim.fbGenMax == 0) || !(freeUnits s 5).isEmpty)

/-- The figures of a contract under the loads beside it. -/
def figuresOf (s : State) (p : Proving) (ls : List Load) : ProofFigures :=
  match indexOf s p.rcd.refs.index with
  | none =>
    { placeable := false, bound := 0, slack := 0, stages := [], t1Slots := 0, t2Slots := 0, t1Pages := 0, t2Pages := 0,
      rerouteOk := false }
  | some x =>
    let sliced := slicedFor s p.rcd
    let st := (List.range 10).map fun j => stageFigures s p x sliced ls (j + 1)
    let bound := sumNat (st.map StageFigures.bFb) + slackOf p
    { placeable := canPlace s p x, bound := bound, slack := slackOf p, stages := st, t1Slots := p.k1, t2Slots := p.k2,
      t1Pages := cairnCount p.rcd.terms bound * casePages s p.rcd p.scheds, t2Pages := 0, rerouteOk := false }

/-- The links of the shape, each by its lower end. -/
def shapeLinks (s : State) : List (Nat × Nat) :=
  (positions s).flatMap fun q => (neighbours s q).map fun e => (q, e.1)

/-- Whether the bound also holds with any one link of the shape removed (R303). -/
def reroutes (s : State) (p : Proving) (ls : List Load) : Bool :=
  (shapeLinks s).all fun l =>
    decide ((figuresOf (updStack s fun t => { t with down := t.down ++ [l] }) p ls).bound ≤ p.rcd.terms.deadline)

/-- The partition's unreserved slots in T1 and T2 (R112, R114). -/
def slotsLeft (s : State) (f : Nat) : Nat × Nat :=
  let share := ((partOf s f).map fun q => (slotsOf q.cfg.t1Bw, slotsOf q.cfg.t2Bw)).getD (0, 0)
  let held := slotsReserved s f
  (share.1 - held.1, share.2 - held.2)

/-- The fewest of 1 to `n` slots that pass a test, or all of them. -/
def fewest (n : Nat) (ok : Nat → Bool) : Nat := (((List.range n).map (· + 1)).find? ok).getD n

/-- The slots of a contract (R114): the fewest of T1 with which the bound meets DEADLINE given every slot of T2, and then the fewest
of T2 (log 151). -/
def chooseSlots (s : State) (f : Nat) (p : Proving) (ls : List Load) : Proving :=
  let n := slotsLeft s f
  let ok (k1 k2 : Nat) : Bool := decide ((figuresOf s { p with k1 := k1, k2 := k2 } ls).bound ≤ p.rcd.terms.deadline)
  let k1 := fewest n.1 fun k => ok k n.2
  { p with k1 := k1, k2 := fewest n.2 (ok k1) }

/-- The figures with which partition `f` opens a contract. -/
def openFigures (s : State) (f : Nat) (r : ContractRec) (w : Schedules) (shards : List ShardAck) : ProofFigures :=
  let ls := loadsBut s 0
  let p := chooseSlots s f { rcd := r, scheds := w, div := s.power.policy.minDiv, k1 := 0, k2 := 0, shards := shards } ls
  { figuresOf s p ls with rerouteOk := r.terms.topology == 2 && reroutes s p ls }

/-- The figures of an open contract proven again, beside `extra` load: at the divider it was charged, with what it has reserved. -/
def reproofFigures (s : State) (k : Contract) (extra : List Load) : ProofFigures :=
  let p : Proving :=
    { rcd := k.rcd, scheds := k.scheds, div := k.divider, k1 := k.pf.t1Slots, k2 := k.pf.t2Slots, shards := k.shards }
  { figuresOf s p (loadsBut s k.handle ++ extra) with t1Pages := k.pf.t1Pages, rerouteOk := k.pf.rerouteOk }

/-- E: the sum over the stages of the costliest form of each (R115). -/
def energyOf (pf : ProofFigures) : Nat := sumNat (pf.stages.map StageFigures.energy)

end Sys2Proof.Machine
end

