-- ==== Sys2Proof/Machine/Contracts.lean ====
section
/-! DEFINITION. Opening, querying and closing contracts (R83 to R86): the proof (R108 to R118), the placement of models (R134),
arrival policing (R119, R120, R166) and the re-proof of R392. -/

namespace Sys2Proof.Machine

/-! ## The proof (R109 to R118) -/

/-- What a proof found: REASON, BOUND, ENERGY, and the contract that a cascade would break. -/
structure Proof where
  reason : Nat
  bound  : Nat
  energy : Nat
  broken : Nat
  deriving DecidableEq, Repr

/-- The all-ones BOUND and ENERGY: no bound could be formed (R117). -/
def noBound : Nat := 2 ^ 64 - 1

/-- The all-ones ENERGY. -/
def noEnergy : Nat := 2 ^ 32 - 1

/-- Whether a link of the shape, taken away, would leave some pair of positions without a path (REASON 1). -/
def singlePath (s : State) (qs : List Nat) : Bool :=
  let pairs := qs.flatMap fun a => (qs.filter fun b => decide (a < b)).map fun b => (a, b)
  pairs.any fun e => (hops s e.1 e.2).isSome && (shapeLinks s).any fun l =>
    (hops (updStack s fun t => { t with down := t.down ++ [l] }) e.1 e.2).isNone

/-- Why a stack contract is refused before its shard modules are asked, or 0: the shape (REASON 1), or a stack that is not formed,
has too few members, or has no time lock (REASON 2, R191, R302). -/
def shapeReason (s : State) (r : ContractRec) : Nat :=
  let count := ((indexOf s r.refs.index).map fun x => x.cfg.shardCount).getD 0
  if r.terms.topology = 0 then 0
  else if r.terms.topology = 2 ∧ singlePath s (positions s) then 1
  else if s.strata.stack.shape = 0 ∨ s.strata.stack.members.length < count ∨ !s.strata.time.locked then 2
  else 0

/-- Whether the shards that answered are distinct and, with this module's own, all of an index's (R191). -/
def shardsCover (s : State) (r : ContractRec) (shards : List ShardAck) : Bool :=
  match indexOf s r.refs.index with
  | none => false
  | some x =>
    let held := x.cfg.shard :: shards.map ShardAck.shard
    r.terms.topology == 0 || (held.length == x.cfg.shardCount && (List.range x.cfg.shardCount).all held.contains)

/-- ΣP in mW over the open contracts and a new one, as a fraction (R115). -/
def sustained (s : State) (energy interval : Nat) : Nat × Nat := addPower (powerSum (s.contracts.filter isOpen)) energy interval

/-- The load of a contract that is being opened. -/
def newLoad (r : ContractRec) (pf : ProofFigures) : Load :=
  { level := r.terms.level, burst := r.terms.burst, interval := r.terms.interval,
    demand := pf.stages.map StageFigures.demand, flits := collectiveFlits r }

/-- The contracts whose bounds a new one's demand may change: those at its level or a lower one, in handle order (R110, R116). -/
def cascaded (s : State) (level : Nat) : List Contract :=
  (openContracts s).filter fun k => decide (level ≤ k.rcd.terms.level)

/-- The contract that a cascade would break, if any (REASON 7). -/
def brokenReproof (s : State) (r : ContractRec) (pf : ProofFigures) : Option Contract :=
  (cascaded s r.terms.level).find? fun k => decide (k.rcd.terms.deadline < (reproofFigures s k [newLoad r pf]).bound)

/-- Proves a contract with figures `pf` for partition `f` in the order of the reason codes (R116), with what its shard modules
answered. -/
def prove (s : State) (f : Nat) (r : ContractRec) (pf : ProofFigures) (shards : List ShardAck) : Proof :=
  let t := r.terms
  let p := s.power.policy
  let e := energyOf pf
  let quota := ((partOf s f).map fun p => p.cfg.caseQuota).getD 0
  let no (reason : Nat) : Proof := { reason := reason, bound := noBound, energy := noEnergy, broken := 0 }
  let got (reason : Nat) : Proof := { reason := reason, bound := pf.bound, energy := e, broken := 0 }
  if shapeReason s r ≠ 0 then no (shapeReason s r)
  else if !shardsCover s r shards then no 2
  else if !pf.placeable then no 3
  else if pf.bound > t.deadline ∨ t.burst > quota ∨ (t.topology = 2 ∧ !pf.rerouteOk) then got 3
  else if e > t.energyUj then got 4
  else if pMaxW p.minDiv > p.capW then got 5
  else if overCap (standingMw p.vceil) (sustained s e t.interval) p.capW then got 6
  else match brokenReproof s r pf with
    | some k => { got 7 with broken := k.handle }
    | none => got 0

/-- A quotient in a 4-byte field; an inexact one is rounded down or up, which of the two is not stated. -/
def roundedMw (q : Nat × Nat) (v : Nat) : Nat :=
  q.1 / q.2 + (if q.1 % q.2 = 0 then 0 else (Config.freeWord v).toNat % 2)

/-- FB_FORM of a stage (R118). -/
def stageForm (r : ContractRec) (i : Nat) : Nat :=
  match i with
  | 5 => formCode (lastForm r .fetch)
  | 6 => formCode (lastForm r .rerank)
  | 8 => formCode (lastForm r .generation)
  | _ => 1

/-- The ten stage entries of the summary. -/
def stageFields (r : ContractRec) (pf : ProofFigures) : List (Nat × Nat × Nat) :=
  (List.range 10).flatMap fun i =>
    let o := 128 + 32 * i
    let g := pf.stages.getD i { bFb := 0, bFull := 0, queue := 0, energy := 0, demand := 0 }
    [(o, 1, i + 1), (o + 1, 1, stageForm r i), (o + 4, 4, g.bFb), (o + 8, 4, g.bFull), (o + 12, 4, g.queue),
     (o + 16, 4, g.energy)]

/-- The 448-byte proof summary (R118) with the stage cairns reserved; `q` is the sustained sum and `v` the number of a free value.
A refusal without a bound has all-ones in BOUND and ENERGY and 0 in CAIRNS; the values that need no bound, the stages' charges, the
slots and pages tried, SLACK and a SUSTAINED_MW with E, are written as they were computed (log 152). -/
def summaryBytes (s : State) (r : ContractRec) (pf : ProofFigures) (p : Proof) (divider cairns : Nat) (q : Nat × Nat) (v : Nat) :
    List Byte :=
  let w := s.power.policy
  let standing := standingMw w.vceil
  let total := roundedMw (q.1 + standing * q.2, q.2) v
  fieldsAt 448 <|
    [(0, 2, 448), (2, 2, p.reason), (4, 1, divider),
     (5, 1, bit (hostDependent r) + 2 * bit (r.terms.topology == 2 && pf.rerouteOk)), (8, 8, p.bound),
     (16, 8, r.terms.deadline), (24, 4, p.energy), (28, 4, pf.slack), (32, 4, standing), (36, 4, total),
     (40, 4, pMaxW divider * 1000), (44, 4, w.capW * 1000), (48, 4, p.broken), (52, 2, pf.t1Slots), (54, 2, pf.t2Slots),
     (56, 4, pf.t1Pages), (60, 4, pf.t2Pages), (64, 4, cairns),
     (68, 4, resultNeed r.lim)] ++ stageFields r pf

/-- RESULT of CONTRACT_OPEN and CONTRACT_QUERY_PROOF (R83). -/
def proofResult (handle divider : Nat) (p : Proof) : List Byte :=
  resultAt [(0, 4, handle), (4, 2, p.reason), (6, 1, divider), (8, 8, p.bound), (16, 4, p.energy)]

/-! ## R84 step 7: quotas -/

/-- The FREE cairns of a partition's range from the lowest up, at most `n` of them, looking at `fuel` cairns from `a`. -/
def lowestFree (s : State) : Nat → Nat → Nat → List Nat
  | 0, _, _ => []
  | _ + 1, _, 0 => []
  | fuel + 1, a, n + 1 =>
    if (cairnOf s a).isSome then lowestFree s fuel (a + 1) (n + 1) else a :: lowestFree s fuel (a + 1) n

/-- The stage cairns that a contract of partition `f` would take. -/
def stageCairnsFor (s : State) (f n : Nat) : List Nat :=
  match partOf s f with
  | some p => lowestFree s p.cfg.cairnCount p.cfg.cairnFirst n
  | none => []

/-- Step 7: pages, channel slots and cairns, and a T2 that accepts no allocation (R267, R114, R145, R287). -/
def quotaCheck (s : State) (f : Nat) (r : ContractRec) (pf : ProofFigures) : Check :=
  let share := ((partOf s f).map fun p => (slotsOf p.cfg.t1Bw, slotsOf p.cfg.t2Bw)).getD (0, 0)
  let held := slotsReserved s f
  let n := cairnCount r.terms pf.bound
  if !pf.placeable then none
  else firstSome
    [failIf (!fitsQuota s f pf.t1Pages pf.t2Pages) .quotaPages,
     failIf (decide (share.1 < held.1 + pf.t1Slots ∨ share.2 < held.2 + pf.t2Slots)) .quotaBandwidth,
     failIf (decide ((stageCairnsFor s f n).length < n)) .cairnExhausted,
     tierOpen s pf.t2Pages]

/-! ## Admission (R84, R134) -/

/-- Counters of a contract that has just opened. -/
def ContractStats.zero : ContractStats :=
  { accepted := 0, arrivalRefused := 0, doneOk := 0, doneFallback := 0, doneLate := 0, faulted := 0, cancelled := 0,
    timeMax := 0, timeSum := 0, energySum := 0, fbCounts := List.replicate 6 0, t3Late := 0, reruns := 0, histogram := [] }

/-- The contract that a record opens (R119, R134, R145, R166): its bucket is full, and its epoch is the last edge's. -/
def newContract (s : State) (f h : Nat) (r : ContractRec) (w : Schedules) (pf : ProofFigures) (shards : List ShardAck) : Contract :=
  let pinnedT1 (m : Nat) : Bool := (modelOf s m).any fun m => m.pinned
  { handle := h, owner := f, rcd := r, scheds := w, pf := pf, energy := energyOf pf, divider := s.power.policy.minDiv,
    state := .opened, revokeCause := none, ended := none, closes := [],
    arrival := { tokens := List.replicate r.terms.burst 0, epoch := s.pins.lastEdge, pendingEpoch := none, used := [],
                 openFrom := 0 },
    stageCairns := stageCairnsFor s f (cairnCount r.terms pf.bound), resident := (modelRefs r.refs).filter pinnedT1,
    units := proofUnits s r (shards.map ShardAck.pos), linkRate := s.pcie.rate, linkWidth := s.pcie.width, linksLost := 0,
    shards := shards, stats := ContractStats.zero }

/-- An open contract with the figures of a re-proof. -/
def reproven (k : Contract) (q : ProofFigures) : Contract := { k with energy := energyOf q, pf := q }

/-- A stage cairn that a contract has just reserved (R145). -/
def stageCairn (s : State) (n : Nat) : CairnRec := { num := n, st := .stage, val := 0, copy := 0, run := s.nextRun }

/-- Reserves more stage cairns for a contract whose bound has risen, as far as its partition has FREE ones (R145, log 154). -/
def extendCairns (s : State) (h : Nat) : State :=
  match contractOf s h with
  | none => s
  | some k =>
    let more := stageCairnsFor s k.owner (cairnCount k.rcd.terms k.pf.bound - k.stageCairns.length)
    let s := { s with cairns := s.cairns ++ more.map (stageCairn s), nextRun := s.nextRun + 1 }
    updContract s h fun k => { k with stageCairns := k.stageCairns ++ more }

/-- The bounds that a new contract gives to open ones at its level or a lower one (R116). -/
def applyReproofs (s : State) (level : Nat) (l : Load) : State :=
  let ks := cascaded s level
  ks.foldl (fun t k => extendCairns (updContract t k.handle fun x => reproven x (reproofFigures s k [l])) k.handle) s

/-- Opens a contract: its cairns, pages and slots are reserved, its models placed, and the module serves (R84). -/
def admitContract (s : State) (f h : Nat) (r : ContractRec) (w : Schedules) (pf : ProofFigures) (shards : List ShardAck) : State :=
  let k := newContract s f h r w pf shards
  let t := { s with
    cairns := s.cairns ++ k.stageCairns.map (stageCairn s)
    nextRun := s.nextRun + 1 }
  let t := applyReproofs t r.terms.level (newLoad r pf)
  settleState ((modelRefs r.refs).foldl placeModel { t with contracts := t.contracts ++ [k] })

/-! ## CONTRACT_OPEN (R83, R84, R302, R382) -/

/-- Whether every unfenced Garnet runs with its cores ready. -/
def diesAwake (s : State) : Bool :=
  (List.range 4).all fun g => isFenced s { kind := 1, idx := g } ||
    ((dieOf s g).aclkOn && (dieOf s g).cores.all fun c => match c with | .waking _ => false | _ => true)

/-- Writes the summary and completes a CONTRACT_OPEN (R84, R117); the frames of a contract that opens are zeroed first (R264). -/
def answerOpen (s : State) (id f addr handle : Nat) (st : Status) (r : ContractRec) (pf : ProofFigures) (p : Proof)
    (q : Nat × Nat) : State :=
  let d := s.power.policy.minDiv
  let cairns := if p.bound = noBound then 0 else cairnCount r.terms p.bound
  let b := summaryBytes s r pf p d cairns q s.free
  let addr := if s.msgs.any fun m => m.id == id then addr else 0
  let pages := if handle = 0 then 0 else pf.t1Pages + pf.t2Pages
  zeroThen (bumpFree s) f id handle pages addr st b (proofResult handle d p)

/-- The address of a started message's response, 0 when a mailbox reset has discarded it. -/
def respAddrOf (s : State) (id : Nat) : Nat := ((s.msgs.find? fun m => m.id == id).map OpenMsg.respAddr).getD 0

/-- The answers of the shard modules that reserved. -/
def reserved (acks : List ShardAck) : List ShardAck := acks.filter fun a => a.status == 0

/-- Ends a CONTRACT_OPEN whose shard modules, if any, have answered: it is refused, or a dry run, or admitted, or it waits for
the dies it wakes. What shards reserved is released when nothing opens. An object that became UNAVAILABLE meanwhile refuses it. -/
def concludeOpen (s : State) (po : PendOpen) : State :=
  let r := po.rcd
  let shards := reserved po.acks
  let pf := openFigures s po.f r po.scheds shards
  let p := prove s po.f r pf shards
  let addr := respAddrOf s po.msg
  let q := sustained s (energyOf pf) r.terms.interval
  let drop (s : State) : State := { s with strata := { s.strata with opens := s.strata.opens.filter fun o => o.msg != po.msg } }
  let release (s : State) : State := sendRelease (drop s) po.handle (shards.map ShardAck.pos)
  match firstSome [refsCheck s po.f r, quotaCheck s po.f r pf] with
  | some e => complete (release s) po.msg e.st
  | none =>
    if p.reason ≠ 0 then answerOpen (release s) po.msg po.f addr 0 .contractInfeasible r pf p q
    else if po.dry then answerOpen (release s) po.msg po.f addr 0 .ok r pf p q
    else if !diesAwake s then
      let s := wakeDies (drop s)
      { s with strata := { s.strata with opens := s.strata.opens ++ [{ po with waking := true, shards := [] }] } }
    else
      let s := drop s
      let s := if po.handle = 0 then newHandle s else s
      let h := if po.handle = 0 then s.nextHandle - 1 else po.handle
      answerOpen (admitContract s po.f h r po.scheds pf shards) po.msg po.f addr h .ok r pf p q

/-- The data of RESERVE: contract, partition, the home module's shard, and the demand (R299, R302). -/
def reserveData (s : State) (f h : Nat) (r : ContractRec) (pf : ProofFigures) : List Byte :=
  let x := indexOf s r.refs.index
  let layout := ((x.bind Index.hdr).map IndexHeader.layoutId).getD 0
  let c (g : IndexCfg → Nat) : Nat := (x.map fun i => g i.cfg).getD 0
  leBytes 4 h ++ leBytes 1 f ++ leBytes 1 (c IndexCfg.shard) ++ leBytes 2 pf.t2Slots ++ leBytes 4 pf.t2Pages ++
  leBytes 2 r.lim.candC ++ leBytes 8 layout ++ leBytes 4 (c IndexCfg.lists) ++ leBytes 1 (c IndexCfg.codeBytes) ++
  leBytes 1 (c IndexCfg.metric) ++ leBytes 1 (c IndexCfg.shardCount) ++ leBytes 1 r.terms.level ++ leBytes 2 r.lim.holdUs ++
  leBytes 4 r.terms.deadline ++ leBytes 4 (cairnCount r.terms pf.bound) ++ leBytes 2 r.lim.nprobe ++ leBytes 2 r.terms.burst ++
  leBytes 4 r.terms.interval ++ leBytes 1 r.terms.topology ++ leBytes 1 r.terms.preempt

/-- Starts a CONTRACT_OPEN whose record holds: a stack contract that can form asks the other modules first for the shards they
hold (R191, R302). -/
def startOpen (s : State) (x : MsgCtx) (r : ContractRec) (w : Schedules) : State :=
  let po : PendOpen :=
    { msg := x.id, f := x.f, dry := bitOf (byteAt x.bytes 44) 0, rcd := r, scheds := w, handle := 0, waking := false,
      shards := [], acks := [] }
  let peers := (otherPositions s).filter fun q => (hops s (myPos s) q).isSome
  if r.terms.topology = 0 ∨ shapeReason s r ≠ 0 ∨ peers = [] then concludeOpen s po
  else
    let b := reserveData s x.f s.nextHandle r (openFigures s x.f r w [])
    let po := { po with handle := s.nextHandle, shards := peers }
    let s := newHandle s
    peers.foldl (fun s q => sendMsg s 0x10 q b) { s with strata := { s.strata with opens := s.strata.opens ++ [po] } }

/-- Whether a CONTRACT_OPEN waits behind another: they are applied one at a time (R42). -/
def openHeld (s : State) (_ : List Byte) : Bool := !s.strata.opens.isEmpty

/-- CONTRACT_OPEN (R83, R84); `w` is what the Brieb schedules of the record's objects state. -/
def execContractOpen (f : Nat) (src : Src) (h : HostView) (r : HostRead (List Byte)) (w : Schedules) (s : State) : Res :=
  onMessage s f src 0x0501 (openHeld s) fun s x =>
    let len := le x.bytes 40 4
    settleRead s x (le x.bytes 32 8) len r (firstSome
      [addrCheck s h f false (le x.bytes 32 8) len 32, respCheck s h f 4096 x.bytes, readFailed r]) fun s =>
      match r with
      | .data b =>
        let vocab := ((modelOf s (refsAt b).genModel).map fun m => m.img.vocab).getD 0
        let k := recordAt b vocab
        settle s x (firstSome [recordCheck s h f b len k, quotaCheck s f k (openFigures s f k w [])]) fun s => startOpen s x k w
      | _ => s

/-! ## CONTRACT_QUERY_PROOF and CONTRACT_CLOSE (R85, R86) -/

/-- The contract of a handle that belongs to function `f`. -/
def ownContract (s : State) (f h : Nat) : Option Contract := (contractOf s h).filter fun k => k.owner == f

/-- The proof of a contract as it stands: no reason, the bound and the energy in force. -/
def standingProof (k : Contract) : Proof := { reason := 0, bound := k.pf.bound, energy := k.energy, broken := 0 }

/-- CONTRACT_QUERY_PROOF (R85). -/
def execContractQueryProof (f : Nat) (src : Src) (h : HostView) (s : State) : Res :=
  onMessage s f src 0x0502 notHeld fun s x =>
    settle s x (firstSome [respCheck s h f 4096 x.bytes, withRef (ownContract s f (le x.bytes 32 4)) 32 fun _ => none]) fun s =>
      match ownContract s f (le x.bytes 32 4) with
      | none => s
      | some k =>
        let q := powerSum (s.contracts.filter isOpen)
        let b := summaryBytes s k.rcd k.pf (standingProof k) k.divider k.stageCairns.length q s.free
        respond (bumpFree s) x b (proofResult k.handle k.divider (standingProof k))

/-- Completes the closes of a contract whose last case has issued its record, and removes it (R86). -/
def finishClose (s : State) (h : Nat) : State :=
  match contractOf s h with
  | none => s
  | some k =>
    if k.closes = [] ∨ s.cases.any (fun c => c.hd.contract == h) then s
    else
      let s := settleState (removeContract s h)
      k.closes.foldl (fun s w => complete s w.msg .ok 0xFFFF (resultAt [(0, 4, w.drained), (4, 4, w.cancelled)])) s

/-- Whether a close may join the closes of a contract: the first one, or an ABORT on a draining one (R86). -/
def closeFits (k : Contract) (abort : Bool) : Bool :=
  k.closes.isEmpty || (abort && k.closes.all fun w => !w.abort)

/-- The live cases of a contract that no status has ended yet. -/
def runningCases (s : State) (h : Nat) : List Case := s.cases.filter fun c => c.hd.contract == h && c.ending.isNone

/-- Cancels a case, and marks it as cancelled for the counts of R86 and R126. -/
def abortCase (s : State) (c : Case) : State := updCase (cancelCase s c) c.hd.key fun c => { c with cancelled := true }

/-- CONTRACT_CLOSE (R86). -/
def execContractClose (f : Nat) (src : Src) (s : State) : Res :=
  onMessage s f src 0x0503 notHeld fun s x =>
    let h := le x.bytes 32 4
    let abort := byteAt x.bytes 36 == 2
    settle s x (withRef (ownContract s f h) 32 fun k => failIf (!closeFits k abort) .busy) fun s =>
      let gone := if abort then runningCases s h else []
      let s := gone.foldl abortCase s
      let w : CloseWait := { msg := x.id, abort := abort, drained := 0, cancelled := gone.length }
      let s := updContract s h fun k =>
        { k with closes := k.closes ++ [w], state := if k.state = .opened then .closing else k.state }
      finishClose s h

/-! ## Arrivals (R119, R120, R166) -/

/-- The start of the window that a timestamp falls in under an epoch (R120). -/
def windowStart (k : Contract) (epoch t : Nat) : Int :=
  let base : Int := (epoch + k.rcd.terms.phase : Nat)
  base + ((t : Int) - base) / (k.rcd.terms.interval : Int) * (k.rcd.terms.interval : Int)

/-- Whether a case that starts at `t` is admitted: a whole token that was there at its start, or an unused window that may be used
(R119, R120, R166). -/
def arrivalOk (k : Contract) (t : Nat) : Bool :=
  if k.rcd.terms.arrivalKind = 1 then k.arrival.tokens.any fun a => decide (a ≤ t)
  else
    let w := windowStart k k.arrival.epoch t
    (k.arrival.openFrom == 0 || decide ((k.arrival.openFrom : Int) ≤ w)) && !k.arrival.used.contains w

/-- The policing state after a case that starts at `t` is admitted: it takes the oldest token, or its window. -/
def arrivalTake (k : Contract) (t : Nat) : Arrival :=
  if k.rcd.terms.arrivalKind = 1 then { k.arrival with tokens := k.arrival.tokens.drop 1 }
  else { k.arrival with used := k.arrival.used ++ [windowStart k k.arrival.epoch t] }

/-- ARRIVAL_TOKEN_ACCRUAL (R119): a token comes at this TCLK count. -/
def execArrivalTokenAccrual (k : Nat) (s : State) : Res :=
  .next <| updContract s k fun c =>
    if c.rcd.terms.arrivalKind = 1 ∧ isOpen c then
      { c with arrival := { c.arrival with tokens := (c.arrival.tokens ++ [s.tclk]).take c.rcd.terms.burst } }
    else c

/-- PERIOD_WINDOW_END (R166): at the end W of the window in progress a pending epoch whose edge came before W takes effect,
and windows may start at or after W. -/
def execPeriodWindowEnd (k : Nat) (s : State) : Res :=
  .next <| updContract s k fun c =>
    let w := (windowStart c c.arrival.epoch s.tclk).toNat
    match c.arrival.pendingEpoch with
    | some e =>
      if c.rcd.terms.arrivalKind = 2 ∧ isOpen c ∧ e < w then
        { c with arrival := { c.arrival with epoch := e, pendingEpoch := none, openFrom := w } }
      else c
    | none => c

/-! ## LINK_RATE_FALL (R392) -/

/-- The contracts in level order, the lower handle first within a level. -/
def byLevel (ks : List Contract) : List Contract :=
  sortBy (fun a b => decide (a.rcd.terms.level < b.rcd.terms.level ∨
    (a.rcd.terms.level = b.rcd.terms.level ∧ a.handle < b.handle))) ks

/-- Proves every open contract again, in level order, each beside the others as they now stand. -/
def reproveAll (s : State) : State :=
  (byLevel (s.contracts.filter isOpen)).foldl (fun s k => match contractOf s k.handle with
    | some k => updContract s k.handle fun x => reproven x (reproofFigures s k [])
    | none => s) s

/-- The handles whose re-proof fails: the deadline, the energy of a case, or the sustained sum of the contracts kept before
them. -/
def failedProofs (s : State) (kept : List Contract) : List Contract → List Nat
  | [] => []
  | k :: ks =>
    let w := s.power.policy
    let t := k.rcd.terms
    if k.pf.bound > t.deadline ∨ k.energy > t.energyUj ∨ overCap (standingMw w.vceil) (powerSum (kept ++ [k])) w.capW then
      k.handle :: failedProofs s kept ks
    else failedProofs s (kept ++ [k]) ks

/-- LINK_RATE_FALL (R392): the link now runs at `rate` and `width`. The second round of re-proofs sees the demand that the first one
gives every contract at the new rate. -/
def execLinkRateFall (rate width : Nat) (s : State) : Res :=
  .next <|
    let below := s.contracts.any fun k => isOpen k && decide (rate < k.linkRate ∨ width < k.linkWidth)
    let old := (s.pcie.rate, s.pcie.width)
    let s := { s with pcie := { s.pcie with rate := rate, width := width } }
    if !below then s
    else
      let s := reproveAll (reproveAll { s with pcie := { s.pcie with fellAt := some s.tclk } })
      let bad := failedProofs s [] (byLevel (s.contracts.filter isOpen))
      let s := record s 0x0106
        (leBytes 2 old.1 ++ leBytes 2 rate ++ leBytes 1 old.2 ++ leBytes 1 width ++ leBytes 4 bad.length)
      let moved (k : Contract) : Contract :=
        if isOpen k then { k with linkRate := min rate k.linkRate, linkWidth := min width k.linkWidth } else k
      let s := { s with contracts := s.contracts.map moved }
      revokeAll s (fun k => bad.contains k.handle) .faultHostLink .faultHostLink

end Sys2Proof.Machine
end

