-- ==== Sys2Proof/Machine/Cases.lean ====
section
/-! DEFINITION. CASE_SUBMIT with its descriptor (R87, R88, R152, R153), CASE_CANCEL (R90) and CASE_QUERY (R91). -/

namespace Sys2Proof.Machine

/-! ## The case descriptor (R152) -/

/-- The message field that names the descriptor: DESC_ADDR. -/
def descMsg : Nat := 48

/-- The case descriptor of its bytes. -/
def descAt (b : List Byte) : CaseDesc :=
  let n := byteAt b 5
  { version := le b 0 2, bytes := le b 2 2, caseType := byteAt b 4,
    sg := (List.range n).map fun i => { addr := le b (64 + 16 * i) 8, len := le b (72 + 16 * i) 4 },
    feats := (List.range (le b 6 2)).map fun i =>
      let o := 64 + 16 * n + 16 * i
      { index := le b o 8, weight := fpAt b (o + 8), bag := byteAt b (o + 12) },
    payloadBytes := le b 8 4, frameW := le b 12 2, frameH := le b 14 2, pixFmt := byteAt b 16, rowPitch := le b 20 4 }

/-- The bytes of a pixel (R162). -/
def pixelBytes : Nat → Nat
  | 1 => 3
  | 2 => 4
  | _ => 1

/-- The header's fields (R152) under a contract whose FEATURES area is `ft`. -/
def descHeader (b : List Byte) (len : Nat) (ft : Features) : Check :=
  let d := descAt b
  let frame := d.caseType == 3
  let only (v lo hi : Nat) : Bool := if frame then decide (lo ≤ v ∧ v ≤ hi) else v == 0
  let total := 64 + 16 * byteAt b 5 + 16 * le b 6 2
  firstSome
    [failStruct (d.version != 2) .fieldRange 0 descMsg,
     failStruct (!decide (64 ≤ d.bytes ∧ d.bytes ≤ 4096)) .fieldRange 2 descMsg,
     failStruct (decide (len < d.bytes)) .lenExceedsBuffer 2 descMsg,
     structCheck b descMsg 0 64 4
       [sRange b 0 4 1 1 3, sRange b 0 5 1 0 64, sRange b 0 6 2 0 252,
        sOk 8 4 (decide (d.payloadBytes ≤ ft.payloadMax) && (d.caseType == 1 || d.payloadBytes != 0)),
        sOk 12 2 (only d.frameW 1 4096), sOk 14 2 (only d.frameH 1 4096), sOk 16 1 (only d.pixFmt 1 3),
        sOk 20 4 (only d.rowPitch (d.frameW * pixelBytes d.pixFmt) 16384)],
     failStruct (decide (4096 < total)) .productRange 5 descMsg,
     failStruct (d.bytes != total) .badImage 2 descMsg]

/-- One scatter entry: its length, the end of its range, and the DMA check (R152, R153). -/
def scatterCheck (s : State) (h : HostView) (f : Nat) (b : List Byte) (i : Nat) : Check :=
  let o := 64 + 16 * i
  let addr := le b o 8
  let len := le b (o + 8) 4
  firstSome
    [failStruct (decide (2 ^ 64 < addr + len)) .fieldRange o descMsg,
     failStruct (dmaDenied s h f (partPasid s f) false addr len) .dmaAddrDenied o descMsg,
     structCheck b descMsg o 16 8 [sRange b o 8 4 1 16777216]]

/-- Whether an index may select a row of a table (R158). -/
def indexFits (t : Table) (index : Nat) : Bool := t.kind == 1 || decide (index < t.nrows)

/-- Feature entry `i`, which stands at offset `o`: its index, its weight and its bag (R152, R158). -/
def featCheck (s : State) (ft : Features) (b : List Byte) (o : Nat) : Check :=
  let bag := byteAt b (o + 12)
  let w := fpAt b (o + 8)
  match ft.bags[bag]? with
  | none => failStruct true .fieldRange (o + 12) descMsg
  | some g => firstSome
      [failStruct ((tableOf s g.table).any fun t => !indexFits t (le b o 8)) .fieldRange o descMsg,
       failStruct (if g.pool = 2 then !fpFinite w else w != 0#32) .fieldRange (o + 8) descMsg,
       gapCheck b descMsg o 13 16]

/-- The entry that takes a bag beyond its BAG_MAX and is its last: its place among the feature entries (R153). -/
def overfull (ft : Features) (fs : List FeatEntry) : Option Nat :=
  let count (g : Nat) : Nat := (fs.filter fun e => e.bag == g).length
  let tooMany (g : Nat) : Bool := match ft.bags[g]? with
    | some x => decide (x.bagMax < count g)
    | none => false
  (List.range fs.length).find? fun i => match fs[i]? with
    | some e => tooMany e.bag && !((fs.drop (i + 1)).any fun x => x.bag == e.bag)
    | none => false

/-- A total against PAYLOAD_BYTES: a shortfall or an excess (R153). -/
def payloadAgainst (total payload : Nat) : Check := firstSome
  [failStruct (decide (total < payload)) .lenExceedsBuffer 8 descMsg,
   failStruct (decide (payload < total)) .fieldRange 8 descMsg]

/-- The patches of a frame (R162). -/
def patchCount (d : CaseDesc) (p : Nat) : Nat := ceilDiv d.frameW p * ceilDiv d.frameH p

/-- The descriptor's structure check (R55, R88, R152, R153, R158, R162): every field, then the rules across fields. -/
def descCheck (s : State) (h : HostView) (f : Nat) (b : List Byte) (len : Nat) (k : Contract) : Check :=
  let d := descAt b
  let ft := k.rcd.feat
  let n := byteAt b 5
  let enc := (modelOf s k.rcd.refs.encModel).map fun m => m.img.enc
  firstSome <|
    [descHeader b len ft] ++ (List.range n).map (scatterCheck s h f b) ++
    ((List.range (le b 6 2)).map fun i => featCheck s ft b (64 + 16 * n + 16 * i)) ++
    [(overfull ft d.feats).bind fun i => failStruct true .fieldRange (64 + 16 * n + 16 * i) descMsg,
     payloadAgainst (sumNat (d.sg.map Scatter.len)) d.payloadBytes,
     if d.caseType = 3 then payloadAgainst d.payloadBytes (d.rowPitch * d.frameH) else none,
     if d.caseType = 3 then
       failStruct (enc.any fun e => decide (e.maxPatches < patchCount d e.patch)) .productRange 12 descMsg
     else none]

/-! ## CASE_SUBMIT (R87, R88) -/

/-- The CASE_SUBMIT messages of function `f` that the firmware observed before the TCLK count `t` and that have not started:
their cases have begun already (R11, R15). A ring entry that is still to be fetched tells no opcode yet (log 144). -/
def observedSubmits (s : State) (f t : Nat) : Nat :=
  let mb := mbOf s f
  ((mb.inlQ ++ mb.sqQ).filter fun m => opcodeOf m == 0x0601 && decide (m.obsTs < t)).length

/-- Step 10, for a submission that was observed at `t`: the partition's case quota, then the module's limit, over the live
cases and the submissions that were observed earlier (R15, R88). -/
def caseQuotas (s : State) (f t : Nat) : Check :=
  let quota := ((partOf s f).map fun p => p.cfg.caseQuota).getD 0
  firstSome
    [failIf (decide (quota ≤ liveCases s f + observedSubmits s f t)) .partitionCaseQuota,
     failIf (decide (8192 ≤ s.cases.length + sumNat ((functions s).map fun g => observedSubmits s g t))) .caseLimit]

/-- Whether a submission observed at `t` came before its contract was revoked: it makes a live case, which ends as the cause says
(R124). -/
def beforeRevocation (k : Contract) (t : Nat) : Bool := k.ended.any fun e => decide (t < e.1)

/-- Step 11: the contract, for a case of a type that starts at `t` (R88). -/
def contractCheck (k : Contract) (caseType t : Nat) : Check := firstSome
  [failIf (decide (k.state = .revoked) && !beforeRevocation k t) .contractRevoked,
   failIf (decide (k.state = .closing)) .contractNotOpen,
   failIf (caseType != k.rcd.terms.caseType) .contractMismatch,
   failIf (!arrivalOk k t) .arrivalExceeded]

/-- The forms in which a case starts: the full one of each stage (R121). -/
def startForms (r : ContractRec) : CaseForms :=
  { fetch := .full, rerank := (chainOf r .rerank).headD .full, gen := .full, decodeStopped := false, ran := [(1, .full)] }

/-- A search that has not begun. -/
def SearchState.none : SearchState :=
  { visited := [], gen := 0, seq := 0, snapped := false, waitLists := [], waitScree := false, holdExpired := false, found := [],
    shardsLeft := [], shardLOut := fpInf false, cand := Option.none }

/-- A passage stage that has not begun. -/
def PassState.none : PassState :=
  { looks := [], stale := [], committed := [], ranked := [], nextPair := 0, packed := [], promptLen := 0 }

/-- A generation that has not begun. -/
def GenState.none : GenState :=
  { prompt := [], committedLen := 0, toks := [], proposals := [], verdict := Option.none, score := fpNaN, probs := [],
    verifyPasses := 0, draftAccepted := 0, stopCause := 0, fileChunks := 0, pfxHeld := Option.none, tailHeld := false,
    kv := [], done := false }

/-- The stage cairn of a new case: the lowest of the contract's that no live case uses (R145). -/
def freeStageCairn (s : State) (k : Contract) : Nat :=
  let used := (s.cases.filter fun c => c.hd.contract == k.handle).map fun c => c.hd.cairn
  ((k.stageCairns.find? fun n => !used.contains n).getD (k.stageCairns.headD 0))

/-- The case that a submission creates. -/
def newCase (s : State) (x : MsgCtx) (k : Contract) (d : CaseDesc) : Case :=
  let hd : CaseHead :=
    { key := s.nextCase, caseId := le x.bytes 40 8, contract := k.handle, owner := x.f, msg := x.id, src := x.src,
      origin := x.origin, startTs := x.obsTs, resultAddr := le x.bytes 56 8, resultLen := le x.bytes 64 4,
      tokAt := tokOff k.rcd.lim,
      cairn := freeStageCairn s k }
  { hd := hd, desc := d, stage := .intake, stageTs := x.obsTs, forms := startForms k.rcd,
    enc := { payload := [], toks := [], patches := [], bags := [], summaries := [], query := Option.none }, srch := SearchState.none, pass := PassState.none,
    gen := GenState.none, sats := 0, rerun := false, lateCause := 0, ending := Option.none, failedStage := 0, cancelled := false }

/-- Puts a command of a case in the ready state, at its contract's level (R127, R136). -/
def addCaseCmd (s : State) (c : Case) (k : Contract) (stage : Nat) : State :=
  let t := k.rcd.terms
  addCmd s (.cases [c.hd.key]) c.hd.owner t.level stage (c.hd.startTs + t.deadline) c.hd.startTs (t.preempt == 2) []

/-- Accepts a case: it takes its token or window, it is counted, and its intake begins (R119, R154); under a contract that has been
revoked since its start it ends at once (R124). -/
def acceptCase (s : State) (x : MsgCtx) (k : Contract) (d : CaseDesc) : State :=
  let c := newCase s x k d
  let s := updContract s k.handle fun k =>
    { k with arrival := arrivalTake k x.obsTs, stats := { k.stats with accepted := k.stats.accepted + 1 } }
  let s := { s with cases := s.cases ++ [c], nextCase := s.nextCase + 1 }
  let s := updTelem s fun t => { t with accepted := t.accepted + 1, casesPeak := max t.casesPeak s.cases.length }
  let s := updStats s x.f fun p => { p with casesPeak := max p.casesPeak (liveCases s x.f) }
  match k.ended with
  | some e => endCase s c.hd.key e.2 1
  | none => addCaseCmd s c k 1

/-- CASE_SUBMIT (R87, R88). The message completes when its case's result record has been issued (R89). -/
def execCaseSubmit (f : Nat) (src : Src) (h : HostView) (r : HostRead (List Byte)) (s : State) : Res :=
  onMessage s f src 0x0601 notHeld fun s x =>
    let b := x.bytes
    let len := le b 36 4
    settleRead s x (le b 48 8) len r (firstSome
      [addrCheck s h f false (le b 48 8) len 48, addrCheck s h f true (le b 56 8) (le b 64 4) 56,
       withRef (ownContract s f (le b 32 4)) 32 fun k =>
         failIf (decide (le b 64 4 < resultNeed k.rcd.lim)) .lenExceedsBuffer 64,
       caseQuotas s f x.obsTs, readFailed r]) fun s =>
      match r, ownContract s f (le b 32 4) with
      | .data d, some k =>
        settle s x (firstSome [descCheck s h f d len k, contractCheck k (descAt d).caseType x.obsTs]) fun s =>
          acceptCase (learnGrants s f h) x k (descAt d)
      | _, _ => s

/-! ## CASE_CANCEL and CASE_QUERY (R90, R91) -/

/-- A CONTRACT field that may be 0 for any contract. -/
def anyContract (s : State) (f h off : Nat) : Check :=
  if h = 0 then none else withRef (ownContract s f h) off fun _ => none

/-- The live cases of partition `f` that an id and a contract, or 0, match and that no status has ended. -/
def matching (s : State) (f caseId h : Nat) : List Case :=
  s.cases.filter fun c => c.hd.owner == f && c.hd.caseId == caseId && (h == 0 || c.hd.contract == h) && c.ending.isNone

/-- CASE_CANCEL (R90). -/
def execCaseCancel (f : Nat) (src : Src) (s : State) : Res :=
  onMessage s f src 0x0602 notHeld fun s x =>
    let h := le x.bytes 40 4
    settle s x (anyContract s f h 40) fun s =>
      let cs := matching s f (le x.bytes 32 8) h
      let st : Status := if cs = [] then .caseAlreadyDone else .ok
      complete (cs.foldl abortCase s) x.id st 0xFFFF (resultAt [(0, 4, cs.length)])

/-- The entry of a live case (R91). -/
def caseEntry (c : Case) : List Byte :=
  let src : Nat := match c.hd.src with
    | .inl => 0
    | .ring => 1
  leBytes 8 c.hd.caseId ++ leBytes 4 c.hd.contract ++ leBytes 1 (stageNum c.stage) ++ leBytes 1 src ++
  leBytes 2 c.hd.origin ++ leBytes 8 c.hd.startTs ++ zeros 8

/-- CASE_QUERY (R91). Cases that started at one TCLK count stand in the order of their acceptance, and the total counts the
cases that CONTRACT picks: the rule says neither (log 148). -/
def execCaseQuery (f : Nat) (src : Src) (h : HostView) (s : State) : Res :=
  onMessage s f src 0x0603 notHeld fun s x =>
    let kh := le x.bytes 32 4
    let n := le x.bytes 40 4
    settle s x (firstSome [respCheck s h f (32 * n) x.bytes, anyContract s f kh 32]) fun s =>
      let live := s.cases.filter fun c => c.hd.owner == f && (kh == 0 || c.hd.contract == kh)
      let cs := sortBy (fun a b => decide (a.hd.startTs < b.hd.startTs)) live
      let out := (cs.drop (le x.bytes 36 4)).take n
      respond s x (out.flatMap caseEntry) (resultAt [(0, 4, out.length), (4, 4, live.length)])

end Sys2Proof.Machine
end

