-- ==== Sys2Proof/Machine/Stages.lean ====
section
/-! DEFINITION. What the stages of a case share (R10, R121 to R123, R145, R147): the deadline monitor, the end of a stage at its
commit, and the condition on which a command commits. -/

namespace Sys2Proof.Machine

/-! ## Commands of cases -/

/-- The command that serves a case at its stage. -/
def caseCmd (s : State) (key : Nat) : Option Cmd := (cmdsOfCase s key).head?

/-- Whether a case is live and no status has ended it. -/
def caseRuns (c : Case) : Bool := c.ending.isNone

/-- Whether a case of the generation stage has its prefill behind it, and decodes (R213). -/
def decoding (c : Case) : Bool := decide (c.stage = .generation) && !c.gen.toks.isEmpty

/-- Whether re-rank of a case costs no array work: it runs in distance order, or no passage carries tokens (R207). -/
def rerankIdle (c : Case) : Bool := decide (c.forms.rerank ≠ .full) || c.pass.committed.all fun p => p.toks.isEmpty

/-- The most tokens that a case generates in the form in which it runs (R229). -/
def genLimit (r : ContractRec) (c : Case) : Nat :=
  match c.forms.gen with
  | .smallGen => r.lim.fbGenMax
  | .scoreHead => 0
  | _ => r.lim.genMax

/-- The proposals of a case's next pass (R219). -/
def mostProposals (r : ContractRec) (c : Case) : Nat :=
  if r.refs.draftModel = 0 then 0 else min r.lim.draftLen (genLimit r c - 1 - c.gen.toks.length)

/-- Whether the next command of a case that decodes runs draft steps: proposals are still to be made (R219). -/
def drafting (r : ContractRec) (c : Case) : Bool := decoding c && decide (c.gen.proposals.length < mostProposals r c)

/-- The generator of a case's form (R123, R213). -/
def genModelOf (r : ContractRec) (c : Case) : Nat := if c.forms.gen = .smallGen then r.refs.fbGenModel else r.refs.genModel

/-- The model that a stage of a case invokes, if it invokes one: the draft model while it drafts (R10, R212, R219). -/
def stageModel (r : ContractRec) (c : Case) : Stage → Option Nat
  | .encoding => some r.refs.encModel
  | .rerank => if rerankIdle c then none else some r.refs.rerankModel
  | .generation => some (if drafting r c then r.refs.draftModel else genModelOf r c)
  | _ => none

/-- The model of the first case that a command serves. -/
def cmdModel (s : State) (c : Cmd) : Option Nat :=
  match c.serves with
  | .cases ks => (ks.head?.bind (caseOf s)).bind fun x => (contractOf s x.hd.contract).bind fun k => stageModel k.rcd x x.stage
  | .pass _ _ _ _ => none
  | .bg op => (s.bg.find? fun b => b.id == op).bind fun b => match b.kind with
    | .prefixRegister m _ _ _ _ => some m
    | _ => none

/-- Whether a model's layers are moved for each invocation: from T2, or into prefetch buffers of T0 (R133, R273). -/
def streams (m : Model) : Bool :=
  (decide (m.home = .t2) && !m.pinned) || decide (4 * m.img.footprint < m.img.weightBytes)

/-- Whether layers 0 to n − 1 of a model have arrived. -/
def layersIn (s : State) (h n : Nat) : Bool := (List.range n).all fun i => s.sched.layers.contains (h, i)

/-- Whether every layer that a command's model moves has arrived (R273). -/
def weightsIn (s : State) (c : Cmd) : Bool :=
  match (cmdModel s c).bind (modelOf s) with
  | some m => !streams m || layersIn s m.handle m.img.shape.layers
  | none => true

/-- Whether a command may commit: it holds its engines, nothing asks them back, and its weights have all arrived. -/
def mayCommit (s : State) (c : Cmd) : Bool := decide (c.phase = .running) && weightsIn s c

/-- A model's buffers are given back at the end of an invocation (R273). -/
def dropLayers (s : State) (h : Option Nat) : State :=
  match h with
  | some m => updSched s fun d => { d with layers := d.layers.filter fun e => e.1 != m }
  | none => s

/-- The latest time from a request to an engine of a kind being free, in TCLK (R137). -/
def tableTime : Nat → Nat
  | 4 => 12
  | 13 => 60
  | _ => 120

/-- The engine of a command that may take longest to come free: its engines come free together. -/
def slowestUnit (c : Cmd) : UnitId :=
  c.units.foldl (fun a u => if tableTime a.kind < tableTime u.kind then u else a) (c.units.headD { kind := 3, idx := 0 })

/-- The unit that stands for an engine in a fault report: a scree-list scanner or a page mover is part of its Shale (R141). -/
def reportUnit (u : UnitId) : UnitId := if u.kind = 12 ∨ u.kind = 13 then { kind := 6, idx := u.idx } else u

/-- What a wait of `w` TCLK for an engine reports: 1 an overrun, 2 one that has reached 2.0 µs (R143, R409). -/
def overrunReport (s : State) (u : UnitId) (w outcome : Nat) : State :=
  preemptDetection s { det := 0x0C, unit := reportUnit u, payload := leBytes 4 w ++ leBytes 1 outcome, injected := false, dram := none }

/-- The engines of a command come free: the waits for them are noted in BLOCK_MAX, and a first request that took longer than the
table time is reported (R143). -/
def noteWait (s : State) (c : Cmd) : State :=
  let s := noteBlock s c
  match c.preemptTs with
  | none => s
  | some t =>
    let w := s.tclk - t
    if tableTime (slowestUnit c).kind < w then overrunReport s (slowestUnit c) w 1 else s

/-- Releases the engines of a command that has committed: it is charged and gone (R130, R140). -/
def retireCmd (s : State) (c : Cmd) : State := dropCmds (dropLayers (noteWait s c) (cmdModel s c)) [c.id]

/-! ## The deadline monitor (R121 to R123) -/

/-- The sum of B_FB over the stages after stage `n` (R122). -/
def laterBound (k : Contract) (n : Nat) : Nat := sumNat ((k.pf.stages.drop n).map StageFigures.bFb)

/-- The two tests of R122 for a form, at case time `t`. -/
def formFits (t later slack deadline : Nat) (f : FormPred) : Bool :=
  decide (t + f.rest + later + slack ≤ deadline) && decide (t + f.next + f.last + later + slack ≤ deadline)

/-- The form that the monitor takes from a chain that starts at the current form: the first that passes, or the last. -/
def monitorForm (s : State) (k : Contract) (c : Case) (g : Stage) (chain : List Form) (p : Prediction) : Form :=
  let t := s.tclk - c.hd.startTs
  let fits (f : Form) : Bool := match p.forms.find? fun q => decide (q.form = f) with
    | some q => formFits t (laterBound k (stageNum g)) k.pf.slack k.rcd.terms.deadline q
    | none => false
  match chain.find? fits with
  | some f => f
  | none => chain.getLast?.getD .full

/-- The form in which a case runs a stage. -/
def formOf (c : Case) : Stage → Form
  | .fetch => c.forms.fetch
  | .rerank => c.forms.rerank
  | .generation => c.forms.gen
  | _ => .full

/-- A case that runs a stage in another form. -/
def withForm (c : Case) (g : Stage) (f : Form) : Case :=
  match g with
  | .fetch => { c with forms := { c.forms with fetch := f } }
  | .rerank => { c with forms := { c.forms with rerank := f } }
  | .generation => { c with forms := { c.forms with gen := f } }
  | _ => c

/-- What is left of a stage's chain from the form in which a case runs it. -/
def chainLeft (k : Contract) (c : Case) (g : Stage) : List Form := (chainOf k.rcd g).dropWhile fun f => decide (f ≠ formOf c g)

/-- The form in which a case runs passage fetch, PASSAGE_SRC naming that of the full one: the store, the cache or identifiers
(R106, R200). -/
def fetchBy (r : ContractRec) (c : Case) : Form :=
  match c.forms.fetch, r.lim.passageSrc with
  | .full, 2 => .cache
  | .full, 3 => .idsOnly
  | f, _ => f

/-- The form that a stage of a case takes next, if its chain has one left: after prefill, only the end of decode (R123). -/
def nextForm (k : Contract) (c : Case) (g : Stage) : Option Form :=
  let rest := (chainLeft k c g).drop 1
  if decoding c then rest.find? fun f => decide (f = .scoreHead) else rest.head?

/-- The FALLBACK record of a switch. -/
def fallbackRecord (s : State) (c : Case) (g : Stage) (f : Form) : State :=
  record s 0x0201 (leBytes 4 c.hd.contract ++ leBytes 8 c.hd.caseId ++ leBytes 1 (stageNum g) ++ leBytes 1 (formCode f))

/-- A case with a form that it has run noted, once each (R123, R126). -/
def noteRan (c : Case) (g : Stage) (f : Form) : Case :=
  if c.forms.ran.contains (stageNum g, f) then c
  else { c with forms := { c.forms with ran := c.forms.ran ++ [(stageNum g, f)] } }

/-- Switches a stage of a case to another form (R123); the form it runs in changes nothing. -/
def switchForm (s : State) (c : Case) (g : Stage) (f : Form) : State :=
  if formOf c g = f then s
  else fallbackRecord (updCase s c.hd.key fun c => noteRan (withForm c g f) g f) c g f

/-- The choice at the commit of a stage: the form of the next one (R121). A pool without tokens takes no re-rank fallback
(R207). -/
def chooseNext (s : State) (k : Contract) (key : Nat) (g : Stage) (p : Prediction) : State :=
  match caseOf s key with
  | none => s
  | some c =>
    let chain := chainLeft k c g
    let idle := decide (g = .rerank) && c.pass.committed.all fun p => p.toks.isEmpty
    if chain.length ≤ 1 ∨ idle then s else switchForm s c g (monitorForm s k c g chain p)

/-! ## The end of a stage (R10, R14, R147) -/

/-- The stage that follows one: a re-rank that the contract leaves out is passed over (R10). -/
def stageAfter (r : ContractRec) (g : Stage) : Stage :=
  match nextStage g with
  | .rerank => if r.refs.rerankModel = 0 then .packing else .rerank
  | n => n

/-- A stage of a case commits: its cairn is signalled at the same instant, its time is noted, the monitor chooses the form of the
next stage, and that stage's first command becomes ready (R10, R121, R145, R147); a list scan runs in passes that form on their
own (R177). -/
def endStage (s : State) (key : Nat) (p : Prediction) : State :=
  match caseOf s key with
  | none => s
  | some c => match contractOf s c.hd.contract with
    | none => s
    | some k =>
      let g := stageAfter k.rcd c.stage
      let spent := s.tclk - c.stageTs
      let s := updTelem s fun t => { t with stageTimeMax := modifyAt t.stageTimeMax (stageNum c.stage - 1) (max spent) }
      let s := deviceSignal s c.hd.cairn 1 false
      let s := updCase s key fun c => { c with stage := g, stageTs := s.tclk }
      let s := updCase (chooseNext s k key g p) key fun c => noteRan c g (formOf c g)
      if g = .listScan then s else addCaseCmd s c k (stageNum g)

/-- The next command of the same stage of a case becomes ready. -/
def nextCmdOf (s : State) (key : Nat) : State :=
  match caseOf s key with
  | none => s
  | some c => match contractOf s c.hd.contract with
    | none => s
    | some k => addCaseCmd s c k (stageNum c.stage)

/-- Adds saturations to a case's count (R249). -/
def addSats (s : State) (key n : Nat) : State := updCase s key fun c => { c with sats := c.sats + n }

/-- A command's commit of one case at a stage: the case is in the stage, its command may commit, and a detection that falls
before the commit leaves it running (R147, R240). -/
def stageCommit (s : State) (key : Nat) (g : Stage) (det : Option Detection) (k : State → Case → Contract → Cmd → State) :
    State :=
  match caseOf s key, caseCmd s key with
  | some c, some m =>
    match contractOf s c.hd.contract with
    | some x =>
      if c.stage = g ∧ caseRuns c ∧ mayCommit s m then
        commitUnder s det [m] fun s => match caseOf s key with
          | some c => k s c x m
          | none => s
      else s
    | none => s
  | _, _ => s

/-! ## Prefix pages and caches (R216 to R218) -/

/-- A change of a case's generation state. -/
def updGen (s : State) (key : Nat) (g : GenState → GenState) : State := updCase s key fun c => { c with gen := g c.gen }

/-- The cache of a case under a model. -/
def cacheOf (c : Case) (model : Nat) : KvCache :=
  (c.gen.kv.find? fun x => x.model == model).getD { model := model, len := 0, pages := [] }

/-- A generation state with a cache put in the place of the same model's. -/
def putCache (g : GenState) (x : KvCache) : GenState := { g with kv := (g.kv.filter fun y => y.model != x.model) ++ [x] }

/-- A case gives back references to the prefix it holds: to all of its pages, or to the one that is not full. -/
def dropPfx (s : State) (c : Case) (whole : Bool) : State :=
  let less (p : Pfx) : Pfx := { p with refs := p.refs - bit whole, tailRefs := p.tailRefs - bit c.gen.tailHeld }
  reapPfxs { s with pfxs := modifyWhere s.pfxs (fun p => decide (c.gen.pfxHeld = some p.handle)) less }

/-- Prefill of a case starts under GEN_MODEL: the prefix pages that are not full are copied into private pages before any write of
the case's own, and the references to the shared ones are dropped (R218). -/
def startPrefill (s : State) (key : Nat) : State :=
  match caseOf s key with
  | none => s
  | some c => match contractOf s c.hd.contract with
    | none => s
    | some k => match modelOf s k.rcd.refs.genModel with
      | none => s
      | some m =>
        if c.stage = .generation ∧ !decoding c ∧ c.forms.gen ≠ .smallGen ∧ c.gen.kv.all fun x => x.model != m.handle then
          let cache := match c.gen.pfxHeld.bind (pfxOf s) with
            | some p => copiedCache m.img k.rcd.lim.kvFormat m.handle p.toks.length p.kv
            | none => { model := m.handle, len := 0, pages := [] }
          updGen (dropPfx s c false) key fun g => { putCache g cache with tailHeld := false }
        else s

end Sys2Proof.Machine
end

