-- ==== Sys2Proof/Machine/Scheduling.lean ====
section
/-! DEFINITION. The scheduler (R127 to R143, R273, R274): the commit of BACKGROUND operations (R56), which command an engine
takes next, preemption, model switches and layer moves, and the end of a tile (R238 to R246). -/

namespace Sys2Proof.Machine

/-! ## BACKGROUND operations (R56) -/

/-- The command of a BACKGROUND operation. -/
def bgCmd (s : State) (op : Nat) : Option Cmd := s.sched.cmds.find? fun c => decide (c.serves = .bg op)

/-- Whether an operation runs on the hub alone and holds no engine: an update of the flash. -/
def onHub : BgKind → Bool
  | .fwStage _ _ _ _ _ => true
  | .fwActivate _ _ => true
  | _ => false

/-- Whether an operation may commit now: its command may, and a settle waits for queries of the generation before the one it
replaces (R188). A cache fill has a commit of its own. -/
def bgReady (s : State) (b : BgOp) : Bool :=
  let ran := onHub b.kind || (bgCmd s b.id).any (mayCommit s)
  match b.kind with
  | .cacheFill _ _ => false
  | .settle h _ => ran && (indexOf s h).all fun x => x.old.isNone
  | _ => ran

/-- Whether what an operation works on has become UNAVAILABLE, or the tier of its pages has failed (R78, R287). -/
def bgLost (s : State) (b : BgOp) : Bool :=
  let index (h : Nat) : Bool := (indexOf s h).any fun x => decide (x.state = .unavailable)
  (b.t2Held != 0 && s.mem.t2.lost) ||
  match b.kind with
  | .bulkLoad h _ _ => index h
  | .settle h _ => index h
  | .snapshot h _ _ _ _ => index h
  | .prefixRegister m _ _ _ _ => (modelOf s m).any Model.unavailable
  | .tableLoad t _ _ => (tableOf s t).any Table.unavailable
  | _ => false

/-- Loads rows into a table: rows of zeros are not listed (R70, R157). -/
def loadRows (t : Table) (first : Nat) (rows : List (List Byte)) : Table :=
  let n := rows.length
  let kept := t.rows.filter fun e => decide (e.1 < first ∨ first + n ≤ e.1)
  let fresh := ((List.range n).zipWith (fun i r => (first + i, r)) rows).filter fun e => e.2.any fun b => decide (b ≠ 0)
  { t with rows := sortBy (fun a b => decide (a.1 < b.1)) (kept ++ fresh) }

/-- The prefix that a registration stores. -/
def newPfx (s : State) (b : BgOp) (m : Nat) (toks : List Nat) (kv pages : Nat) (shared : Bool) : Pfx :=
  { handle := s.nextHandle, owner := b.owner, shared := shared, model := m, toks := toks, kvFormat := kv, pages := pages,
    kv := ((modelOf s m).map fun x => prefixKv x.img kv toks).getD [], refs := 0, tailRefs := 0, released := false, unavailable := false }

/-- The registration of a model and its RESULT (R65). -/
def commitModel (s : State) (b : BgOp) (img : ModelImage) (home : Tier) (pin shared : Bool) : State × Status × List Byte :=
  let m := newModel s.nextHandle b.owner shared pin home img
  let p := modelPages m
  (newHandle { s with models := s.models ++ [m] }, .ok,
   resultAt [(0, 4, m.handle), (4, 4, p.1), (8, 4, p.2), (12, 4, img.shape.layers), (16, 4, img.version)])

/-- The root swap of a settle and its RESULT (R78, R188). -/
def commitSettle (s : State) (h p : Nat) : State × Status × List Byte :=
  match indexOf s h with
  | some x =>
    let y := swapRoot x p
    (reapGens (updIndex s h fun _ => y), .ok, settleResult y.gen (fold x p).folded y.scree.length)
  | none => (s, .ok, [])

/-- The image of a snapshot leaves for host memory (R79, R190). -/
def commitSnapshot (s : State) (b : BgOp) (h dst g q bytes : Nat) : State × Status × List Byte :=
  let s := match indexOf s h with
    | some x => hostWrite s b.owner dst (snapImage x g q)
    | none => s
  (reapGens s, .ok, resultAt [(0, 8, bytes), (8, 8, g)])

/-- The effect of an operation's commit, its status and its RESULT. -/
def bgEffect (s : State) (b : BgOp) : State × Status × List Byte :=
  match b.kind with
  | .modelLoad img home pin shared => commitModel s b img home pin shared
  | .tableLoad t first rows =>
    ({ s with tables := modifyWhere s.tables (fun x => x.handle == t) fun x => loadRows x first rows }, .ok, [])
  | .bulkLoad h d final => (updIndex s h fun x => commitSegment x d final, .ok, [])
  | .settle h p => commitSettle s h p
  | .snapshot h dst g q bytes => commitSnapshot s b h dst g q bytes
  | .prefixRegister m toks kv pages shared =>
    (newHandle { s with pfxs := s.pfxs ++ [newPfx s b m toks kv pages shared] }, .ok,
     resultAt [(0, 4, s.nextHandle), (4, 4, pages)])
  | .fwStage off data first _ ok =>
    let s := writeSlot s (inactiveSlot s) off data first ok
    if ok then (s, .ok, []) else (flashFailed s (inactiveSlot s) off data.length first, .fault, [])
  | .fwActivate len img => (activateImage s len img, .ok, [])
  | .cacheFill _ _ => (s, .ok, [])
  | .zero _ addr resp result => (if addr = 0 then s else hostWrite s b.owner addr resp, .ok, result)

/-- The bytes of the response that an operation writes as it commits. -/
def respSize : BgKind → Nat
  | .zero _ _ resp _ => resp.length
  | _ => 0

/-- An operation is gone: its engines and pages are free and its message completes. -/
def finishBg (s : State) (b : BgOp) (st : Status) (result : List Byte) : State :=
  let s := match bgCmd s b.id with
    | some c => retireCmd s c
    | none => s
  let s := reapGens { s with bg := s.bg.filter fun o => o.id != b.id }
  match b.msg with
  | some m => complete s m st 0xFFFF result (if st = .ok then respSize b.kind else 0)
  | none => s

/-- An operation commits its whole effect, or ends for want of what it works on (R56). -/
def commitBg (s : State) (b : BgOp) : State :=
  let s := clearBusy s b.kind
  if bgLost s b then finishBg s b .tierUnavailable []
  else
    let e := bgEffect s b
    let n := if isZeroing b.kind then 0 else 1
    journaled s (bgCmd s b.id).toList
      (finishBg (updTelem e.1 fun t => { t with bgCommitted := t.bgCommitted + n }) b e.2.1 e.2.2)

/-- BACKGROUND_OP_COMMIT (R56), with the DRAM writes that it ends with. -/
def execBackgroundOpCommit (op : Nat) (wr : List DramWrite) (s : State) : Res :=
  .next <| match s.bg.find? fun b => b.id == op with
    | some b => if bgReady s b then commitBg (dramWrites s wr) b else s
    | none => s

/-! ## The engines of a command (R130, R136, R176, R177) -/

/-- Whether the scheduler grants a unit: arrays, vector units, samplers, scan engines, scree-list scanners, page movers and
DMA channels. -/
def isEngine (u : UnitId) : Bool :=
  decide (u.idx < match u.kind with
    | 3 | 4 | 5 | 7 | 11 => unitCount u.kind
    | 12 | 13 => 2
    | _ => 0)

/-- Whether every core that no fence covers is powered and ready (R325). -/
def garnetsReady (s : State) : Bool :=
  (List.range 16).all fun i =>
    isFenced s { kind := 2, idx := i } || decide ((dieOf s (i / 4)).cores.getD (i % 4) .off = .ready)

/-- The unfenced arrays: in GANG mode only those of cores that have all four (R241, R408). -/
def arraysFor (s : State) (gang : Bool) : List UnitId :=
  let whole (u : UnitId) : Bool := (List.range 4).all fun i => !isFenced s { kind := 3, idx := u.idx / 4 * 4 + i }
  (freeUnits s 3).filter fun u => !gang || whole u

/-- The engines of coarse search: every array of every whole core, and every vector unit (R176). -/
def gangSet (s : State) : List UnitId := if garnetsReady s then arraysFor s true ++ freeUnits s 4 else []

/-- Whether a command holds an engine. -/
def isHeld (s : State) (u : UnitId) : Bool := s.sched.cmds.any fun c => decide (c.phase = .running) && c.units.contains u

/-- How soon an array is taken for a command that is selected for unit `u`: `u` itself or an array of its core first, then those that
no command holds. -/
def arrayRank (s : State) (u v : UnitId) : Nat :=
  if v = u then 0 else if u.kind = 4 ∧ u.idx = v.idx / 4 then 1 else if isHeld s v then 3 else 2

/-- The engines of a command of a model: on each Garnet as many arrays as its image names, each an engine of its own, and the vector
units of their cores (R10, R212, R241). -/
def garnetSet (s : State) (m : Option Nat) (u : UnitId) : List UnitId :=
  if garnetsReady s then
    let n := max 1 (((m.bind (modelOf s)).map fun x => x.img.arrays).getD 16)
    let before (a b : UnitId) : Bool := decide (arrayRank s u a < arrayRank s u b)
    let arrays := (List.range 4).flatMap fun g =>
      (sortBy before ((arraysFor s false).filter fun v => v.idx / 16 == g)).take n
    let cores := (arrays.map fun v => v.idx / 4).eraseDups
    arrays ++ (freeUnits s 4).filter fun v => cores.contains v.idx
  else []

/-- One engine of a kind: the one that is being selected for. -/
def anyOf (s : State) (kind : Nat) (u : UnitId) : List UnitId :=
  if u.kind = kind ∧ !isFenced s u then [u] else []

/-- Both scree-list scanners, where neither is fenced. -/
def scanners (s : State) : List UnitId :=
  if isFenced s { kind := 12, idx := 0 } ∨ isFenced s { kind := 12, idx := 1 } then []
  else [{ kind := 12, idx := 0 }, { kind := 12, idx := 1 }]

/-- The engines of a case's command at a stage (R10). -/
def stageEngines (s : State) (r : ContractRec) (c : Case) (u : UnitId) : List UnitId :=
  match c.stage with
  | .intake | .result => anyOf s 11 u
  | .embedding | .packing => if garnetsReady s then freeUnits s 4 else []
  | .encoding => garnetSet s (stageModel r c .encoding) u
  | .rerank => if rerankIdle c then anyOf s 4 u else garnetSet s (stageModel r c .rerank) u
  | .coarse => gangSet s
  | .listScan => []
  | .fetch => anyOf s (if fetchBy r c = .cache then 13 else 11) u
  | .generation => match garnetSet s (stageModel r c .generation) u with
    | [] => []
    | us => us ++ samplerUnits s r.lim

/-- The engines that a command needs, were it granted when unit `u` is free. A command that has yielded needs those it had
(R138). -/
def engines (s : State) (c : Cmd) (u : UnitId) : List UnitId :=
  if c.phase = .yielded then c.units
  else match c.serves with
    | .cases ks => match ks.head?.bind (caseOf s) with
      | some x => match contractOf s x.hd.contract with
        | some k => stageEngines s k.rcd x u
        | none => []
      | none => []
    | .pass _ _ (some _) _ => anyOf s 7 u
    | .pass _ _ none _ => scanners s
    | .bg op => match (s.bg.find? fun b => b.id == op).map BgOp.kind with
      | some (.prefixRegister m _ _ _ _) => garnetSet s (some m) u
      | some _ => anyOf s 13 u
      | none => []

/-! ## Weights (R135, R273) -/

/-- What a command's weights let it do: start, start the switch that brings them, or wait. -/
inductive Weights where
  | here
  | switch (m : Nat)
  | away
  deriving DecidableEq, Repr

/-- Whether a model is placed SLICED (R134). -/
def isSliced (s : State) (m : Nat) : Bool := s.sched.placed.any fun p => p.model == m && !p.pinned

/-- The weights of a command: a SLICED model is switched into the pool first, where only a BACKGROUND switch gives way, and
layers 0 to LOOKAHEAD − 1 arrive before the first command. -/
def weightsOf (s : State) (c : Cmd) : Weights :=
  match cmdModel s c with
  | none => .here
  | some h =>
    let free := match s.sched.poolLoading with
      | none => true
      | some p => p.model != h && p.level == 3 && decide (c.level < 3)
    if isSliced s h ∧ s.sched.poolModel ≠ some h then (if free then .switch h else .away)
    else match modelOf s h with
      | some m => if streams m && !layersIn s h m.img.lookahead then .away else .here
      | none => .here

/-- A model switch that is under way ends, done or abandoned: its page mover is charged, and its time is counted (R140, R143). -/
def endSwitch (s : State) : State :=
  let s := chargeLoad s
  match s.sched.poolLoading with
  | none => s
  | some p =>
    updStats (updSched s fun d => { d with poolLoading := none }) p.owner fun t => { t with switchTime := t.switchTime + (s.tclk - p.start) }

/-- Whether a model switch holds a unit: its page mover. -/
def switchHolds (s : State) (u : UnitId) : Bool :=
  s.sched.poolLoading.any fun p => decide (u = { kind := 13, idx := p.mover })

/-- The running commands that hold an engine of a set. -/
def holders (s : State) (us : List UnitId) : List Cmd :=
  s.sched.cmds.filter fun c => decide (c.phase = .running) && c.units.any us.contains

/-- A page mover that is free, if there is one. -/
def freeMover (s : State) : Option Nat :=
  (List.range 2).find? fun i =>
    let u : UnitId := { kind := 13, idx := i }
    (holders s [u]).isEmpty && !switchHolds s u && !isFenced s u

/-- Starts a model switch on a page mover, counted to the partition that needs it (R135, R143). -/
def beginSwitch (s : State) (c : Cmd) (m mover : Nat) : State :=
  let load : PoolLoad := { model := m, start := s.tclk, owner := c.owner, level := c.level, mover := mover, charged := s.tclk }
  updStats (updSched s fun d => { d with poolLoading := some load, poolModel := none }) c.owner
    fun p => { p with switches := p.switches + 1 }

/-! ## Scan passes (R131, R177) -/

/-- The command of a pass of some queries; it has no id before its grant. -/
def passCmd (list : Option Nat) (qs : List Waiter) : Option Cmd :=
  match qs with
  | [] => none
  | q :: _ => some
      { id := 0, serves := .pass q.index q.gen list (qs.map Waiter.key), owner := q.owner, level := q.level, kill := q.kill,
        stage := 5, units := [], phase := .ready, deadline := q.deadline, startTs := q.startTs, grantTs := 0,
        preemptTs := none, asks := [], left := [], reruns := 0, ovfReruns := 0, spent := 0 }

/-- The passes that are ready and could run on a unit. -/
def readyPasses (s : State) (u : UnitId) : List Cmd :=
  let ws := caseWaiters s ++ jobWaiters s
  let scans (w : Waiter) : List (Option Nat) :=
    match u.kind with
    | 7 => w.lists.map some
    | 12 => if w.scree then [none] else []
    | _ => []
  (ws.flatMap fun w => (scans w).filterMap fun l => passCmd l (passQueries ws l w)).eraseDups

/-- The queries of a granted pass wait for it no longer (R177). -/
def takeWaiters (s : State) (list : Option Nat) (keys : List Nat) : State :=
  let lists (ls : List Nat) : List Nat := ls.filter fun l => decide (list ≠ some l)
  let scree (b : Bool) : Bool := b && list.isSome
  let ofCase (c : Case) : Case :=
    { c with srch := { c.srch with waitLists := lists c.srch.waitLists, waitScree := scree c.srch.waitScree } }
  let ofJob (j : ShardJob) : ShardJob := { j with waitLists := lists j.waitLists, waitScree := scree j.waitScree }
  let jobs := modifyWhere s.strata.jobs (fun j => keys.contains j.key) ofJob
  { s with cases := modifyWhere s.cases (fun c => keys.contains c.hd.key) ofCase, strata := { s.strata with jobs := jobs } }

/-! ## Selection (R128) -/

/-- The kind of a BACKGROUND operation that moves pages, if a command serves one (R151). -/
def moveOf (s : State) (c : Cmd) : Option BgKind :=
  match c.serves with
  | .bg op => ((s.bg.find? fun b => b.id == op).map BgOp.kind).filter fun k => match k with
    | .prefixRegister _ _ _ _ _ => false
    | _ => true
  | _ => none

/-- Whether a command goes before another: level, then virtual time, then partition, then deadline, then start; BACKGROUND
operations run in the order they were applied. Among page moves the zeroing of frames comes first, and then the order in which they
were applied (R128, R151). -/
def goesBefore (s : State) (a b : Cmd) : Bool :=
  if a.level ≠ b.level then decide (a.level < b.level)
  else if a.level = 3 ∧ (moveOf s a).isSome ∧ (moveOf s b).isSome then
    let za := (moveOf s a).any isZeroing
    let zb := (moveOf s b).any isZeroing
    if za ≠ zb then za else decide (a.id < b.id)
  else if a.owner ≠ b.owner then
    let p := vtimeOf s a.owner a.level
    let q := vtimeOf s b.owner b.level
    fracLt p q || (!fracLt q p && decide (a.owner < b.owner))
  else if a.deadline ≠ b.deadline then decide (a.deadline < b.deadline)
  else if a.startTs ≠ b.startTs then decide (a.startTs < b.startTs)
  else decide (a.id < b.id)

/-- The core of an array or a vector unit. -/
def coreOf (u : UnitId) : List Nat := if u.kind = 3 then [u.idx / 4] else if u.kind = 4 then [u.idx] else []

/-- Whether a work area that a command would work in, its level's on each core of a set of engines, holds the partial results of
another command, which has yielded (R133, R138). -/
def areaTaken (s : State) (c : Cmd) (us : List UnitId) : Bool :=
  let cores := us.flatMap coreOf
  s.sched.cmds.any fun x =>
    x.id != c.id && x.level == c.level && decide (x.phase = .yielded) && (x.units.flatMap coreOf).any cores.contains

/-- The commands that may be granted when a unit is free: ready or yielded, in need of the unit, with weights that are here
or that a switch may bring, and work areas that no yielded command holds; BACKGROUND work only while the power manager does not
withhold it (R324). -/
def candidates (s : State) (u : UnitId) : List Cmd :=
  ((s.sched.cmds.filter fun c => decide (c.phase ≠ .running)) ++ readyPasses s u).filter fun c =>
    (engines s c u).contains u && decide (weightsOf s c ≠ .away) && !(decide (c.level = 3) && s.power.withhold) &&
    !areaTaken s c (engines s c u)

/-- The command that the scheduler selects for a unit. -/
def select (s : State) (u : UnitId) : Option Cmd := (sortBy (goesBefore s) (candidates s u)).head?

/-! ## Grants (R130, R176, R213) -/

/-- How many commands of one kind share a grant: coarse search takes 128 queries, a verify pass 64 cases. -/
def batchLimit (s : State) (c : Cmd) : Nat :=
  match c.serves with
  | .cases ks => match ks.head?.bind (caseOf s) with
    | some x => match contractOf s x.hd.contract with
        | some k => if x.stage = .coarse then 128 else if decoding x ∧ !drafting k.rcd x then 64 else 1
        | none => 1
    | none => 1
  | _ => 1

/-- What commands of one batch share: the index of coarse search, the model of a verify pass (R176, R213). -/
def batchKey (s : State) (c : Cmd) : Option (Nat × Nat) :=
  match (cmdKeys c).head?.bind (caseOf s) with
  | none => none
  | some x => match contractOf s x.hd.contract with
    | none => none
    | some k =>
      if x.stage = .coarse then some (0, k.rcd.refs.index)
      else if decoding x then (stageModel k.rcd x .generation).map fun m => (1, m)
      else none

/-- The ready commands that join a command at its grant, in the order of R128. -/
def batchOf (s : State) (c : Cmd) : List Cmd :=
  let alike := s.sched.cmds.filter fun x =>
    x.id != c.id && decide (x.phase = .ready) && x.level == c.level && decide (batchKey s x = batchKey s c)
  let room (a : Cmd × List Cmd) (x : Cmd) : Cmd × List Cmd :=
    let n := (cmdKeys c).length + sumNat (a.2.map fun y => (cmdKeys y).length) + (cmdKeys x).length
    if n ≤ batchLimit s c then (a.1, a.2 ++ [x]) else a
  if c.phase = .yielded ∨ batchLimit s c ≤ 1 ∨ batchKey s c = none then []
  else ((sortBy (goesBefore s) alike).foldl room (c, [])).2

/-- Whether a command runs its cores in GANG mode: coarse search does (R176, R241). -/
def gangs (s : State) (c : Cmd) : Bool := ((cmdKeys c).head?.bind (caseOf s)).any fun x => decide (x.stage = .coarse)

/-- The cores of a command's arrays take its mode: all their arrays that it needs are free (R241). -/
def setModes (s : State) (c : Cmd) (us : List UnitId) : State :=
  let cores := ((us.filter fun u => u.kind == 3).map fun u => u.idx / 4).eraseDups
  updSched s fun d =>
    let others := d.gang.filter fun i => !cores.contains i
    { d with gang := if gangs s c then others ++ cores else others }

/-- Grants a command that the scheduler holds: its batch joins it, and it takes its engines at one instant (R130). -/
def grantCmd (s : State) (c : Cmd) (us : List UnitId) : State :=
  let more := batchOf s c
  let keys := more.flatMap cmdKeys
  let serves : Serves := match c.serves with
    | .cases ks => .cases (ks ++ keys)
    | x => x
  let ids := more.map Cmd.id
  let s := updSched s fun d => { d with cmds := d.cmds.filter fun x => !ids.contains x.id }
  let s := setModes s c us
  let s := updCmd s c.id fun c =>
    { c with serves := serves, phase := .running, units := us, grantTs := s.tclk, preemptTs := none, left := [] }
  (cmdKeys c).foldl startPrefill s

/-- Grants a pass that has just formed: it becomes a command. -/
def grantPass (s : State) (c : Cmd) (us : List UnitId) : State :=
  let s := match c.serves with
    | .pass _ _ list keys => takeWaiters s list keys
    | _ => s
  let x := { c with id := s.nextCmd, phase := .running, units := us, grantTs := s.tclk }
  { updSched s fun d => { d with cmds := d.cmds ++ [x] } with nextCmd := s.nextCmd + 1 }

/-! ## Preemption (R136 to R138) -/

/-- Kills a holder of the KILL form: its work is discarded, and it begins again when it is next selected (R136, R143). -/
def killHolder (s : State) (c : Cmd) : State :=
  let s := chargeCmd s c
  let spent := ((cmdOf s c.id).map Cmd.spent).getD 0
  let s := updStats s c.owner fun p => { p with kills := p.kills + 1, killedCycles := p.killedCycles + spent / 15 }
  readyAgain s c freshCmd

/-- Asks a holder for its engines for partition `owner`: one of the KILL form gives them at once, one of the TILE form at its
next preemption point. -/
def askHolder (s : State) (owner : Nat) (h : Cmd) : State :=
  if h.kill ∧ h.level ≠ 3 then killHolder s h
  else updCmd s h.id fun c =>
    let asks := if c.asks.any fun e => e.1 == owner then c.asks else c.asks ++ [(owner, s.tclk)]
    if c.preemptTs.isSome then { c with asks := asks }
    else { c with preemptTs := some s.tclk, asks := asks, left := c.units.filter fun u => u.kind == 3 }

/-- Starts the switch that a command's weights wait for: a switch at BACKGROUND gives way, and without a free page mover the
lower-level holders of one are asked for it (R135). -/
def startSwitch (s : State) (c : Cmd) (m : Nat) : State :=
  let s := endSwitch s
  match freeMover s with
  | some i => beginSwitch s c m i
  | none =>
    let hs := (holders s [{ kind := 13, idx := 0 }, { kind := 13, idx := 1 }]).filter fun h => decide (c.level < h.level)
    (hs.take 1).foldl (fun s h => askHolder s c.owner h) s

/-- Grants a command whose engines are free, or starts the switch that its weights wait for. -/
def grant (s : State) (c : Cmd) (us : List UnitId) : State :=
  match weightsOf s c with
  | .switch m => startSwitch s c m
  | _ => if c.id = 0 then grantPass s c us else grantCmd s c us

/-- A holder comes to its preemption point and yields; it resumes on the same engines (R136, R138). -/
def yieldCmd (s : State) (c : Cmd) : State :=
  let s := updStats (noteWait s c) c.owner fun p => { p with yields := p.yields + 1 }
  readyAgain s c fun c => { c with phase := .yielded, preemptTs := none, asks := [], left := [] }

/-- The fill of a passage cache that a command runs, if it runs one. -/
def fillOf (s : State) (c : Cmd) : Option BgOp :=
  s.bg.find? fun b => decide (c.serves = .bg b.id) && match b.kind with
    | .cacheFill _ _ => true
    | _ => false

/-- Whether a command without arrays that has been asked to yield has come to its engines' preemption point: the end of an
instruction, a token's draw, a block of codes, a channel burst or a 4 KiB transfer, within the time that R136 gives its engine. An
array's point is the end of its tile. -/
def atPoint (s : State) (c : Cmd) : Bool :=
  match c.preemptTs with
  | none => false
  | some t =>
    decide (c.phase = .running) && !(c.units.any fun v => v.kind == 3) &&
    decide (t + Config.pointDelay c.id t % (tableTime (slowestUnit c).kind + 1) ≤ s.tclk)

/-- A command at its preemption point yields; a cache fill that loses its place is dropped (R136, R204). -/
def yieldAtPoint (s : State) (c : Cmd) : State :=
  match fillOf s c with
  | some b => finishBg s b .ok []
  | none => yieldCmd s c

/-- The commands that have come to their preemption points yield. -/
def yieldPoints (s : State) : State := (s.sched.cmds.filter (atPoint s)).foldl yieldAtPoint s

/-- Selects for a unit: the command is granted when its engines are free, and lower-level holders are asked for them when
nothing else holds any (R128, R130). -/
def selectFor (s : State) (u : UnitId) : State :=
  match select s u with
  | none => s
  | some c =>
    let us := engines s c u
    let s := if us.any (switchHolds s) && (s.sched.poolLoading.any fun p => p.level == 3 && decide (c.level < 3)) then endSwitch s
      else s
    let hs := holders s us
    if us.any (switchHolds s) then s
    else if hs = [] then grant s c us
    else if hs.all fun h => decide (c.level < h.level) then
      let s := hs.foldl (fun s h => askHolder s c.owner h) s
      if holders s us = [] then grant s c us else s
    else s

/-- COMMAND_SELECTION (R128): an engine falls free, or a command becomes ready that needs it. -/
def execCommandSelection (u : UnitId) (s : State) : Res :=
  guardUnit (isEngine u) <| .next <|
    if runState s.boot.state then selectFor (yieldPoints (chargeAll s)) u else s

/-! ## The end of a tile (R238 to R246) -/

/-- The second array of a pair (R245). -/
def twinOf (u : UnitId) : UnitId := { u with idx := if u.idx % 2 = 0 then u.idx + 1 else u.idx - 1 }

/-- Whether a core is in GANG mode (R241). -/
def inGang (s : State) (core : Nat) : Bool := s.sched.gang.contains core

/-- Whether an array of a command may run a tile: at most the steps of its operation, at most 64 rows and columns, or 128 in GANG
mode, and in pair mode on the two arrays of a pair of a core in SPLIT mode, both held (R238, R241, R245). -/
def tileFits (s : State) (c : Cmd) (u : UnitId) (t : TileRun) : Bool :=
  let gang := inGang s (u.idx / 4)
  let most := if gang then 128 else 64
  decide (1 ≤ t.steps ∧ t.steps ≤ t.op.most ∧ t.rows.length ≤ most ∧ t.cols.length ≤ most) &&
  (!t.op.pairs || (!gang && c.units.contains (twinOf u)))

/-- The area in which a command's tile accumulates: that of its chain, or one that holds nothing (R239). -/
def areaOf (s : State) (c : Cmd) (u : UnitId) (block : Nat) : TileArea :=
  let core := u.idx / 4
  let quad := if inGang s core then u.idx % 4 else 0
  (s.sched.areas.find? fun r => r.cmd == c.id && r.core == core && r.quad == quad && r.block == block).getD
    (freshArea c.id core quad block)

/-- The detections of a drained tile on an array: an overflow, which names its cell, a difference of a pair, or a checksum, which
names the first row and column that fail (R244 to R246, R409). -/
def tileDetections (s : State) (c : Cmd) (u : UnitId) (t : TileRun) (cs : List (List Cell)) (d : TileArea) : List Detection :=
  let at' (i : Option Nat) : List Byte := leBytes 1 (i.getD 0xFF)
  let served := servedBytes s [c]
  let make (det : Nat) (payload : List Byte) : Detection :=
    { det := det, unit := u, payload := payload, injected := false, dram := none }
  (match overflowed cs t with
   | some e => [make 0x03 (at' (some e.1) ++ at' (some e.2) ++ served)]
   | none => []) ++
  if t.op.pairs then
    match pairDiffers cs t with
    | some n => [make 0x02 (leBytes 2 n ++ leBytes 2 (unitCode (twinOf u)) ++ served)]
    | none => []
  else if checksumOk d then [] else [make 0x01 (at' (badRow d) ++ at' (badCol d) ++ served)]

/-- A tile fails: each detection is recorded and counted on its unit, and the command is rerun once, for the first (R240, R338,
R339). -/
def failTile (s : State) (c : Cmd) : List Detection → State
  | [] => s
  | d :: rest =>
    let count (s : State) (d : Detection) : State :=
      escalate (detectorRecord s d.det (unitCode d.unit) false false d.payload) d.unit d.det
    rest.foldl count (dataPath (noteWait s c) d [c])

/-- A tile passes: its outputs stand checked in the command's work area. An array of a command that was asked to yield has come to
its preemption point, with its twin if the tile ran on both, and the command yields when all have (R136, R138, R238, R240). -/
def passTile (s : State) (c : Cmd) (u : UnitId) (t : TileRun) (d : TileArea) : State :=
  let mine (r : TileArea) : Bool := r.cmd == d.cmd && r.core == d.core && r.quad == d.quad && r.block == d.block
  let s := updSched s fun x => { x with areas := (x.areas.filter fun r => !mine r) ++ [endChain d t.next] }
  if c.preemptTs.isNone then s
  else
    let left := c.left.filter fun v => decide (v ≠ u) && !(t.op.pairs && decide (v = twinOf u))
    let s := updCmd s c.id fun c => { c with left := left }
    if left = [] then yieldCmd s c else s

/-- A tile of a command drains and is compared: nothing of it is used unless the compare passes (R240). -/
def endTile (s : State) (c : Cmd) (u : UnitId) (t : TileRun) : State :=
  let t := quadrant (inGang s (u.idx / 4)) (u.idx % 4) t
  let pre := areaOf s c u t.block
  let cs := tileCells pre t
  let d := areaAfter pre t cs
  match tileDetections s c u t cs d with
  | [] => passTile (adopt s u) c u t d
  | ds => failTile (adopt s u) c ds

/-- TILE_END (R240): an array drains a tile of a command. The array takes a requested divider at the same boundary (R138,
R311). -/
def execTileEnd (cmd : Nat) (u : UnitId) (t : TileRun) (s : State) : Res :=
  guardUnit (decide (u.kind = 3 ∧ u.idx < 64)) <| .next <| match cmdOf s cmd with
    | none => s
    | some c => if c.phase = .running ∧ c.units.contains u ∧ tileFits s c u t then endTile s c u t else s

/-! ## Overruns and model switches -/

/-- PREEMPT_WDOG_TIMEOUT (R143, R335): an engine has not come free 2.0 µs after a request. Its unit is fenced. -/
def execPreemptWdogTimeout (u : UnitId) (s : State) : Res :=
  guardUnit (isEngine u) <| .next <| match (holders s [u]).find? fun c => c.preemptTs.isSome with
    | none => s
    | some c =>
      let w := s.tclk - c.preemptTs.getD s.tclk
      overrunReport (noteBlock s c) u w 2

/-- MODEL_SWITCH_LOAD_DONE (R135): a SLICED model's footprint has arrived in the pool of every Garnet. -/
def execModelSwitchLoadDone (m : Nat) (s : State) : Res :=
  .next <| match s.sched.poolLoading with
    | some p =>
      if p.model = m then updSched (endSwitch s) fun d => { d with poolModel := some m } else s
    | none => s

/-- The running form of a case's stage is abandoned for another one: its uncommitted work is discarded (R123). -/
def switchRunning (s : State) (k : Contract) (c : Case) (f : Form) : State :=
  let s := switchForm (dropCase s c.hd.key) c c.stage f
  match caseOf s c.hd.key with
  | some x => addCaseCmd s x k (stageNum x.stage)
  | none => s

end Sys2Proof.Machine
end

