-- ==== Sys2Proof/Machine/VectorUnit.lean ====
section
/-! DEFINITION. The bitonic instructions of the vector unit, and the selection trees built from them (R248). -/

namespace Sys2Proof.Machine

/-- How an instruction compares its keys. -/
inductive KeyKind where
  | fp
  | int
  | unsigned
  deriving DecidableEq, Repr

/-- A lane of a key register, with its index. -/
structure Lane where
  key : Word
  idx : Nat
  deriving DecidableEq, Repr

/-- A key as a number. -/
def keyNumber (k : KeyKind) (w : Word) : Int :=
  match k with
  | .fp => fpKey w
  | .int => w.toInt
  | .unsigned => w.toNat

/-- The order of lanes: by key in a direction, a NaN last in either one, and equal keys by lower index (R248). -/
def laneBefore (k : KeyKind) (down : Bool) (a b : Lane) : Bool :=
  let nan (l : Lane) : Bool := decide (k = .fp) && fpIsNaN l.key
  if nan a ≠ nan b then nan b
  else
    let x := keyNumber k a.key
    let y := keyNumber k b.key
    if x = y ∨ nan a then decide (a.idx < b.idx) else if down then decide (y < x) else decide (x < y)

/-- BSORT: a register in order. -/
def bsort (k : KeyKind) (down : Bool) (ls : List Lane) : List Lane := sortBy (laneBefore k down) ls

/-- BMERGE: the first `n` of two registers that are in order. One instruction keeps 64, and four keep 256. -/
def bmerge (k : KeyKind) (down : Bool) (n : Nat) (a b : List Lane) : List Lane := (sortBy (laneBefore k down) (a ++ b)).take n

/-- One level of a tree: neighbours are merged. -/
def mergePairs (k : KeyKind) (down : Bool) (n : Nat) : List (List Lane) → List (List Lane)
  | a :: b :: rest => bmerge k down n a b :: mergePairs k down n rest
  | ls => ls

/-- A tree of merges over registers in register-number order, of at most `f` levels. -/
def mergeTree (k : KeyKind) (down : Bool) (n : Nat) : Nat → List (List Lane) → List Lane
  | _, [] => []
  | _, [a] => a.take n
  | 0, a :: _ => a.take n
  | f + 1, ls => mergeTree k down n f (mergePairs k down n ls)

/-- The first `n` of up to 262,144 lanes: registers of 64 lanes are sorted and merged. The tree depends on the element count
alone. -/
def bitonicTop (k : KeyKind) (down : Bool) (n : Nat) (ls : List Lane) : List Lane :=
  let regs := (List.range (ceilDiv ls.length 64)).map fun r => bsort k down ((ls.drop (64 * r)).take 64)
  mergeTree k down n 12 regs

/-- Keys with their places as indices. -/
def lanesOf (ws : List Word) : List Lane := (List.range ws.length).zipWith (fun i w => { key := w, idx := i }) ws

end Sys2Proof.Machine
end

