-- ==== Sys2Proof/Machine/Search.lean ====
section
/-! DEFINITION. Coarse search and list scan (chapter 07): keys (R175), snapshots (R182), distance intervals (R257), passes
(R177 to R179), certified candidates (R184 to R186) and the shard merge (R192). -/

namespace Sys2Proof.Machine

/-! ## Coarse search (R175, R176) -/

/-- The product of two integer vectors. -/
def dotInt (a b : List Int) : Int := sumInt (a.zipWith (· * ·) b)

/-- The key of a centroid row for a query. -/
def coarseKey (metric : Nat) (sc : Word) (qv : QueryVec) (row : List Int) : Word :=
  let dot := fpOfInt (dotInt qv.q row)
  if metric = 0 then
    fpSub .nearest (fpMul .nearest sc (fpOfInt (dotInt row row)))
      (fpMul .nearest (fpMul .nearest (fpOfInt 2) qv.scale) dot)
  else fpNeg (fpMul .nearest qv.scale dot)

/-- The visited lists: the NPROBE lists of smallest key, the lower number first of equals. -/
def visitedLists (x : Index) (qv : QueryVec) (nprobe : Nat) : List Nat :=
  (bitonicTop .fp false nprobe (lanesOf (x.centroids.map (coarseKey x.cfg.metric x.centScale qv)))).map Lane.idx

/-- S of a snapshot taken now: the largest committed SEQ (R182). -/
def snapSeq (x : Index) : Nat := x.nextSeq - 1

/-! ## Distance intervals (R256, R257) -/

/-- The number m × 2^e that an fp32 word stands for. What an infinity or a NaN does in a codebook is open. -/
def dyadicOf (w : Word) : Int × Int :=
  match fpDecode w with
  | .fin neg m e => (fpSigned neg m, e)
  | _ => ((Config.freeWord w.toNat).toNat, 0)

/-- The exact product of two dyadics. -/
def dyadicMul (a b : Int × Int) : Int × Int := (a.1 * b.1, a.2 + b.2)

/-- The exact sum of two dyadics. -/
def dyadicPlus (a b : Int × Int) : Int × Int := dyadicAdd a.1 a.2 b.1 b.2

/-- The dimensions of a subspace, D_s. -/
def subDims (x : Index) : Nat := 256 / max 1 x.cfg.codeBytes

/-- Element `i` of codeword `k` of subspace `m`. -/
def codeElem (x : Index) (m k i : Nat) : Word :=
  let d := subDims x
  let o := 2 * (256 * m * d + k * d + i)
  fpOfBf16 (BitVec.ofNat 16 (x.codebook.getD o 0 + 256 * x.codebook.getD (o + 1) 0))

/-- Element `i` of subspace `m` of the reconstruction of an entry of a list whose code byte is `k` (R256). -/
def reconElem (x : Index) (list m k i : Nat) : Int × Int :=
  let c := (x.centroids.getD list []).getD (m * subDims x + i) 0
  dyadicPlus (dyadicMul (dyadicOf x.centScale) (c, 0)) (dyadicOf (codeElem x m k i))

/-- The exact term of a subspace: a squared distance for L2, a product otherwise. -/
def exactTerm (x : Index) (qv : QueryVec) (list m k : Nat) : Int × Int :=
  (List.range (subDims x)).foldl (fun a i =>
    let q := dyadicMul (dyadicOf qv.scale) (qv.q.getD (m * subDims x + i) 0, 0)
    let y := reconElem x list m k i
    let d := dyadicPlus q (-y.1, y.2)
    dyadicPlus a (if x.cfg.metric = 0 then dyadicMul d d else dyadicMul q y)) (0, 0)

/-- One table entry: the exact term rounded outward, and further out by what the order of its operations costs. -/
def tableEntry (x : Index) (qv : QueryVec) (list m k : Nat) (hi : Bool) : Word :=
  let t := exactTerm x qv list m k
  let n : Int := Config.tableSlack qv.q qv.scale list m k hi
  if hi then fpMoved (fpOfDyadic .up t.1 t.2) n else fpMoved (fpOfDyadic .down t.1 t.2) (-n)

/-- The terms of a code summed over its subspaces in order. -/
def sumTerms (x : Index) (qv : QueryVec) (list : Nat) (code : List Nat) (hi : Bool) : Word :=
  let r : Rounding := if hi then .up else .down
  let ts := (List.range x.cfg.codeBytes).map fun m => tableEntry x qv list m (code.getD m 0) hi
  match ts with
  | [] => 0#32
  | t :: rest => rest.foldl (fpAdd r) t

/-- ‖q‖ rounded upward. -/
def queryNorm (qv : QueryVec) : Word :=
  match fpDecode qv.scale with
  | .fin _ m e => fpRootOf .up ((dotInt qv.q qv.q).toNat * m ^ 2) e
  | _ => qv.scale

/-- [LO, HI] of an entry: bounds of the distance of R174 (R257). -/
def distInterval (x : Index) (qv : QueryVec) (list : Nat) (code : List Nat) (bound : Nat) : Word × Word :=
  let eps := pqEps bound
  let lo := sumTerms x qv list code false
  let hi := sumTerms x qv list code true
  if x.cfg.metric = 0 then
    let sq := if fpLt lo 0#32 then 0#32 else lo
    let a := fpSub .down (fpSqrt .down sq) eps
    let a := if fpLt a 0#32 then 0#32 else a
    let b := fpAdd .up (fpSqrt .up hi) eps
    (fpMul .down a a, fpMul .up b b)
  else
    let n := queryNorm qv
    let one := fpOfInt 1
    let lo' := if x.cfg.metric = 2 then fpSub .down one hi else fpNeg hi
    let hi' := if x.cfg.metric = 2 then fpSub .up one lo else fpNeg lo
    (fpAdd .down lo' (fpMul .down (fpNeg n) eps), fpAdd .up hi' (fpMul .up n eps))

/-! ## Visibility and passes (R178, R182, R183) -/

/-- Whether a delete with SEQ in (after, upto] names an id. -/
def deletedIn (rs : List ScreeRec) (id after upto : Nat) : Bool :=
  rs.any fun d => d.del && d.id == id && decide (after < d.seq ∧ d.seq ≤ upto)

/-- The candidates that a pass over a list finds for a query under the snapshot (g, q). -/
def listHits (x : Index) (qv : QueryVec) (g q list : Nat) : List Candidate :=
  let parts := genParts x g
  let es := (parts.1[list]?.map IdxList.entries).getD []
  let seen := ((List.range es.length).zip es).filter fun e => !deletedIn parts.2 e.2.id 0 q
  seen.map fun e =>
    let d := distInterval x qv list e.2.code e.2.bound
    { id := e.2.id, lo := d.1, hi := d.2, list := list, shard := x.cfg.shard, scree := false, pos := e.1, seq := 0 }

/-- The candidates that a pass over the scree finds. -/
def screeHits (x : Index) (qv : QueryVec) (g q : Nat) : List Candidate :=
  let rs := (genParts x g).2
  let seen := rs.filter fun r => !r.del && decide (r.seq ≤ q) && !deletedIn rs r.id r.seq q
  seen.map fun r =>
    let d := distInterval x qv r.list r.code r.bound
    { id := r.id, lo := d.1, hi := d.2, list := r.list, shard := x.cfg.shard, scree := true, pos := 0, seq := r.seq }

/-- What a pass finds for a query. -/
def passHits (s : State) (index : Nat) (list : Option Nat) (qv : QueryVec) (g q : Nat) : List Candidate :=
  match indexOf s index with
  | none => []
  | some x => match list with
    | some l => listHits x qv g q l
    | none => screeHits x qv g q

/-! ## Certified candidates (R184 to R186) -/

/-- The lexicographic order of two lists of numbers. -/
def lexLt : List Int → List Int → Bool
  | a :: as, b :: bs => decide (a < b) || (decide (a = b) && lexLt as bs)
  | _, _ => false

/-- The order of R184. -/
def candBefore (a b : Candidate) : Bool :=
  let key (c : Candidate) : List Int := [fpKey c.hi, fpKey c.lo, c.id, c.shard, c.seq, c.list, c.pos]
  lexLt (key a) (key b)

/-- The smallest of some fp32 values, or +∞. -/
def fpMinOf (ws : List Word) : Word := ws.foldl (fun a w => if fpLt w a then w else a) (fpInf false)

/-- The committed candidate list of visible entries `v` (R185), where other shards left out entries from `lOut` up. -/
def certify (v : List Candidate) (c : Nat) (lOut : Word) (g q : Nat) : CandList :=
  let sorted := sortBy candBefore v
  let r := sorted.take c
  let u := (r.getLast?.map Candidate.hi).getD (fpInf false)
  let out := fpMinOf (lOut :: (sorted.drop c).map Candidate.lo)
  let exact := r.isEmpty || fpLt u out
  { cands := r, exact := exact, short := decide (v.length < c), u := u, lOut := out,
    slack := if exact then 0#32 else fpSub .nearest u out, gen := g, screeSeq := q }

/-- The bytes of a candidate (R186). -/
def candBytes (c : Candidate) : List Byte :=
  leBytes 8 c.id ++ leBytes 4 c.lo.toNat ++ leBytes 4 c.hi.toNat ++
  leBytes 4 (c.list % 2 ^ 20 + 2 ^ 24 * c.shard + 2 ^ 31 * bit c.scree) ++ leBytes 4 c.pos ++ leBytes 8 c.seq

/-- The bytes of a candidate list (R186). -/
def candListBytes (l : CandList) : List Byte :=
  leBytes 2 l.cands.length ++ leBytes 2 (bit l.exact + 2 * bit l.short) ++ leBytes 4 l.u.toNat ++ leBytes 4 l.lOut.toNat ++
  leBytes 4 l.slack.toNat ++ leBytes 8 l.gen ++ leBytes 8 l.screeSeq ++ l.cands.flatMap candBytes

/-- The candidate at an offset of such bytes. -/
def candAt (b : List Byte) (o : Nat) : Candidate :=
  let w := le b (o + 16) 4
  { id := le b o 8, lo := BitVec.ofNat 32 (le b (o + 8) 4), hi := BitVec.ofNat 32 (le b (o + 12) 4), list := w % 2 ^ 20,
    shard := bitsOf w 26 24, scree := bitOf w 31, pos := le b (o + 20) 4, seq := le b (o + 24) 8 }

/-! ## The list-scan stage (R177 to R179, R192) -/

/-- A change of a case's search state. -/
def updSrch (s : State) (key : Nat) (g : SearchState → SearchState) : State := updCase s key fun c => { c with srch := g c.srch }

/-- Whether a pass still serves a query. -/
def inPass (s : State) (key : Nat) : Bool := !(cmdsOfCase s key).isEmpty

/-- List scan of a case commits when its passes have committed and every shard has answered (R179, R192). -/
def endScan (s : State) (key : Nat) (p : Prediction) : State :=
  match caseOf s key with
  | none => s
  | some c => match contractOf s c.hd.contract with
    | none => s
    | some k =>
      let r := c.srch
      if c.stage = .listScan ∧ caseRuns c ∧ r.waitLists = [] ∧ !r.waitScree ∧ r.shardsLeft = [] ∧ !inPass s key then
        let l := certify r.found k.rcd.lim.candC r.shardLOut r.gen r.seq
        endStage (reapGens (updSrch s key fun r => { r with cand := some l, found := [] })) key p
      else s

/-- This module's shard of a remote case commits: the list goes to the home module, then the signal of its stage cairn
(R150, R192). -/
def endShard (s : State) (key : Nat) : State :=
  match s.strata.jobs.find? fun j => j.key == key with
  | none => s
  | some j =>
    if j.waitLists = [] ∧ !j.waitScree ∧ !inPass s key then
      let c := ((rsvOf s j).map ShardRsv.candC).getD 0
      let shard := ((indexOf s j.index).map fun x => x.cfg.shard).getD 0
      let l := certify j.found c (fpInf false) j.gen j.seq
      let caseIs : List Byte := leBytes 4 j.contract ++ leBytes 4 j.cairn ++ leBytes 8 j.caseKey
      let s := reapGens { s with strata := { s.strata with jobs := s.strata.jobs.filter fun x => x.key != key } }
      let s := sendMsg s 0x41 j.home (caseIs ++ leBytes 1 shard ++ candListBytes l)
      sendMsg s 0x20 j.home (leBytes 4 j.cairn ++ leBytes 4 1 ++ leBytes 8 j.caseKey)
    else s

/-- Raises the virtual time of the partitions that have a pass ready at a level now and had no command ready there in the state
`before` (R129). -/
def raiseForPass (before s : State) (key : Nat) : State :=
  match (caseWaiters s ++ jobWaiters s).find? fun w => w.key == key with
  | none => s
  | some w =>
    let old := readyOwners before w.level
    (passOwners s w.level).foldl (fun s o => raiseAmong s o w.level old) s

/-- DISPATCH of a case's query to its shard modules: they run the list scan of their shards alone (R12, R192, R299). -/
def dispatchShards (s : State) (k : Contract) (c : Case) (qv : QueryVec) (lists : List Nat) : State :=
  let data := caseRef c ++ qv.q.map (BitVec.ofInt 8) ++ leBytes 4 qv.scale.toNat ++ leBytes 8 c.hd.startTs ++ lists.flatMap (leBytes 4)
  (contractPeers k).foldl (fun s e => sendMsg s 0x40 e.1 data) s

/-- Coarse search commits for one case: its visited lists and its snapshot, which it keeps through the list scan (R176, R182, R189),
and its waits (R177). -/
def commitCoarse (s : State) (key : Nat) : State :=
  match caseOf s key with
  | none => s
  | some c => match contractOf s c.hd.contract with
    | none => s
    | some k => match indexOf s k.rcd.refs.index, c.enc.query with
      | some x, some qv =>
        let lists := visitedLists x qv k.rcd.lim.nprobe
        let before := s
        let s := updSrch s key fun r =>
          { r with visited := lists, gen := x.gen, seq := snapSeq x, snapped := true, waitLists := lists, waitScree := true,
                   holdExpired := false, found := [], shardsLeft := (contractPeers k).map Prod.snd, shardLOut := fpInf false }
        raiseForPass before (dispatchShards (endStage s key { forms := [] }) k c qv lists) key
      | _, _ => s

/-- COARSE_SEARCH_COMMIT (R175, R176): the command commits for every case it serves. -/
def execCoarseSearchCommit (cmd : Nat) (det : Option Detection) (s : State) : Res :=
  .next <| match cmdOf s cmd with
    | none => s
    | some m =>
      if m.stage = 4 ∧ mayCommit s m then
        commitUnder s det [m] fun s => (cmdKeys m).foldl commitCoarse (retireCmd s m)
      else s

/-- HOLD_EXPIRY (R177): the hold of a query of this module, or of a shard's, has expired. -/
def execHoldExpiry (c : Nat) (s : State) : Res :=
  let before := s
  let s := updSrch s c fun r => { r with holdExpired := true }
  let job (j : ShardJob) : ShardJob := { j with holdExpired := true }
  let s := { s with strata := { s.strata with jobs := modifyWhere s.strata.jobs (fun j => j.key == c) job } }
  .next (raiseForPass before s c)

/-- A pass commits for one query: its candidate state grows, and its scan may be complete (R178, R179). -/
def commitPass (s : State) (index : Nat) (list : Option Nat) (ps : List (Nat × Prediction)) (key : Nat) : State :=
  match caseOf s key, s.strata.jobs.find? fun j => j.key == key with
  | some c, _ =>
    let hits := match c.enc.query with
      | some qv => passHits s index list qv c.srch.gen c.srch.seq
      | none => []
    let p := ((ps.find? fun e => e.1 == key).map Prod.snd).getD { forms := [] }
    endScan (updSrch s key fun r => { r with found := r.found ++ hits }) key p
  | none, some j =>
    let hits := passHits s index list j.query j.gen j.seq
    let grow (j : ShardJob) : ShardJob := { j with found := j.found ++ hits }
    endShard { s with strata := { s.strata with jobs := modifyWhere s.strata.jobs (fun x => x.key == key) grow } } key
  | none, none => s

/-- LIST_PASS_COMMIT (R177 to R179): a pass over a list or over the scree commits for its queries; `ps` holds the predictions
of those whose list-scan stage ends with it. -/
def execListPassCommit (cmd : Nat) (ps : List (Nat × Prediction)) (det : Option Detection) (s : State) : Res :=
  .next <| match cmdOf s cmd with
    | none => s
    | some m => match m.serves with
      | .pass index _ list keys =>
        if mayCommit s m then
          commitUnder s det [m] fun s => keys.foldl (fun s k => commitPass s index list ps k) (retireCmd s m)
        else s
      | _ => s

end Sys2Proof.Machine
end

