-- ==== Sys2Proof/Machine/Encoding.lean ====
section
/-! DEFINITION. Intake (R154), embedding (R157 to R162) and encoding (R161 to R165). -/

namespace Sys2Proof.Machine

/-! ## Host memory under a case (R54, R202, R272) -/

/-- Whether the host still grants a case's access: it is asked again where the partition's accesses carry a PASID. -/
def caseGranted (s : State) (c : Case) (write : Bool) (addr len : Nat) : Bool :=
  atsGrants s c.hd.owner (grantsOf s c.hd.owner) (partPasid s c.hd.owner) write addr len

/-- A host access of a case fails: the HOST_DMA record, and the end of the case at its stage. -/
def caseDmaFails (s : State) (c : Case) (aer : Nat) : State :=
  let s := recordFunc s c.hd.owner 0x0104 (zeros 2 ++ leBytes 8 c.hd.caseId ++ leBytes 4 aer)
  endCase s c.hd.key .faultHostDma (stageNum c.stage)

/-- Writes a case's result buffer, where the host still grants it. -/
def caseWrite (s : State) (c : Case) (off : Nat) (b : List Byte) : State :=
  if caseGranted s c true (c.hd.resultAddr + off) b.length then hostWrite s c.hd.owner (c.hd.resultAddr + off) b
  else caseDmaFails s c 0

/-! ## Intake (R154) -/

/-- The payload of a case commits, with COMMITTED 0 (R154, R232). -/
def commitIntake (s : State) (c : Case) (m : Cmd) (b : List Byte) (wr : List DramWrite) : State :=
  let s := updCase (retireCmd (dramWrites s wr) m) c.hd.key fun c => { c with enc := { c.enc with payload := b } }
  let s := caseWrite s c c.hd.tokAt (zeros 4)
  if (caseOf s c.hd.key).all caseRuns then endStage s c.hd.key { forms := [] } else s

/-- The bytes of a piece: LEN of them (R152). -/
def pieceBytes (e : Scatter) (b : List Byte) : List Byte := (List.range e.len).map fun i => b.getD i 0

/-- The payload: the pieces in entry order, or the failure of the first that failed (R153, R154). -/
def joinPieces : List Scatter → List (HostRead (List Byte)) → HostRead (List Byte)
  | [], _ => .data []
  | _ :: _, [] => .data []
  | e :: es, .data b :: rs => match joinPieces es rs with
    | .data x => .data (pieceBytes e b ++ x)
    | bad => bad
  | _ :: _, bad :: _ => bad

/-- The reads of a payload's pieces leave, in entry order (R154). -/
def readPieces (s : State) (c : Case) : State := c.desc.sg.foldl (fun s e => hostRead s c.hd.owner e.addr e.len) s

/-- The reads of intake end: the whole payload commits, one byte for each of PAYLOAD_BYTES, or the case fails. -/
def endIntake (s : State) (key : Nat) (rs : List (HostRead (List Byte))) (wr : List DramWrite) : State :=
  stageCommit s key .intake none fun s c _ m =>
    if c.desc.sg.all fun e => caseGranted s c false e.addr e.len then
      let s := readPieces s c
      match joinPieces c.desc.sg rs with
      | .data b => commitIntake s c m ((List.range c.desc.payloadBytes).map fun i => b.getD i 0) wr
      | e => caseDmaFails s c (aerBit e)
    else caseDmaFails s c 0

/-- INTAKE_COMMIT (R154): `rs` holds what the reads of the pieces returned, in entry order. -/
def execIntakeCommit (c : Nat) (rs : List (HostRead (List Byte))) (wr : List DramWrite) (s : State) : Res :=
  .next (endIntake s c rs wr)

/-! ## Embedding (R157 to R162) -/

/-- The stored bytes of a row: zeros where the table lists none. -/
def rowOf (t : Table) (r : Nat) : List Byte :=
  ((t.rows.find? fun e => e.1 == r).map Prod.snd).getD (zeros (rowBytes t.format t.dim))

/-- The values of a row of packed bytes (R157). -/
def rowValues (t : Table) (r : Nat) : List Word :=
  let b := rowOf t r
  (List.range t.dim).map fun j =>
    if t.format = 0 then fpMul .nearest (fpAt b 0) (fpOfInt (signed 8 (byteAt b (4 + j))))
    else fpOfBf16 (BitVec.ofNat 16 (le b (2 * j) 2))

/-- The element-wise sum of two fp32 vectors. -/
def addVec (a b : List Word) : List Word := a.zipWith (fpAdd .nearest) b

/-- The values that an INDEX selects in a table (R158). -/
def lookupRow (s : State) (t : Table) (index : Nat) : List Word :=
  match t.kind with
  | 1 => rowValues t (keyedHash (BitVec.ofNat 64 t.hashKey) t.nrows index)
  | 2 => match tableOf s t.partA, tableOf s t.partB with
    | some a, some b =>
      let r := composedRow a.nrows b.nrows index
      addVec (rowValues a r.1) (rowValues b r.2)
    | _, _ => List.replicate t.dim 0#32
  | _ => rowValues t index

/-- The pooled vector of a bag, its entries added one at a time in descriptor order (R159). -/
def poolBag (s : State) (g : BagSpec) (t : Table) (fs : List FeatEntry) : List Word :=
  let row (e : FeatEntry) : List Word :=
    let v := lookupRow s t e.index
    if g.pool = 2 then v.map (fpMul .nearest e.weight) else v
  let p := fs.foldl (fun a e => addVec a (row e)) (List.replicate t.dim 0#32)
  if g.pool = 1 ∧ fs ≠ [] then p.map fun x => fpDiv .nearest x (fpOfInt fs.length) else p

/-- The quantized bags of a case in bag order. -/
def bagRows (s : State) (ft : Features) (d : CaseDesc) : List QuantRow :=
  (List.range ft.bags.length).map fun i => match ft.bags[i]? with
    | some g => match tableOf s g.table with
      | some t => quantizeRow (poolBag s g t (d.feats.filter fun e => e.bag == i))
      | none => quantizeRow []
    | none => quantizeRow []

/-- The three channel values of a pixel of a frame, 0 beyond it (R162). -/
def pixelAt (d : CaseDesc) (b : List Byte) (x y : Nat) : List Int :=
  let v (i : Nat) : Int := (byteAt b (y * d.rowPitch + x * pixelBytes d.pixFmt + i) : Int) - 128
  if d.frameW ≤ x ∨ d.frameH ≤ y then [0, 0, 0]
  else match d.pixFmt with
    | 1 => [v 0, v 1, v 2]
    | 2 => [v 2, v 1, v 0]
    | _ => [v 0, v 0, v 0]

/-- The patches of a frame in row-major order (R162). -/
def patchesOf (d : CaseDesc) (p : Nat) (b : List Byte) : List (List Int) :=
  let span := List.range p
  (List.range (ceilDiv d.frameH p)).flatMap fun py => (List.range (ceilDiv d.frameW p)).map fun px =>
    span.flatMap fun dy => span.flatMap fun dx => pixelAt d b (px * p + dx) (py * p + dy)

/-- The embedding of a case: its token stream or its patches, and its bags. -/
def embed (s : State) (k : Contract) (c : Case) : EncState :=
  let e := (modelOf s k.rcd.refs.encModel).map fun m => m.img.enc
  let base := (e.map EncoderFacts.byteBase).getD 0
  let patch := (e.map EncoderFacts.patch).getD 1
  let frame := c.desc.caseType == 3
  { c.enc with
    toks := if frame then [] else c.enc.payload.map fun v => base + v.toNat
    patches := if frame then patchesOf c.desc patch c.enc.payload else []
    bags := bagRows s k.rcd.feat c.desc }

/-- The embedding stage commits; saturations of its bags count (R159, R249). -/
def commitEmbedding (s : State) (c : Case) (k : Contract) (p : Prediction) : State :=
  let e := embed s k c
  let s := updCase s c.hd.key fun c => { c with enc := e }
  endStage (addSats s c.hd.key (sumNat (e.bags.map QuantRow.sats))) c.hd.key p

/-! ## Encoding (R161 to R165) -/

/-- A vector divided by its L2 norm (R163). DESIGN CHOICE, log 78: the spec names no operation by which an element is brought to
unit norm, and each element takes one fp32 division by the norm. -/
def normalized (xs : List Word) : List Word :=
  let sq := xs.foldl (fun a x => fpAdd .nearest a (fpMul .nearest x x)) 0#32
  let n := fpMoved (fpSqrt .nearest sq) (Config.normSlack xs)
  xs.map fun x => fpDiv .nearest x n

/-- What an encoder reads before the text, the patches or the summaries: BOS, and one position for each bag in bag order. -/
def encoderHead (c : Case) : List Position := .bos :: c.enc.bags.map Position.bag

/-- The input of the encoder: of FLOW, the tokens of the first min(PAYLOAD_BYTES, ENC_BYTES) bytes after it; of FRAME, the patches
(R161, R162). -/
def encoderInput (r : ContractRec) (c : Case) : List Position :=
  encoderHead c ++ if c.desc.caseType = 3 then c.enc.patches.map .patch else (c.enc.toks.take r.feat.encBytes).map .tok

/-- The query vector over what the encoder reads: 256 elements of the image's output head, normalized for the cosine metric, then
quantized (R163). -/
def queryRow (s : State) (k : Contract) (m : Model) (ps : List Position) : QuantRow :=
  let vals := headValues m.img 0 .query (plainCtx ps) 256
  quantizeRow (if (indexOf s k.rcd.refs.index).any fun x => x.cfg.metric == 2 then normalized vals else vals)

/-- The query vector commits (R163). -/
def commitQuery (s : State) (c : Case) (k : Contract) (ps : List Position) (p : Prediction) : State :=
  match modelOf s k.rcd.refs.encModel with
  | none => s
  | some m =>
    let r := queryRow s k m ps
    let q : QueryVec := { q := r.elems, scale := r.scale }
    let s := updCase s c.hd.key fun c => { c with enc := { c.enc with query := some q } }
    endStage (addSats s c.hd.key (ctxSats m.img 0 (plainCtx ps) 0 + r.sats)) c.hd.key p

/-- The chunks of a FILE case (R164). -/
def chunkCount (k : Contract) (c : Case) : Nat := ceilDiv c.desc.payloadBytes (max 1 k.rcd.feat.chunkLen)

/-- The input of chunk `i`: its tokens, followed by one SUM token (R164). -/
def chunkInput (r : ContractRec) (c : Case) (i : Nat) : List Position :=
  ((c.enc.toks.drop (i * r.feat.chunkLen)).take r.feat.chunkLen).map .tok ++ [.sum]

/-- The summary of a chunk that has committed. -/
def summaryOf (c : Case) (i : Nat) : List Word := ((c.enc.summaries.find? fun e => e.1 == i).map Prod.snd).getD []

/-- The input of the summary pass: BOS, the bags, the summaries in chunk order, and a SUM token (R164). -/
def summaryInput (k : Contract) (c : Case) : List Position :=
  encoderHead c ++ ((List.range (chunkCount k c)).map fun i => .summary (summaryOf c i)) ++ [.sum]

/-- A chunk commits its summary, the output at its SUM position; the case's next chunk, or its summary pass, is ready
(DESIGN CHOICE, log 157: one chunk of a case runs at a time, where R165 lets chunks run on different cores at once). -/
def commitChunk (s : State) (c : Case) (k : Contract) (m : Cmd) (i : Nat) : State :=
  match modelOf s k.rcd.refs.encModel with
  | none => s
  | some x =>
    let ctx := plainCtx (chunkInput k.rcd c i)
    let sum := headValues x.img 0 .summary ctx (Config.summaryWidth x.img)
    let s := updCase (retireCmd s m) c.hd.key fun y => { y with enc := { y.enc with summaries := y.enc.summaries ++ [(i, sum)] } }
    nextCmdOf (addSats s c.hd.key (ctxSats x.img 0 ctx 0)) c.hd.key

/-- CHUNK_ENCODE_COMMIT (R164, R165). -/
def execChunkEncodeCommit (c i : Nat) (det : Option Detection) (s : State) : Res :=
  .next <| stageCommit s c .encoding det fun s x k m =>
    if x.desc.caseType = 2 ∧ i < chunkCount k x ∧ x.enc.summaries.all fun e => decide (e.1 ≠ i) then commitChunk s x k m i
    else s

/-- SUMMARY_PASS_COMMIT (R164): the summary pass, over every chunk's summary, commits the query vector. -/
def execSummaryPassCommit (c : Nat) (det : Option Detection) (s : State) : Res :=
  .next <| stageCommit s c .encoding det fun s x k m =>
    if x.desc.caseType = 2 ∧ x.enc.summaries.length = chunkCount k x then
      commitQuery (retireCmd s m) x k (summaryInput k x) { forms := [] }
    else s

/-! ## Commands with no commit of their own (R147) -/

/-- Whether a case's stage is one command, which COMMAND_COMMIT commits; the others have rows of their own. -/
def oneCommand (c : Case) : Bool :=
  match c.stage with
  | .embedding => true
  | .encoding => c.desc.caseType != 2
  | .rerank => rerankIdle c
  | _ => false

/-- What the command of a case commits at a stage that is one command. -/
def commitStage (s : State) (c : Case) (k : Contract) (m : Cmd) (p : Prediction) : State :=
  match c.stage with
  | .embedding => commitEmbedding (retireCmd s m) c k p
  | .encoding => commitQuery (retireCmd s m) c k (encoderInput k.rcd c) p
  | .rerank =>
    endStage (updCase (retireCmd s m) c.hd.key fun c => { c with pass := { c.pass with ranked := c.pass.committed } }) c.hd.key p
  | _ => s

/-- COMMAND_COMMIT (R147, R240): a command of a case commits at a stage that is one command: embedding, the encoding of FLOW
and FRAME cases, and re-rank in distance order. Its writes reach memory with it (R278). -/
def execCommandCommit (cmd : Nat) (p : Prediction) (wr : List DramWrite) (det : Option Detection) (s : State) : Res :=
  .next <| match (cmdOf s cmd).bind fun m => (cmdKeys m).head? with
    | none => s
    | some key => match caseOf s key with
      | none => s
      | some c => stageCommit s key c.stage det fun s c k m =>
        if m.id = cmd ∧ oneCommand c then commitStage (dramWrites s wr) c k m p
        else s

end Sys2Proof.Machine
end

