-- ==== Sys2Proof/Machine/Passages.lean ====
section
/-! DEFINITION. Passage fetch (R195 to R202), the passage cache (R203 to R205), re-rank (R206, R207) and packing (R208 to
R211). -/

namespace Sys2Proof.Machine

/-! ## The pool (R195) -/

/-- How many candidates the pool takes: RERANK_DEPTH, or, without a re-rank stage, SLOT_COUNT, which R194 then keeps at 1, so
that the family rule never leaves one out. -/
def poolDepth (r : ContractRec) : Nat := if r.refs.rerankModel = 0 then r.tpl.slotCount else r.lim.rerankDepth

/-- The candidates of the pool. -/
def poolCands (r : ContractRec) (c : Case) : List Candidate :=
  ((c.srch.cand.map CandList.cands).getD []).take (poolDepth r)

/-- The ids of the pool: candidates that share one share its lookup. -/
def poolIds (r : ContractRec) (c : Case) : List Nat := ((poolCands r c).map Candidate.id).eraseDups

/-! ## Store entries (R196 to R198) -/

/-- The vocabulary sizes that a passage's tokens are held against. -/
def tokenLimits (s : State) (r : ContractRec) : List Nat :=
  ([r.refs.genModel, r.refs.rerankModel].filterMap (modelOf s)).map fun m => m.img.vocab

/-- Whether every token lies below every vocabulary size that applies. -/
def tokensFit (s : State) (r : ContractRec) (toks : List Nat) : Bool :=
  toks.all fun t => (tokenLimits s r).all fun v => decide (t < v)

/-- Where a lookup's next bucket begins (R197). -/
def bucketAddr (t : Template) (l : Lookup) : Nat :=
  let b := keyedHash (BitVec.ofNat 64 t.storeKey) t.storeBuckets l.id
  t.storeBase + 128 * ((b + l.probe) % max 1 t.storeBuckets)

/-- The tokens that a lookup reads of an entry. -/
def readCount (r : ContractRec) (e : StoreEntry) : Nat := min e.tokens r.lim.passageTok

/-- The range that a lookup's next read covers. -/
def nextRead (r : ContractRec) (l : Lookup) : Nat × Nat :=
  match l.entry with
  | none => (bucketAddr r.tpl l, 128)
  | some e => (r.tpl.dataBase + e.dataOff, 4 * readCount r e)

/-- The place in a bucket of an id's entry. -/
def findEntry (b : List Byte) (id : Nat) : Option Nat := (List.range 4).find? fun e => le b (32 * e) 8 == id

/-- The entry at a place of a bucket. -/
def entryAt (b : List Byte) (e : Nat) : StoreEntry :=
  { dataOff := le b (32 * e + 8) 8, family := le b (32 * e + 16) 8, tokens := le b (32 * e + 24) 4 }

/-- Whether an entry is malformed (R198). -/
def entryBad (t : Template) (b : List Byte) (e : Nat) : Bool :=
  let x := entryAt b e
  le b (32 * e + 28) 4 != 0 || !decide (1 ≤ x.tokens ∧ x.tokens ≤ 2048) || decide (t.dataLen < x.dataOff + 4 * x.tokens)

/-- A lookup that ends without tokens. -/
def endLookup (l : Lookup) (src : PassageSrc) : Lookup := { l with entry := none, toks := [], src := src, done := true }

/-- A lookup after the bytes of its next read: of a bucket, or of the tokens (R197, R198). An entry that the host
is filling has its ID last (R199), so it is found whole or not at all. -/
def stepLookup (s : State) (r : ContractRec) (l : Lookup) (b : List Byte) : Lookup :=
  match l.entry with
  | none => match findEntry b l.id with
    | some e => if entryBad r.tpl b e then endLookup l .malformed else { l with entry := some (entryAt b e) }
    | none =>
      if (findEntry b noId).isSome ∨ r.tpl.probeMax ≤ l.probe + 1 then endLookup l .missing
      else { l with probe := l.probe + 1 }
  | some e =>
    let toks := tokensOf b (readCount r e)
    if tokensFit s r toks then { l with toks := toks, src := .store, done := true } else endLookup l .malformed

/-- A lookup that has made no read. -/
def newLookup (id : Nat) : Lookup := { id := id, probe := 0, entry := none, toks := [], src := .missing, done := false }

/-- The lookup of an id, as far as it has come. -/
def lookupOf (c : Case) (id : Nat) : Lookup := (c.pass.looks.find? fun l => l.id == id).getD (newLookup id)

/-- Replaces the lookup of an id. -/
def setLookup (s : State) (key : Nat) (l : Lookup) : State :=
  updCase s key fun c => { c with pass := { c.pass with looks := (c.pass.looks.filter fun x => x.id != l.id) ++ [l] } }

/-! ## The cache (R203 to R205) -/

/-- The passage that the cache of an index holds for an id, where it is a hit for a contract. -/
def cacheHit (s : State) (r : ContractRec) (id : Nat) : Option CachedPassage :=
  (indexOf s r.refs.index).bind fun x =>
    x.cache.held.find? fun p => p.id == id && decide (min p.tokens r.lim.passageTok ≤ p.toks.length)

/-- Whether a fetch reads an id from the store: it runs from T3, or from the cache with a miss that no FETCH_IDS answers
(R200). -/
def readsStore (s : State) (r : ContractRec) (c : Case) (id : Nat) : Bool :=
  match fetchBy r c with
  | .full => true
  | .cache => r.lim.passageSrc == 1 && !declares r.lim 2 && (cacheHit s r id).isNone
  | _ => false

/-- The ids whose store reads a fetch still waits for. -/
def readsLeft (s : State) (r : ContractRec) (c : Case) : List Nat :=
  (poolIds r c).filter fun id => readsStore s r c id && !(lookupOf c id).done

/-! ## The fetch stage (R200 to R202) -/

/-- A MALFORMED passage is recorded. -/
def noteMalformed (s : State) (c : Case) (l : Lookup) : State :=
  if l.done ∧ l.src = .malformed then record s 0x0105 (leBytes 8 c.hd.caseId ++ leBytes 8 l.id) else s

/-- A store read of a case ends: its bytes move the lookup on, or its failure ends the case. A read that an abandoned form left in
flight goes into a buffer that nothing uses; of two reads of one id the one issued first ends first (DEDUCED, log 158). -/
def endStoreRead (s : State) (key id : Nat) (r : HostRead (List Byte)) : State :=
  match caseOf s key with
  | none => s
  | some c =>
    if c.pass.stale.contains id then
      updCase s key fun c => { c with pass := { c.pass with stale := c.pass.stale.erase id } }
    else match contractOf s c.hd.contract, caseCmd s key with
      | some k, some m =>
        if c.stage = .fetch ∧ caseRuns c ∧ m.phase = .running ∧ (readsLeft s k.rcd c).contains id then
          let l := lookupOf c id
          let a := nextRead k.rcd l
          if caseGranted s c false a.1 a.2 then
            let s := hostRead s c.hd.owner a.1 a.2
            match r with
            | .data b =>
              let l := stepLookup s k.rcd l b
              noteMalformed (setLookup s key l) c l
            | e => caseDmaFails s c (aerBit e)
          else caseDmaFails s c 0
        else s
      | _, _ => s

/-- PASSAGE_STORE_READ_COMPLETE (R197, R202): the next read of the lookup of `id` ends. -/
def execPassageStoreReadComplete (c id : Nat) (r : HostRead (List Byte)) (s : State) : Res := .next (endStoreRead s c id r)

/-- The fetch of a case goes on in another form: every read of the abandoned one that has arrived or is in flight is discarded
(R201). A fetch that runs has one read in flight for each id that it waits for. -/
def switchFetch (s : State) (k : Contract) (c : Case) (f : Form) : State :=
  let flying := if (caseCmd s c.hd.key).any fun m => decide (m.phase = .running) then readsLeft s k.rcd c else []
  let s := updCase s c.hd.key fun c => { c with pass := { c.pass with looks := [], stale := c.pass.stale ++ flying } }
  switchRunning s k c f

/-- Whether a case fetches from T3 and has not all it needs. -/
def waitsT3 (s : State) (k : Contract) (c : Case) : Bool :=
  decide (c.stage = .fetch) && caseRuns c && k.rcd.lim.passageSrc == 1 && !(readsLeft s k.rcd c).isEmpty

/-- The T3 budget of a case expires: it is counted and recorded, and the stage takes another form, or waits and is late
(R201). -/
def expireT3 (s : State) (k : Contract) (c : Case) (p : Prediction) : State :=
  let s := updContract s k.handle fun k => { k with stats := { k.stats with t3Late := k.stats.t3Late + 1 } }
  let s := record s 0x0203 (leBytes 4 k.handle ++ leBytes 8 c.hd.caseId)
  match (chainLeft k c .fetch).drop 1 with
  | [] => updCase s c.hd.key fun c => { c with lateCause := if c.lateCause = 0 then 1 else c.lateCause }
  | rest => switchFetch s k c (monitorForm s k c .fetch rest p)

/-- T3_BUDGET_EXPIRY (R201). -/
def execT3BudgetExpiry (c : Nat) (p : Prediction) (s : State) : Res :=
  .next <| match caseOf s c with
    | none => s
    | some x => match contractOf s x.hd.contract with
      | some k => if waitsT3 s k x then expireT3 s k x p else s
      | none => s

/-- T3_LATEST_SWITCH_POINT (R201): the latest instant at which the next form still passes the test of R122. -/
def execT3LatestSwitchPoint (c : Nat) (p : Prediction) (s : State) : Res :=
  .next <| match caseOf s c with
    | none => s
    | some x => match contractOf s x.hd.contract with
      | none => s
      | some k =>
        let f := monitorForm s k x .fetch (chainLeft k x .fetch) p
        if waitsT3 s k x ∧ f ≠ x.forms.fetch then switchFetch s k x f else s

/-- A passage without tokens. -/
def idPassage (rank id : Nat) (src : PassageSrc) : Passage :=
  { id := id, family := 0, score := fpNaN, candRank := rank, src := src, toks := [], storeTokens := 0, chosen := false,
    packed := false, truncated := false, familyDup := false, noBudget := false, ptok := 0 }

/-- A passage with tokens. -/
def textPassage (rank id family tokens : Nat) (toks : List Nat) (src : PassageSrc) : Passage :=
  { idPassage rank id src with family := family, toks := toks, storeTokens := tokens }

/-- What the store has given for an id. -/
def storePassage (c : Case) (rank id : Nat) : Passage :=
  let l := lookupOf c id
  match l.entry, l.src with
  | some e, .store => textPassage rank id e.family e.tokens l.toks .store
  | _, src => idPassage rank id src

/-- The passage of a candidate as the stage commits it (R200). -/
def fetched (s : State) (r : ContractRec) (c : Case) (rank id : Nat) : Passage :=
  match fetchBy r c with
  | .full => storePassage c rank id
  | .cache => match cacheHit s r id with
    | some p =>
      let toks := p.toks.take (min p.tokens r.lim.passageTok)
      if tokensFit s r toks then textPassage rank id p.family p.tokens toks .cache else idPassage rank id .malformed
    | none => if readsStore s r c id then storePassage c rank id else idPassage rank id .idByForm
  | _ => idPassage rank id .idByForm

/-- The pool as passages. -/
def fetchedPool (s : State) (r : ContractRec) (c : Case) : List Passage :=
  let cs := poolCands r c
  (List.range cs.length).zipWith (fun i (x : Candidate) => fetched s r c i x.id) cs

/-- The passage that a fill would put in a cache. -/
def cachedOf (p : Passage) : CachedPassage :=
  { id := p.id, family := p.family, tokens := p.storeTokens, toks := p.toks, blockAt := 0,
    blocks := ceilDiv (64 + 4 * p.toks.length) 4096 }

/-- Whether a committed passage fills the cache: it came from the store with tokens, and the cache does not hold as many
(R204). -/
def fills (x : Index) (p : Passage) : Bool :=
  decide (p.src = .store) && !p.toks.isEmpty && decide ((cachedOf p).blocks ≤ 16 * x.cfg.cachePages) &&
  !(x.cache.held.any fun q => q.id == p.id && decide (p.toks.length ≤ q.toks.length))

/-- Each passage that fills the cache is written by a BACKGROUND command (R204). -/
def startFills (s : State) (k : Contract) (ps : List Passage) : State :=
  match indexOf s k.rcd.refs.index with
  | none => s
  | some x => (ps.filter (fills x)).foldl (fun s p =>
      addBg (addCmd s (.bg s.nextBg) k.owner 3 0 0 s.tclk false []) k.owner none (.cacheFill x.handle [p]) 0 0) s

/-- PASSAGE_FETCH_COMMIT (R202): the stage commits all its passages at one instant. -/
def execPassageFetchCommit (c : Nat) (p : Prediction) (s : State) : Res :=
  .next <| stageCommit s c .fetch none fun s x k m =>
    if readsLeft s k.rcd x = [] then
      let ps := fetchedPool s k.rcd x
      let s := updCase (retireCmd s m) c fun y => { y with pass := { y.pass with looks := [], committed := ps } }
      startFills (endStage s c p) k ps
    else s

/-- The blocks that the running fetches of an index's cache hit (R205). -/
def hitBlocks (s : State) (x : Index) : List Nat :=
  s.cases.flatMap fun c => match contractOf s c.hd.contract with
    | some k =>
      if c.stage = .fetch ∧ fetchBy k.rcd c = .cache ∧ k.rcd.refs.index = x.handle ∧
         (caseCmd s c.hd.key).any (fun m => decide (m.phase ≠ .ready)) then
        ((poolIds k.rcd c).filterMap (cacheHit s k.rcd)).flatMap (cacheBlocks x.cfg)
      else []
    | none => []

/-- The cache with a passage at the ring's head: the passages that stood there, and an older copy, are evicted (R203,
R204). -/
def cachePut (c : IndexCfg) (y : PassageCache) (p : CachedPassage) : PassageCache :=
  let p := { p with blockAt := y.head }
  let mine := cacheBlocks c p
  let keep (q : CachedPassage) : Bool := q.id != p.id && !(cacheBlocks c q).any mine.contains
  { head := (y.head + p.blocks) % max 1 (16 * c.cachePages), held := y.held.filter keep ++ [p] }

/-- The fill of a passage, or nothing while it would overwrite blocks that a running fetch hits (R205). -/
def commitFill (s : State) (b : BgOp) (x : Index) (p : Passage) : State :=
  let y := cachePut x.cfg x.cache (cachedOf p)
  let mine := ((y.held.getLast?.map fun q => cacheBlocks x.cfg q)).getD []
  if (hitBlocks s x).any mine.contains then s
  else
    let t := updIndex s x.handle fun x => { x with cache := if fills x p then y else x.cache }
    journaled s (bgCmd s b.id).toList (finishBg (updTelem t fun t => { t with bgCommitted := t.bgCommitted + 1 }) b .ok [])

/-- CACHE_FILL_COMMIT (R204, R205). A fill of an index that is gone or UNAVAILABLE is dropped. -/
def execCacheFillCommit (op : Nat) (s : State) : Res :=
  .next <| match s.bg.find? fun b => b.id == op with
    | none => s
    | some b => match b.kind with
      | .cacheFill h [p] =>
        if (bgCmd s op).any (mayCommit s) then
          match indexOf s h with
          | some x => if x.state = .unavailable then finishBg s b .ok [] else commitFill s b x p
          | none => finishBg s b .ok []
        else s
      | _ => s

/-! ## Re-rank (R206, R207) -/

/-- The places in the pool of the passages that form pairs. -/
def pairPlaces (ps : List Passage) : List Nat :=
  ((List.range ps.length).zip ps).filterMap fun e => if e.2.toks.isEmpty then none else some e.1

/-- Whether a score goes before another: higher first, a NaN last (R248). -/
def scoreBefore (a b : Passage) : Bool :=
  let key (w : Word) : Int := if fpIsNaN w then -(2 ^ 33) else fpKey w
  decide (key b.score < key a.score)

/-- The committed order: scored passages, highest first and equals in candidate order, then identifiers (R207). -/
def rerankOrder (ps : List Passage) : List Passage :=
  sortBy scoreBefore (ps.filter fun p => !p.toks.isEmpty) ++ ps.filter fun p => p.toks.isEmpty

/-- The pool with the scores of a batch. -/
def putScores (ps : List Passage) (places : List Nat) (scores : List Word) : List Passage :=
  (places.zip scores).foldl (fun ps e => modifyAt ps e.1 fun p => { p with score := e.2 }) ps

/-- The pool without scores, in candidate order: what is left of an abandoned re-rank (R123). -/
def unscored (ps : List Passage) : List Passage := ps.map fun p => { p with score := fpNaN }

/-- The case part of a pair: the first RR_CASE_TOK tokens of the token stream, or for a FRAME case that many positions, at most one,
holding the query vector (R194, R206). -/
def casePart (r : ContractRec) (c : Case) : List Position :=
  if c.desc.caseType = 3 then (c.enc.query.toList.map Position.query).take r.tpl.rrCaseTok
  else (c.enc.toks.take r.tpl.rrCaseTok).map .tok

/-- The pair that RERANK_MODEL reads for a passage (R206). -/
def pairInput (r : ContractRec) (c : Case) (p : Passage) : List Position :=
  .bos :: casePart r c ++ .sep :: (p.toks.take r.lim.passageTok).map .tok ++ [.sep]

/-- The scores of some passages' pairs, and the saturations that they count. -/
def pairScores (img : ModelImage) (r : ContractRec) (c : Case) (ps : List Passage) : List Word × Nat :=
  let ctxs := ps.map fun p => plainCtx (pairInput r c p)
  (ctxs.map fun x => headValue img 0 .score x 0, sumNat (ctxs.map fun x => ctxSats img 0 x 0))

/-- A batch of pairs ends: the stage commits after the last one, and otherwise the monitor keeps the form or takes distance
order (R207). -/
def commitBatch (s : State) (c : Case) (k : Contract) (m : Cmd) (img : ModelImage) (p : Prediction) : State :=
  let key := c.hd.key
  let all := pairPlaces c.pass.committed
  let batch := (all.drop c.pass.nextPair).take (max 1 k.rcd.tpl.rrBatch)
  let scores := pairScores img k.rcd c (batch.filterMap fun i => c.pass.committed[i]?)
  let ps := putScores c.pass.committed batch scores.1
  let next := c.pass.nextPair + batch.length
  let s := addSats (retireCmd s m) key scores.2
  if all.length ≤ next then
    endStage (updCase s key fun c => { c with pass := { c.pass with committed := ps, ranked := rerankOrder ps, nextPair := next } })
      key p
  else
    let f := monitorForm s k c .rerank (chainLeft k c .rerank) p
    if f = c.forms.rerank then
      nextCmdOf (updCase s key fun c => { c with pass := { c.pass with committed := ps, nextPair := next } }) key
    else
      let s := updCase s key fun c => { c with pass := { c.pass with committed := unscored ps, nextPair := 0 } }
      switchRunning s k c f

/-- RERANK_BATCH_COMMIT (R206, R207). -/
def execRerankBatchCommit (c : Nat) (p : Prediction) (det : Option Detection) (s : State) : Res :=
  .next <| stageCommit s c .rerank det fun s x k m =>
    match modelOf s k.rcd.refs.rerankModel with
    | some r => if rerankIdle x then s else commitBatch s x k m r.img p
    | none => s

/-! ## Packing (R208 to R211) -/

/-- The walk so far: passages chosen, positions used, and the passages in walk order. -/
structure Walk where
  chosen : Nat
  used : Nat
  done : List Passage
  deriving DecidableEq, Repr

/-- One passage of the walk (R208). -/
def walkStep (t : Template) (w : Walk) (p : Passage) : Walk :=
  let sep := present t.slotOpen t.slotClose
  let kin := (w.done.filter fun q => q.chosen && !q.toks.isEmpty && !p.toks.isEmpty && q.family == p.family).length
  let room := min t.slotTok (t.passBudget - w.used)
  let put (q : Passage) : List Passage := w.done ++ [q]
  if t.slotCount ≤ w.chosen then { w with done := put p }
  else if t.familyMax ≤ kin then { w with done := put { p with familyDup := true } }
  else if p.toks.isEmpty then { w with chosen := w.chosen + 1, done := put { p with chosen := true } }
  else if room < sep + 1 then { w with chosen := w.chosen + 1, done := put { p with chosen := true, noBudget := true } }
  else
    let body := min (room - sep) p.toks.length
    let q := { p with chosen := true, packed := true, truncated := decide (body < p.storeTokens), ptok := body }
    { chosen := w.chosen + 1, used := w.used + body + sep, done := put q }

/-- The chosen passages, by the walk over the committed order. -/
def walk (t : Template) (ps : List Passage) : Walk := ps.foldl (walkStep t) { chosen := 0, used := 0, done := [] }

/-- A separator's position, where it is present (R193). -/
def sepToks (t : Nat) : List Nat := if t = 0xFFFFFFFF then [] else [t]

/-- The body of a packed passage: its first tokens, the last of which TRUNC_MARK replaces when it is truncated. -/
def bodyToks (t : Template) (p : Passage) : List Nat :=
  let b := p.toks.take p.ptok
  if p.truncated ∧ t.truncMark ≠ 0xFFFFFFFF then b.dropLast ++ [t.truncMark] else b

/-- The passage slots (R209). -/
def slotToks (t : Template) (w : Walk) : List Nat :=
  let ps := w.done.filter Passage.packed
  (if t.order = 1 then ps.reverse else ps).flatMap fun p => sepToks t.slotOpen ++ bodyToks t p ++ sepToks t.slotClose

/-- The case slot (R210). -/
def caseSlot (t : Template) (c : Case) : List Position :=
  let room := t.caseTok - present t.caseOpen t.caseClose
  let toks := c.enc.toks
  let body := if c.desc.caseType = 3 then c.enc.query.toList.map Position.query
    else (if t.caseTrunc = 0 then toks.take room else toks.drop (toks.length - room)).map .tok
  (sepToks t.caseOpen).map .tok ++ body ++ (sepToks t.caseClose).map .tok

/-- The file region (R230): nothing, each chunk's summary, which goes through the adapter of GEN_MODEL's image, or every
byte-token. -/
def fileRegion (k : Contract) (c : Case) : List Position :=
  match k.rcd.smp.fileContext with
  | 1 => (List.range (chunkCount k c)).map fun i => .summary (summaryOf c i)
  | 2 => c.enc.toks.map .tok
  | _ => []

/-- The registered prefix of a contract. -/
def pfxToks (s : State) (r : ContractRec) : List Nat := ((pfxOf s r.refs.pfx).map Pfx.toks).getD []

/-- A case takes its references to the prefix's pages (R217). -/
def holdPfx (s : State) (k : Contract) (key : Nat) : State :=
  match pfxOf s k.rcd.refs.pfx with
  | none => s
  | some p =>
    let tail := p.toks.length % 256 != 0
    let take (p : Pfx) : Pfx := { p with refs := p.refs + 1, tailRefs := p.tailRefs + bit tail }
    let s := { s with pfxs := modifyWhere s.pfxs (fun x => x.handle == p.handle) take }
    updCase s key fun c => { c with gen := { c.gen with pfxHeld := some p.handle, tailHeld := tail } }

/-- Packing commits: the passage list in walk order, the prompt, and the prefix references. -/
def commitPacking (s : State) (c : Case) (k : Contract) (m : Cmd) (p : Prediction) : State :=
  let t := k.rcd.tpl
  let w := walk t (if k.rcd.refs.rerankModel = 0 then c.pass.committed else c.pass.ranked)
  let prompt := (pfxToks s k.rcd).map .tok ++ fileRegion k c ++ caseSlot t c ++ (slotToks t w).map .tok
  let s := updCase (retireCmd s m) c.hd.key fun c =>
    { c with pass := { c.pass with packed := w.done, promptLen := prompt.length }, gen := { c.gen with prompt := prompt } }
  endStage (holdPfx s k c.hd.key) c.hd.key p

/-- PACKING_COMMIT (R208 to R211, R217). -/
def execPackingCommit (c : Nat) (p : Prediction) (s : State) : Res :=
  .next <| stageCommit s c .packing none fun s x k m => commitPacking s x k m p

end Sys2Proof.Machine
end

