-- ==== Sys2Proof/Machine/Sampling.lean ====
section
/-! DEFINITION. The classifier head (R214), the sampler (R222 to R226), the label constraint and the stop conditions (R227 to
R229). -/

namespace Sys2Proof.Machine

/-! ## The classifier head (R214) -/

/-- A logit as the softmax takes it: a NaN as −∞ (R247). -/
def logitOf (w : Word) : Word := if fpIsNaN w then fpInf true else w

/-- How many logits are NaN, each counted as a saturation (R247). -/
def nanCount (ws : List Word) : Nat := (ws.filter fpIsNaN).length

/-- The largest of some fp32 values. -/
def fpMaxOf (ws : List Word) : Word := ws.foldl (fun a w => if fpLt a w then w else a) (fpInf true)

/-- The class probabilities: the softmax of the logits with the EXP of R247. -/
def softmax (logits : List Word) : List Word :=
  let xs := logits.map logitOf
  let m := fpMaxOf xs
  let ws := xs.map fun x => fpExp (fpSub .nearest x m)
  let sum := ws.foldl (fpAdd .nearest) 0#32
  ws.map fun w => fpDiv .nearest w sum

/-- The class of largest probability, the lower number of equals (R248). -/
def bestClass (ps : List Word) : Nat := ((bitonicTop .fp true 1 (lanesOf ps)).head?.map Lane.idx).getD 0

/-- The calibration map at a probability: 33 knots over [0, 1], linear between them (R214). At a knot it is the knot's
value. -/
def calibrate (knots : List Word) (p : Word) : Word :=
  let x := dyadicOf p
  -- 32 p = j + f
  let y : Int × Int := (x.1, x.2 + 5)
  let j := if y.2 ≥ 0 then y.1 * 2 ^ y.2.toNat else y.1 / 2 ^ (-y.2).toNat
  let f := dyadicPlus y (-j, 0)
  let a := knots.getD j.toNat 0#32
  if f.1 = 0 then a
  else
    let b := knots.getD (j.toNat + 1) 0#32
    let d := dyadicPlus (dyadicOf b) (-(dyadicOf a).1, (dyadicOf a).2)
    let v := dyadicPlus (dyadicOf a) (dyadicMul f d)
    fpMoved (fpOfDyadic .nearest v.1 v.2) (Config.calibSlack knots p)

/-! ## The label constraint (R229) -/

/-- Whether the generated tokens form a whole label. -/
def wholeLabel (t : Stops) (gen : List Nat) : Bool := t.labels.contains gen

/-- Whether a label has formed: the constraint is over, whatever follows it. -/
def labelFormed (t : Stops) (gen : List Nat) : Bool := t.labels.any fun l => l.isPrefixOf gen

/-- Whether a token keeps the generated tokens on the way to some label, while labels constrain them. -/
def labelAllows (t : Stops) (gen : List Nat) (tok : Nat) : Bool :=
  t.labels.isEmpty || labelFormed t gen || t.labels.any fun l => (gen ++ [tok]).isPrefixOf l

/-! ## The draw (R224, R225) -/

/-- The logits after the bias list, the forbidden tokens and the label constraint. -/
def maskedLogits (r : ContractRec) (gen : List Nat) (logits : List Word) : List Word :=
  ((List.range logits.length).zip logits).map fun e =>
    let l := match r.smp.bias.find? fun b => b.1 == e.1 with
      | some b => fpAdd .nearest e.2 b.2
      | none => e.2
    if r.smp.forbid.contains e.1 ∨ !labelAllows r.stp gen e.1 then fpInf true else logitOf l

/-- The best tokens by logit, the lower number first of equals: each Garnet's vector unit keeps the 256 best of its quarter of the
vocabulary, and the sampler merges the four lists and keeps `k` of them (R224 steps 3 and 4). -/
def topTokens (k : Nat) (logits : List Word) : List (Nat × Word) :=
  let n := ceilDiv logits.length 4
  let quarter (g : Nat) : List Lane := bitonicTop .fp true 256 (((lanesOf logits).drop (g * n)).take n)
  let best := mergeTree .fp true k 2 ((List.range 4).map quarter)
  best.map fun l => (l.idx, l.key)

/-- The token of greatest masked logit, as a draft step proposes it (R219). -/
def greedyToken (r : ContractRec) (gen : List Nat) (logits : List Word) : Nat :=
  ((topTokens 1 (maskedLogits r gen logits)).head?.map Prod.fst).getD 0

/-- The running sums of some weights. -/
def runningSums (ws : List Word) : List Word :=
  let step (a : List Word × Word) (w : Word) : List Word × Word :=
    let c := fpAdd .nearest a.2 w
    (a.1 ++ [c], c)
  (ws.foldl step ([], 0#32)).1

/-- The kept list with its running sums: TOP_K, TEMP, then TOP_P (R224 steps 4 to 6). -/
def keptTokens (m : Sampler) (logits : List Word) : List (Nat × Word) :=
  let top := topTokens (if m.topK = 0 then 256 else m.topK) logits
  let first := fpDiv .nearest ((top.head?.map Prod.snd).getD 0#32) m.temp
  let ws := top.map fun e => fpExp (logitOf (fpSub .nearest (fpDiv .nearest e.2 m.temp) first))
  let sums := (top.map Prod.fst).zip (runningSums ws)
  if fpLt m.topP (fpOfInt 1) then
    let mass := fpMul .nearest m.topP ((sums.getLast?.map Prod.snd).getD 0#32)
    let below := sums.takeWhile fun e => fpLt e.2 mass
    sums.take (below.length + 1)
  else sums

/-- The token drawn at context position `pos` after the generated tokens `gen` (R224, R225). -/
def drawToken (r : ContractRec) (seed caseId pos : Nat) (gen : List Nat) (logits : List Word) : Nat :=
  let ls := maskedLogits r gen logits
  if fpKey r.smp.temp = 0 then ((topTokens 1 ls).head?.map Prod.fst).getD 0
  else
    let kept := keptTokens r.smp ls
    let u := fpRound .nearest false (drawFraction seed caseId pos) (-24)
    let mark := fpMul .nearest u ((kept.getLast?.map Prod.snd).getD 0#32)
    ((kept.find? fun e => fpLt mark e.2).map Prod.fst).getD ((kept.head?.map Prod.fst).getD 0)

/-! ## Stop conditions (R229) -/

/-- The stop cause of the last of the generated tokens `gen`, under a limit of `most`, in the order of the table. -/
def stopCause (t : Stops) (most : Nat) (gen : List Nat) : Option Nat :=
  let last := gen.getLast?.getD 0
  if t.stopToks.contains last then some 1
  else if t.seqs.any fun q => !q.isEmpty && q.isSuffixOf gen then some 2
  else if t.labelStop ∧ wholeLabel t gen then some 5
  else if most ≤ gen.length then some 3
  else none

/-- What a verify pass finds for a case: its tokens, the proposals accepted and the stop, if one falls among them (R220). -/
structure Accepted where
  toks : List Nat
  accepted : Nat
  stop : Option Nat
  deriving DecidableEq, Repr

/-- Draws at consecutive positions, of which `ls` holds the logits, while the proposals hold (R220): the first that differs, or the position after the last,
ends the pass, and so does a stop. -/
def acceptAll (r : ContractRec) (seed caseId most : Nat) : List (List Word) → List Nat → Nat → List Nat → Accepted
  | [], _, _, _ => { toks := [], accepted := 0, stop := none }
  | l :: ls, props, pos, gen =>
    let t := drawToken r seed caseId pos gen l
    let hit := decide (props.head? = some t)
    let stop := stopCause r.stp most (gen ++ [t])
    if hit ∧ stop.isNone then
      let rest := acceptAll r seed caseId most ls (props.drop 1) (pos + 1) (gen ++ [t])
      { toks := t :: rest.toks, accepted := rest.accepted + 1, stop := rest.stop }
    else { toks := [t], accepted := bit hit, stop := stop }

end Sys2Proof.Machine
end

