-- ==== Sys2Proof/Machine/Generation.lean ====
section
/-! DEFINITION. Generation (R212 to R232): prefill, draft and verify, delivery of tokens, the end of decode, and layers that come
late (R274). -/

namespace Sys2Proof.Machine

/-! ## Contexts and caches (R213, R216, R230) -/

/-- The SEED of a case's partition (R225). -/
def caseSeed (s : State) (c : Case) : Nat := ((partOf s c.hd.owner).map fun p => p.cfg.seed).getD 0

/-- The positions that a generator of a case reads, its prompt and then some tokens, each with what its attention reads: a position
of a FULL file region reads the prefix and the region's positions at most W_FILE before it, and every later one reads all earlier
ones. Only GEN_MODEL has the registered prefix (R219, R230). -/
def genCtx (s : State) (k : Contract) (c : Case) (m : Model) (toks : List Nat) : List Seen :=
  let ps := c.gen.prompt ++ toks.map .tok
  let pfx := if m.handle = k.rcd.refs.genModel then (pfxToks s k.rcd).length else 0
  let file := if k.rcd.smp.fileContext = 2 then c.desc.payloadBytes else 0
  let lo (i : Nat) : Nat := if pfx ≤ i ∧ i < pfx + file then max pfx (i - m.img.gen.wFile) else pfx
  (List.range ps.length).zipWith (fun i p => { at' := p, pfx := pfx, lo := lo i }) ps

/-- The logits that follow some positions, one for each token of the vocabulary. -/
def tokenLogits (k : Contract) (m : Model) (ctx : List Seen) : List Word :=
  headValues m.img k.rcd.lim.kvFormat .tokens ctx m.img.vocab

/-- A generator's entries of positions up to `hi` are written, and its committed length becomes `n`; what seals may saturate, and so
may the rows of the positions from `lo` on (R216, R221, R249, R255). -/
def runCache (s : State) (k : Contract) (key : Nat) (m : Model) (ctx : List Seen) (lo hi n : Nat) : State :=
  match caseOf s key with
  | none => s
  | some c =>
    let kv := k.rcd.lim.kvFormat
    let r := advanceCache m.img kv n (writeEntries m.img kv (ctx.take hi) (cacheOf c m.handle) lo hi)
    addSats (updGen s key fun g => putCache g r.1) key (r.2 + ctxSats m.img kv (ctx.take hi) lo)

/-- A generator's entries up to position `n` commit, from where its cache ends. -/
def prefillTo (s : State) (k : Contract) (key h n : Nat) : State :=
  match caseOf s key, modelOf s h with
  | some c, some m => runCache s k key m (genCtx s k c m c.gen.toks) (cacheOf c h).len n n
  | _, _ => s

/-! ## Delivery and the end of generation (R229, R232) -/

/-- Delivers the tokens committed from the `n`th on, then their total. -/
def deliverFrom (s : State) (key n : Nat) : State :=
  match caseOf s key with
  | none => s
  | some c =>
    let s := caseWrite s c (c.hd.tokAt + 64 + 4 * n) ((c.gen.toks.drop n).flatMap (leBytes 4))
    if (caseOf s key).all caseRuns then caseWrite s c c.hd.tokAt (leBytes 4 c.gen.toks.length) else s

/-- Generation ends with a stop cause, and its stage commits. -/
def endGeneration (s : State) (key cause : Nat) : State :=
  endStage (updGen s key fun g => { g with stopCause := cause, done := true, proposals := [] }) key { forms := [] }

/-- The monitor stops decode: a fallback that keeps the tokens committed (R123). -/
def stopDecode (s : State) (key : Nat) : State :=
  match caseOf s key with
  | none => s
  | some c =>
    let s := updCase (fallbackRecord s c .generation .scoreHead) key fun c => { c with forms := { c.forms with decodeStopped := true } }
    endGeneration s key 6

/-- Whether the case time has reached TIME_BUDGET (R229). -/
def budgetGone (s : State) (k : Contract) (c : Case) : Bool :=
  k.rcd.stp.timeBudget != 0 && decide (k.rcd.stp.timeBudget ≤ s.tclk - c.hd.startTs)

/-- The chain of a case that decodes: its form, then the end of decode where GEN_SCORE is declared (R123). -/
def decodeChain (k : Contract) (c : Case) : List Form :=
  c.forms.gen :: (if declares k.rcd.lim 3 then [Form.scoreHead] else [])

/-- What follows the commit of tokens: a stop on a token, the time budget, the monitor's choice, or the next pass (R121,
R229). -/
def goOn (s : State) (k : Contract) (key : Nat) (stop : Option Nat) (p : Prediction) : State :=
  match caseOf s key with
  | none => s
  | some c =>
    if !caseRuns c then s
    else match stop with
      | some cause => endGeneration s key cause
      | none =>
        if budgetGone s k c then endGeneration s key 4
        else if monitorForm s k c .generation (decodeChain k c) p = .scoreHead then stopDecode s key
        else nextCmdOf s key

/-! ## Prefill (R213, R214, R230) -/

/-- The chunks of a FULL file region, each of which is prefilled by a command of its own (R230). -/
def fileChunks (k : Contract) (c : Case) : Nat := if k.rcd.smp.fileContext = 2 then chunkCount k c else 0

/-- The classifier head's verdict, score and probabilities, from one logit for each of the image's VERDICTS classes. -/
def classify (m : Model) (logits : List Word) (g : GenState) : GenState :=
  let ps := softmax logits
  let v := bestClass ps
  { g with probs := ps, verdict := some v, score := calibrate m.img.gen.calib (ps.getD v 0#32) }

/-- Prefill commits: the whole prompt's entries and the classifier head at the last prompt position, and, where the case generates,
the draft model's entries and the first token. -/
def commitPrefill (s : State) (c : Case) (k : Contract) (cmd : Cmd) (m : Model) (p : Prediction) : State :=
  let key := c.hd.key
  let n := c.pass.promptLen
  let gen := decide (genLimit k.rcd c ≠ 0)
  let ctx := genCtx s k c m []
  let cls := headValues m.img k.rcd.lim.kvFormat .classes ctx m.img.gen.verdicts
  let s := prefillTo (retireCmd s cmd) k key m.handle n
  let s := addSats (updGen s key fun g => { classify m cls g with committedLen := n }) key (nanCount cls)
  if gen then
    let s := if k.rcd.refs.draftModel = 0 then s else prefillTo s k key k.rcd.refs.draftModel n
    let logits := tokenLogits k m ctx
    let t := drawToken k.rcd (caseSeed s c) c.hd.caseId n [] logits
    let s := addSats (updGen s key fun g => { g with toks := [t] }) key (nanCount logits)
    goOn (deliverFrom s key 0) k key (stopCause k.rcd.stp (genLimit k.rcd c) [t]) p
  else endGeneration (deliverFrom s key 0) key 0

/-- PREFILL_COMMIT (R213, R214, R232). -/
def execPrefillCommit (c : Nat) (p : Prediction) (det : Option Detection) (s : State) : Res :=
  .next <| stageCommit s c .generation det fun s x k cmd =>
    match modelOf s (genModelOf k.rcd x) with
    | some m => if !decoding x ∧ x.gen.fileChunks = fileChunks k x then commitPrefill s x k cmd m p else s
    | none => s

/-- FILE_CHUNK_PREFILL_COMMIT (R230): chunk `i` of a FULL file region commits its entries on its own. -/
def execFileChunkPrefillCommit (c i : Nat) (det : Option Detection) (s : State) : Res :=
  .next <| stageCommit s c .generation det fun s x k m =>
    if i = x.gen.fileChunks ∧ i < fileChunks k x then
      let n := (pfxToks s k.rcd).length + min ((i + 1) * k.rcd.feat.chunkLen) x.desc.payloadBytes
      let s := prefillTo (retireCmd s m) k c (genModelOf k.rcd x) n
      nextCmdOf (updGen s c fun g => { g with committedLen := n, fileChunks := i + 1 }) c
    else s

/-! ## Draft and verify (R219 to R221) -/

/-- The draft model reads the last position of a case, writes its entries there, beyond its committed length, and proposes the token
of greatest logit. With the last proposal its command ends, and the verify pass is ready. -/
def propose (s : State) (k : Contract) (c : Case) (cmd : Cmd) (m : Model) : State :=
  let key := c.hd.key
  let kv := k.rcd.lim.kvFormat
  let read := c.gen.toks ++ c.gen.proposals
  let ctx := genCtx s k c m read
  let logits := tokenLogits k m ctx
  let t := greedyToken k.rcd read logits
  let cache := cacheOf c m.handle
  let s := updGen s key fun g => { putCache g (writeEntries m.img kv ctx cache cache.len ctx.length) with proposals := g.proposals ++ [t] }
  let s := addSats s key (rowSats m.img kv ctx + nanCount logits)
  if c.gen.proposals.length + 1 < mostProposals k.rcd c then s else nextCmdOf (retireCmd s cmd) key

/-- DRAFT_STEP (R219): the draft model proposes one more token. -/
def execDraftStep (c : Nat) (s : State) : Res :=
  .next <| match caseOf s c, caseCmd s c with
    | some x, some m => match contractOf s x.hd.contract with
      | some k => match modelOf s k.rcd.refs.draftModel with
        | some d => if drafting k.rcd x ∧ caseRuns x ∧ mayCommit s m then propose s k x m d else s
        | none => s
      | none => s
    | _, _ => s

/-- A verify pass commits for one case (R220, R221, R232): the target model reads the last committed token and the proposals, and
the committed lengths of its cache and of the draft's advance over the positions whose tokens were committed. -/
def commitVerify (s : State) (ps : List (Nat × Prediction)) (key : Nat) : State :=
  match caseOf s key with
  | none => s
  | some c => match contractOf s c.hd.contract with
    | none => s
    | some k => match modelOf s (genModelOf k.rcd c) with
      | none => s
      | some m =>
        let g := c.gen
        let d := g.proposals.length
        let base := c.pass.promptLen + g.toks.length - 1
        let ctx := genCtx s k c m (g.toks ++ g.proposals)
        let logits := (List.range (d + 1)).map fun i => tokenLogits k m (ctx.take (base + 1 + i))
        let a := acceptAll k.rcd (caseSeed s c) c.hd.caseId (genLimit k.rcd c) logits g.proposals (base + 1) g.toks
        let toks := g.toks ++ a.toks
        let n := c.pass.promptLen + toks.length - 1
        let s := runCache s k key m ctx base (base + d + 1) n
        let s := match modelOf s k.rcd.refs.draftModel with
          | some x => if d = 0 then s else runCache s k key x (genCtx s k c x g.toks) base base (min n (base + d))
          | none => s
        let s := updGen s key fun g =>
          { g with toks := toks, proposals := [], committedLen := n, verifyPasses := g.verifyPasses + 1,
                   draftAccepted := g.draftAccepted + a.accepted }
        let s := addSats s key (sumNat (logits.map nanCount))
        goOn (deliverFrom s key g.toks.length) k key a.stop (((ps.find? fun e => e.1 == key).map Prod.snd).getD { forms := [] })

/-- Whether a case has all the proposals that its next pass verifies (R219, R220). -/
def readyToVerify (s : State) (key : Nat) : Bool :=
  (caseOf s key).any fun c => decoding c && (contractOf s c.hd.contract).any fun k => !drafting k.rcd c

/-- VERIFY_PASS_COMMIT (R213, R220): a pass commits all its cases at one instant; `ps` holds their predictions. -/
def execVerifyPassCommit (cmd : Nat) (ps : List (Nat × Prediction)) (det : Option Detection) (s : State) : Res :=
  .next <| match cmdOf s cmd with
    | none => s
    | some m =>
      if mayCommit s m ∧ (cmdKeys m).all (readyToVerify s) ∧ m.stage = 9 then
        commitUnder s det [m] fun s => (cmdKeys m).foldl (fun s key => commitVerify s ps key) (retireCmd s m)
      else s

/-! ## Late layers (R273, R274) -/

/-- A case whose weights come too late takes its stage's next form, and is late where it has none (R274). A form that decodes
is stopped. -/
def lateWeights (s : State) (cause : Nat) (c : Case) : State :=
  match contractOf s c.hd.contract with
  | none => s
  | some k => match nextForm k c c.stage with
    | none => updCase s c.hd.key fun c => { c with lateCause := if c.lateCause = 0 then cause else c.lateCause }
    | some f => if decoding c then stopDecode (dropCase s c.hd.key) c.hd.key else switchRunning s k c f

/-- The cases that wait for a model's layers. -/
def casesOfModel (s : State) (m : Nat) : List Case :=
  s.cases.filter fun c => caseRuns c && (contractOf s c.hd.contract).any fun k => decide (stageModel k.rcd c c.stage = some m)

/-- LAYER_MOVE_DONE (R273, R274): layer `layer` of a model has arrived. `late` is 0, or the cause of a stall that the monitor
predicts to exceed the reserved slack: 2 a rerun, 3 a retrain. -/
def execLayerMoveDone (m layer late : Nat) (s : State) : Res :=
  .next <| match modelOf s m with
    | none => s
    | some x =>
      if x.img.shape.layers ≤ layer then s
      else
        let s := updSched s fun d =>
          { d with layers := if d.layers.contains (m, layer) then d.layers else d.layers ++ [(m, layer)] }
        if late = 0 then s
        else
          let s := record s 0x0205 (leBytes 4 m ++ leBytes 2 layer ++ leBytes 1 late)
          (casesOfModel s m).foldl (fun s c => lateWeights s late c) s

end Sys2Proof.Machine
end

