-- ==== Sys2Proof/Machine/Results.lean ====
section
/-! DEFINITION. The result record (R233 to R236), the completion of a case (R89), and what a case leaves in the counts (R14,
R126). -/

namespace Sys2Proof.Machine

/-! ## The record (R234, R235) -/

/-- The six fallbacks that a case took, in the order of bits 0 to 5 of RESULT_FLAGS: a stage that fell back twice lists both
(R123). -/
def fallbacks (c : Case) : List Bool :=
  let took (i : Nat) (f : Form) : Bool := c.forms.ran.contains (i, f)
  [took 7 .distanceOrder, took 6 .cache, took 6 .idsOnly, took 9 .scoreHead, took 9 .smallGen, c.forms.decodeStopped]

/-- RESULT_FLAGS of a case whose record is issued late or not. -/
def resultFlags (c : Case) (late : Bool) : Nat :=
  let none : Bool := c.srch.cand.any fun l => l.cands.isEmpty
  let inexact : Bool := c.srch.cand.any fun l => !l.exact
  let bits := fallbacks c ++ [late, none, inexact, c.rerun, decide (0 < c.sats)]
  sumNat ((List.range bits.length).map fun i => 2 ^ i * bit (bits.getD i false))

/-- Whether a case's record is issued after its deadline, under the terms of its contract. -/
def isLate (s : State) (k : Contract) (c : Case) : Bool := decide (k.rcd.terms.deadline < s.tclk - c.hd.startTs)

/-- LATE_CAUSE of a case that is late now: 4 within the 10 ms that a re-proof after a fall of the link may take (R392, log 153). -/
def causeNow (s : State) (c : Case) : Nat :=
  if s.pcie.fellAt.any fun t => decide (s.tclk ≤ t + 1200000) then 4 else c.lateCause

/-- The status of a case that reaches its result (R123). -/
def doneStatus (c : Case) (late : Bool) : Status :=
  if late then .okLate else if (fallbacks c).any id then .okFallback else .ok

/-- PFLAGS of a passage (R211). -/
def passFlags (p : Passage) : Nat :=
  bit p.chosen + 2 * bit p.packed + 4 * bit p.truncated + 8 * bit p.familyDup + 16 * bit p.noBudget

/-- The bytes of a passage list entry (R211). -/
def passageBytes (p : Passage) : List Byte :=
  leBytes 8 p.id ++ leBytes 8 p.family ++ leBytes 4 p.score.toNat ++ leBytes 2 p.candRank ++ leBytes 1 (passageSrcCode p.src) ++
  leBytes 1 (passFlags p) ++ leBytes 2 p.ptok ++ zeros 6

/-- Bytes 0 to 251 of a result record (R234). `ok` says that the case reached its result: a record without one carries no
verdict, no lists and no counts of its work (R235, R334, log 90). -/
def recordOf (s : State) (c : Case) (st : Status) (late ok : Bool) : List Byte :=
  let g := c.gen
  let probs := (if ok then g.probs.map BitVec.toNat else []) ++ List.replicate 16 fpNaN.toNat
  fieldsAt 252
    ([(0, 8, c.hd.caseId), (8, 4, c.hd.contract), (12, 2, statusCode st), (14, 1, c.failedStage), (15, 1, if ok then g.stopCause else 0),
      (16, 4, resultFlags c late), (20, 1, if ok then g.verdict.getD 0xFF else 0xFF), (21, 1, if late then causeNow s c else 0),
      (22, 2, if ok then c.pass.packed.length else 0), (24, 4, if ok then g.score.toNat else fpNaN.toNat), (28, 4, g.toks.length),
      (32, 8, c.hd.startTs), (40, 8, s.tclk), (48, 2, if ok then ((c.srch.cand.map fun l => l.cands.length).getD 0) else 0),
      (52, 4, if ok then c.pass.promptLen else 0), (56, 2, if ok then g.verifyPasses else 0),
      (58, 2, if ok then g.draftAccepted else 0), (60, 4, c.hd.tokAt)] ++
     words4 64 (probs.take 16) ++ [(128, 8, if ok then c.sats else 0)])

/-- Writes the result buffer: the lists of a case that reached its result, the record, and DONE last (R233). -/
def writeResult (s : State) (c : Case) (st : Status) (late ok : Bool) : State :=
  let out (s : State) (off : Nat) (b : List Byte) : State := hostWrite s c.hd.owner (c.hd.resultAddr + off) b
  let s := if ok then
      let s := out s 256 (c.pass.packed.flatMap passageBytes)
      out s 4096 ((c.srch.cand.map candListBytes).getD [])
    else s
  out (out s 0 (recordOf s c st late ok)) 252 (leBytes 4 1)

/-! ## The counts (R14, R126) -/

/-- The place of a case time in the histogram of a contract. -/
def histBin (deadline t : Nat) : Nat := min 63 (t / max 1 (deadline / 64))

/-- Adds one to a count of a sparse list. -/
def countAt (l : List (Nat × Nat)) (i : Nat) : List (Nat × Nat) :=
  if l.any fun e => e.1 == i then l.map fun e => if e.1 = i then (i, e.2 + 1) else e
  else insertBy (fun a b => decide (a.1 < b.1)) (i, 1) l

/-- The six fallbacks in the order of FB_COUNTS, which has the smaller generator before score head only (R126). -/
def countedFallbacks (c : Case) : List Bool :=
  let f := fallbacks c
  f.take 3 ++ [f.getD 4 false, f.getD 3 false] ++ f.drop 5

/-- A contract's counts after a case that ended with `st` after `t` TCLK and cost `energy` µJ. -/
def countContract (deadline : Nat) (c : Case) (st : Status) (t energy : Nat) (n : ContractStats) : ContractStats :=
  let n := match st with
    | .ok => { n with doneOk := n.doneOk + 1 }
    | .okFallback => { n with doneFallback := n.doneFallback + 1 }
    | .okLate => { n with doneLate := n.doneLate + 1 }
    | .caseCancelled => { n with cancelled := n.cancelled + 1 }
    | _ => { n with faulted := n.faulted + 1 }
  { n with
    timeMax := max n.timeMax t, timeSum := n.timeSum + t, energySum := n.energySum + energy
    fbCounts := n.fbCounts.zipWith (fun m b => m + bit b) (countedFallbacks c)
    histogram := countAt n.histogram (histBin deadline t) }

/-- The module's counts after such a case. -/
def countModule (st : Status) (energy : Nat) (n : Telem) : Telem :=
  let n := match st with
    | .ok => { n with doneOk := n.doneOk + 1 }
    | .okFallback => { n with doneFallback := n.doneFallback + 1 }
    | .okLate => { n with doneLate := n.doneLate + 1 }
    | .caseCancelled => { n with cancelled := n.cancelled + 1 }
    | _ => { n with faulted := n.faulted + 1 }
  { n with energySum := n.energySum + energy }

/-- The cost model's energy of the forms that a case ran, in µJ (R126). -/
def caseEnergy (s : State) (k : Contract) (c : Case) : Nat :=
  match indexOf s k.rcd.refs.index with
  | none => 0
  | some x => sumNat (c.forms.ran.map fun e => formEnergy k.rcd k.scheds x (maxNat s.power.policy.vceil) e.1 e.2)

/-- Counts a case whose record has been issued. -/
def countCase (s : State) (c : Case) (st : Status) : State :=
  let e := ((contractOf s c.hd.contract).map fun k => caseEnergy s k c).getD 0
  let s := updTelem s (countModule st e)
  updContract s c.hd.contract fun k =>
    { k with stats := countContract k.rcd.terms.deadline c st (s.tclk - c.hd.startTs) e k.stats }

/-! ## The end of a case (R86, R89, R217, R236) -/

/-- RESULT of a case's completion (R89). -/
def caseResult (s : State) (c : Case) (late : Bool) : List Byte :=
  resultAt [(0, 8, c.hd.caseId), (8, 4, resultFlags c late), (12, 1, c.failedStage), (16, 8, s.tclk - c.hd.startTs),
            (24, 4, c.gen.toks.length)]

/-- The closes that drain a contract count a case that was not cancelled by one (R86). -/
def countDrained (s : State) (c : Case) : State :=
  if c.cancelled then s
  else updContract s c.hd.contract fun k =>
    { k with closes := k.closes.map fun w => { w with drained := w.drained + 1 } }

/-- A case is gone: its prefix references are dropped, its completion is written, DONE_CAIRN counts it, and a close that waited
for it may complete. -/
def freeCase (s : State) (c : Case) (st : Status) (late : Bool) : State :=
  let h := c.hd.contract
  let s := match contractOf s h with
    | some k =>
      if k.rcd.terms.doneCairn = 0xFFFFFFFF then s else deviceSignal s k.rcd.terms.doneCairn 1 false
    | none => s
  let s := dropPfx (countDrained (dropCase s c.hd.key) c) c true
  let s := reapGens { s with cases := s.cases.filter fun x => x.hd.key != c.hd.key }
  let s := complete s c.hd.msg st 0xFFFF (caseResult s c late)
  finishClose s h

/-- The record of a case is issued with a status; a buffer that the host no longer grants takes none, and the case fails
(R272). -/
def issueResult (s : State) (c : Case) (st : Status) (late ok : Bool) : State :=
  let s := if late ∧ ok then record s 0x0202 (leBytes 4 c.hd.contract ++ leBytes 8 c.hd.caseId ++ leBytes 1 (causeNow s c)) else s
  if caseGranted s c true c.hd.resultAddr c.hd.resultLen then
    freeCase (countCase (writeResult s c st late ok) c st) c st late
  else
    let c := { c with failedStage := if ok then 10 else c.failedStage }
    let s := recordFunc s c.hd.owner 0x0104 (zeros 2 ++ leBytes 8 c.hd.caseId ++ zeros 4)
    let st := if ok then .faultHostDma else st
    freeCase (countCase s c st) c st late

/-- The result stage commits: its time is noted and its cairn signalled (R14, R145). -/
def endResultStage (s : State) (c : Case) : State :=
  let s := updTelem s fun t => { t with stageTimeMax := modifyAt t.stageTimeMax 9 (max (s.tclk - c.stageTs)) }
  deviceSignal s c.hd.cairn 1 false

/-- RESULT_RECORD_ISSUE (R233 to R236): the record of a case that has reached its result, or of one that a status has ended. -/
def execResultRecordIssue (c : Nat) (s : State) : Res :=
  .next <| match caseOf s c with
    | none => s
    | some x =>
      let k := contractOf s x.hd.contract
      let late := k.any fun k => isLate s k x
      match x.ending with
      | some st => issueResult s x st late false
      | none => match caseCmd s c with
        | some m =>
          if x.stage = .result ∧ k.isSome ∧ mayCommit s m then
            let t := retireCmd s m
            if caseGranted t x true x.hd.resultAddr x.hd.resultLen then
              journaled s [m] (issueResult (endResultStage t x) x (doneStatus x late) late true)
            else issueResult t x (doneStatus x late) late true
          else s
        | none => s

end Sys2Proof.Machine
end

