-- ==== Sys2Proof/Machine/PartitionEnd.lean ====
section
/-! DEFINITION. PARTITION_CONTROL (R62): a suspension and its end, and the end of a partition with its cases. -/

namespace Sys2Proof.Machine

/-- Cancels a live case and issues its record at once: it ends with ST_CASE_CANCELLED, unless another status has ended it
already (R62, R90). -/
def cancelNow (s : State) (c : Case) : State :=
  let s := cancelCase s c
  match caseOf s c.hd.key with
  | some x => issueResult s x (x.ending.getD .caseCancelled) ((contractOf s x.hd.contract).any fun k => isLate s k x) false
  | none => s

/-- Destroys a partition (R62): live cases are cancelled, contracts closed, armed waits completed, objects, pages and
cairns freed, and the key destroyed with the partition. -/
def destroyPartition (s : State) (p : Partition) : State :=
  let s := (s.cases.filter fun c => c.hd.owner == p.id).foldl cancelNow s
  let s := endWaits s p.id .partitionNotOpen
  let s := freeCairns (freeObjects s p.id) p
  let s := clearAccounts { s with parts := s.parts.filter fun x => x.id != p.id } p.id
  settleState (postPartition s p.id (givenTiers p.cfg) 5)

/-- PARTITION_CONTROL (R62). -/
def execPartitionControl (f : Nat) (src : Src) (s : State) : Res :=
  onMessage s f src 0x0103 (controlHeld s) fun s x =>
    let i := byteAt x.bytes 32
    match partOf s i with
    | none => settle s x (failIf true .badReference 32) id
    | some p =>
      match byteAt x.bytes 33 with
      | 3 => complete (destroyPartition s p) x.id .ok
      | a =>
        let want := a == 1
        if p.suspended = want then complete s x.id .okNoChange
        else
          let s := updPart s i fun p => { p with suspended := want }
          complete (postPartition s i 0 (if want then 3 else 4)) x.id .ok

end Sys2Proof.Machine
end

