-- ==== Sys2Proof/Machine/StrataWork.lean ====
section
/-! DEFINITION. Work for the other modules of a stack: reservations (R302), remote signals (R150), shard scans (R192) and
kills (R307); and the wake of cores (R325, R326, R382, R383), on which a CONTRACT_OPEN may wait. -/

namespace Sys2Proof.Machine

/-! ## Waking cores (R325, R326, R383) -/

/-- Goes on with the CONTRACT_OPENs that waited for the dies to wake (R84, R382). -/
def openAwake (s : State) : State :=
  if diesAwake s then (s.strata.opens.filter PendOpen.waking).foldl concludeOpen s else s

/-- Core `i` of the module's sixteen. -/
def coreState (s : State) (i : Nat) : CoreState := (dieOf s (i / 4)).cores.getD (i % 4) .off

/-- Whether a core's header switches are being enabled. -/
def isWaking (c : CoreState) : Bool :=
  match c with
  | .waking _ => true
  | _ => false

/-- The injection points of a core and of the units in it (R343). -/
def pointOnCore (core : Nat) (p : PointRec) : Bool :=
  match unitOfCode p.unit with
  | some u => covers { kind := 2, idx := core } u
  | none => false

/-- The points exercised once `core` of a die is ready: those of the core, and with the last of its cores every point of the die
(R343, R382). -/
def pointsAwake (s : State) (core : Nat) (p : PointRec) : Bool :=
  (pointOnCore core p || ((dieOf s (core / 4)).cores.all (fun c => !isWaking c) && pointOnDie (core / 4) p)) && pointLive s p

/-- CORE_READY (R325, R343, R382): a waking core is ready, its residency reloaded (R326, log 170), and its injection points are
exercised. -/
def execCoreReady (core : Nat) (s : State) : Res :=
  guardUnit (decide (core < 16)) <| .next <|
    if isWaking (coreState s core) then
      let s := updDie s (core / 4) fun d => { d with cores := d.cores.set (core % 4) .ready }
      openAwake (exerciseAll s (pointsAwake s core))
    else s

/-- The CONTRACT_OPENs that waited for a wake which failed complete without effect (R383). -/
def failOpens (s : State) : State :=
  let gone := s.strata.opens.filter PendOpen.waking
  let s := { s with strata := { s.strata with opens := s.strata.opens.filter fun o => !o.waking } }
  gone.foldl (fun s o =>
    complete (sendRelease s o.handle ((reserved o.acks).map ShardAck.pos)) o.msg .faultFenced) s

/-- With no Garnet left, the BACKGROUND messages that need one complete without effect (R383). -/
def failBgWake (s : State) : State :=
  let needs (b : BgOp) : Bool := match b.kind with
    | .prefixRegister _ _ _ _ _ => true
    | _ => false
  if (List.range 4).all fun g => isFenced s { kind := 1, idx := g } then
    let gone := s.bg.filter needs
    let s := dropDeadBg { s with bg := s.bg.filter fun b => !needs b }
    gone.foldl (fun s b => match b.msg with
      | some id => complete s id .faultFenced
      | none => s) s
  else s

/-- Fences a core for a failed wake, and its die when no core of it is ready or waking. -/
def fenceWake (s : State) (core : Nat) : State :=
  let g := core / 4
  let die : UnitId := { kind := 1, idx := g }
  if s.boot.state = .booting then fence s die 0x0104 0x0D false
  else
    let s := fence s { kind := 2, idx := core } 0x0104 0x0D false
    if (dieOf s g).cores.all fun c => decide (c = .off) then fence s die 0x0104 0x0D false else s

/-- HDR_SWITCH_TIMEOUT (R325, R335, R380, R383): a stage of a waking core is not ready in time. -/
def execHdrSwitchTimeout (core stage : Nat) (s : State) : Res :=
  guardUnit (decide (core < 16 ∧ 1 ≤ stage ∧ stage ≤ 4)) <| .next <|
    if isWaking (coreState s core) then
      let s := detectorRecord s 0x0D (unitCode { kind := 2, idx := core }) false true (leBytes 1 stage ++ leBytes 1 core)
      failBgWake (failOpens (record (fenceWake s core) 0x1505 (leBytes 1 (core / 4))))
    else s

/-- HEADER_SWITCH_READY_LOST (R326): a powered core whose ready signal drops is cut: its commands are killed and it is
fenced. -/
def execHeaderSwitchReadyLost (core : Nat) (s : State) : Res :=
  guardUnit (decide (core < 16)) <| .next <|
    if coreState s core = .ready then
      let u : UnitId := { kind := 2, idx := core }
      fence (detectorRecord s 0x0D (unitCode u) false true (leBytes 1 4 ++ leBytes 1 core)) u 0x0D 0x0D false
    else s

/-! ## Reservations (R302) -/

/-- The index that a RESERVE can use: one of the partition, or a SHARED one, that is LIVE, matches its demand, and holds another
shard than the home module's (R191). -/
def reserveIndex (s : State) (b : List Byte) : Option Index :=
  let f := byteAt b 4
  s.indexes.find? fun x =>
    (x.owner == f || x.shared) && decide (x.state = .live) &&
    decide ((x.hdr.map IndexHeader.layoutId) = some (le b 14 8)) && x.cfg.lists == le b 22 4 &&
    x.cfg.codeBytes == byteAt b 26 && x.cfg.metric == byteAt b 27 && x.cfg.shardCount == byteAt b 28 &&
    x.cfg.shard != byteAt b 5

/-- Whether the list scan can be placed here: an engine, the scree scanner and every T2 channel (R408). -/
def scanPlaceable (s : State) : Bool :=
  !(freeUnits s 7).isEmpty && (freeUnits s 9).length == 32 && runState s.boot.state

/-- The terms of the contract that a RESERVE is for, as far as the demand gives them. -/
def demandTerms (b : List Byte) : ContractTerms :=
  { caseType := 0, level := byteAt b 29, preempt := byteAt b 49, topology := byteAt b 48, deadline := le b 32 4, energyUj := 0,
    arrivalKind := 0, burst := le b 42 2, interval := le b 44 4, phase := 0, doneCairn := 0 }

/-- The visited lists and the candidates of the shard's scan. -/
def demandCount (b : List Byte) : Nat × Nat := (le b 40 2, le b 12 2)

/-- The engine demand of a shard's list scan: its engines, its visited lists and the scree (R110, R111, R183). -/
def shardDemand (s : State) (w : Schedules) (x : Index) (b : List Byte) : Nat :=
  let g := schedOf w 5 .full
  let n := demandCount b
  stretched s.power.policy.minDiv (engineAclk s g n) +
  transferTclk (le b 6 2) (visitedBytes x n.1 + screeFull x + total g n Work.t2)

/-- The time of a shard's result and its SIGNAL on their way to the home module (R150, R303). -/
def shardReturn (s : State) (home : Nat) (b : List Byte) : Nat :=
  let route := routeLinks s home 8 (myPos s)
  strataTclk s route (shardResultBytes (le b 12 2)) (queuedFlits (demandTerms b) (loadsBut s 0)) + strataTclk s route 16 0

/-- The bound of this module's part: the list scan and the return of its result, for STACK_REROUTE with any one link lost as well
(R302, R303). -/
def shardBound (s : State) (w : Schedules) (x : Index) (home : Nat) (b : List Byte) : Nat :=
  let g := schedOf w 5 .full
  let d := shardDemand s w x b
  let gone := if byteAt b 48 = 2 then
      (shapeLinks s).map fun l => shardReturn (updStack s fun t => { t with down := t.down ++ [l] }) home b
    else []
  d + 120 * total g (demandCount b) Work.holds + 120 * le b 30 2 + queueing (demandTerms b) (loadsBut s 0) d 5 +
  max (shardReturn s home b) (maxNat gone)

/-- The energy of this module's part, in µJ. -/
def shardEnergy (s : State) (w : Schedules) (b : List Byte) : Nat :=
  let mv := maxNat s.power.policy.vceil
  ceilDiv (total (schedOf w 5 .full) (demandCount b) fun k => energyAt mv k.energy) 1000

/-- The status with which this module answers a RESERVE: it must be a member of the stack with its time locked (R302). -/
def reserveStatus (s : State) (w : Schedules) (home : Nat) (b : List Byte) : Status :=
  let f := byteAt b 4
  let share := ((partOf s f).map fun p => slotsOf p.cfg.t2Bw).getD 0
  match reserveIndex s b with
  | none => if (partOf s f).isNone then .partitionNotOpen else .badReference
  | some x =>
    if (partOf s f).isNone then .partitionNotOpen
    else if !s.strata.time.locked ∨ !scanPlaceable s ∨ le b 6 2 = 0 ∨ le b 32 4 < shardBound s w x home b then .contractInfeasible
    else if !fitsQuota s f 0 (le b 8 4) then .quotaPages
    else if share < (slotsReserved s f).2 + le b 6 2 then .quotaBandwidth
    else if (stageCairnsFor s f (le b 36 4)).length < le b 36 4 then .cairnExhausted
    else .ok

/-- Holds what a RESERVE asked for. -/
def holdReserve (s : State) (w : Schedules) (home : Nat) (b : List Byte) : State :=
  match reserveIndex s b with
  | none => s
  | some x =>
    let cs := stageCairnsFor s (byteAt b 4) (le b 36 4)
    let r : ShardRsv :=
      { home := home, contract := le b 0 4, owner := byteAt b 4, shard := x.cfg.shard, index := x.handle, t2Slots := le b 6 2,
        t2Pages := le b 8 4, cairns := cs, candC := le b 12 2, level := byteAt b 29, holdUs := le b 30 2, deadline := le b 32 4,
        burst := le b 42 2, interval := le b 44 4, demand := shardDemand s w x b }
    { s with
      cairns := s.cairns ++ cs.map (stageCairn s)
      nextRun := s.nextRun + 1
      strata := { s.strata with rsvs := s.strata.rsvs ++ [r] } }

/-- RESERVE (R302): this shard module proves its part with what its schedules `w` state, charges it to its own partition, and
answers with its shard, its bound and its energy. -/
def execReserve (p : Nat) (m : StrataMsg) (w : Schedules) (s : State) : Res :=
  strataMsg s p 0x10 m fun s =>
    let b := m.data
    let st := reserveStatus s w m.src b
    let x := reserveIndex s b
    let t := if st = .ok then holdReserve s w m.src b else s
    sendMsg t 0x11 m.src (leBytes 4 (le b 0 4) ++ leBytes 1 (byteAt b 4) ++ leBytes 1 ((x.map fun i => i.cfg.shard).getD 0xFF) ++
      leBytes 2 (statusCode st) ++ leBytes 8 ((x.map fun i => shardBound s w i m.src b).getD 0) ++ leBytes 4 (shardEnergy s w b))

/-- What an answer adds to a CONTRACT_OPEN that waits for the module at position `q`. -/
def addReserveAck (po : PendOpen) (q : Nat) (b : List Byte) : PendOpen :=
  let a : ShardAck := { pos := q, shard := byteAt b 5, status := le b 6 2, bound := le b 8 8, energy := le b 16 4 }
  { po with shards := po.shards.filter fun x => x != q, acks := po.acks ++ [a] }

/-- RESERVE_ACK (R302): when every module has answered, the home module concludes its proof. What a shard has
reserved for an open that is over is released. -/
def execReserveAck (p : Nat) (m : StrataMsg) (s : State) : Res :=
  strataMsg s p 0x11 m fun s =>
    let h := le m.data 0 4
    match s.strata.opens.find? fun o => o.handle == h && o.shards.contains m.src with
    | some o =>
      let po := addReserveAck o m.src m.data
      if po.shards = [] then concludeOpen s po
      else
        let put (x : PendOpen) : PendOpen := if x.msg = o.msg then po else x
        { s with strata := { s.strata with opens := s.strata.opens.map put } }
    | none =>
      if le m.data 6 2 = 0 ∧ (contractOf s h).isNone then sendRelease s h [m.src] else s

/-- RESERVE_TIMEOUT (R302): shard modules that have not answered refuse the open `k`, by its handle. -/
def execReserveTimeout (k : Nat) (s : State) : Res :=
  .next <| match s.strata.opens.find? fun o => o.handle == k && !o.shards.isEmpty with
    | none => s
    | some o =>
      let late (q : Nat) : ShardAck := { pos := q, shard := 0xFF, status := 0xFFFF, bound := 0, energy := 0 }
      concludeOpen s { o with shards := [], acks := o.acks ++ o.shards.map late }

/-- Drops the list scans of a contract of the module at position `home`. -/
def dropJobs (s : State) (home contract : Nat) : State :=
  let mine (j : ShardJob) : Bool := j.home == home && j.contract == contract
  let gone := s.strata.jobs.filter mine
  let s := { s with strata := { s.strata with jobs := s.strata.jobs.filter fun j => !mine j } }
  reapGens (gone.foldl (fun s j => dropCase s j.key) s)

/-- RELEASE (R302): the reservation for a contract ends, and with it the work for the contract's cases. -/
def execRelease (p : Nat) (m : StrataMsg) (s : State) : Res :=
  strataMsg s p 0x12 m fun s =>
    let h := le m.data 0 4
    let mine (r : ShardRsv) : Bool := r.home == m.src && r.contract == h
    let cs := (s.strata.rsvs.filter mine).flatMap ShardRsv.cairns
    let s := dropJobs s m.src h
    { s with
      cairns := s.cairns.filter fun c => !cs.contains c.num
      strata := { s.strata with rsvs := s.strata.rsvs.filter fun r => !mine r } }

/-! ## Signals (R150) -/

/-- Whether a cairn is a stage cairn of an open stack contract: a revoked one's is not signalled any longer. -/
def takesSignal (s : State) (n : Nat) : Bool := s.contracts.any fun k => stackContract k && k.stageCairns.contains n

/-- SIGNAL (R150): the target cairn grows by ADD, once. -/
def execSignal (p : Nat) (m : StrataMsg) (s : State) : Res :=
  strataMsg s p 0x20 m fun s =>
    let n := le m.data 0 4
    if takesSignal s n then deviceSignal s n (le m.data 4 4) true else s

/-! ## Shard scans (R192) -/

/-- Starts this module's scan for a case of the contract that a reservation serves: its own snapshot, at receipt. -/
def startShard (s : State) (r : ShardRsv) (b : List Byte) : State :=
  match indexOf s r.index with
  | none => sendMsg s 0x43 r.home (b.take 16 ++ leBytes 2 (statusCode .fault))
  | some x =>
    let lists := (List.range ((b.length - 284) / 4)).map fun i => le b (284 + 4 * i) 4
    let qv : QueryVec := { q := (List.range 256).map fun i => signed 8 (byteAt b (16 + i)), scale := BitVec.ofNat 32 (le b 272 4) }
    let j : ShardJob :=
      { key := s.nextCase, home := r.home, caseKey := le b 8 8, cairn := le b 4 4, contract := r.contract, index := x.handle,
        gen := x.gen, seq := snapSeq x, startTs := le b 276 8, recvTs := s.tclk, holdExpired := false, visited := lists,
        waitLists := lists, waitScree := true, query := qv, found := [] }
    raiseForPass s { s with nextCase := s.nextCase + 1, strata := { s.strata with jobs := s.strata.jobs ++ [j] } } j.key

/-- DISPATCH (R192). -/
def execDispatch (p : Nat) (m : StrataMsg) (s : State) : Res :=
  strataMsg s p 0x40 m fun s =>
    match s.strata.rsvs.find? fun r => r.home == m.src && r.contract == le m.data 0 4 with
    | some r => startShard s r m.data
    | none => s

/-- Whether a case reference names a case: its contract, its stage cairn and its key. -/
def refNames (b : List Byte) (c : Case) : Bool :=
  c.hd.contract == le b 0 4 && c.hd.cairn == le b 4 4 && c.hd.key == le b 8 8

/-- SHARD_RESULT (R192): the shard's candidates join the case's, and its scan may be complete; `q` is the prediction at that
stage end. -/
def execShardResult (p : Nat) (m : StrataMsg) (q : Prediction) (s : State) : Res :=
  strataMsg s p 0x41 m fun s =>
    let b := m.data
    match s.cases.find? (refNames b) with
    | none => s
    | some c =>
      let shard := byteAt b 16
      if caseRuns c ∧ c.srch.shardsLeft.contains shard then
        let cands := (List.range (le b 17 2)).map fun i => candAt b (49 + 32 * i)
        let s := updSrch s c.hd.key fun r =>
          { r with
            found := r.found ++ cands
            shardLOut := fpMinOf [r.shardLOut, BitVec.ofNat 32 (le b 25 4)]
            shardsLeft := r.shardsLeft.filter fun k => k != shard }
        endScan s c.hd.key q
      else s

/-! ## Kills (R307) -/

/-- The status of a code that a KILL carries. -/
def killStatus (code : Nat) : Status :=
  match [Status.faultLink, .faultPoison, .faultFenced, .faultSafeHold, .tierUnavailable].find? fun st => statusCode st == code with
  | some st => st
  | none => .fault

/-- KILL (R307): the scan for a case of the sender ends; a case of this module whose scan a shard has given up fails at list
scan. -/
def execKill (p : Nat) (m : StrataMsg) (s : State) : Res :=
  strataMsg s p 0x43 m fun s =>
    let b := m.data
    let mine (j : ShardJob) : Bool :=
      j.home == m.src && j.contract == le b 0 4 && j.cairn == le b 4 4 && j.caseKey == le b 8 8
    match s.strata.jobs.find? mine with
    | some j =>
      reapGens (dropCase { s with strata := { s.strata with jobs := s.strata.jobs.filter fun x => x.key != j.key } } j.key)
    | none => match s.cases.find? (refNames b) with
      | some c => if caseRuns c ∧ c.stage = .listScan then endCase s c.hd.key (killStatus (le b 16 2)) 5 else s
      | none => s

end Sys2Proof.Machine
end

