-- ==== Sys2Proof/Machine/PcieUnit.lean ====
section
/-! DEFINITION. PCIe events: function-level resets and VF Enable (R16, R385, R386), D3hot and completion timeouts (R390). -/

namespace Sys2Proof.Machine

/-! ## What a function-level reset ends (R385, R386) -/

/-- Removes a live case with neither a result record nor a completion. -/
def eraseCase (s : State) (c : Case) : State :=
  let s := dropCase s c.hd.key
  dropPfx { s with cases := s.cases.filter fun x => x.hd.key != c.hd.key } c true

/-- Drops the CONTRACT_OPENs of function `f` that wait; what shard modules have reserved for them is released. -/
def eraseOpens (s : State) (f : Nat) : State :=
  let gone := s.strata.opens.filter fun o => o.f == f
  let s := { s with strata := { s.strata with opens := s.strata.opens.filter fun o => o.f != f } }
  gone.foldl (fun s o => sendRelease s o.handle ((reserved o.acks).map ShardAck.pos)) s

/-- Ends everything function `f` has under way and frees its objects: cases, opens, messages, waits, BACKGROUND operations,
contracts and objects. -/
def eraseWork (s : State) (f : Nat) : State :=
  let s := eraseOpens ((s.cases.filter fun c => c.hd.owner == f).foldl eraseCase s) f
  let s := { s with msgs := s.msgs.filter fun m => m.f != f, waits := s.waits.filter fun w => w.owner != f }
  let s := reapPfxs (reapGens (freeObjects s f))
  match partOf s f with
  | some p => freeCairns s p
  | none => s

/-- Returns the window of function `f` to its reset values, the translations it cached included; `run` says whether its mailbox
is served from then on. -/
def resetWindow (s : State) (f : Nat) (run : Bool) : State :=
  let s := updMb s f fun _ => { Mailbox.reset with st := { Mailbox.reset.st with running := run } }
  { s with pcie := { s.pcie with atc := s.pcie.atc.filter fun e => e.1 != f
                                 fns := modifyAt s.pcie.fns f fun _ => PcieFn.reset } }

/-- Whether a pair runs the firmware (R349). -/
def firmwareRuns (s : State) : Bool := served s && !(s.safety.pairA && s.safety.pairB)

/-- FLR_VF (R385): the partition remains, with nothing in it. -/
def execFlrVf (f : Nat) (s : State) : Res :=
  guardUnit (decide (1 ≤ f ∧ f ≤ 32)) <| .next <|
    if !s.pcie.linkUp ∨ !funcExists s f then s
    else if !firmwareRuns s then resetWindow s f false
    else
      let had := (partOf s f).isSome
      let s := settleState (resetWindow (eraseWork s f) f true)
      if had then postEvent s 0 .partitionChanged (leBytes 1 f ++ leBytes 1 0 ++ leBytes 1 6) else s

/-- Destroys a partition with no result record and no completion (R386). -/
def eraseParts (s : State) : State :=
  (s.parts.filter fun p => p.id != 0).foldl (fun s p =>
    let s := eraseWork s p.id
    let s := clearAccounts { s with parts := s.parts.filter fun x => x.id != p.id } p.id
    postEvent s 0 .partitionChanged (leBytes 1 p.id ++ leBytes 1 (givenTiers p.cfg) ++ leBytes 1 5)) s

/-- VF Enable is cleared (R16, R386): no VF exists any longer, and every partition is destroyed. -/
def clearVfs (s : State) : State :=
  let s := (List.range 33).foldl (fun s f => if f = 0 then s else resetWindow s f false) s
  let s := { s with msgs := s.msgs.filter fun m => m.f == 0, pcie := { s.pcie with vfEnable := false, numVfs := 0 } }
  if firmwareRuns s then eraseParts s else s

/-- VF_ENABLE_CLEAR (R386). -/
def execVfEnableClear (s : State) : Res :=
  .next <| if s.pcie.linkUp ∧ s.pcie.vfEnable then settleState (clearVfs s) else s

/-- FLR_PF (R53, R386): VF Enable is cleared, partition 0's objects are freed and its settings restored. Its window is at its
reset values when the state settles. -/
def execFlrPf (s : State) : Res :=
  .next <|
    if !s.pcie.linkUp then s
    else
      let s := clearVfs (resetWindow { s with pcie := { s.pcie with d3hot := false } } 0 false)
      let s := eraseWork s 0
      let s := settleState (updPart s 0 fun p => { p with cfg := partZeroCfg s, suspended := false })
      updMb s 0 fun mb => { mb with st := { mb.st with running := firmwareRuns s } }

/-- VF_ENABLE_SET (R16): the VFs up to NumVFs exist, their windows at reset values. VF Enable that is set already stays as it is. -/
def execVfEnableSet (n : Nat) (s : State) : Res :=
  guardUnit (decide (n ≤ 32)) <| .next <|
    if !s.pcie.linkUp ∨ s.pcie.vfEnable then s
    else
      let s := { s with pcie := { s.pcie with vfEnable := true, numVfs := n } }
      (List.range 33).foldl (fun s f => if f = 0 then s else resetWindow s f (decide (f ≤ n) && firmwareRuns s)) s

/-! ## D3hot and completion timeouts (R390) -/

/-- D3HOT_TRANSITION: no message is observed until D0 returns; objects and live cases are kept. -/
def execD3hotTransition (enter : Bool) (s : State) : Res :=
  .next <| if s.pcie.linkUp then { s with pcie := { s.pcie with d3hot := enter } } else s

/-- The read of a DMA that has timed out ends as one that returned UR does. A case without a payload has no intake read. -/
def timeOut (s : State) : DmaRef → State
  | .ringFetch f i => endFetch s f i .timeout
  | .intake key => if (caseOf s key).all fun c => c.desc.sg.isEmpty then s else endIntake s key (List.replicate 64 .timeout) []
  | .store key id => endStoreRead s key id .timeout

/-- Whether the function of a DMA read is one of the 33. -/
def readFits : DmaRef → Bool
  | .ringFetch f _ => decide (f < 33)
  | _ => true

/-- The upper end, in TCLK, of the range that a Completion Timeout Value selects: the default and every reserved encoding give 50 ms
(R390), and the others have the ends of the PCI Express base specification's ranges A to D (PRESUMED, log 173). -/
def completionTimeout : Nat → Nat
  | 1 => 12000
  | 2 => 1200000
  | 5 => 6600000
  | 6 => 25200000
  | 9 => 108000000
  | 10 => 420000000
  | 13 => 1560000000
  | 14 => 7680000000
  | _ => 6000000

/-- When a read was issued: a ring fetch as its entry was observed, and a stage's reads as its command was granted (DESIGN CHOICE,
log 173). -/
def readIssued (s : State) : DmaRef → Nat
  | .ringFetch f i => (((mbOf s f).sqFetch.find? fun e => e.1 == i).map Prod.snd).getD 0
  | .intake key => ((caseCmd s key).map Cmd.grantTs).getD 0
  | .store key _ => ((caseCmd s key).map Cmd.grantTs).getD 0

/-- Whether a read has waited for the whole time that Device Control 2 gives it, which Completion Timeout Disable makes endless (R390). -/
def readTimesOut (s : State) (d : DmaRef) : Bool :=
  !s.pcie.ctoDisable && decide (readIssued s d + completionTimeout s.pcie.ctoValue ≤ s.tclk)

/-- DMA_COMPLETION_TIMEOUT (R390): a read whose time has passed ends as one that returned UR does. -/
def execDmaCompletionTimeout (d : DmaRef) (s : State) : Res :=
  guardUnit (readFits d) <| .next <| if readTimesOut s d then timeOut s d else s

end Sys2Proof.Machine
end

