-- ==== Sys2Proof/Machine/SidebandUnit.lean ====
section
/-! DEFINITION. The SMBus sideband and the protocols over it (R374, R378, R387, R393, R394). An answer is what the log of
outputs shows: the bytes read, an empty answer for an acknowledged write, or a NACK. -/

namespace Sys2Proof.Machine

/-! ## The vendor commands (R394) -/

/-- Whether the always-on island answers: in every state from AO_ONLY on. -/
def islandUp (s : State) : Bool := decide (s.boot.state ≠ .off)

/-- Answers a transaction of the sideband. -/
def answer (s : State) (b : List Byte) : State := emit s (.sideband b)

/-- The bytes of ID. -/
def idBytes (s : State) : List Byte :=
  leBytes 8 s.ident.moduleId ++ leBytes 1 (partCode s.ident.part) ++ leBytes 1 0xB0 ++ zeros 2

/-- ID (R394). -/
def execId (s : State) : Res := .next <| if islandUp s then answer s (idBytes s) else s

/-- The bytes of STATUS. -/
def statusBytes (s : State) : List Byte :=
  leBytes 1 (stateCode s.boot.state) ++ leBytes 1 s.boot.failCode ++ leBytes 1 s.boot.failDetail ++
  leBytes 1 (bit s.amber.full + 2 * bit s.pins.faultN + 4 * bit s.safety.haltQual + 8 * bit s.power.throtLevel)

/-- STATUS (R394). -/
def execStatus (s : State) : Res := .next <| if islandUp s then answer s (statusBytes s) else s

/-- RECORDER (R368, R394). -/
def execRecorder (s : State) : Res :=
  .next <| if islandUp s then answer s ((recorderWords s.amber).flatMap (leBytes 4)) else s

/-- A block write of `n` bytes: another length, a bad PEC or a refused content is NACKed (R393, R394). -/
def blockWrite (s : State) (n : Nat) (b : List Byte) (pec : Bool) (fits : Bool) (act : State → State) : State :=
  if !islandUp s then s
  else if pec ∧ b.length = n ∧ fits then answer (act s) []
  else emit s .sidebandNack

/-- AMBER_SELECT (R394): the region and FROM_SEQ of the reads that follow. -/
def execAmberSelect (b : List Byte) (pec : Bool) (s : State) : Res :=
  .next <| blockWrite s 9 b pec (decide (byteAt b 0 ≤ 1)) fun s =>
    { s with sideband := { s.sideband with region := byteAt b 0, cursor := some (le b 1 8), skip := 0 } }

/-- The record that AMBER_NEXT returns, with the SEQ that places it (R367). -/
def nextRecord (s : State) : Option (Nat × AmberRec) :=
  let r := s.sideband
  let rs := regionOf s.amber r.region
  if rs.any fun x => decide (x.damaged = none) then (readRecords s.amber r.region (r.cursor.getD 0) 1).head?
  else (rs[r.skip]?).map fun x => (nextSeq s.amber, x)

/-- AMBER_NEXT (R367, R369, R394): the next record, and the reads go on past it. -/
def execAmberNext (s : State) : Res :=
  .next <|
    if !islandUp s then s
    else match nextRecord s with
      | none => answer s (leBytes 1 2 ++ zeros 64)
      | some (q, r) =>
        let s := { s with sideband := { s.sideband with cursor := some (q + 1), skip := s.sideband.skip + 1 } }
        answer s (leBytes 1 (bit (decide (r.damaged ≠ none))) ++ recordBytes r)

/-- RETRY (R374, R394): in LOCKOUT a fresh attempt starts; in other states it is acknowledged without effect. -/
def execRetry (b : List Byte) (pec : Bool) (s : State) : Res :=
  .next <| blockWrite s 4 b pec (decide (le b 0 4 = 0xA5C30001)) fun s =>
    if s.boot.state = .lockout ∧ s.boot.main then startAttempt s 1 else s

/-! ## MCTP control (R393) -/

/-- The endpoint id after a control request: Set Endpoint ID with a valid id assigns it. -/
def mctpEid (b : List Byte) (old : Nat) : Nat :=
  let id := byteAt b 3
  if byteAt b 1 = 1 ∧ byteAt b 2 ≤ 1 ∧ 8 ≤ id ∧ id ≤ 254 then id else old

/-- The answer to a control request after its effect: DSP0236's codes and layouts. -/
def mctpAnswer (eid v : Nat) (b : List Byte) : List Byte :=
  match byteAt b 1 with
  | 1 => if byteAt b 2 ≤ 1 ∧ 8 ≤ byteAt b 3 ∧ byteAt b 3 ≤ 254 then [0, 0, BitVec.ofNat 8 eid, 0] else [2]
  | 2 => [0, BitVec.ofNat 8 eid, 0, 0]
  | 4 => 0 :: (List.range 5).map (Config.standardByte v)
  | 5 => [0, 2, 1, 5]
  | _ => [5]

/-- MCTP_CONTROL (R393): bytes 0 and 1 of the request are its header and command code. -/
def execMctpControl (b : List Byte) (pec : Bool) (s : State) : Res :=
  .next <|
    if !islandUp s then s
    else if !pec then emit s .sidebandNack
    else
      let s := { s with sideband := { s.sideband with eid := mctpEid b s.sideband.eid } }
      answer (bumpFree s) (b.take 2 ++ mctpAnswer s.sideband.eid s.free b)

/-! ## PLDM (R387, R393) -/

/-- Answers a PLDM request with a completion code. -/
def pldmAnswer (s : State) (code : Nat) (b : List Byte) : State := emit s (.pldm code b)

/-- A write of the sideband's update into the inactive slot. -/
def pldmWrite (s : State) (off : Nat) (data : List Byte) (flashOk : Bool) : State :=
  let slot := inactiveSlot s
  let s' := writeSlot s slot off data (off == 0) flashOk
  if flashOk then pldmAnswer s' 0 [] else pldmAnswer (flashFailed s' slot off data.length (off == 0)) 1 []

/-- PLDM_FIRMWARE_UPDATE (R387): DSP0267's NOT_IN_UPDATE_MODE is 0x80, ALREADY_IN_UPDATE_MODE 0x81, DATA_OUT_OF_RANGE
0x82. -/
def execPldmFirmwareUpdate (q : PldmReq) (s : State) : Res :=
  .next <|
    if !islandUp s then s
    else match q with
      | .requestUpdate =>
        if s.boot.pfUpdate ∨ s.boot.sbUpdate then pldmAnswer s 0x81 []
        else pldmAnswer (updBoot s fun t => { t with sbUpdate := true }) 0 []
      | .firmwareData off data flashOk =>
        if !s.boot.sbUpdate then pldmAnswer s 0x80 []
        else if 16777216 < off + data.length ∨ data = [] then pldmAnswer s 0x82 []
        else pldmWrite s off data flashOk
      | .activate len =>
        if !s.boot.sbUpdate then pldmAnswer s 0x80 []
        else match imageChecks s (inactiveSlot s) (stagedImage s len) with
          | some _ => pldmAnswer s 1 []
          | none =>
            pldmAnswer (activateImage (updBoot s fun t => { t with sbUpdate := false }) len (stagedImage s len)) 0 []
      | .cancel =>
        if !s.boot.sbUpdate then pldmAnswer s 0x80 []
        else pldmAnswer (updBoot s fun t => { t with sbUpdate := false }) 0 []

/-- The reading of a numeric sensor: TJ of the seven dies in 1/16 °C, PWR_1MS in mW, and VSET of the four VARR rails in mV. -/
def sensorValue (s : State) (n : Nat) : Int :=
  if n < 7 then s.power.tj.getD n 0
  else if n = 7 then s.power.pwr1ms
  else (dieOf s (n - 8)).vset

/-- PLDM_PLATFORM_MONITORING (R393): the operational state, 0 enabled or 2 unavailable, and the reading. -/
def execPldmPlatformMonitoring (sensor : Nat) (s : State) : Res :=
  .next <|
    if !islandUp s then s
    else if sensor ≥ 12 then pldmAnswer s 0x80 []
    else if served s then pldmAnswer s 0 (leBytes 1 0 ++ leBytes 4 (unsignedOf 32 (sensorValue s sensor)))
    else pldmAnswer s 0 (leBytes 1 2 ++ zeros 4)

/-! ## SPDM (R378) -/

/-- Whether SPDM is answered: from the end of verification on, except in OFF, AO_ONLY and LOCKOUT. -/
def spdmUp (s : State) : Bool :=
  s.boot.meas.isSome && match s.boot.state with
    | .off | .aoOnly | .lockout => false
    | _ => true

/-- `n` bytes of an answer that DSP0274 or a key fixes, from the free value `v`. -/
def standardBytes (v n : Nat) : List Byte := (List.range n).map (Config.standardByte v)

/-- The code and the bytes of an answer, for the measured-boot log. -/
def spdmAnswer (log : List Byte) (v : Nat) : SpdmReq → Nat × List Byte
  | .getVersion => (0x04, standardBytes v 4)
  | .getCapabilities => (0x61, standardBytes v 16)
  | .negotiateAlgorithms => (0x63, standardBytes v 32)
  | .getDigests => (0x01, standardBytes v 48)
  | .getCertificate slot => if slot = 0 then (0x02, standardBytes v 1024) else (0x7F, leBytes 1 1)
  | .challenge => (0x03, standardBytes v 192)
  | .getMeasurements => (0x60, log)
  | .other _ => (0x7F, leBytes 1 7)

/-- SPDM_REQUEST (R378). -/
def execSpdmRequest (q : SpdmReq) (s : State) : Res :=
  .next <|
    if spdmUp s then
      let r := spdmAnswer (measurementLog s) s.free q
      emit (bumpFree s) (.spdm r.1 r.2)
    else s

end Sys2Proof.Machine
end

