-- ==== Sys2Proof/Machine/Dispatch.lean ====
section
/-! DEFINITION. The one match that gives each command its meaning, arm by arm. -/

namespace Sys2Proof.Machine

/-- The effect of a command on everything but the queue. -/
def exec (i : Instr) (s : State) : Host.Outcome State Fault Refusal :=
  match i with
  | .inlPiObserved f => Sys2Proof.Machine.execInlPiObserved f s
  | .sqPiObserved f => Sys2Proof.Machine.execSqPiObserved f s
  | .cqCiObserved f => Sys2Proof.Machine.execCqCiObserved f s
  | .sqEntryFetchComplete f index r => Sys2Proof.Machine.execSqEntryFetchComplete f index r s
  | .mbReset f => Sys2Proof.Machine.execMbReset f s
  | .sqEnable f withCq h => Sys2Proof.Machine.execSqEnable f withCq h s
  | .cqEnable f h => Sys2Proof.Machine.execCqEnable f h s
  | .eventPendingClear f mask same => Sys2Proof.Machine.execEventPendingClear f mask same s
  | .evtLostRead f same => Sys2Proof.Machine.execEvtLostRead f same s
  | .complDroppedRead f same => Sys2Proof.Machine.execComplDroppedRead f same s
  | .conflictsRead same => Sys2Proof.Machine.execConflictsRead same s
  | .throtChangesRead same => Sys2Proof.Machine.execThrotChangesRead same s
  | .stretchFaultsRead same => Sys2Proof.Machine.execStretchFaultsRead same s
  | .minRearm => Sys2Proof.Machine.execMinRearm s
  | .registerWrite f win off val => Sys2Proof.Machine.execRegisterWrite f win off val s
  | .modTimeExpiry f => Sys2Proof.Machine.execModTimeExpiry f s
  | .partitionCreate f src => Sys2Proof.Machine.execPartitionCreate f src s
  | .partitionSetQuota f src => Sys2Proof.Machine.execPartitionSetQuota f src s
  | .partitionControl f src => Sys2Proof.Machine.execPartitionControl f src s
  | .partitionQuery f src h => Sys2Proof.Machine.execPartitionQuery f src h s
  | .modelLoad f src h r => Sys2Proof.Machine.execModelLoad f src h r s
  | .modelPin f src => Sys2Proof.Machine.execModelPin f src s
  | .modelEvict f src => Sys2Proof.Machine.execModelEvict f src s
  | .tableCreate f src => Sys2Proof.Machine.execTableCreate f src s
  | .tableLoad f src h r => Sys2Proof.Machine.execTableLoad f src h r s
  | .tableDestroy f src => Sys2Proof.Machine.execTableDestroy f src s
  | .indexCreate f src => Sys2Proof.Machine.execIndexCreate f src s
  | .indexBulkLoad f src h r => Sys2Proof.Machine.execIndexBulkLoad f src h r s
  | .indexInsert f src h r => Sys2Proof.Machine.execIndexInsert f src h r s
  | .indexDelete f src h r => Sys2Proof.Machine.execIndexDelete f src h r s
  | .indexSettle f src => Sys2Proof.Machine.execIndexSettle f src s
  | .indexSnapshot f src h => Sys2Proof.Machine.execIndexSnapshot f src h s
  | .indexDestroy f src => Sys2Proof.Machine.execIndexDestroy f src s
  | .indexQuery f src => Sys2Proof.Machine.execIndexQuery f src s
  | .prefixRegister f src h r => Sys2Proof.Machine.execPrefixRegister f src h r s
  | .prefixRelease f src => Sys2Proof.Machine.execPrefixRelease f src s
  | .contractOpen f src h r w => Sys2Proof.Machine.execContractOpen f src h r w s
  | .contractQueryProof f src h => Sys2Proof.Machine.execContractQueryProof f src h s
  | .contractClose f src => Sys2Proof.Machine.execContractClose f src s
  | .caseSubmit f src h r => Sys2Proof.Machine.execCaseSubmit f src h r s
  | .caseCancel f src => Sys2Proof.Machine.execCaseCancel f src s
  | .caseQuery f src h => Sys2Proof.Machine.execCaseQuery f src h s
  | .cairnAlloc f src => Sys2Proof.Machine.execCairnAlloc f src s
  | .cairnFree f src => Sys2Proof.Machine.execCairnFree f src s
  | .cairnSignal f src => Sys2Proof.Machine.execCairnSignal f src s
  | .cairnWaitArm f src => Sys2Proof.Machine.execCairnWaitArm f src s
  | .cairnQuery f src => Sys2Proof.Machine.execCairnQuery f src s
  | .telemetryRead f src h => Sys2Proof.Machine.execTelemetryRead f src h s
  | .accountRead f src h => Sys2Proof.Machine.execAccountRead f src h s
  | .safetySelftestRead f src h => Sys2Proof.Machine.execSafetySelftestRead f src h s
  | .safetyInject f src => Sys2Proof.Machine.execSafetyInject f src s
  | .safetyFence f src testOk => Sys2Proof.Machine.execSafetyFence f src testOk s
  | .safetyHoldRelease f src failed => Sys2Proof.Machine.execSafetyHoldRelease f src failed s
  | .powerPolicySet f src => Sys2Proof.Machine.execPowerPolicySet f src s
  | .powerPolicyGet f src => Sys2Proof.Machine.execPowerPolicyGet f src s
  | .amberRead f src h => Sys2Proof.Machine.execAmberRead f src h s
  | .fwStage f src h r flashOk => Sys2Proof.Machine.execFwStage f src h r flashOk s
  | .fwActivate f src => Sys2Proof.Machine.execFwActivate f src s
  | .attestMeasurements f src h => Sys2Proof.Machine.execAttestMeasurements f src h s
  | .backgroundOpCommit op wr => Sys2Proof.Machine.execBackgroundOpCommit op wr s
  | .commandSelection u => Sys2Proof.Machine.execCommandSelection u s
  | .tileEnd cmd u t => Sys2Proof.Machine.execTileEnd cmd u t s
  | .commandCommit cmd p wr det => Sys2Proof.Machine.execCommandCommit cmd p wr det s
  | .preemptWdogTimeout u => Sys2Proof.Machine.execPreemptWdogTimeout u s
  | .modelSwitchLoadDone m => Sys2Proof.Machine.execModelSwitchLoadDone m s
  | .layerMoveDone m layer late => Sys2Proof.Machine.execLayerMoveDone m layer late s
  | .intakeCommit c rs wr => Sys2Proof.Machine.execIntakeCommit c rs wr s
  | .chunkEncodeCommit c chunk det => Sys2Proof.Machine.execChunkEncodeCommit c chunk det s
  | .summaryPassCommit c det => Sys2Proof.Machine.execSummaryPassCommit c det s
  | .coarseSearchCommit cmd det => Sys2Proof.Machine.execCoarseSearchCommit cmd det s
  | .holdExpiry c => Sys2Proof.Machine.execHoldExpiry c s
  | .listPassCommit cmd ps det => Sys2Proof.Machine.execListPassCommit cmd ps det s
  | .passageStoreReadComplete c id r => Sys2Proof.Machine.execPassageStoreReadComplete c id r s
  | .t3BudgetExpiry c p => Sys2Proof.Machine.execT3BudgetExpiry c p s
  | .t3LatestSwitchPoint c p => Sys2Proof.Machine.execT3LatestSwitchPoint c p s
  | .passageFetchCommit c p => Sys2Proof.Machine.execPassageFetchCommit c p s
  | .cacheFillCommit op => Sys2Proof.Machine.execCacheFillCommit op s
  | .rerankBatchCommit c p det => Sys2Proof.Machine.execRerankBatchCommit c p det s
  | .packingCommit c p => Sys2Proof.Machine.execPackingCommit c p s
  | .prefillCommit c p det => Sys2Proof.Machine.execPrefillCommit c p det s
  | .fileChunkPrefillCommit c chunk det => Sys2Proof.Machine.execFileChunkPrefillCommit c chunk det s
  | .draftStep c => Sys2Proof.Machine.execDraftStep c s
  | .verifyPassCommit cmd ps det => Sys2Proof.Machine.execVerifyPassCommit cmd ps det s
  | .resultRecordIssue c => Sys2Proof.Machine.execResultRecordIssue c s
  | .arrivalTokenAccrual k => Sys2Proof.Machine.execArrivalTokenAccrual k s
  | .periodWindowEnd k => Sys2Proof.Machine.execPeriodWindowEnd k s
  | .cairnWaitTimeout w => Sys2Proof.Machine.execCairnWaitTimeout w s
  | .linkRateFall rate width => Sys2Proof.Machine.execLinkRateFall rate width s
  | .voltMon g mv high => Sys2Proof.Machine.execVoltMon g mv high s
  | .stretchBudgetFault g region => Sys2Proof.Machine.execStretchBudgetFault g region s
  | .railMon rail word => Sys2Proof.Machine.execRailMon rail word s
  | .lockstepMismatch pairB pos pc => Sys2Proof.Machine.execLockstepMismatch pairB pos pc s
  | .fwWdog pairB task => Sys2Proof.Machine.execFwWdog pairB task s
  | .clockMon domain dev => Sys2Proof.Machine.execClockMon domain dev s
  | .clockRelockAttempt ok => Sys2Proof.Machine.execClockRelockAttempt ok s
  | .diagnosticSweepTick flagged => Sys2Proof.Machine.execDiagnosticSweepTick flagged s
  | .haltReqNChange level => Sys2Proof.Machine.execHaltReqNChange level s
  | .haltReqNRearmExpiry => Sys2Proof.Machine.execHaltReqNRearmExpiry s
  | .throtNChange level => Sys2Proof.Machine.execThrotNChange level s
  | .syncInEdge ts => Sys2Proof.Machine.execSyncInEdge ts s
  | .syncOutPulseStart => Sys2Proof.Machine.execSyncOutPulseStart s
  | .syncOutPulseEnd => Sys2Proof.Machine.execSyncOutPulseEnd s
  | .dividerDwellEnd g ma => Sys2Proof.Machine.execDividerDwellEnd g ma s
  | .voltageStepAck rail => Sys2Proof.Machine.execVoltageStepAck rail s
  | .voltageStepTimeout rail => Sys2Proof.Machine.execVoltageStepTimeout rail s
  | .minSenseLoopPeriod g ma rd => Sys2Proof.Machine.execMinSenseLoopPeriod g ma rd s
  | .unmatchedFall g region mv => Sys2Proof.Machine.execUnmatchedFall g region mv s
  | .powerCapEvaluation energyUj avgMw maxMw => Sys2Proof.Machine.execPowerCapEvaluation energyUj avgMw maxMw s
  | .capCalibration estMw teleMw => Sys2Proof.Machine.execCapCalibration estMw teleMw s
  | .thermalSensorRead temps => Sys2Proof.Machine.execThermalSensorRead temps s
  | .thermalThrottleStep g => Sys2Proof.Machine.execThermalThrottleStep g s
  | .coreReady core => Sys2Proof.Machine.execCoreReady core s
  | .hdrSwitchTimeout core stage => Sys2Proof.Machine.execHdrSwitchTimeout core stage s
  | .headerSwitchReadyLost core => Sys2Proof.Machine.execHeaderSwitchReadyLost core s
  | .dozeEntry => Sys2Proof.Machine.execDozeEntry s
  | .dieRegate g => Sys2Proof.Machine.execDieRegate g s
  | .patrolScrubTick t reads => Sys2Proof.Machine.execPatrolScrubTick t reads s
  | .scrubPassStart t => Sys2Proof.Machine.execScrubPassStart t s
  | .channelReadTimeout t ch => Sys2Proof.Machine.execChannelReadTimeout t ch s
  | .retrainEnd t ch ok => Sys2Proof.Machine.execRetrainEnd t ch ok s
  | .atsInvalidation f lo hi => Sys2Proof.Machine.execAtsInvalidation f lo hi s
  | .dmaCompletionTimeout d => Sys2Proof.Machine.execDmaCompletionTimeout d s
  | .cableInsertion p eeprom => Sys2Proof.Machine.execCableInsertion p eeprom s
  | .linkTrainingAttempt p => Sys2Proof.Machine.execLinkTrainingAttempt p s
  | .trainingStepTimeout p step => Sys2Proof.Machine.execTrainingStepTimeout p step s
  | .trainingRetryTimer p => Sys2Proof.Machine.execTrainingRetryTimer p s
  | .linkFlit p fl => Sys2Proof.Machine.execLinkFlit p fl s
  | .dataFlit p fl => Sys2Proof.Machine.execDataFlit p fl s
  | .idleFlit p fl => Sys2Proof.Machine.execIdleFlit p fl s
  | .nakFlit p fl => Sys2Proof.Machine.execNakFlit p fl s
  | .lossOfSignal p => Sys2Proof.Machine.execLossOfSignal p s
  | .cblIntN p => Sys2Proof.Machine.execCblIntN p s
  | .memberSilentTimeout pos => Sys2Proof.Machine.execMemberSilentTimeout pos s
  | .formationQuietTimeout shape members => Sys2Proof.Machine.execFormationQuietTimeout shape members s
  | .hello p m => Sys2Proof.Machine.execHello p m s
  | .form p m => Sys2Proof.Machine.execForm p m s
  | .linkState p m => Sys2Proof.Machine.execLinkState p m s
  | .ack p m => Sys2Proof.Machine.execAck p m s
  | .reserve p m w => Sys2Proof.Machine.execReserve p m w s
  | .reserveAck p m => Sys2Proof.Machine.execReserveAck p m s
  | .reserveTimeout k => Sys2Proof.Machine.execReserveTimeout k s
  | .release p m => Sys2Proof.Machine.execRelease p m s
  | .signal p m => Sys2Proof.Machine.execSignal p m s
  | .vote p m => Sys2Proof.Machine.execVote p m s
  | .voteTimeout txn => Sys2Proof.Machine.execVoteTimeout txn s
  | .decide p m => Sys2Proof.Machine.execDecide p m s
  | .decisionWaitTimeout txn => Sys2Proof.Machine.execDecisionWaitTimeout txn s
  | .decisionQuery p m => Sys2Proof.Machine.execDecisionQuery p m s
  | .dispatch p m => Sys2Proof.Machine.execDispatch p m s
  | .shardResult p m q => Sys2Proof.Machine.execShardResult p m q s
  | .partialMsg p m => Sys2Proof.Machine.execPartialMsg p m s
  | .kill p m => Sys2Proof.Machine.execKill p m s
  | .throttleAdvise p m => Sys2Proof.Machine.execThrottleAdvise p m s
  | .syncExchangeTimer => Sys2Proof.Machine.execSyncExchangeTimer s
  | .syncReq p m t2 t3 => Sys2Proof.Machine.execSyncReq p m t2 t3 s
  | .syncResp p m t4 => Sys2Proof.Machine.execSyncResp p m t4 s
  | .bulk p m => Sys2Proof.Machine.execBulk p m s
  | .unknownMessageType p m => Sys2Proof.Machine.execUnknownMessageType p m s
  | .auxPowerOn epochOk => Sys2Proof.Machine.execAuxPowerOn epochOk s
  | .auxPowerLost => Sys2Proof.Machine.execAuxPowerLost s
  | .mainPowerPresent => Sys2Proof.Machine.execMainPowerPresent s
  | .mainPowerLost => Sys2Proof.Machine.execMainPowerLost s
  | .railPowerGood rail => Sys2Proof.Machine.execRailPowerGood rail s
  | .powerGoodTimeout rail => Sys2Proof.Machine.execPowerGoodTimeout rail s
  | .oscillatorStable => Sys2Proof.Machine.execOscillatorStable s
  | .pllLock => Sys2Proof.Machine.execPllLock s
  | .refclkTimeout pll => Sys2Proof.Machine.execRefclkTimeout pll s
  | .attemptRetryWaitExpiry => Sys2Proof.Machine.execAttemptRetryWaitExpiry s
  | .perstAssert => Sys2Proof.Machine.execPerstAssert s
  | .perstDeassert => Sys2Proof.Machine.execPerstDeassert s
  | .bootVerifyComplete => Sys2Proof.Machine.execBootVerifyComplete s
  | .memoryTrainingComplete failed => Sys2Proof.Machine.execMemoryTrainingComplete failed s
  | .memoryInitComplete bad failed => Sys2Proof.Machine.execMemoryInitComplete bad failed s
  | .trialBootTimeout => Sys2Proof.Machine.execTrialBootTimeout s
  | .flrVf f => Sys2Proof.Machine.execFlrVf f s
  | .flrPf => Sys2Proof.Machine.execFlrPf s
  | .vfEnableClear => Sys2Proof.Machine.execVfEnableClear s
  | .vfEnableSet n => Sys2Proof.Machine.execVfEnableSet n s
  | .d3hotTransition enter => Sys2Proof.Machine.execD3hotTransition enter s
  | .amberRingWrite => Sys2Proof.Machine.execAmberRingWrite s
  | .amberPersistentAppend ok => Sys2Proof.Machine.execAmberPersistentAppend ok s
  | .id => Sys2Proof.Machine.execId s
  | .status => Sys2Proof.Machine.execStatus s
  | .recorder => Sys2Proof.Machine.execRecorder s
  | .amberSelect b pec => Sys2Proof.Machine.execAmberSelect b pec s
  | .amberNext => Sys2Proof.Machine.execAmberNext s
  | .retry b pec => Sys2Proof.Machine.execRetry b pec s
  | .mctpControl b pec => Sys2Proof.Machine.execMctpControl b pec s
  | .pldmFirmwareUpdate q => Sys2Proof.Machine.execPldmFirmwareUpdate q s
  | .pldmPlatformMonitoring sensor => Sys2Proof.Machine.execPldmPlatformMonitoring sensor s
  | .spdmRequest q => Sys2Proof.Machine.execSpdmRequest q s
  | .clockStretchStart g region => Sys2Proof.Machine.execClockStretchStart g region s
  | .clockStretchEnd g => Sys2Proof.Machine.execClockStretchEnd g s
  | .setpointRaiseExpiry g => Sys2Proof.Machine.execSetpointRaiseExpiry g s
  | .undervoltagePersistence g => Sys2Proof.Machine.execUndervoltagePersistence g s
  | .cableRemoval p => Sys2Proof.Machine.execCableRemoval p s

end Sys2Proof.Machine
end

