-- ==== Sys2Proof/Machine/Tick.lean ====
section
/-! DEFINITION. What happens as a count of TCLK ends: cairn waits resolve (R148), and commands that were asked to yield come to
their preemption points (R136). -/

namespace Sys2Proof.Machine

/-- What step does on an empty queue: a count of TCLK ends, in every state but OFF (R362). -/
def idleTick (s : State) : State :=
  if s.boot.state = .off then s else { yieldPoints (resolveWaits s) with tclk := s.tclk + 1 }

end Sys2Proof.Machine
end

