-- ==== Sys2Proof/WellFormed.lean ====
section
/-! DEFINITION. Which commands are well formed: the operand that names a function, Garnet, region, core, rail, port,
domain, channel or engine names one that a module has (R16, R237, R239, R290, R312, R317), and a register write
goes to a field that has no command of its own. -/

namespace Sys2Proof

open Sys2Proof.Machine

/-- A function of the module: the PF or one of the 32 VFs (R16). -/
def fn (f : Nat) : Bool := decide (f < 33)

/-- One of the four Strata ports (R290). -/
def port (p : Nat) : Bool := decide (p < 4)

/-- One of the eleven rails, in the numbering of R314. -/
def rail11 (r : Nat) : Bool := decide (r ≤ 10)

/-- One of the 64 arrays (R95). -/
def isArray (u : UnitId) : Bool := decide (u.kind = 3 ∧ u.idx < 64)

/-- Whether an offset of the mailbox window holds no field that a command of its own writes: the enables and the
reset at 0x18, and the event register at 0x28 (R17). -/
def plainOffset (w : Window) (off : Nat) : Bool :=
  match w with
  | .mailbox => decide (off ≠ 0x18 ∧ off ≠ 0x28 ∧ off < 16384)
  | .safety => decide (off < 16384)
  | .power => decide (off < 16384 ∧ off ≠ 0x60)
  | .recorder => decide (off < 16384)
  | .config => decide (off < 4096)

/-- A DMA read of a function the module has. -/
def readOf (d : DmaRef) : Bool :=
  match d with
  | .ringFetch f _ => fn f
  | .intake _ => true
  | .store _ _ => true

/-- A number below a bound. -/
def below (n x : Nat) : Bool := decide (x < n)

/-- A number of a range, both ends included. -/
def within (lo hi x : Nat) : Bool := decide (lo ≤ x ∧ x ≤ hi)

/-- An offset of a 32-bit field. -/
def aligned (off : Nat) : Bool := decide (off % 4 = 0)

/-- Whether every channel of a list is one of the 32 of its tier (R262). -/
def channelsOk (l : List (Tier × Nat)) : Bool := l.all fun e => decide (e.2 < 32)

/-- Whether an operand has the format of its side of an operation: a bf16 pattern, an int4 mantissa with its shift of at most 23, or an
int8 (R242, R250). -/
def operandOk (op : CellOp) (col : Bool) (x : Int) : Bool :=
  match op, col with
  | .macBf, _ => decide (0 ≤ x ∧ x < 65536)
  | .mac4, true => decide (-(2 ^ 26) ≤ x ∧ x < 2 ^ 26)
  | _, _ => decide (-128 ≤ x ∧ x ≤ 127)

/-- Whether every operand of a tile has its format. -/
def tileOperands (t : TileRun) : Bool :=
  t.rows.all (fun r => r.all (operandOk t.op false)) && t.cols.all fun c => c.all (operandOk t.op true)

/-- Whether a command is well formed. -/
def Instr.wf (i : Instr) : Bool :=
  match i with
  | .inlPiObserved f => fn f
  | .sqPiObserved f => fn f
  | .cqCiObserved f => fn f
  | .sqEntryFetchComplete f _ _ => fn f
  | .mbReset f => fn f
  | .sqEnable f _ _ => fn f
  | .cqEnable f _ => fn f
  | .eventPendingClear f _ _ => fn f
  | .evtLostRead f _ => fn f
  | .complDroppedRead f _ => fn f
  | .conflictsRead _ => true
  | .throtChangesRead _ => true
  | .stretchFaultsRead _ => true
  | .minRearm => true
  | .registerWrite f win off val => fn f && aligned off && below (2 ^ 32) val && plainOffset win off
  | .modTimeExpiry f => fn f
  | .partitionCreate f _ => fn f
  | .partitionSetQuota f _ => fn f
  | .partitionControl f _ => fn f
  | .partitionQuery f _ _ => fn f
  | .modelLoad f _ _ _ => fn f
  | .modelPin f _ => fn f
  | .modelEvict f _ => fn f
  | .tableCreate f _ => fn f
  | .tableLoad f _ _ _ => fn f
  | .tableDestroy f _ => fn f
  | .indexCreate f _ => fn f
  | .indexBulkLoad f _ _ _ => fn f
  | .indexInsert f _ _ _ => fn f
  | .indexDelete f _ _ _ => fn f
  | .indexSettle f _ => fn f
  | .indexSnapshot f _ _ => fn f
  | .indexDestroy f _ => fn f
  | .indexQuery f _ => fn f
  | .prefixRegister f _ _ _ => fn f
  | .prefixRelease f _ => fn f
  | .contractOpen f _ _ _ _ => fn f
  | .contractQueryProof f _ _ => fn f
  | .contractClose f _ => fn f
  | .caseSubmit f _ _ _ => fn f
  | .caseCancel f _ => fn f
  | .caseQuery f _ _ => fn f
  | .cairnAlloc f _ => fn f
  | .cairnFree f _ => fn f
  | .cairnSignal f _ => fn f
  | .cairnWaitArm f _ => fn f
  | .cairnQuery f _ => fn f
  | .telemetryRead f _ _ => fn f
  | .accountRead f _ _ => fn f
  | .safetySelftestRead f _ _ => fn f
  | .safetyInject f _ => fn f
  | .safetyFence f _ _ => fn f
  | .safetyHoldRelease f _ _ => fn f
  | .powerPolicySet f _ => fn f
  | .powerPolicyGet f _ => fn f
  | .amberRead f _ _ => fn f
  | .fwStage f _ _ _ _ => fn f
  | .fwActivate f _ => fn f
  | .attestMeasurements f _ _ => fn f
  | .backgroundOpCommit _ _ => true
  | .commandSelection u => isEngine u
  | .tileEnd _ u t => isArray u && tileOperands t
  | .commandCommit _ _ _ _ => true
  | .preemptWdogTimeout u => isEngine u
  | .modelSwitchLoadDone _ => true
  | .layerMoveDone _ _ _ => true
  | .intakeCommit _ _ _ => true
  | .chunkEncodeCommit _ _ _ => true
  | .summaryPassCommit _ _ => true
  | .coarseSearchCommit _ _ => true
  | .holdExpiry _ => true
  | .listPassCommit _ _ _ => true
  | .passageStoreReadComplete _ _ _ => true
  | .t3BudgetExpiry _ _ => true
  | .t3LatestSwitchPoint _ _ => true
  | .passageFetchCommit _ _ => true
  | .cacheFillCommit _ => true
  | .rerankBatchCommit _ _ _ => true
  | .packingCommit _ _ => true
  | .prefillCommit _ _ _ => true
  | .fileChunkPrefillCommit _ _ _ => true
  | .draftStep _ => true
  | .verifyPassCommit _ _ _ => true
  | .resultRecordIssue _ => true
  | .arrivalTokenAccrual _ => true
  | .periodWindowEnd _ => true
  | .cairnWaitTimeout _ => true
  | .linkRateFall _ _ => true
  | .voltMon g _ _ => below 4 g
  | .stretchBudgetFault g region => below 4 g && below 16 region
  | .railMon rail _ => rail11 rail
  | .lockstepMismatch _ _ _ => true
  | .fwWdog _ _ => true
  | .clockMon domain _ => below 7 domain
  | .clockRelockAttempt _ => true
  | .diagnosticSweepTick _ => true
  | .haltReqNChange _ => true
  | .haltReqNRearmExpiry => true
  | .throtNChange _ => true
  | .syncInEdge _ => true
  | .syncOutPulseStart => true
  | .syncOutPulseEnd => true
  | .dividerDwellEnd g _ => below 4 g
  | .voltageStepAck rail => rail11 rail
  | .voltageStepTimeout rail => rail11 rail
  | .minSenseLoopPeriod g _ _ => below 4 g
  | .unmatchedFall g region _ => below 4 g && below 16 region
  | .powerCapEvaluation _ _ _ => true
  | .capCalibration _ _ => true
  | .thermalSensorRead _ => true
  | .thermalThrottleStep g => below 5 g
  | .coreReady core => below 16 core
  | .hdrSwitchTimeout core stage => below 16 core && within 1 4 stage
  | .headerSwitchReadyLost core => below 16 core
  | .dozeEntry => true
  | .dieRegate g => below 4 g
  | .patrolScrubTick _ _ => true
  | .scrubPassStart _ => true
  | .channelReadTimeout _ ch => below 32 ch
  | .retrainEnd _ ch _ => below 32 ch
  | .atsInvalidation f lo hi => fn f && below hi lo
  | .dmaCompletionTimeout d => readOf d
  | .cableInsertion p _ => port p
  | .linkTrainingAttempt p => port p
  | .trainingStepTimeout p step => port p && within 1 5 step
  | .trainingRetryTimer p => port p
  | .linkFlit p _ => port p
  | .dataFlit p _ => port p
  | .idleFlit p _ => port p
  | .nakFlit p _ => port p
  | .lossOfSignal p => port p
  | .cblIntN p => port p
  | .memberSilentTimeout _ => true
  | .formationQuietTimeout _ _ => true
  | .hello p _ => port p
  | .form p _ => port p
  | .linkState p _ => port p
  | .ack p _ => port p
  | .reserve p _ _ => port p
  | .reserveAck p _ => port p
  | .reserveTimeout _ => true
  | .release p _ => port p
  | .signal p _ => port p
  | .vote p _ => port p
  | .voteTimeout _ => true
  | .decide p _ => port p
  | .decisionWaitTimeout _ => true
  | .decisionQuery p _ => port p
  | .dispatch p _ => port p
  | .shardResult p _ _ => port p
  | .partialMsg p _ => port p
  | .kill p _ => port p
  | .throttleAdvise p _ => port p
  | .syncExchangeTimer => true
  | .syncReq p _ _ _ => port p
  | .syncResp p _ _ => port p
  | .bulk p _ => port p
  | .unknownMessageType p _ => port p
  | .auxPowerOn _ => true
  | .auxPowerLost => true
  | .mainPowerPresent => true
  | .mainPowerLost => true
  | .railPowerGood rail => rail11 rail
  | .powerGoodTimeout rail => rail11 rail
  | .oscillatorStable => true
  | .pllLock => true
  | .refclkTimeout _ => true
  | .attemptRetryWaitExpiry => true
  | .perstAssert => true
  | .perstDeassert => true
  | .bootVerifyComplete => true
  | .memoryTrainingComplete failed => channelsOk failed
  | .memoryInitComplete _ _ => true
  | .trialBootTimeout => true
  | .flrVf f => within 1 32 f
  | .flrPf => true
  | .vfEnableClear => true
  | .vfEnableSet n => fn n
  | .d3hotTransition _ => true
  | .amberRingWrite => true
  | .amberPersistentAppend _ => true
  | .id => true
  | .status => true
  | .recorder => true
  | .amberSelect _ _ => true
  | .amberNext => true
  | .retry _ _ => true
  | .mctpControl _ _ => true
  | .pldmFirmwareUpdate _ => true
  | .pldmPlatformMonitoring _ => true
  | .spdmRequest _ => true
  | .clockStretchStart g region => below 4 g && below 16 region
  | .clockStretchEnd g => below 4 g
  | .setpointRaiseExpiry g => below 4 g
  | .undervoltagePersistence g => below 4 g
  | .cableRemoval p => port p

end Sys2Proof
end

