-- ==== Sys2Proof/Safety.lean ====
section
/-! DEFINITION. The terms in which the statements speak: a message that is about to start, how it is answered, what the
message path leaves alone, and the invariants of the machine. -/

namespace Sys2Proof.Machine

/-- What has left the module between two states. -/
abbrev newOut (s t : State) : List Out := t.out.drop s.out.length

/-- The message at the head of a channel carries the opcode, may start, and passes steps 1 to 5 of R35. -/
abbrev Head (s : State) (f : Nat) (src : Src) (op : Nat) (m : MsgIn) : Prop :=
  f < 33 ∧ headOf s f src = some m ∧ opcodeOf m = op ∧ mayStart s f src m = true ∧ commonCheck s f m.bytes = none

/-- Every open message has an id below the next one to be given. -/
abbrev Fresh (s : State) : Prop := ∀ o ∈ s.msgs, o.id < s.nextMsg

/-- A completion among `os` answers the message `m` of a channel with a status, an ERR_OFFSET, a RESULT and RESP_BYTES
(R29). -/
abbrev CompletedIn (os : List Out) (f : Nat) (src : Src) (m : MsgIn) (st : Status) (off : Nat) (res : List Byte)
    (bytes : Nat) : Prop :=
  ∃ c, Out.completion c ∈ os ∧ c.f = f ∧ c.src = src ∧ c.tag = le m.bytes 2 2 ∧ c.code = le m.bytes 0 2 ∧
    c.cookie = le m.bytes 24 8 ∧ c.status = st ∧ c.errOffset = off ∧ c.result = res.take 32 ∧ c.respBytes = bytes

/-- The head message has started and is answered at once: no open message is left of it, and its completion is written,
or, on a ring whose completion write is refused, the mailbox is halted (R44). -/
abbrev Answered (s t : State) (f : Nat) (src : Src) (m : MsgIn) (st : Status) (off : Nat) (res : List Byte)
    (bytes : Nat) : Prop :=
  t.msgs = s.msgs ∧ s.nextMsg < t.nextMsg ∧
  (CompletedIn (newOut s t) f src m st off res bytes ∨ (src = .ring ∧ (mbOf t f).st.halted = true))

/-- The head message has started and stays open: its completion comes later (R28, R56). -/
abbrev StaysOpen (s t : State) (f : Nat) (src : Src) (m : MsgIn) : Prop :=
  s.nextMsg < t.nextMsg ∧ ∃ o, t.msgs = s.msgs ++ [o] ∧ o.id = s.nextMsg ∧ o.f = f ∧ o.src = src ∧
    o.opcode = le m.bytes 0 2 ∧ o.tag = le m.bytes 2 2 ∧ o.cookie = le m.bytes 24 8

/-- What starting and answering messages of a function leaves of its mailbox: every register the host writes, the
fetches, and the event register. -/
abbrev MbSame (a b : Mailbox) : Prop :=
  b.st = { a.st with halted := b.st.halted, haltCause := b.st.haltCause, haltIndex := b.st.haltIndex } ∧
  b.inl.pi = a.inl.pi ∧ b.inl.seen = a.inl.seen ∧ b.inl.slots = a.inl.slots ∧
  b.sq = { a.sq with devIdx := b.sq.devIdx } ∧ b.cq = { a.cq with devIdx := b.cq.devIdx } ∧
  b.ev = { a.ev with unsignalled := b.ev.unsignalled, pba := b.ev.pba } ∧ b.sqFetch = a.sqFetch

/-- `t` is `a` in everything but what the message path itself writes: the mailbox of `f`, the open messages, the
recorder, and the log of what leaves the module, which it only extends. -/
abbrev Rest (f : Nat) (a t : State) : Prop :=
  t = { a with mail := t.mail, msgs := t.msgs, nextMsg := t.nextMsg, amber := t.amber, out := t.out } ∧
  MbSame (mbOf a f) (mbOf t f) ∧ (∀ g, g ≠ f → mbOf t g = mbOf a g) ∧ t.mail.length = a.mail.length ∧
  a.out <+: t.out

/-- `Rest` for a command that also posts events, which touch every function's mailbox. -/
abbrev RestEvents (a t : State) : Prop :=
  t = { a with mail := t.mail, msgs := t.msgs, nextMsg := t.nextMsg, amber := t.amber, out := t.out } ∧
  a.out <+: t.out

/-- The command answers the head message with a status over the effect `a`. -/
abbrev AnswersOver (c : Instr) (s : State) (f : Nat) (src : Src) (m : MsgIn) (a : State) (st : Status)
    (res : List Byte) (bytes : Nat) : Prop :=
  ∃ t, exec c s = .next t ∧ Answered s t f src m st 0xFFFF res bytes ∧ Rest f a t

/-- The command leaves the head message open over the effect `a`. -/
abbrev OpensOver (c : Instr) (s : State) (f : Nat) (src : Src) (m : MsgIn) (a : State) : Prop :=
  ∃ t, exec c s = .next t ∧ StaysOpen s t f src m ∧ Rest f a t

/-- `AnswersOver` for a command that also posts events to functions' mailboxes. -/
abbrev AnswersEvents (c : Instr) (s : State) (f : Nat) (src : Src) (m : MsgIn) (a : State) (st : Status)
    (res : List Byte) : Prop :=
  ∃ t, exec c s = .next t ∧ Answered s t f src m st 0xFFFF res 0 ∧ RestEvents a t

/-- The state with a BACKGROUND operation applied for the message that starts now: it holds its pages, and a command
of level 3 waits for its engines (R56, R127). -/
abbrev beginBg (s : State) (f : Nat) (kind : BgKind) (t1 t2 : Nat) : State :=
  addBg (addCmd s (.bg s.nextBg) f 3 0 0 s.tclk false []) f (some s.nextMsg) kind t1 t2

/-- The command writes a response to the message's response buffer and answers ST_OK (R57), over the effect `a`. -/
abbrev Responds (c : Instr) (s : State) (f : Nat) (src : Src) (m : MsgIn) (a : State) (b res : List Byte) : Prop :=
  AnswersOver c s f src m (hostWrite a f (le m.bytes 8 8) b) .ok res b.length

/-- FAULT_N is asserted in exactly the states R13 gives, and SYNC_OUT is high, or about to pulse, only in the states
R399 gives. -/
abbrev PinsOk (s : State) : Prop :=
  s.pins.faultN = faultState s.boot.state ∧ (s.pins.syncOut = true → syncState s.boot.state = true) ∧
  (s.pins.pulse.isSome = true → syncState s.boot.state = true)

/-- While the firmware runs, the state is DEGRADED exactly while a unit is fenced (R342). -/
abbrev DegOk (s : State) : Prop :=
  runState s.boot.state = true → (s.boot.state = .degraded ↔ s.safety.fences ≠ [])

/-- What the recorder, the flash and the identity fuses keep through every step (R365, R366, R377). While auxiliary power is there the
ring loses records only to newer ones, once it is full, and SEQ never falls. -/
abbrev Keeps (s t : State) : Prop :=
  (s.amber.full = true → t.amber.full = true) ∧ s.amber.slots <+: t.amber.slots ∧ s.boot.floor ≤ t.boot.floor ∧
  t.ident.part = s.ident.part ∧ t.ident.moduleId = s.ident.moduleId ∧
  (s.boot.state ≠ .off → t.boot.state ≠ .off →
    t.amber.epoch = s.amber.epoch ∧ s.amber.count ≤ t.amber.count ∧
    ∃ k new, t.amber.ring = s.amber.ring.drop k ++ new ∧ (k ≠ 0 → 16384 ≤ t.amber.ring.length))

/-- The function, the channel and the opcode of a command that starts a message (R58). -/
def opcodeCommand (c : Instr) : Option (Nat × Src × Nat) :=
  match c with
  | .partitionCreate f src => some (f, src, 0x0101)
  | .partitionSetQuota f src => some (f, src, 0x0102)
  | .partitionControl f src => some (f, src, 0x0103)
  | .partitionQuery f src _ => some (f, src, 0x0104)
  | .modelLoad f src _ _ => some (f, src, 0x0201)
  | .modelPin f src => some (f, src, 0x0202)
  | .modelEvict f src => some (f, src, 0x0203)
  | .tableCreate f src => some (f, src, 0x0301)
  | .tableLoad f src _ _ => some (f, src, 0x0302)
  | .tableDestroy f src => some (f, src, 0x0303)
  | .indexCreate f src => some (f, src, 0x0401)
  | .indexBulkLoad f src _ _ => some (f, src, 0x0402)
  | .indexInsert f src _ _ => some (f, src, 0x0403)
  | .indexDelete f src _ _ => some (f, src, 0x0404)
  | .indexSettle f src => some (f, src, 0x0405)
  | .indexSnapshot f src _ => some (f, src, 0x0406)
  | .indexDestroy f src => some (f, src, 0x0407)
  | .indexQuery f src => some (f, src, 0x0408)
  | .prefixRegister f src _ _ => some (f, src, 0x0801)
  | .prefixRelease f src => some (f, src, 0x0802)
  | .contractOpen f src _ _ _ => some (f, src, 0x0501)
  | .contractQueryProof f src _ => some (f, src, 0x0502)
  | .contractClose f src => some (f, src, 0x0503)
  | .caseSubmit f src _ _ => some (f, src, 0x0601)
  | .caseCancel f src => some (f, src, 0x0602)
  | .caseQuery f src _ => some (f, src, 0x0603)
  | .cairnAlloc f src => some (f, src, 0x0701)
  | .cairnFree f src => some (f, src, 0x0702)
  | .cairnSignal f src => some (f, src, 0x0703)
  | .cairnWaitArm f src => some (f, src, 0x0704)
  | .cairnQuery f src => some (f, src, 0x0705)
  | .telemetryRead f src _ => some (f, src, 0x0901)
  | .accountRead f src _ => some (f, src, 0x0902)
  | .safetySelftestRead f src _ => some (f, src, 0x0A01)
  | .safetyInject f src => some (f, src, 0x0A02)
  | .safetyFence f src _ => some (f, src, 0x0A03)
  | .safetyHoldRelease f src _ => some (f, src, 0x0A04)
  | .powerPolicySet f src => some (f, src, 0x0B01)
  | .powerPolicyGet f src => some (f, src, 0x0B02)
  | .amberRead f src _ => some (f, src, 0x0C01)
  | .fwStage f src _ _ _ => some (f, src, 0x0D01)
  | .fwActivate f src => some (f, src, 0x0D02)
  | .attestMeasurements f src _ => some (f, src, 0x0D03)
  | _ => none

/-- Whether a command's message waits behind another one on its object (R42). -/
def heldBack (c : Instr) (s : State) (b : List Byte) : Bool :=
  match c with
  | .partitionControl _ _ => controlHeld s b
  | .modelEvict _ _ => modelHeld s b
  | .tableLoad _ _ _ _ => tableHeld s b
  | .tableDestroy _ _ => tableHeld s b
  | .indexBulkLoad _ _ _ _ => bulkHeld s b
  | .contractOpen _ _ _ _ _ => openHeld s b
  | .fwStage _ _ _ _ _ => updateHeld s b
  | .fwActivate _ _ => updateHeld s b
  | _ => false

/-- The engines of a command that commits came free in time: a request to yield, if it had one, waited no longer than the
table of R137 says. -/
abbrev OnTime (s : State) (m : Cmd) : Prop :=
  ∀ t, m.preemptTs = some t → s.tclk - t ≤ tableTime (slowestUnit m).kind

/-- A case is live and in a stage, under a contract, and the command that serves it may commit in time (R147). -/
abbrev Running (s : State) (key : Nat) (g : Stage) (c : Case) (m : Cmd) (k : Contract) : Prop :=
  caseOf s key = some c ∧ caseCmd s key = some m ∧ contractOf s c.hd.contract = some k ∧ c.stage = g ∧
  caseRuns c = true ∧ mayCommit s m = true ∧ OnTime s m

/-- The form in which R121 to R123 let a stage begin: with a choice, the first of its chain that passes both tests. -/
abbrev chosenForm (s : State) (k : Contract) (c x : Case) (p : Prediction) : Form :=
  if (chainLeft k c x.stage).length ≤ 1 ∨ (x.stage = .rerank ∧ x.pass.committed.all (fun q => q.toks.isEmpty) = true) then
    formOf c x.stage
  else monitorForm s k c x.stage (chainLeft k c x.stage) p

/-- A stage of the case `c` has committed: `x` is the case in its next stage, in the form the monitor chooses, its stage cairn
counts the commit, and, but for list scan, the next stage's command is ready; no other case and no contract has
changed (R10, R121, R145, R147). -/
abbrev Advances (s t : State) (c x : Case) (k : Contract) (p : Prediction) : Prop :=
  caseOf t c.hd.key = some x ∧ x.hd = c.hd ∧ x.desc = c.desc ∧ x.ending = none ∧
  x.stage = stageAfter k.rcd c.stage ∧ x.stageTs = s.tclk ∧ formOf x x.stage = chosenForm s k c x p ∧
  cairnOf t c.hd.cairn = (cairnOf s c.hd.cairn).map (fun r =>
    { r with val := (r.val + 1) % 2 ^ 32, copy := (r.val + 1) % 2 ^ 32 }) ∧
  (x.stage ≠ .listScan → ∃ n ∈ t.sched.cmds, n.serves = .cases [c.hd.key] ∧ n.stage = stageNum x.stage ∧ n.phase = .ready) ∧
  (∀ j, j ≠ c.hd.key → caseOf t j = caseOf s j) ∧ t.contracts = s.contracts

/-- The case `x` stays in its stage, and its next command there is ready. -/
abbrev GoesOn (t : State) (c x : Case) : Prop :=
  caseOf t c.hd.key = some x ∧ x.hd = c.hd ∧ x.stage = c.stage ∧ x.ending = none ∧
  ∃ n ∈ t.sched.cmds, n.serves = .cases [c.hd.key] ∧ n.stage = stageNum c.stage ∧ n.phase = .ready

/-- The module has entered SAFE_HOLD for a cause and a unit (R348, R352, R398): every command is killed, every case ended, every
BACKGROUND operation and wait gone, the cores are gated, and memory refreshes itself. -/
abbrev Held (s t : State) (cause unit : Nat) : Prop :=
  t.boot.state = .safeHold ∧ t.boot.stateTs = s.tclk ∧ t.pins.faultN = true ∧ t.safety.holdCause = cause % 256 ∧
  t.safety.holdUnit = unit ∧ t.safety.holdTs = s.tclk ∧ ({ cause := cause, unit := unit } : HoldCause) ∈ t.safety.causes ∧
  t.sched.cmds = [] ∧ t.bg = [] ∧ t.waits = [] ∧ (∀ c ∈ t.cases, c.ending ≠ none) ∧
  (∀ d ∈ t.power.dies, ∀ x ∈ d.cores, x = .off) ∧ t.mem.selfRefresh = true

/-- A unit is fenced, and a module that runs is DEGRADED for it (R341, R342). -/
abbrev NowFenced (s t : State) (u : UnitId) : Prop :=
  u ∈ t.safety.fences ∧ (runState s.boot.state = true → u ∉ s.safety.fences → t.boot.state = .degraded)

/-- A Strata message of a type arrives at a port of this module, for this module, and takes effect now: the port carries its
type, it is not a flooded message seen before, and, where messages of its type are acknowledged, it has not been
delivered (R298, R299). -/
abbrev Arrives (s : State) (p t : Nat) (m : StrataMsg) : Prop :=
  p < 4 ∧ basaltRuns s = true ∧ portCarries (portOf s p) t = true ∧ m.type = t ∧
  ((m.dst = myPos s ∧ m.dst ≠ 0xFF) ∨ (m.dst = 0xFF ∧ (m.src, m.id) ∉ s.strata.ml.floods)) ∧
  (acked t = true → ∀ i, deliveredId s m.src m.vc = some i → i < m.id)

/-- `t` is `a` in everything but the ports, the message layer and what leaves the module: what receiving and sending
messages changes. -/
abbrev OnWire (a t : State) : Prop :=
  t = { a with strata := { a.strata with ports := t.strata.ports, ml := t.strata.ml }, out := t.out } ∧ a.out <+: t.out

/-- A message of a type and with some data has left for a position: on the next hop toward it, if there is one (R298). -/
abbrev Sent (s t : State) (type dst : Nat) (data : List Byte) : Prop :=
  ∀ p, nextHop s dst = some p → ∃ m, Out.strata p m ∈ newOut s t ∧ m.type = type ∧ m.dst = dst ∧ m.data = data

end Sys2Proof.Machine
end

