-- ==== Sys2Proof/Certificates/Slice0/Obligations.lean ====
section
/-! DEFINITION. The statements for the provers. -/

open Sys2Proof Sys2Proof.Machine

/-! ## Messages that read (R93 to R105) -/

/-- TELEMETRY_READ answers the bytes of the set it names (R93, R14, R126, R143, R289, R328) and changes nothing else.
Choices of the model in it: log 33. -/
def Obligations.TelemetryReadAnswersTheSet : Prop :=
  ∀ s f src m h, Fresh s → Head s f src 0x0901 m → respCheck s h f (setSize (le m.bytes 32 2)) m.bytes = none →
    (f = 0 →
      (le m.bytes 32 2 = 1 → Responds (.telemetryRead f src h) s f src m s (set1 s) []) ∧
      (le m.bytes 32 2 = 4 → Responds (.telemetryRead f src h) s f src m s (set4 s) []) ∧
      (le m.bytes 32 2 = 5 → Responds (.telemetryRead f src h) s f src m s (set5 s) [])) ∧
    (∀ p, partOf s (le m.bytes 36 4) = some p → (f = 0 ∨ le m.bytes 36 4 = f) →
      (le m.bytes 32 2 = 2 → Responds (.telemetryRead f src h) s f src m s (set2 s p) []) ∧
      (le m.bytes 32 2 = 6 →
        let e := set6Page s (le m.bytes 36 4) (le m.bytes 40 8)
        Responds (.telemetryRead f src h) s f src m s (e.1.flatMap ObjEntry.bytes)
          (resultAt [(0, 4, e.1.length), (4, 4, e.2.1), (8, 8, e.2.2)]))) ∧
    (∀ k, contractOf s (le m.bytes 36 4) = some k → k.owner = f → le m.bytes 32 2 = 3 →
      Responds (.telemetryRead f src h) s f src m s (set3 k) [])

/-- The other reads answer from the state and change nothing but the free values' count (R63, R80, R85, R91, R92, R94, R96, R100, R102,
R105, R118).
Choices of the model in it: log 47, 67 and 127. -/
def Obligations.ReadsAnswerAndChangeNothing : Prop :=
  (∀ s f src m h, Fresh s →
     (Head s f src 0x0B02 m →
       AnswersOver (.powerPolicyGet f src) s f src m s .ok
         (policyBytes s.power.policy ++ (List.range 4).flatMap fun g => leBytes 1 (dieOf s g).div) 0) ∧
     (Head s f src 0x0902 m → respCheck s h f 8192 m.bytes = none →
       ∀ p, partOf s (namedPart f (byteAt m.bytes 32)) = some p → (f = 0 ∨ namedPart f (byteAt m.bytes 32) = f) →
         let es := (chargeAll s).sched.accounts.filter fun a => a.owner == namedPart f (byteAt m.bytes 32)
         Responds (.accountRead f src h) s f src m s (es.flatMap accountEntry) (resultAt [(0, 4, es.length)])) ∧
     (Head s f src 0x0104 m → respCheck s h f 128 m.bytes = none →
       ∀ p, partOf s (namedPart f (byteAt m.bytes 32)) = some p → (f = 0 ∨ namedPart f (byteAt m.bytes 32) = f) →
         Responds (.partitionQuery f src h) s f src m s (partitionInfo s p) []) ∧
     (Head s f src 0x0A01 m → respCheck s h f 8192 m.bytes = none →
       Responds (.safetySelftestRead f src h) s f src m s (selftestBytes s) (resultAt [(0, 4, 476)])) ∧
     (Head s f src 0x0C01 m → respCheck s h f (64 * le m.bytes 36 4) m.bytes = none →
       let rs := readRecords s.amber (byteAt m.bytes 32) (le m.bytes 40 8) (le m.bytes 36 4)
       Responds (.amberRead f src h) s f src m s (rs.flatMap fun e => recordBytes e.2)
         (resultAt [(0, 4, rs.length), (4, 4, (rs.filter fun e => decide (e.2.damaged ≠ none)).length),
           (8, 8, continueSeq s (byteAt m.bytes 32) (le m.bytes 40 8) rs),
           (16, 8, oldestSeq s.amber (byteAt m.bytes 32)), (24, 1, bit s.amber.full)])) ∧
     (Head s f src 0x0D03 m → respCheck s h f 8192 m.bytes = none →
       Responds (.attestMeasurements f src h) s f src m s (measurementLog s) []) ∧
     (Head s f src 0x0408 m → ∀ i, readIndex s f (le m.bytes 32 4) = some i →
       AnswersOver (.indexQuery f src) s f src m s .ok (indexInfo i) 0) ∧
     (Head s f src 0x0705 m → le m.bytes 32 4 + le m.bytes 36 4 ≤ 131072 →
       (∀ n ∈ cairnNums m.bytes, (hostCairn s f n).isSome = true) →
       AnswersOver (.cairnQuery f src) s f src m s .ok
         ((cairnNums m.bytes).flatMap fun n => leBytes 4 (((cairnOf s n).map CairnRec.val).getD 0)) 0)) ∧
  (∀ s f src m h k, Fresh s → Head s f src 0x0502 m → respCheck s h f 4096 m.bytes = none →
     ownContract s f (le m.bytes 32 4) = some k →
     Responds (.contractQueryProof f src h) s f src m (bumpFree s)
       (summaryBytes s k.rcd k.pf (standingProof k) k.divider k.stageCairns.length (powerSum (s.contracts.filter isOpen)) s.free)
       (proofResult k.handle k.divider (standingProof k))) ∧
  (∀ s f src m h, Fresh s → Head s f src 0x0603 m → respCheck s h f (32 * le m.bytes 40 4) m.bytes = none →
     anyContract s f (le m.bytes 32 4) 32 = none →
     let live := s.cases.filter fun c => c.hd.owner == f && (le m.bytes 32 4 == 0 || c.hd.contract == le m.bytes 32 4)
     let sorted := sortBy (fun a b => decide (a.hd.startTs < b.hd.startTs)) live
     let out := (sorted.drop (le m.bytes 36 4)).take (le m.bytes 40 4)
     Responds (.caseQuery f src h) s f src m s (out.flatMap caseEntry)
       (resultAt [(0, 4, out.length), (4, 4, live.length)]))

/-! ## Partitions (R59 to R62) -/

/-- PARTITION_CREATE binds a partition with the settings of its body to the VF it names, or to the lowest enabled VF without one, and
gives it the lowest free run of cairns (R59, R60); PARTITION_SET_QUOTA replaces its settings whole (R61); PARTITION_CONTROL suspends
and resumes it, and repeating that changes nothing (R62).
Choices of the model in it: log 23. -/
def Obligations.PartitionsAreManaged : Prop :=
  (∀ s f src m i a, Fresh s → Head s f src 0x0101 m → bindTo s (byteAt m.bytes 32) = some i →
     cairnRun s (le m.bytes 56 4) = some a →
     let c := newCfg m.bytes a
     let key := if c.encrypt then some (Config.freeDWord s.free).toNat else none
     pagesFit s i c = true → sharesFit s i c = true →
     AnswersEvents (.partitionCreate f src) s f src m
       { s with parts := s.parts ++ [{ id := i, cfg := c, suspended := false, key := key, stats := PartStats.zero }]
                free := if c.encrypt then s.free + 1 else s.free }
       .ok (resultAt [(0, 1, i), (4, 4, a), (8, 4, le m.bytes 56 4)])) ∧
  (∀ s f src m p, Fresh s → Head s f src 0x0102 m → partOf s (byteAt m.bytes 32) = some p →
     let i := byteAt m.bytes 32
     let c := quotaOf m.bytes p.cfg
     (usedPages s i).1 ≤ c.t1Pages → (usedPages s i).2 ≤ c.t2Pages → pagesFit s i c = true → sharesFit s i c = true →
     (slotsReserved s i).1 ≤ slotsOf c.t1Bw → (slotsReserved s i).2 ≤ slotsOf c.t2Bw →
     (∀ k ∈ s.contracts, k.owner = i → isOpen k = true → c.levelMax ≤ k.rcd.terms.level) →
     AnswersEvents (.partitionSetQuota f src) s f src m (updPart s i fun p => { p with cfg := c }) .ok []) ∧
  (∀ s f src m p, Fresh s → Head s f src 0x0103 m → partOf s (byteAt m.bytes 32) = some p →
     controlHeld s m.bytes = false → (byteAt m.bytes 33 = 1 ∨ byteAt m.bytes 33 = 2) →
     (p.suspended = (byteAt m.bytes 33 == 1) →
       AnswersOver (.partitionControl f src) s f src m s .okNoChange [] 0) ∧
     (p.suspended ≠ (byteAt m.bytes 33 == 1) →
       AnswersEvents (.partitionControl f src) s f src m
         (updPart s (byteAt m.bytes 32) fun p => { p with suspended := byteAt m.bytes 33 == 1 }) .ok []))

/-- PARTITION_CONTROL DESTROY leaves neither the partition nor anything it owned, its live cases among it, and the models and tables
of the others as they were (R62).
Choices of the model in it: log 24 and 25. -/
def Obligations.PartitionDestroyFreesAll : Prop :=
  ∀ s f src m p, Fresh s → Head s f src 0x0103 m → partOf s (byteAt m.bytes 32) = some p →
    controlHeld s m.bytes = false → byteAt m.bytes 33 = 3 →
    ∃ t, exec (.partitionControl f src) s = .next t ∧
      t.parts.map (fun x => (x.id, x.cfg, x.suspended, x.key)) =
        (s.parts.filter (fun x => x.id != p.id)).map (fun x => (x.id, x.cfg, x.suspended, x.key)) ∧
      t.models = s.models.filter (fun x => x.owner != p.id) ∧ t.tables = s.tables.filter (fun x => x.owner != p.id) ∧
      (∀ x ∈ t.indexes, x.owner ≠ p.id) ∧ (∀ x ∈ t.pfxs, x.owner ≠ p.id) ∧ (∀ k ∈ t.contracts, k.owner ≠ p.id) ∧
      (∀ w ∈ t.waits, w.owner ≠ p.id) ∧ (∀ b ∈ t.bg, b.owner ≠ p.id) ∧ (∀ c ∈ t.cases, c.hd.owner ≠ p.id) ∧
      (∀ c ∈ t.cairns, ¬ (p.cfg.cairnFirst ≤ c.num ∧ c.num < p.cfg.cairnFirst + p.cfg.cairnCount))

/-! ## Models, tables, prefixes (R64 to R71, R81, R82) -/

/-- MODEL_LOAD, TABLE_LOAD and PREFIX_REGISTER that pass their checks run as BACKGROUND work with the pages they hold
(R56, R64, R65, R70, R81).
Choices of the model in it: log 27. -/
def Obligations.LoadsRunInTheBackground : Prop :=
  ∀ s f src m h, Fresh s →
    (∀ img, Head s f src 0x0201 m → addrCheck s h f false (le m.bytes 32 8) (le m.bytes 40 8) 32 = none →
      (∀ x at', x.f = f → x.bytes = m.bytes → modelChecks s x img at' = none) →
      let pin := bitOf (byteAt m.bytes 49) 0
      let home := tierOfByte (byteAt m.bytes 48)
      let p := modelPages (newModel 0 f false pin home img)
      OpensOver (.modelLoad f src h (.data img)) s f src m
        (beginBg (hostRead (bumpFree s) f (le m.bytes 32 8) (le m.bytes 40 8)) f (.modelLoad img home pin (bitOf (byteAt m.bytes 49) 1)) p.1 p.2)) ∧
    (∀ b t, Head s f src 0x0302 m → tableHeld s m.bytes = false →
      addrCheck s h f false (le m.bytes 48 8) (le m.bytes 56 8) 48 = none →
      ownTable s f (le m.bytes 32 4) = some t → t.unavailable = false → t.kind ≠ 2 →
      le m.bytes 36 4 + le m.bytes 40 4 ≤ t.nrows →
      le m.bytes 40 4 * rowBytes t.format t.dim ≤ le m.bytes 56 8 → inUse s t.handle = false →
      let rows := cutRows (rowBytes t.format t.dim) b (le m.bytes 40 4)
      badInRows t.format t.dim 0 rows = none →
      OpensOver (.tableLoad f src h (.data b)) s f src m
        (beginBg (hostRead s f (le m.bytes 48 8) (le m.bytes 56 8)) f (.tableLoad t.handle (le m.bytes 36 4) rows) 0 0)) ∧
    (∀ b k, Head s f src 0x0801 m → le m.bytes 36 4 * 4 ≤ le m.bytes 48 4 →
      addrCheck s h f false (le m.bytes 40 8) (le m.bytes 48 4) 40 = none →
      readModel s f (le m.bytes 32 4) = some k → k.img.role = .generator → k.img.gen.hasKv = true →
      k.unavailable = false → (headGroup k.img.shape (byteAt m.bytes 52)).isSome = true → pfxCount s < 256 →
      let pages := kvPages k.img.shape (byteAt m.bytes 52) (le m.bytes 36 4)
      fitsQuota s f pages 0 = true →
      let toks := tokensOf b (le m.bytes 36 4)
      badToken k.img.vocab toks = none →
      let a := hostRead s f (le m.bytes 40 8) (le m.bytes 48 4)
      OpensOver (.prefixRegister f src h (.data b)) s f src m
        (beginBg (if s.boot.state = .doze then wakeDies a else a) f
          (.prefixRegister k.handle toks (byteAt m.bytes 52) pages (bitOf (byteAt m.bytes 53) 0)) pages 0))

/-- MODEL_PIN takes and releases the T1 copy of a model homed in T2 (R66). MODEL_EVICT, TABLE_DESTROY, PREFIX_RELEASE and INDEX_DESTROY
remove the object they name, and only what R67, R71, R82 and R80 say goes with it.
Choices of the model in it: log 29. -/
def Obligations.ObjectsAreMovedAndRemoved : Prop :=
  (∀ s f src m k, Fresh s → Head s f src 0x0202 m → ownModel s f (le m.bytes 32 4) = some k → k.unavailable = false →
     (k.home = .t1 ∨ k.pinned = (byteAt m.bytes 36 == 1) →
       AnswersOver (.modelPin f src) s f src m s .okNoChange [] 0) ∧
     (k.home = .t2 → k.pinned = false → byteAt m.bytes 36 = 1 → fitsQuota s f (pagesOf k.img.weightBytes) 0 = true →
       AnswersOver (.modelPin f src) s f src m (updModel s k.handle fun x => { x with pinned := true }) .ok [] 0) ∧
     (k.home = .t2 → k.pinned = true → byteAt m.bytes 36 = 2 → residenceInUse s k.handle = false →
       AnswersOver (.modelPin f src) s f src m
         (updModel s k.handle fun x => { x with pinned := false, unavailable := x.t2Lost }) .ok [] 0)) ∧
  (∀ s f src m, Fresh s →
     (∀ k, Head s f src 0x0203 m → modelHeld s m.bytes = false → ownModel s f (le m.bytes 32 4) = some k →
       inUse s k.handle = false → (∀ p ∈ s.pfxs, p.model = k.handle → inUse s p.handle = false) →
       modelLoading s k.handle = false →
       AnswersOver (.modelEvict f src) s f src m
         (unplace { s with models := s.models.filter fun x => x.handle != k.handle
                           pfxs := s.pfxs.filter fun p => p.model != k.handle }) .ok [] 0) ∧
     (∀ k, Head s f src 0x0303 m → tableHeld s m.bytes = false → ownTable s f (le m.bytes 32 4) = some k →
       inUse s k.handle = false → (∀ t ∈ s.tables, t.kind = 2 → t.partA ≠ k.handle ∧ t.partB ≠ k.handle) →
       AnswersOver (.tableDestroy f src) s f src m
         { s with tables := s.tables.filter fun t => t.handle != k.handle } .ok [] 0) ∧
     (∀ k, Head s f src 0x0802 m → ownPfx s f (le m.bytes 32 4) = some k → inUse s k.handle = false →
       AnswersOver (.prefixRelease f src) s f src m
         (reapPfxs { s with
           pfxs := modifyWhere s.pfxs (fun p => p.handle == k.handle) fun p => { p with released := true } }) .ok [] 0) ∧
     (∀ k, Head s f src 0x0407 m → ownIndex s f (le m.bytes 32 4) = some k → inUse s k.handle = false →
       shardNames s k.handle = false → k.state ≠ .settling → k.snapBusy = false → k.bulkBusy = false →
       AnswersOver (.indexDestroy f src) s f src m
         { s with indexes := s.indexes.filter fun i => i.handle != k.handle } .ok [] 0))

/-- TABLE_CREATE and INDEX_CREATE register an object under a new handle and answer it (R68, R69, R72, R73): an object that is given
frames once they have been zeroed (R264), a composed table, which takes none, at once.
Choices of the model in it: log 26. -/
def Obligations.CreatesRegisterUnderANewHandle : Prop :=
  ∀ s f src m, Fresh s →
    (Head s f src 0x0301 m →
      let t := newTable s.nextHandle f m.bytes
      (t.kind = 2 ∨ t.nrows * rowBytes t.format t.dim ≤ 34359738368) → composedChecks s f t = none →
      fitsQuota s f (tablePages t) 0 = true →
      let a : State := { s with tables := s.tables ++ [t], nextHandle := s.nextHandle + 1 }
      let res := resultAt [(0, 4, s.nextHandle), (4, 4, tablePages t)]
      (tablePages t = 0 → AnswersOver (.tableCreate f src) s f src m a .ok res 0) ∧
      (tablePages t ≠ 0 → OpensOver (.tableCreate f src) s f src m (beginBg a f (.zero s.nextHandle 0 [] res) 0 0))) ∧
    (Head s f src 0x0401 m →
      let c := indexCfgOf m.bytes
      let p := indexFixedPages c
      c.maxEntries * (c.codeBytes + 1) ≤ productMax s → s.indexes.length < 16 → fitsQuota s f p.1 p.2 = true →
      s.mem.t2.accepts = true →
      let a : State :=
        { s with indexes := s.indexes ++ [newIndex s.nextHandle f (bitOf (byteAt m.bytes 38) 0) c], nextHandle := s.nextHandle + 1 }
      OpensOver (.indexCreate f src) s f src m
        (beginBg a f (.zero s.nextHandle 0 [] (resultAt [(0, 4, s.nextHandle), (4, 4, p.1), (8, 4, p.2)])) 0 0))

/-! ## Indexes (R74 to R80) -/

/-- INDEX_INSERT and INDEX_DELETE that pass their checks answer ST_OK: they append their records to the scree with consecutive SEQs from the
next one on, and nothing else of the index changes (R76, R77, R181). -/
def Obligations.ScreeGrowsByConsecutiveSeqs : Prop :=
  (∀ x rs, let y := appendScree x rs
    y = { x with scree := y.scree, nextSeq := x.nextSeq + rs.length } ∧ y.scree.length = x.scree.length + rs.length ∧
    x.scree <+: y.scree ∧ ∀ (k : Nat) (r : ScreeRec), rs[k]? = some r → y.scree[x.scree.length + k]? = some { r with seq := x.nextSeq + k }) ∧
  ∀ s f src m h b i, Fresh s → ownIndex s f (le m.bytes 32 4) = some i → (i.state = .live ∨ i.state = .settling) →
    addrCheck s h f false (le m.bytes 40 8) (le m.bytes 48 8) 40 = none →
    i.scree.length + le m.bytes 36 4 ≤ screeMax →
    let n := le m.bytes 36 4
    let a := hostRead s f (le m.bytes 40 8) (le m.bytes 48 8)
    (Head s f src 0x0403 m → n * slotBytes i.cfg.codeBytes ≤ le m.bytes 48 8 →
      mainEntries i.lists + liveInserts i.scree + n ≤ i.cfg.maxEntries →
      (∀ k < n, insertCheck i.cfg b k = none) →
      AnswersOver (.indexInsert f src h (.data b)) s f src m
        (updIndex a i.handle fun x => appendScree x ((List.range n).map (insertRec i.cfg.codeBytes b))) .ok [] 0) ∧
    (Head s f src 0x0404 m → n * 8 ≤ le m.bytes 48 8 → (∀ k < n, le b (8 * k) 8 ≠ noId) →
      AnswersOver (.indexDelete f src h (.data b)) s f src m
        (updIndex a i.handle fun x => appendScree x ((List.range n).map (deleteRec i.cfg.codeBytes b))) .ok [] 0)

/-- INDEX_BULK_LOAD, INDEX_SETTLE and INDEX_SNAPSHOT run in the background on an index in the state their rules name; a
settle that folds nothing answers at once (R75, R78, R79, R187).
Choices of the model in it: log 30. -/
def Obligations.IndexWorkRunsInTheBackground : Prop :=
  ∀ s f src m h, Fresh s →
    (∀ d i, Head s f src 0x0402 m → addrCheck s h f false (le m.bytes 40 8) (le m.bytes 48 8) 40 = none →
      ownIndex s f (le m.bytes 32 4) = some i → i.bulkBusy = false → (i.state = .empty ∨ i.state = .loading) →
      le m.bytes 36 2 = i.segs →
      let seg := readBytes d (le m.bytes 48 8)
      segmentCheck s i (bitOf (byteAt m.bytes 38) 0) seg = none →
      let a := hostRead s f (le m.bytes 40 8) (le m.bytes 48 8)
      OpensOver (.indexBulkLoad f src h (.data d)) s f src m
        (beginBg (updIndex a i.handle fun x => { x with bulkBusy := true }) f
          (.bulkLoad i.handle seg (bitOf (byteAt m.bytes 38) 0)) 0 (if i.segs = 0 then headerPages (headerAt seg) else 0))) ∧
    (∀ i, Head s f src 0x0405 m → ownIndex s f (le m.bytes 32 4) = some i → i.state = .live →
      let p := settlePoint s i
      ((fold i p).folded = 0 →
        AnswersOver (.indexSettle f src) s f src m s .okNoChange (settleResult i.gen 0 i.scree.length) 0) ∧
      ((fold i p).folded ≠ 0 →
        OpensOver (.indexSettle f src) s f src m
          (beginBg (updIndex s i.handle fun x => { x with state := .settling }) f (.settle i.handle p) 0
            (foldPages i (fold i p))))) ∧
    (∀ i, Head s f src 0x0406 m → addrCheck s h f true (le m.bytes 40 8) (le m.bytes 48 8) 40 = none →
      readIndex s f (le m.bytes 32 4) = some i → (i.state = .live ∨ i.state = .settling) → i.snapBusy = false →
      snapSize i ≤ le m.bytes 48 8 →
      OpensOver (.indexSnapshot f src h) s f src m
        (beginBg (updIndex s i.handle fun x => { x with snapBusy := true }) f
          (.snapshot i.handle (le m.bytes 40 8) i.gen (i.nextSeq - 1) (snapSize i)) 0 0))

/-! ## Cairns (R92, R144 to R148) -/

/-- CAIRN_ALLOC and CAIRN_FREE take and return a run of cairns of the sender's range; CAIRN_SIGNAL adds, and never past 2^32; CAIRN_WAIT_ARM
arms a wait; CAIRN_WAIT_TIMEOUT ends one whose TIMEOUT_US has passed, with the value found, and no other (R92, R146, R148).
Choices of the model in it: log 1 and 3. -/
def Obligations.HostCairnsWork : Prop :=
  (∀ s f src m p, Fresh s → partOf s f = some p →
     (∀ a, Head s f src 0x0701 m → freeRun s p (le m.bytes 32 4) = some a →
       let new := (List.range (le m.bytes 32 4)).map fun i =>
         ({ num := a + i, st := .host, val := le m.bytes 36 4, copy := le m.bytes 36 4, run := s.nextRun } : CairnRec)
       AnswersOver (.cairnAlloc f src) s f src m { s with cairns := s.cairns ++ new, nextRun := s.nextRun + 1 } .ok
         (resultAt [(0, 4, a), (4, 4, le m.bytes 32 4)]) 0) ∧
     (Head s f src 0x0702 m → le m.bytes 32 4 + le m.bytes 36 4 ≤ 131072 →
       (∀ n ∈ cairnNums m.bytes, (hostCairn s f n).isSome = true ∧ cairnInUse s n = false) →
       (∀ w ∈ s.waits, w.cairn ∉ cairnNums m.bytes) →
       AnswersOver (.cairnFree f src) s f src m
         { s with cairns := s.cairns.filter fun c => !(cairnNums m.bytes).contains c.num } .ok [] 0)) ∧
  (∀ s f src m c, Fresh s → Head s f src 0x0703 m → hostCairn s f (le m.bytes 32 4) = some c →
     c.val + le m.bytes 36 4 < 2 ^ 32 →
     let v := c.val + le m.bytes 36 4
     AnswersOver (.cairnSignal f src) s f src m
       (updStats (setCairn s c.num v) f fun p => { p with signalsHost := p.signalsHost + 1 }) .ok [] 0) ∧
  (∀ s f src m c, Fresh s → Head s f src 0x0704 m → hostCairn s f (le m.bytes 32 4) = some c →
     OpensOver (.cairnWaitArm f src) s f src m
       { s with waits := s.waits ++ [{ id := s.nextWait, owner := f, cairn := c.num, threshold := le m.bytes 36 4,
                                       msg := s.nextMsg, armTs := s.tclk, timeoutUs := le m.bytes 40 4 }]
                nextWait := s.nextWait + 1 }) ∧
  (∀ s w, s.waits.find? (fun x => x.id == w.id) = some w → s.tclk ≤ w.armTs + 120 * w.timeoutUs →
     exec (.cairnWaitTimeout w.id) s = .next s) ∧
  (∀ s w m c, w.armTs + 120 * w.timeoutUs < s.tclk → 
     s.waits.find? (fun x => x.id == w.id) = some w → s.msgs.find? (fun x => x.id == w.msg) = some m →
     (m.src = .inl ∨ ((mbOf s m.f).cq.active = true ∧ cqWritable s m.f = true)) → cairnOf s w.cairn = some c →
     ∃ t, exec (.cairnWaitTimeout w.id) s = .next t ∧
       t.waits = s.waits.filter (fun y => y.id != w.id) ∧ t.cairns = s.cairns ∧
       t.msgs = s.msgs.filter (fun y => y.id != w.msg) ∧
       ∃ d, Out.completion d ∈ newOut s t ∧ d.f = m.f ∧ d.tag = m.tag ∧ d.status = .cairnTimeout ∧
         d.result = leBytes 4 c.val)

/-! ## Contracts (R83 to R86, R117, R119, R166, R392) -/

/-- A CONTRACT_OPEN of a MODULE contract whose proof fails writes its summary and answers ST_CONTRACT_INFEASIBLE; one whose proof holds
answers its proof: a dry run changes nothing more, and any other opens the contract with the figures of its proof, which
reserves its stage cairns, changes the figures and the cairns alone of the contracts at its level or a lower one, and lets the module serve
(R83, R84, R116, R117, R354). Where it takes pages they are zeroed before it completes (R264).
Choices of the model in it: log 35, 41, 151, 152 and 154. -/
def Obligations.ContractOpenAdmits : Prop :=
  ∀ s f src m h b w, Fresh s → Head s f src 0x0501 m → s.strata.opens = [] →
    addrCheck s h f false (le m.bytes 32 8) (le m.bytes 40 4) 32 = none → respCheck s h f 4096 m.bytes = none →
    let r := recordAt b (((modelOf s (refsAt b).genModel).map fun k => k.img.vocab).getD 0)
    let pf := openFigures s f r w []
    let p := prove s f r pf []
    recordCheck s h f b (le m.bytes 40 4) r = none → quotaCheck s f r pf = none → r.terms.topology = 0 →
    let d := s.power.policy.minDiv
    let cairns := if p.bound = noBound then 0 else cairnCount r.terms p.bound
    let sum := summaryBytes s r pf p d cairns (sustained s (energyOf pf) r.terms.interval) s.free
    let a := hostRead (bumpFree s) f (le m.bytes 32 8) (le m.bytes 40 4)
    let c : Instr := .contractOpen f src h (.data b) w
    (p.reason ≠ 0 →
      AnswersOver c s f src m (hostWrite a f (le m.bytes 8 8) sum) .contractInfeasible (proofResult 0 d p) 448) ∧
    (p.reason = 0 → bitOf (byteAt m.bytes 44) 0 = true →
      AnswersOver c s f src m (hostWrite a f (le m.bytes 8 8) sum) .ok (proofResult 0 d p) 448) ∧
    (p.reason = 0 → bitOf (byteAt m.bytes 44) 0 = false → diesAwake s = true →
      let k := newContract s f s.nextHandle r w pf []
      ∃ t, exec c s = .next t ∧
        (pf.t1Pages + pf.t2Pages = 0 → Answered s t f src m .ok 0xFFFF (proofResult s.nextHandle d p) 448) ∧
        (pf.t1Pages + pf.t2Pages ≠ 0 → StaysOpen s t f src m ∧
          ∃ o ∈ t.bg, o.msg = some s.nextMsg ∧ o.kind = .zero s.nextHandle (le m.bytes 8 8) sum (proofResult s.nextHandle d p)) ∧
        t.contracts.length = s.contracts.length + 1 ∧ k ∈ t.contracts ∧
        (∀ x ∈ s.contracts, ∃ y ∈ t.contracts, y = { x with pf := y.pf, energy := y.energy, stageCairns := y.stageCairns }) ∧
        (∀ x ∈ s.contracts, x.rcd.terms.level < r.terms.level → (∀ y ∈ s.contracts, y.handle = x.handle → y = x) →
          x ∈ t.contracts) ∧
        t.nextHandle = s.nextHandle + 1 ∧
        s.cairns ++ k.stageCairns.map (fun n => { num := n, st := .stage, val := 0, copy := 0, run := s.nextRun }) <+: t.cairns ∧
        t.boot.state = (if s.safety.fences = [] then .serving else .degraded) ∧
        t.parts = s.parts ∧ t.cases = s.cases ∧ t.models = s.models ∧ t.indexes = s.indexes ∧ t.mem = s.mem)

/-- CONTRACT_CLOSE: a contract with no live case is removed and its stage cairns are FREE; one with live cases stops
accepting and stays until they end, and ABORT cancels them (R86).
Choices of the model in it: log 24. -/
def Obligations.ContractCloseEnds : Prop :=
  ∀ s f src m k, Fresh s → Head s f src 0x0503 m → ownContract s f (le m.bytes 32 4) = some k →
    closeFits k (byteAt m.bytes 36 == 2) = true →
    ((∀ c ∈ s.cases, c.hd.contract ≠ k.handle) → k.closes = [] →
      ∃ t, exec (.contractClose f src) s = .next t ∧
        Answered s t f src m .ok 0xFFFF (resultAt [(0, 4, 0), (4, 4, 0)]) 0 ∧
        (∀ x ∈ t.contracts, x.handle ≠ k.handle) ∧
        (∀ x ∈ s.contracts, x.handle ≠ k.handle → x ∈ t.contracts) ∧
        t.cairns = s.cairns.filter (fun c => !k.stageCairns.contains c.num)) ∧
    ((∃ c ∈ s.cases, c.hd.contract = k.handle) → byteAt m.bytes 36 = 1 →
      OpensOver (.contractClose f src) s f src m
        (updContract s k.handle fun x =>
          { x with
            closes := x.closes ++ [{ msg := s.nextMsg, abort := false, drained := 0, cancelled := 0 }]
            state := if x.state = .opened then .closing else x.state })) ∧
    ((∃ c ∈ s.cases, c.hd.contract = k.handle) → byteAt m.bytes 36 = 2 →
      ∃ t, exec (.contractClose f src) s = .next t ∧ StaysOpen s t f src m ∧
        (∀ c ∈ t.cases, c.hd.contract = k.handle → c.ending ≠ none) ∧
        (∀ x ∈ t.contracts, x.handle = k.handle → x.state ≠ .opened))

/-- ARRIVAL_TOKEN_ACCRUAL adds a token to an open RATE contract's bucket, never past BURST; PERIOD_WINDOW_END takes a pending epoch whose
edge lies before the boundary (R119, R166). LINK_RATE_FALL sets the link's rate and width; where no open contract counted on more
nothing else changes; else every open contract is proven again, the ones that fail are revoked, and where none fails none is (R392).
Choices of the model in it: log 48 and 50. -/
def Obligations.ArrivalsAndLinkRatesAreFollowed : Prop :=
  (∀ s h,
     (∀ k, contractOf s h = some k → k.rcd.terms.arrivalKind = 1 → isOpen k = true →
       ∃ t k', exec (.arrivalTokenAccrual h) s = .next t ∧ contractOf t h = some k' ∧
         k' = { k with arrival := { k.arrival with tokens := (k.arrival.tokens ++ [s.tclk]).take k.rcd.terms.burst } } ∧
         t = { s with contracts := t.contracts } ∧ (∀ j, j ≠ h → contractOf t j = contractOf s j)) ∧
     (∀ k e, contractOf s h = some k → k.rcd.terms.arrivalKind = 2 → isOpen k = true → k.arrival.pendingEpoch = some e →
       let w := (windowStart k k.arrival.epoch s.tclk).toNat
       e < w →
       ∃ t k', exec (.periodWindowEnd h) s = .next t ∧ contractOf t h = some k' ∧
         k' = { k with arrival := { k.arrival with epoch := e, pendingEpoch := none, openFrom := w } } ∧
         t = { s with contracts := t.contracts } ∧ (∀ j, j ≠ h → contractOf t j = contractOf s j))) ∧
  (∀ s rate width,
     ((∀ k ∈ s.contracts, isOpen k = true → k.linkRate ≤ rate ∧ k.linkWidth ≤ width) →
       exec (.linkRateFall rate width) s = .next { s with pcie := { s.pcie with rate := rate, width := width } }) ∧
     ((∃ k ∈ s.contracts, isOpen k = true ∧ (rate < k.linkRate ∨ width < k.linkWidth)) →
       let fallen : Pcie := { s.pcie with rate := rate, width := width, fellAt := some s.tclk }
       let a := reproveAll (reproveAll { s with pcie := fallen })
       let bad := failedProofs a [] (byLevel (a.contracts.filter isOpen))
       ∃ t, exec (.linkRateFall rate width) s = .next t ∧ t.pcie = fallen ∧ t.contracts.length = s.contracts.length ∧
         (∀ k ∈ t.contracts, isOpen k = true → k.linkRate ≤ rate ∧ k.linkWidth ≤ width) ∧
         (bad = [] → t.cases = s.cases ∧ t.contracts.map Contract.state = s.contracts.map Contract.state) ∧
         (∀ k, contractOf t k.handle = some k → k.handle ∈ bad → k.state = .revoked)))

/-! ## Case messages (R87 to R91) -/

/-- CASE_SUBMIT accepts a case: it takes its arrival, is counted, and its intake waits at its contract's level; the message stays open.
One that was observed before its contract was revoked ends at once (R87 to R89, R119, R124). CASE_CANCEL ends every live case it matches with ST_CASE_CANCELLED, tells how many, and leaves the others; with
none it answers ST_CASE_ALREADY_DONE (R90).
Choices of the model in it: log 53 and 54. -/
def Obligations.CasesAreSubmittedAndCancelled : Prop :=
  (∀ s f src m h b k, Fresh s → Head s f src 0x0601 m →
     addrCheck s h f false (le m.bytes 48 8) (le m.bytes 36 4) 48 = none →
     addrCheck s h f true (le m.bytes 56 8) (le m.bytes 64 4) 56 = none →
     ownContract s f (le m.bytes 32 4) = some k → resultNeed k.rcd.lim ≤ le m.bytes 64 4 → caseQuotas s f m.obsTs = none →
     descCheck s h f b (le m.bytes 36 4) k = none → contractCheck k (descAt b).caseType m.obsTs = none →
     let a := acceptCase (learnGrants (hostRead s f (le m.bytes 48 8) (le m.bytes 36 4)) f h) (ctxOf s f src m) k (descAt b)
     let c := newCase s (ctxOf s f src m) k (descAt b)
     OpensOver (.caseSubmit f src h (.data b)) s f src m a ∧
     (k.ended = none → a.cases = s.cases ++ [c]) ∧
     (∀ e, k.ended = some e → (∀ x ∈ s.cases, x.hd.key ≠ c.hd.key) →
       a.cases = s.cases ++ [{ c with ending := some e.2, failedStage := 1 }])) ∧
  (∀ s f src m, Fresh s → Head s f src 0x0602 m → anyContract s f (le m.bytes 40 4) 40 = none →
     let cs := matching s f (le m.bytes 32 8) (le m.bytes 40 4)
     (cs = [] →
       AnswersOver (.caseCancel f src) s f src m s .caseAlreadyDone (resultAt [(0, 4, 0)]) 0) ∧
     (cs ≠ [] →
       ∃ t, exec (.caseCancel f src) s = .next t ∧
         Answered s t f src m .ok 0xFFFF (resultAt [(0, 4, cs.length)]) 0 ∧
         (∀ c ∈ cs, ∃ d ∈ t.cases, d.hd = c.hd ∧ d.ending = some .caseCancelled ∧ d.cancelled = true) ∧
         (∀ c ∈ s.cases, (∀ d ∈ cs, d.hd.key ≠ c.hd.key) → c ∈ t.cases) ∧
         t.contracts = s.contracts ∧ t.parts.map Partition.cfg = s.parts.map Partition.cfg))

/-! ## Safety, power and firmware messages (R96 to R104) -/

/-- SAFETY_INJECT notes a flagged injection at its point, and a BIST one changes nothing else (R96, R346). SAFETY_FENCE fences and
unfences a unit, and a module that runs is DEGRADED exactly while one is fenced (R97, R342).
Choices of the model in it: log 91 and 95. -/
def Obligations.SafetyMessagesTakeEffect : Prop :=
  (∀ s f src m u, Fresh s → Head s f src 0x0A02 m → unitOfCode (le m.bytes 34 2) = some u →
     hasPoint s (le m.bytes 32 2) (le m.bytes 34 2) = true →
     (byteAt m.bytes 36 = 2 →
       AnswersOver (.safetyInject f src) s f src m (notePoint s (le m.bytes 32 2) (le m.bytes 34 2)) .ok [] 0) ∧
     (byteAt m.bytes 36 = 1 → isFenced s u = true →
       AnswersOver (.safetyInject f src) s f src m s .faultFenced [] 0)) ∧
  (∀ s f src m u, Fresh s → Head s f src 0x0A03 m → unitOfCode (le m.bytes 32 2) = some u →
     (s.safety.fences.contains u = (byteAt m.bytes 34 == 1) →
       ∀ ok, AnswersOver (.safetyFence f src ok) s f src m s .okNoChange [] 0) ∧
     (s.safety.fences.contains u = true → byteAt m.bytes 34 = 2 →
       AnswersOver (.safetyFence f src false) s f src m s .faultFenced [] 0 ∧
       ∃ t, exec (.safetyFence f src true) s = .next t ∧
         t.safety.fences = s.safety.fences.filter (fun v => decide (v ≠ u)) ∧
         t.contracts = s.contracts ∧ (runState s.boot.state = true → DegOk t)) ∧
     (s.safety.fences.contains u = false → byteAt m.bytes 34 = 1 → u.kind ≠ 8 →
       ∃ t, exec (.safetyFence f src true) s = .next t ∧ t.safety.fences = s.safety.fences ++ [u] ∧
         (runState s.boot.state = true → t.boot.state = .degraded)) ∧
     (s.safety.fences.contains u = false → byteAt m.bytes 34 = 1 → u.kind = 8 → runState s.boot.state = true →
       ∃ t, exec (.safetyFence f src true) s = .next t ∧ t.safety.fences = s.safety.fences ++ [u] ∧
         t.boot.state = .safeHold ∧ t.pins.faultN = true))

/-- SAFETY_HOLD_RELEASE outside SAFE_HOLD changes nothing; with a cause still unmet it answers ST_BUSY; with every cause
met and no point failing, the hold ends in the state the fences and contracts give (R98, R352, R353).
Choices of the model in it: log 96 and 97. -/
def Obligations.SafetyHoldReleaseEndsTheHold : Prop :=
  ∀ s f src m, Fresh s → Head s f src 0x0A04 m →
    (s.boot.state ≠ .safeHold → ∀ l, AnswersOver (.safetyHoldRelease f src l) s f src m s .okNoChange [] 0) ∧
    (s.boot.state = .safeHold → causeActive s = true → ∀ l,
      AnswersOver (.safetyHoldRelease f src l) s f src m s .busy [] 0) ∧
    (s.boot.state = .safeHold → causeActive s = false →
      ∃ t, exec (.safetyHoldRelease f src []) s = .next t ∧
        t.boot.state = (if s.safety.fences ≠ [] then .degraded else if s.contracts.any isOpen then .serving else .ready) ∧
        t.pins.faultN = false ∧ t.safety.causes = [] ∧ t.safety.fences = s.safety.fences ∧ t.mem.selfRefresh = false)

/-- POWER_POLICY_SET puts a policy that no proof breaks in force (R99, R100). FW_STAGE and FW_ACTIVATE that pass their checks run in the
background on the hub, one at a time (R103, R104, R42).
Choices of the model in it: log 51 and 126. -/
def Obligations.PolicyAndFirmwareMessagesTakeEffect : Prop :=
  (∀ s f src m, Fresh s → Head s f src 0x0B01 m →
     let p := policyOf m.bytes
     (∀ g < 4, loadLineMv p.minDiv ≤ p.vceil.getD g 0) → brokenBy p [] (openContracts s) = none →
     ∃ t, exec (.powerPolicySet f src) s = .next t ∧ Answered s t f src m .ok 0xFFFF [] 0 ∧ t.power.policy = p ∧
       t.contracts = s.contracts ∧ t.cases = s.cases ∧ t.parts = s.parts ∧ t.models = s.models ∧ t.boot = s.boot ∧
       t.safety = s.safety ∧ t.mem = s.mem) ∧
  (∀ s f src m, Fresh s → updateHeld s m.bytes = false → s.boot.sbUpdate = false →
     (∀ h d ok, Head s f src 0x0D01 m → le m.bytes 32 4 + le m.bytes 36 4 ≤ 16777216 →
       addrCheck s h f false (le m.bytes 40 8) (le m.bytes 36 4) 40 = none →
       let first := bitOf (byteAt m.bytes 48) 0
       let a := updBoot (hostRead s f (le m.bytes 40 8) (le m.bytes 36 4)) fun t => { t with pfUpdate := t.pfUpdate || first }
       OpensOver (.fwStage f src h (.data d) ok) s f src m
         (addBg a f (some s.nextMsg)
           (.fwStage (le m.bytes 32 4) (readBytes d (le m.bytes 36 4)) first (first && !s.boot.pfUpdate) ok) 0 0)) ∧
     (Head s f src 0x0D02 m →
       let img := stagedImage s (le m.bytes 32 4)
       imageChecks s (inactiveSlot s) img = none →
       OpensOver (.fwActivate f src) s f src m (addBg s f (some s.nextMsg) (.fwActivate (le m.bytes 32 4) img) 0 0)))

/-! ## Mailbox registers and rings (R4, R5, R17 to R26, R33, R44, R45) -/

/-- A new index that is valid is taken: the inline slots up to it are copied in order, the submission entries before it wait to be
fetched, the completion entries before it are free (R22 to R24, R26). One that is not valid halts the mailbox with cause 1, 2 or 3
and takes nothing.
Choices of the model in it: log 3. -/
def Obligations.IndexRegistersAreObserved : Prop :=
  (∀ s f, Fresh s → f < 33 → observes s f = true → (mbOf s f).inl.pi ≠ (mbOf s f).inl.seen →
     let c := (mbOf s f).inl
     (validPi 8 c.seen c.ci c.pi = true →
       ∃ t, exec (.inlPiObserved f) s = .next t ∧
         exec (.inlPiObserved f) s = .next (sweepStrays (updMb s f fun mb =>
           (indicesFrom 8 c.seen c.pi).foldl (takeSlot s.tclk) { mb with inl := { mb.inl with seen := c.pi } }) f .inl) ∧
         (mbOf t f).inl.seen = c.pi ∧ (mbOf t f).inl.slots = c.slots ∧ (∀ g, g ≠ f → mbOf t g = mbOf s g)) ∧
     (validPi 8 c.seen c.ci c.pi = false →
       ∃ t, exec (.inlPiObserved f) s = .next t ∧ (mbOf t f).st.halted = true ∧ (mbOf t f).st.haltCause = 1 ∧
         (mbOf t f).st.haltIndex = c.pi ∧ (mbOf t f).inl = c ∧ (mbOf t f).inlQ = (mbOf s f).inlQ)) ∧
  (∀ s f, f < 33 → observes s f = true → (mbOf s f).sq.active = true → (mbOf s f).sq.hostIdx ≠ (mbOf s f).sq.seen →
     let r := (mbOf s f).sq
     (validPi (ringSize r) r.seen r.devIdx r.hostIdx = true →
       exec (.sqPiObserved f) s = .next (updMb s f fun mb =>
         { mb with
           sq := { mb.sq with seen := r.hostIdx }
           sqFetch := mb.sqFetch ++ (indicesFrom (ringSize r) r.seen r.hostIdx).map fun i => (i, s.tclk) })) ∧
     (validPi (ringSize r) r.seen r.devIdx r.hostIdx = false →
       ∃ t, exec (.sqPiObserved f) s = .next t ∧ (mbOf t f).st.halted = true ∧ (mbOf t f).st.haltCause = 2 ∧
         (mbOf t f).st.haltIndex = r.hostIdx ∧ (mbOf t f).sq = r ∧ (mbOf t f).sqFetch = (mbOf s f).sqFetch)) ∧
  (∀ s f, Fresh s → f < 33 → observes s f = true → (mbOf s f).cq.active = true → (mbOf s f).cq.hostIdx ≠ (mbOf s f).cq.seen →
     let r := (mbOf s f).cq
     let n := 2 * ringSize r
     let ok := r.hostIdx ≤ n - 1 ∧ (r.hostIdx + n - r.seen) % n ≤ (r.devIdx + n - r.seen) % n
     (ok →
       ∃ t, exec (.cqCiObserved f) s = .next t ∧ (mbOf t f).cq.seen = r.hostIdx ∧ (mbOf t f).sq.hostIdx = (mbOf s f).sq.hostIdx ∧
         (∀ g, g ≠ f → mbOf t g = mbOf s g)) ∧
     (¬ ok →
       ∃ t, exec (.cqCiObserved f) s = .next t ∧ (mbOf t f).st.halted = true ∧ (mbOf t f).st.haltCause = 3 ∧
         (mbOf t f).st.haltIndex = r.hostIdx ∧ (mbOf t f).cq = r))

/-- SQ_ENTRY_FETCH_COMPLETE answers a next state in every case. Where the firmware serves the mailbox and can reserve a completion
entry, an entry's bytes are read at its address, LENGTH of them and no more, and the entry joins the submitted messages in the ring's
order, stamped with the time of its observation; a fetch that fails halts the mailbox with cause 4, and one that is halted already records the
further cause; any other fetch changes nothing (R20, R26, R31, R44, R390).
MOD_TIME_EXPIRY answers a next state in every case: the completion vector fires for the completions not yet signalled, which sends its message, or
sets its pending bit while it is masked, or does nothing while MSI-X is disabled; with none unsignalled nothing changes (R33).
Choices of the model in it: log 14 and 142. -/
def Obligations.FetchesAndModTimesEnd : Prop :=
  (∀ s f i, Fresh s → f < 33 →
     let mb := mbOf s f
     (∀ e, mb.sqFetch.find? (fun x => x.1 == i) = some e →
       (∀ b, mbServes s f = true → canReserve s f = true →
         let m : MsgIn := { index := i, bytes := messageOf b, obsTs := e.2 }
         let ahead (a c : MsgIn) : Bool :=
           decide (orderKey (ringSize mb.sq) mb.sq.devIdx a.index < orderKey (ringSize mb.sq) mb.sq.devIdx c.index)
         ∃ t, exec (.sqEntryFetchComplete f i (.data b)) s = .next t ∧
           (mbOf t f).sqFetch = mb.sqFetch.filter (fun x => x.1 != i) ∧ (∀ g, g ≠ f → mbOf t g = mbOf s g) ∧
           .hostRead f (activePasid s f mb.sq) (mb.sq.cfg.base + 256 * (i % ringSize mb.sq)) (messageOf b).length ∈ newOut s t ∧
           ((opInfo (opcodeOf m)).isSome = true → (∀ x ∈ mb.sqQ, (opInfo (opcodeOf x)).isSome = true) →
             (mbOf t f).sqQ = insertBy ahead m mb.sqQ ∧
             t = { s with mail := t.mail, out := t.out })) ∧
       (∀ b, mbServes s f = false ∨ canReserve s f = false → exec (.sqEntryFetchComplete f i (.data b)) s = .next s) ∧
       (∀ r, r = .ur ∨ r = .ca ∨ r = .poison ∨ r = .timeout →
         (mbRuns s f = true → mb.st.halted = false →
           ∃ t, exec (.sqEntryFetchComplete f i r) s = .next t ∧ (mbOf t f).st.halted = true ∧ (mbOf t f).st.haltCause = 4 ∧
             (mbOf t f).sqQ = mb.sqQ ∧ (mbOf t f).sqFetch = mb.sqFetch.filter (fun x => x.1 != i)) ∧
         (mbRuns s f = true → mb.st.halted = true →
           ∃ t, exec (.sqEntryFetchComplete f i r) s = .next t ∧
             mbOf t f = { mb with sqFetch := mb.sqFetch.filter fun x => x.1 != i } ∧
             t.amber = (recordFunc s f 0x0101 (leBytes 1 4 ++ leBytes 4 0)).amber) ∧
         (mbRuns s f = false → exec (.sqEntryFetchComplete f i r) s = .next s))) ∧
     (mb.sqFetch.find? (fun x => x.1 == i) = none → ∀ r, exec (.sqEntryFetchComplete f i r) s = .next s)) ∧
  (∀ s f, f < 33 →
     ((mbOf s f).ev.unsignalled = 0 → exec (.modTimeExpiry f) s = .next s) ∧
     (f < s.mail.length → (mbOf s f).ev.unsignalled ≠ 0 →
       ∃ t, exec (.modTimeExpiry f) s = .next t ∧ (mbOf t f).ev.unsignalled = 0 ∧
         (if (fnOf s f).msixEnable = false then (mbOf t f).ev.pba = (mbOf s f).ev.pba ∧ t.out = s.out
          else if vectorMasked s f 0 = true then (mbOf t f).ev.pba = setBit (mbOf s f).ev.pba 0 true ∧ t.out = s.out
          else (mbOf t f).ev.pba = (mbOf s f).ev.pba ∧ t.out = s.out ++ [.msix f 0]) ∧
         t = { s with mail := t.mail, out := t.out } ∧ (∀ g, g ≠ f → mbOf t g = mbOf s g)))

/-- A mailbox reset discards and counts the completions not yet written, disarms the waits, and leaves the registers at their reset
values but for EVT_LOST and COMPL_DROPPED (R45, R46, R149). A ring enable that no cause of R19 stands against activates the ring with
the configuration in its registers, and any other tells the cause in CFG_ERR (R18, R19, R21).
Choices of the model in it: log 13, 17 and 18. -/
def Obligations.MailboxesAreResetAndRingsEnabled : Prop :=
  (∀ s f, f < 33 → windowOpen s f = true → (s.safety.pairA && s.safety.pairB) = false → f < s.mail.length →
     let n := (s.msgs.filter fun m => m.f == f).length
     ∃ t, exec (.mbReset f) s = .next t ∧
       t.msgs = s.msgs.filter (fun m => m.f != f) ∧ t.waits = s.waits.filter (fun w => w.owner != f) ∧
       mbStatus (mbOf t f) = 1 ∧ (mbOf t f).inlQ = [] ∧ (mbOf t f).sqQ = [] ∧ (mbOf t f).sqFetch = [] ∧
       (mbOf t f).inl.pi = 0 ∧ (mbOf t f).inl.ci = 0 ∧ (mbOf t f).inl.slotOwn = 0 ∧
       (mbOf t f).sq = Ring.reset ∧ (mbOf t f).cq = Ring.reset ∧ eventReg (mbOf t f).ev = 0 ∧
       (mbOf t f).ev.modCount = 1 ∧ (mbOf t f).ev.modTime = 0 ∧
       (mbOf t f).ev.evtLost = (mbOf s f).ev.evtLost ∧ (mbOf t f).ev.complDropped = ((mbOf s f).ev.complDropped + n) % 2 ^ 32 ∧
       (∀ g, g ≠ f → mbOf t g = mbOf s g) ∧
       t.cases = s.cases ∧ t.bg = s.bg ∧ t.contracts = s.contracts) ∧
  (∀ s f h, f < 33 → windowOpen s f = true → (mbOf s f).st.running = true → f < s.mail.length →
     let mb := mbOf s f
     let eS := enableError (!decide (4 ≤ mb.sq.log2 ∧ mb.sq.log2 ≤ 12)) (ringDenied s f h mb.sq false 256)
       (!mb.cq.active) mb.sq.active (mb.sq.hostIdx != 0)
     let eC := enableError (!decide (6 ≤ mb.cq.log2 ∧ mb.cq.log2 ≤ 16)) (ringDenied s f h mb.cq true 64) false
       mb.cq.active (mb.cq.hostIdx != 0)
     (∀ both, ∃ t, exec (.sqEnable f both h) s = .next t ∧
       mbOf t f = (if eS = 0 then
                     { mb with sq := enabled mb.sq, st := { mb.st with cfgErr := if both then mb.st.cfgErr else 0 } }
                   else { mb with st := { mb.st with cfgErr := eS } }) ∧
       t = { s with mail := t.mail, pcie := t.pcie } ∧ (∀ g, g ≠ f → mbOf t g = mbOf s g)) ∧
     (∃ t, exec (.cqEnable f h) s = .next t ∧
       mbOf t f = (if eC = 0 then { mb with cq := enabled mb.cq, st := { mb.st with cfgErr := 0 } }
                   else { mb with st := { mb.st with cfgErr := eC } }) ∧
       t = { s with mail := t.mail, pcie := t.pcie } ∧ (∀ g, g ≠ f → mbOf t g = mbOf s g)))

/-- A write of ones clears the event bits it names, but a bit the device sets in the same cycle reads 1 afterwards (R3,
R4). -/
def Obligations.EventClearNeverLosesAnEvent : Prop :=
  ∀ s f mask same, f < 33 → windowOpen s f = true → f < s.mail.length →
    ∃ t, exec (.eventPendingClear f mask same) s = .next t ∧
      t = { s with mail := t.mail } ∧ (∀ g, g ≠ f → mbOf t g = mbOf s g) ∧
      mbOf t f = { mbOf s f with ev := (mbOf t f).ev } ∧
      (∀ i, i = 1 ∨ i = 2 ∨ i = 3 ∨ i = 4 →
        ((eventReg (mbOf t f).ev).testBit i = true ↔
          same.testBit i = true ∨ ((eventReg (mbOf s f).ev).testBit i = true ∧ mask.testBit i = false)))

/-- A read of a read-to-clear counter returns the count before the events of the same cycle, and leaves those in it (R5). MIN_REARM sets
every region's minimum to 0xFFFF and nothing else. -/
def Obligations.ReadToClearCounters : Prop :=
  (∀ s same, same < 2 ^ 32 →
     (∀ f, f < 33 → windowReadable s f = true → f < s.mail.length →
       (∃ t, exec (.evtLostRead f same) s = .next t ∧ t.out = s.out ++ [.readValue (mbOf s f).ev.evtLost] ∧
         mbOf t f = { mbOf s f with ev := { (mbOf s f).ev with evtLost := same } } ∧
         t = { s with mail := t.mail, out := t.out } ∧ (∀ g, g ≠ f → mbOf t g = mbOf s g)) ∧
       (∃ t, exec (.complDroppedRead f same) s = .next t ∧ t.out = s.out ++ [.readValue (mbOf s f).ev.complDropped] ∧
         mbOf t f = { mbOf s f with ev := { (mbOf s f).ev with complDropped := same } } ∧
         t = { s with mail := t.mail, out := t.out } ∧ (∀ g, g ≠ f → mbOf t g = mbOf s g))) ∧
     exec (.conflictsRead same) s =
       .next { s with power := { s.power with conflicts := same }, out := s.out ++ [.readValue s.power.conflicts] } ∧
     exec (.throtChangesRead same) s =
       .next { s with power := { s.power with throtChanges := same }, out := s.out ++ [.readValue s.power.throtChanges] } ∧
     exec (.stretchFaultsRead same) s =
       .next { s with power := { s.power with stretchFaults := same }, out := s.out ++ [.readValue s.power.stretchFaults] }) ∧
  (∀ s, ∃ t, exec .minRearm s = .next t ∧ t = { s with power := { s.power with dies := t.power.dies } } ∧
     t.power.dies = s.power.dies.map fun d => { d with regions := d.regions.map fun r => { r with minMv := 0xFFFF } })

/-- REGISTER_WRITE answers a next state for every window, offset and value. An aligned write to a field of the mailbox window changes that
field and no other state of the module, while host writes reach the window; the configuration registers take the enables that they name; the
read-only registers and windows, and a mailbox window that takes no writes, ignore it (R3, R6, R16, R17, R33, R405).
Choices of the model in it: log 12 and 143. -/
def Obligations.RegisterWritesReachTheirField : Prop :=
  ∀ s f v, f < 33 → v < 2 ^ 32 → f < s.mail.length →
    (windowOpen s f = true →
      (∃ t, exec (.registerWrite f .mailbox 0x20 v) s = .next t ∧ readReg t f .mailbox 0x20 = v % 16 ∧
        mbOf t f = { mbOf s f with inl := { (mbOf s f).inl with pi := v % 16 } } ∧ t = { s with mail := t.mail }) ∧
      (∃ t, exec (.registerWrite f .mailbox 0x40 v) s = .next t ∧ readReg t f .mailbox 0x40 = v / 4096 * 4096 ∧
        mbOf t f = { mbOf s f with sq := { (mbOf s f).sq with baseLo := v / 4096 * 4096 } } ∧
        t = { s with mail := t.mail }) ∧
      (∃ t, exec (.registerWrite f .mailbox 0x6C v) s = .next t ∧ readReg t f .mailbox 0x6C = v % 2 ^ 17 ∧
        mbOf t f = { mbOf s f with cq := { (mbOf s f).cq with hostIdx := v % 2 ^ 17 } } ∧ t = { s with mail := t.mail }) ∧
      (∃ t, exec (.registerWrite f .mailbox 0x34 v) s = .next t ∧ readReg t f .mailbox 0x34 = v % 2 ^ 26 ∧
        mbOf t f = { mbOf s f with ev := modWrite (mbOf s f).ev v } ∧ t = { s with mail := t.mail }) ∧
      (∀ i < 8, ∀ j < 64, ∃ t, exec (.registerWrite f .mailbox (0x800 + 256 * i + 4 * j) v) s = .next t ∧
        mbOf t f = { mbOf s f with inl := { (mbOf s f).inl with
          slots := modifyAt (mbOf s f).inl.slots i fun b => putBytes b (4 * j) (leBytes 4 v) } } ∧
        t = { s with mail := t.mail })) ∧
    (funcExists s f = true → s.pcie.linkUp = true → s.pcie.d3hot = false →
      ∀ i < 4, (mbOf s f).ev.pba.testBit i = false →
      ∃ t, exec (.registerWrite f .mailbox (0x3000 + 16 * i + 8) v) s = .next t ∧
        mbOf t f = { mbOf s f with ev := { (mbOf s f).ev with
          msix := modifyAt (mbOf s f).ev.msix i fun e => { e with data := v } } } ∧ t = { s with mail := t.mail }) ∧
    (∀ off, off = 0x00 ∨ off = 0x04 ∨ off = 0x08 ∨ off = 0x0C ∨ off = 0x10 ∨ off = 0x14 ∨ off = 0x1C ∨ off = 0x24 ∨
        off = 0x2C ∨ off = 0x30 ∨ off = 0x50 ∨ off = 0x70 →
      exec (.registerWrite f .mailbox off v) s = .next s) ∧
    (∀ off, off % 4 ≠ 0 → exec (.registerWrite f .mailbox off v) s = .next s) ∧
    (windowOpen s f = false → ∀ off, off < 0x3000 → exec (.registerWrite f .mailbox off v) s = .next s) ∧
    (∀ off, exec (.registerWrite f .safety off v) s = .next s ∧ exec (.registerWrite f .power off v) s = .next s ∧
      exec (.registerWrite f .recorder off v) s = .next s) ∧
    (funcExists s f = true → s.pcie.linkUp = true → f < s.pcie.fns.length →
      (∀ off, ∃ t, exec (.registerWrite f .config off v) s = .next t ∧ t = { s with pcie := t.pcie, mail := t.mail, out := t.out } ∧
        (∀ g, g ≠ f → fnOf t g = fnOf s g ∧ mbOf t g = mbOf s g)) ∧
      (∃ t, exec (.registerWrite f .config 0 v) s = .next t ∧
        fnOf t f = { fnOf s f with msixEnable := bitOf v 15, funcMask := bitOf v 14 }) ∧
      (∃ t, exec (.registerWrite f .config 4 v) s = .next t ∧ fnOf t f = { fnOf s f with ats := bitOf v 15 }) ∧
      (∃ t, exec (.registerWrite f .config 8 v) s = .next t ∧ fnOf t f = { fnOf s f with pasid := bitOf v 0 }) ∧
      (f = 0 → ∃ t, exec (.registerWrite f .config 12 v) s = .next t ∧ t.pcie.mps = min 512 (128 * 2 ^ (v / 32 % 8)) ∧
        t.pcie.mrrs = min 4096 (128 * 2 ^ (v / 4096 % 8))) ∧
      (f = 0 → ∃ t, exec (.registerWrite f .config 16 v) s = .next t ∧ t.pcie.rcb = if bitOf v 3 then 128 else 64) ∧
      (f = 0 → ∃ t, exec (.registerWrite f .config 20 v) s = .next t ∧ t.pcie.ctoValue = v % 16 ∧ t.pcie.ctoDisable = bitOf v 4)) ∧
    (funcExists s f = false ∨ s.pcie.linkUp = false → ∀ off, exec (.registerWrite f .config off v) s = .next s)

/-! ## Scheduling (R127 to R138, R240, R244, R338) -/

/-- COMMAND_SELECTION grants the command that R128 picks when its engines are free and its weights are here: it runs on those
engines from now on; with no candidate nothing is granted (R128, R130).
TILE_END: the outputs of a tile that passes its compare stand in the work area of its command, which goes on when nobody has asked it to
yield; a detection discards the command's partial results, puts it back in its queue with one rerun more, and counts a recovery (R237 to
R240, R244 to R246, R338).
Choices of the model in it: log 61 and 64. -/
def Obligations.CommandsAreGrantedAndTilesEnd : Prop :=
  (∀ s u, isEngine u = true → runState s.boot.state = true →
     let s1 := yieldPoints (chargeAll s)
     (select s1 u = none → exec (.commandSelection u) s = .next s1) ∧
     (∀ c, select s1 u = some c → c.id ≠ 0 → weightsOf s1 c = .here → holders s1 (engines s1 c u) = [] →
       (engines s1 c u).any (switchHolds s1) = false →
       ∃ t x, exec (.commandSelection u) s = .next t ∧ x ∈ t.sched.cmds ∧ x.id = c.id ∧ x.phase = .running ∧
         x.units = engines s1 c u ∧ x.grantTs = s1.tclk ∧ u ∈ x.units ∧ t.contracts = s1.contracts ∧
         t.cases.map (fun y => { y with gen := GenState.none }) = s1.cases.map (fun y => { y with gen := GenState.none }))) ∧
  (∀ s cmd u r c, u.kind = 3 → u.idx < 64 → cmdOf s cmd = some c → c.phase = .running → u ∈ c.units → tileFits s c u r = true →
     let q := quadrant (inGang s (u.idx / 4)) (u.idx % 4) r
     let pre := areaOf s c u q.block
     let cells := tileCells pre q
     let d := areaAfter pre q cells
     (tileDetections s c u q cells d = [] → c.preemptTs = none →
       ∃ t, exec (.tileEnd cmd u r) s = .next t ∧ endChain d q.next ∈ t.sched.areas ∧
         t = { adopt s u with sched := { (adopt s u).sched with areas := t.sched.areas } } ∧
         (∀ a ∈ t.sched.areas, a = endChain d q.next ∨
           (a ∈ (adopt s u).sched.areas ∧ ¬ (a.cmd = d.cmd ∧ a.core = d.core ∧ a.quad = d.quad ∧ a.block = d.block)))) ∧
     (∀ x rest, tileDetections s c u q cells d = x :: rest → atLimit c x.det = false → c.preemptTs = none →
       (s.safety.killed.filter fun e => decide (e.1 = u ∧ s.tclk < e.2 + 120000000)).length + (rest.length + 1) < 3 →
       ∃ t y, exec (.tileEnd cmd u r) s = .next t ∧ y ∈ t.sched.cmds ∧ y.id = cmd ∧ y.phase = .ready ∧ y.units = [] ∧
         y.reruns = c.reruns + 1 ∧ (∀ a ∈ t.sched.areas, a.cmd ≠ cmd) ∧
         t.safety.recovered = (s.safety.recovered + 1) % 2 ^ 32 ∧ t.safety.fences = s.safety.fences)) ∧
  (∀ s cmd u r, u.kind = 3 → u.idx < 64 → cmdOf s cmd = none → exec (.tileEnd cmd u r) s = .next s)

/-- MODEL_SWITCH_LOAD_DONE puts the model in the slice pool and counts the switch's time to the partition it was for (R135,
R143).
LAYER_MOVE_DONE notes that a layer has arrived, and a late one is recorded (R273, R274).
Choices of the model in it: log 62 and 82. -/
def Obligations.ModelsAreSwitched : Prop :=
  (∀ s p, s.sched.poolLoading = some p →
     (∃ t, exec (.modelSwitchLoadDone p.model) s = .next t ∧ t.sched.poolLoading = none ∧ t.sched.poolModel = some p.model ∧
       t.parts = (updStats s p.owner fun n => { n with switchTime := n.switchTime + (s.tclk - p.start) }).parts ∧
       t.sched.cmds = s.sched.cmds ∧ t = { s with sched := t.sched, parts := t.parts }) ∧
     (∀ m, m ≠ p.model → exec (.modelSwitchLoadDone m) s = .next s)) ∧
  (∀ s m layer x, modelOf s m = some x → layer < x.img.shape.layers →
     let ls := if s.sched.layers.contains (m, layer) then s.sched.layers else s.sched.layers ++ [(m, layer)]
     exec (.layerMoveDone m layer 0) s = .next { s with sched := { s.sched with layers := ls } } ∧
     ∀ late, late ≠ 0 → casesOfModel s m = [] →
       exec (.layerMoveDone m layer late) s = .next (record { s with sched := { s.sched with layers := ls } } 0x0205
         (leBytes 4 m ++ leBytes 2 layer ++ leBytes 1 late)))

/-- A BACKGROUND operation that may commit does its whole effect at once and is gone: a model or a prefix is registered under a
new handle, a table's rows are loaded, an index takes a segment's bytes, a settle swaps the root, an update's bytes stand in the inactive slot,
an activation marks the slot for trial; one whose object or tier was lost changes nothing else (R56, R65, R70, R75, R81, R188, R103, R104,
R287).
Choices of the model in it: log 80 and 89. -/
def Obligations.BackgroundOpsCommitWhole : Prop :=
  ∀ s b, s.bg.find? (fun o => o.id == b.id) = some b → bgReady s b = true → s.boot.bcb.length = 2 →
    (∀ c, bgCmd s b.id = some c → OnTime s c) →
    (bgLost (clearBusy s b.kind) b = true →
      ∃ t, exec (.backgroundOpCommit b.id []) s = .next t ∧ (∀ o ∈ t.bg, o.id ≠ b.id) ∧ t.models = s.models ∧
        t.tables = s.tables ∧ t.pfxs = s.pfxs ∧ t.telem.bgCommitted = s.telem.bgCommitted) ∧
    (bgLost (clearBusy s b.kind) b = false →
      ∃ t, exec (.backgroundOpCommit b.id []) s = .next t ∧ (∀ o ∈ t.bg, o.id ≠ b.id) ∧
        t.telem.bgCommitted = s.telem.bgCommitted + (if isZeroing b.kind then 0 else 1) ∧ t.contracts = s.contracts ∧
        (∀ img home pin shared, b.kind = .modelLoad img home pin shared →
          t.models = s.models ++ [newModel s.nextHandle b.owner shared pin home img] ∧ t.nextHandle = s.nextHandle + 1) ∧
        (∀ m toks kv pages shared, b.kind = .prefixRegister m toks kv pages shared →
          t.pfxs = s.pfxs ++ [newPfx s b m toks kv pages shared] ∧ t.nextHandle = s.nextHandle + 1) ∧
        (∀ h first rows, b.kind = .tableLoad h first rows →
          t.tables = modifyWhere s.tables (fun x => x.handle == h) fun x => loadRows x first rows) ∧
        (∀ h p x, b.kind = .settle h p → indexOf s h = some x →
          ∃ y, indexOf t h = some y ∧ y.state = .live ∧ y.gen = x.gen + 1 ∧ y.lists = (fold x p).lists ∧
            y.scree = (x.scree.filter fun c => decide (p < c.seq)) ++ (fold x p).kept) ∧
        (∀ h data final x, b.kind = .bulkLoad h data final → indexOf s h = some x →
          ∃ y, indexOf t h = some y ∧ { y with old := none } = { commitSegment x data final with old := none }) ∧
        (∀ off data first began w, b.kind = .fwStage off data first began true → s.boot.slots[inactiveSlot s]? = some w →
          ∃ v, t.boot.slots[inactiveSlot s]? = some v ∧ v.written = (if first then [] else w.written) ++ [(off, data)]) ∧
        (∀ len img, b.kind = .fwActivate len img → t.boot.pfUpdate = false ∧ (bcbInUse t.boot).trial = true ∧
          (bcbInUse t.boot).trialSlot = inactiveSlot s ∧ t.boot.floor = s.boot.floor))

/-! ## The stages of a case (R10, R121 to R123, R145, R147, R154 to R236) -/

/-- The commits of intake, embedding and encoding: each stage's result appears whole at its commit, its cairn is signalled, and
the case goes on; a payload read that fails ends the case with ST_FAULT_HOST_DMA (R10, R147, R154, R159, R163 to R165).
Choices of the model in it: log 69 and 87. -/
def Obligations.CaseIsTakenInAndEncoded : Prop :=
  ∀ s key c m k,
    (Running s key .intake c m k →
      (∀ rs b wr, joinPieces c.desc.sg rs = .data b → (∀ w ∈ wr, DramWrite.full w = true) →
        (∀ e ∈ c.desc.sg, caseGranted s c false e.addr e.len = true) →
        caseGranted s c true (c.hd.resultAddr + c.hd.tokAt) 4 = true →
        ∃ t x, exec (.intakeCommit key rs wr) s = .next t ∧ Advances s t c x k { forms := [] } ∧
          x.enc = { c.enc with payload := (List.range c.desc.payloadBytes).map fun i => b.getD i 0 } ∧
          t.mem = (dramWrites s wr).mem ∧
          (∀ e ∈ c.desc.sg, Out.hostRead c.hd.owner (partPasid s c.hd.owner) e.addr e.len ∈ newOut s t) ∧
          Out.hostWrite c.hd.owner (partPasid s c.hd.owner) (c.hd.resultAddr + c.hd.tokAt) (zeros 4) ∈ newOut s t) ∧
      (∀ rs r, joinPieces c.desc.sg rs = r → (r = .ur ∨ r = .ca ∨ r = .poison ∨ r = .timeout) →
        ∃ t x, exec (.intakeCommit key rs []) s = .next t ∧ caseOf t key = some x ∧ x.hd = c.hd ∧ x.stage = .intake ∧
          x.enc = c.enc ∧ x.ending = some .faultHostDma ∧ x.failedStage = 1 ∧ t.cairns = s.cairns)) ∧
    (cmdOf s m.id = some m → (cmdKeys m).head? = some key → ∀ p wr, (∀ w ∈ wr, DramWrite.full w = true) →
      (Running s key .embedding c m k →
        ∃ t x, exec (.commandCommit m.id p wr none) s = .next t ∧ Advances s t c x k p ∧
          x.enc = embed s k c ∧ x.sats = c.sats + sumNat ((embed s k c).bags.map QuantRow.sats)) ∧
      (Running s key .encoding c m k → c.desc.caseType ≠ 2 → ∀ e, modelOf s k.rcd.refs.encModel = some e →
        let r := queryRow s k e (encoderInput k.rcd c)
        ∃ t x, exec (.commandCommit m.id p wr none) s = .next t ∧ Advances s t c x k p ∧
          x.enc = { c.enc with query := some { q := r.elems, scale := r.scale } } ∧ r.elems.length = 256 ∧
          x.sats = c.sats + (ctxSats e.img 0 (plainCtx (encoderInput k.rcd c)) 0 + r.sats))) ∧
    (Running s key .encoding c m k → c.desc.caseType = 2 → ∀ e, modelOf s k.rcd.refs.encModel = some e →
      (∀ i, i < chunkCount k c → (∀ e ∈ c.enc.summaries, e.1 ≠ i) →
        let ctx := plainCtx (chunkInput k.rcd c i)
        ∃ t x, exec (.chunkEncodeCommit key i none) s = .next t ∧ GoesOn t c x ∧
          x.enc = { c.enc with
            summaries := c.enc.summaries ++ [(i, headValues e.img 0 .summary ctx (Config.summaryWidth e.img))] } ∧
          x.sats = c.sats + ctxSats e.img 0 ctx 0) ∧
      (c.enc.summaries.length = chunkCount k c →
        let r := queryRow s k e (summaryInput k c)
        ∃ t x, exec (.summaryPassCommit key none) s = .next t ∧ Advances s t c x k { forms := [] } ∧
          x.enc = { c.enc with query := some { q := r.elems, scale := r.scale } }))

/-- Coarse search gives each of its cases the lists of smallest key and a snapshot of the index, and the case waits on those
lists and the scree (R175 to R177, R182); the end of a hold marks the query (R177); a pass adds to each of its queries the
candidates it finds, and the last one commits the certified list (R178, R179, R184, R185).
Choices of the model in it: log 69 and 76. -/
def Obligations.CasesAreSearched : Prop :=
  ∀ s key c k, caseOf s key = some c → contractOf s c.hd.contract = some k →
    (∀ m x qv, cmdOf s m.id = some m → m.stage = 4 → mayCommit s m = true → OnTime s m → (cmdKeys m).Nodup →
      key ∈ cmdKeys m → c.stage = .coarse → indexOf s k.rcd.refs.index = some x → c.enc.query = some qv →
      let lists := visitedLists x qv k.rcd.lim.nprobe
      ∃ t y, exec (.coarseSearchCommit m.id none) s = .next t ∧ caseOf t key = some y ∧ y.hd = c.hd ∧
        y.stage = .listScan ∧ y.srch.visited = lists ∧ y.srch.waitLists = lists ∧ y.srch.waitScree = true ∧
        y.srch.gen = x.gen ∧ y.srch.seq = x.nextSeq - 1 ∧ y.srch.found = [] ∧ t.indexes = s.indexes) ∧
    (∃ t, exec (.holdExpiry key) s = .next t ∧
      caseOf t key = some { c with srch := { c.srch with holdExpired := true } } ∧ t.contracts = s.contracts ∧
      (∀ j, j ≠ key → caseOf t j = caseOf s j)) ∧
    (∀ m i g l keys ps qv, cmdOf s m.id = some m → m.serves = .pass i g l keys → mayCommit s m = true → OnTime s m →
      keys.Nodup → key ∈ keys → c.enc.query = some qv →
      (keys = [key] ∨ ∀ x, indexOf s i = some x → x.old = none) →
      let hits := passHits s i l qv c.srch.gen c.srch.seq
      ((c.srch.waitLists ≠ [] ∨ c.srch.waitScree = true ∨ c.srch.shardsLeft ≠ []) →
        ∃ t, exec (.listPassCommit m.id ps none) s = .next t ∧
          caseOf t key = some { c with srch := { c.srch with found := c.srch.found ++ hits } }) ∧
      (keys = [key] → c.stage = .listScan → caseRuns c = true → c.srch.waitLists = [] → c.srch.waitScree = false →
        c.srch.shardsLeft = [] → (∀ n ∈ s.sched.cmds, n.id ≠ m.id → key ∉ cmdKeys n) →
        ∃ t x, exec (.listPassCommit m.id ps none) s = .next t ∧
          Advances s t c x k (((ps.find? fun e => e.1 == key).map Prod.snd).getD { forms := [] }) ∧
          x.srch.cand = some (certify (c.srch.found ++ hits) k.rcd.lim.candC c.srch.shardLOut c.srch.gen c.srch.seq)))

/-- Passage fetch: a store read moves the lookup of its id on, one that fails ends the case, the T3 budget and the latest switch
point take another form, and the stage commits all its passages at one instant; a fill enters the cache of its index
(R121, R197, R198, R200 to R205).
Choices of the model in it: log 70, 71 and 73. -/
def Obligations.PassagesAreFetched : Prop :=
  ∀ s key c m k, Running s key .fetch c m k →
    (∀ id r, id ∈ c.pass.stale →
      ∃ t, exec (.passageStoreReadComplete key id r) s = .next t ∧ t = { s with cases := t.cases } ∧
        caseOf t key = some { c with pass := { c.pass with stale := c.pass.stale.erase id } }) ∧
    (∀ id, id ∈ readsLeft s k.rcd c → id ∉ c.pass.stale →
      let a := nextRead k.rcd (lookupOf c id)
      (∀ b, caseGranted s c false a.1 a.2 = true →
        ∃ t x, exec (.passageStoreReadComplete key id (.data b)) s = .next t ∧ caseOf t key = some x ∧
          lookupOf x id = stepLookup s k.rcd (lookupOf c id) b ∧ (∀ j, j ≠ id → lookupOf x j = lookupOf c j) ∧
          x = { c with pass := { c.pass with looks := x.pass.looks } } ∧ t.cairns = s.cairns ∧
          Out.hostRead c.hd.owner (partPasid s c.hd.owner) a.1 a.2 ∈ newOut s t) ∧
      (∀ r, r = .ur ∨ r = .ca ∨ r = .poison ∨ r = .timeout →
        ∃ t x, exec (.passageStoreReadComplete key id r) s = .next t ∧ caseOf t key = some x ∧ x.stage = .fetch ∧
          x.ending = some .faultHostDma ∧ x.failedStage = 6 ∧ t.cairns = s.cairns)) ∧
    (waitsT3 s k c = true →
      (∀ p, ∃ t x y, exec (.t3BudgetExpiry key p) s = .next t ∧ caseOf t key = some x ∧ x.stage = .fetch ∧
        contractOf t c.hd.contract = some y ∧ y.stats.t3Late = k.stats.t3Late + 1 ∧
        ((chainLeft k c .fetch).drop 1 = [] →
          x = { c with lateCause := if c.lateCause = 0 then 1 else c.lateCause }) ∧
        ((chainLeft k c .fetch).drop 1 ≠ [] →
          x.forms.fetch = monitorForm s k c .fetch ((chainLeft k c .fetch).drop 1) p ∧ x.pass.looks = [] ∧
          x.pass.stale = c.pass.stale ++ readsLeft s k.rcd c ∧
          ∃ n ∈ t.sched.cmds, n.serves = .cases [key] ∧ n.stage = 6 ∧ n.phase = .ready)) ∧
      (∀ p,
        let f := monitorForm s k c .fetch (chainLeft k c .fetch) p
        (f = c.forms.fetch → exec (.t3LatestSwitchPoint key p) s = .next s) ∧
        (f ≠ c.forms.fetch →
          ∃ t x, exec (.t3LatestSwitchPoint key p) s = .next t ∧ caseOf t key = some x ∧ x.stage = .fetch ∧
            x.forms = { c.forms with fetch := f, ran := x.forms.ran } ∧ (6, f) ∈ x.forms.ran ∧ x.pass.looks = [] ∧
            x.pass.stale = c.pass.stale ++ readsLeft s k.rcd c ∧
            ∃ n ∈ t.sched.cmds, n.serves = .cases [key] ∧ n.stage = 6 ∧ n.phase = .ready))) ∧
    (readsLeft s k.rcd c = [] → ∀ p, ∃ t x, exec (.passageFetchCommit key p) s = .next t ∧ Advances s t c x k p ∧
      x.pass = { c.pass with looks := [], committed := fetchedPool s k.rcd c }) ∧
    (∀ b h q n i, s.bg.find? (fun o => o.id == b.id) = some b → b.kind = .cacheFill h [q] → bgCmd s b.id = some n →
      mayCommit s n = true → OnTime s n → indexOf s h = some i → i.state ≠ .unavailable → fills i q = true →
      (∀ e, (cachePut i.cfg i.cache (cachedOf q)).held.getLast? = some e →
        ∀ j ∈ cacheBlocks i.cfg e, j ∉ hitBlocks s i) →
      ∃ t j, exec (.cacheFillCommit b.id) s = .next t ∧ (∀ o ∈ t.bg, o.id ≠ b.id) ∧ indexOf t h = some j ∧
        j.cache = cachePut i.cfg i.cache (cachedOf q) ∧ t.telem.bgCommitted = s.telem.bgCommitted + 1)

/-- Re-rank scores its pairs batch by batch and commits its order after the last; the monitor may give the rest up for distance
order, which costs one command. Packing commits the passage list in walk order and the whole prompt (R121, R206 to
R210).
Choices of the model in it: log 68 and 69. -/
def Obligations.PassagesAreRankedAndPacked : Prop :=
  ∀ s key c m k,
    (Running s key .rerank c m k → rerankIdle c = false → ∀ r p, modelOf s k.rcd.refs.rerankModel = some r →
      let all := pairPlaces c.pass.committed
      let batch := (all.drop c.pass.nextPair).take (max 1 k.rcd.tpl.rrBatch)
      let scores := pairScores r.img k.rcd c (batch.filterMap fun i => c.pass.committed[i]?)
      let ps := putScores c.pass.committed batch scores.1
      let next := c.pass.nextPair + batch.length
      let f := monitorForm s k c .rerank (chainLeft k c .rerank) p
      (all.length ≤ next →
        ∃ t x, exec (.rerankBatchCommit key p none) s = .next t ∧ Advances s t c x k p ∧ x.sats = c.sats + scores.2 ∧
          x.pass = { c.pass with committed := ps, ranked := rerankOrder ps, nextPair := next }) ∧
      (next < all.length → f = c.forms.rerank →
        ∃ t x, exec (.rerankBatchCommit key p none) s = .next t ∧ GoesOn t c x ∧ x.forms = c.forms ∧
          x.pass = { c.pass with committed := ps, nextPair := next }) ∧
      (next < all.length → f ≠ c.forms.rerank →
        ∃ t x, exec (.rerankBatchCommit key p none) s = .next t ∧ GoesOn t c x ∧
          x.forms = { c.forms with rerank := f, ran := x.forms.ran } ∧ (7, f) ∈ x.forms.ran ∧ x.pass = { c.pass with committed := unscored ps, nextPair := 0 })) ∧
    (Running s key .rerank c m k → rerankIdle c = true → cmdOf s m.id = some m → (cmdKeys m).head? = some key →
      ∀ p, ∃ t x, exec (.commandCommit m.id p [] none) s = .next t ∧ Advances s t c x k p ∧
        x.pass = { c.pass with ranked := c.pass.committed }) ∧
    (Running s key .packing c m k → ∀ p,
      let w := walk k.rcd.tpl (if k.rcd.refs.rerankModel = 0 then c.pass.committed else c.pass.ranked)
      let prompt := (pfxToks s k.rcd).map .tok ++ fileRegion k c ++ caseSlot k.rcd.tpl c ++ (slotToks k.rcd.tpl w).map .tok
      ∃ t x, exec (.packingCommit key p) s = .next t ∧ Advances s t c x k p ∧
        x.pass = { c.pass with packed := w.done, promptLen := prompt.length } ∧ x.gen.prompt = prompt ∧
        x.gen.pfxHeld = ((pfxOf s k.rcd.refs.pfx).map Pfx.handle).or c.gen.pfxHeld)

/-- Prefill commits the classifier head and, where the case generates, the first token, and decode goes on until a stop; draft
steps propose greedy tokens, and a verify pass commits those it accepts (R213, R214, R219, R220, R229, R230, R232).
Choices of the model in it: log 69, 79 and 81. -/
def Obligations.CasesGenerate : Prop :=
  ∀ s key c k, caseOf s key = some c → contractOf s c.hd.contract = some k →
    (∀ m i, Running s key .generation c m k → i = c.gen.fileChunks → i < fileChunks k c →
      ∃ t x, exec (.fileChunkPrefillCommit key i none) s = .next t ∧ GoesOn t c x ∧
        x.gen.fileChunks = i + 1 ∧
        x.gen.committedLen = (pfxToks s k.rcd).length + min ((i + 1) * k.rcd.feat.chunkLen) c.desc.payloadBytes ∧
        (∀ d, modelOf s (genModelOf k.rcd c) = some d → (cacheOf x d.handle).len = x.gen.committedLen)) ∧
    (∀ m d p, Running s key .generation c m k → decoding c = false → c.gen.fileChunks = fileChunks k c →
      modelOf s (genModelOf k.rcd c) = some d →
      caseGranted s c true (c.hd.resultAddr + (c.hd.tokAt + 64)) 4 = true →
      caseGranted s c true (c.hd.resultAddr + c.hd.tokAt) 4 = true →
      let ctx := genCtx s k c d []
      let probs := softmax (headValues d.img k.rcd.lim.kvFormat .classes ctx d.img.gen.verdicts)
      let most := genLimit k.rcd c
      let tok := drawToken k.rcd (caseSeed s c) c.hd.caseId c.pass.promptLen [] (tokenLogits k d ctx)
      ∃ t x, exec (.prefillCommit key p none) s = .next t ∧ caseOf t key = some x ∧ x.hd = c.hd ∧
        x.gen.committedLen = c.pass.promptLen ∧ (cacheOf x d.handle).len = c.pass.promptLen ∧ x.gen.probs = probs ∧
        x.gen.verdict = some (bestClass probs) ∧ x.gen.score = calibrate d.img.gen.calib (probs.getD (bestClass probs) 0#32) ∧
        (most = 0 → x.stage = .result ∧ x.gen.toks = c.gen.toks ∧ x.gen.stopCause = 0) ∧
        (most ≠ 0 → x.gen.toks = [tok] ∧
          (∀ st, stopCause k.rcd.stp most [tok] = some st → x.stage = .result ∧ x.gen.stopCause = st) ∧
          (stopCause k.rcd.stp most [tok] = none → budgetGone s k c = false →
            monitorForm s k c .generation (decodeChain k c) p ≠ .scoreHead → GoesOn t c x))) ∧
    (∀ m d, Running s key .generation c m k → drafting k.rcd c = true → modelOf s k.rcd.refs.draftModel = some d →
      let read := c.gen.toks ++ c.gen.proposals
      ∃ t x, exec (.draftStep key) s = .next t ∧ caseOf t key = some x ∧ x.hd = c.hd ∧ x.stage = .generation ∧
        x.gen.toks = c.gen.toks ∧ x.gen.committedLen = c.gen.committedLen ∧
        x.gen.proposals = c.gen.proposals ++ [greedyToken k.rcd read (tokenLogits k d (genCtx s k c d read))] ∧
        (∀ j, j ≠ key → caseOf t j = caseOf s j) ∧
        (c.gen.proposals.length + 1 < mostProposals k.rcd c → t = { s with cases := t.cases }) ∧
        (mostProposals k.rcd c = c.gen.proposals.length + 1 → GoesOn t c x)) ∧
    (∀ m d ps, cmdOf s m.id = some m → m.stage = 9 → mayCommit s m = true → OnTime s m → (cmdKeys m).Nodup →
      key ∈ cmdKeys m → (∀ j ∈ cmdKeys m, readyToVerify s j = true) → modelOf s (genModelOf k.rcd c) = some d →
      let base := c.pass.promptLen + c.gen.toks.length - 1
      let ctx := genCtx s k c d (c.gen.toks ++ c.gen.proposals)
      let logits := (List.range (c.gen.proposals.length + 1)).map fun i => tokenLogits k d (ctx.take (base + 1 + i))
      let a := acceptAll k.rcd (caseSeed s c) c.hd.caseId (genLimit k.rcd c) logits c.gen.proposals (base + 1) c.gen.toks
      ∃ t x, exec (.verifyPassCommit m.id ps none) s = .next t ∧ caseOf t key = some x ∧ x.hd = c.hd ∧
        x.gen.toks = c.gen.toks ++ a.toks ∧ x.gen.proposals = [] ∧ x.gen.verifyPasses = c.gen.verifyPasses + 1 ∧
        x.gen.committedLen = c.pass.promptLen + x.gen.toks.length - 1 ∧
        x.gen.draftAccepted = c.gen.draftAccepted + a.accepted ∧ x.gen.verdict = c.gen.verdict)

/-- The result record of a case is issued, written before its completion, and the case is gone: one that has reached its result
carries the status of R123, one that a status has ended carries that status (R89, R123, R233 to R236).
Choices of the model in it: log 84, 85 and 90. -/
def Obligations.ResultsAreIssued : Prop :=
  ∀ s key c o late, caseOf s key = some c → s.msgs.find? (fun m => m.id == c.hd.msg) = some o → o.src = .inl →
    (∀ w ∈ s.waits, w.msg ≠ c.hd.msg) → caseGranted s c true c.hd.resultAddr c.hd.resultLen = true →
    late = (contractOf s c.hd.contract).any (fun k => isLate s k c) →
    let issued (t : State) (st : Status) (ok : Bool) : Prop :=
      caseOf t key = none ∧
      Out.hostWrite c.hd.owner (partPasid s c.hd.owner) c.hd.resultAddr (recordOf s c st late ok) ∈ newOut s t ∧
      Out.hostWrite c.hd.owner (partPasid s c.hd.owner) (c.hd.resultAddr + 252) (leBytes 4 1) ∈ newOut s t ∧
      (∃ d, Out.completion d ∈ newOut s t ∧ d.f = o.f ∧ d.tag = o.tag ∧ d.cookie = o.cookie ∧ d.status = st ∧
        d.result = caseResult s c late) ∧
      (∀ j, j ≠ key → caseOf t j = caseOf s j)
    (∀ m k, Running s key .result c m k →
      ∃ t, exec (.resultRecordIssue key) s = .next t ∧ issued t (doneStatus c late) true) ∧
    (∀ st, c.ending = some st → ∃ t, exec (.resultRecordIssue key) s = .next t ∧ issued t st false)

/-! ## Safety events (R335 to R352) -/

/-- An overvoltage, a fault of a rail that is not VARR's, a lockstep mismatch, a firmware watchdog, a clock fault, a thermal
trip and HALT_REQ_N low each take a module that runs into SAFE_HOLD with their own cause; the pair at fault is held in reset
(R329, R335, R336, R348 to R352).
Choices of the model in it: log 3. -/
def Obligations.HubFaultsEnterSafeHold : Prop :=
  ∀ s, runState s.boot.state = true →
    (∀ g mv, g < 4 → ∃ t, exec (.voltMon g mv true) s = .next t ∧ Held s t 0x0E (unitCode { kind := 1, idx := g })) ∧
    (∀ rail word, rail < 7 → ∃ t, exec (.railMon rail word) s = .next t ∧ Held s t 0x11 0) ∧
    (∀ pairB, pairRuns s pairB = true →
      (∀ pos pc, ∃ t, exec (.lockstepMismatch pairB pos pc) s = .next t ∧ Held s t (if pairB then 0x13 else 0x12) 0 ∧
        t.safety.pairA = (s.safety.pairA || !pairB) ∧ t.safety.pairB = (s.safety.pairB || pairB) ∧
        (t.safety.pairA = true → t.safety.pairB = true → ∀ mb ∈ t.mail, mb.st.running = false)) ∧
      (∀ task, ∃ t, exec (.fwWdog pairB task) s = .next t ∧ Held s t 0x14 0 ∧
        t.safety.pairA = (s.safety.pairA || !pairB) ∧ t.safety.pairB = (s.safety.pairB || pairB) ∧
        (t.safety.pairA = true → t.safety.pairB = true → ∀ mb ∈ t.mail, mb.st.running = false))) ∧
    (∀ domain dev, domain ≤ 6 → rootUp s = true →
      ∃ t, exec (.clockMon domain dev) s = .next t ∧ Held s t 0x15 0 ∧ t.boot.locked = false ∧ t.boot.backup = true) ∧
    (∀ temps x, tripped temps = some x →
      ∃ t, exec (.thermalSensorRead temps) s = .next t ∧ Held s t 0x16 0) ∧
    (s.safety.haltQual = true → s.safety.rearm = false →
      ∃ t, exec (.haltReqNChange false) s = .next t ∧ Held s t 0x80 0 ∧ t.safety.haltQual = false ∧
        t.safety.haltActed = false ∧ t.safety.rearm = true) ∧
    (s.safety.rearm = true → s.safety.haltQual = false → s.safety.haltActed = true →
      ∃ t, exec .haltReqNRearmExpiry s = .next t ∧ Held s t 0x80 0 ∧ t.safety.haltActed = false ∧ t.safety.rearm = true)

/-- A tick of the diagnostic sweep exercises the point it has come to and moves on: a flagged point is noted, a fenced unit's is skipped, a
gated core's waits, and one that does not flag is a latent fault (R343 to R345, R347). HALT_REQ_N that rises, or changes in the 10 ms
after a change acted on, only counts as a level (R351); THROT_N is counted and taken (R331); a SYNC_IN edge is kept for every open
PERIOD contract, and SYNC_OUT pulses for it (R166, R399); a relock gives the root clock back (R350).
Choices of the model in it: log 93 and 94. -/
def Obligations.SweepAndPinsAreFollowed : Prop :=
  (∀ s p, runState s.boot.state = true → pairRuns s true = true → sweepAge s ≤ 64000 →
     s.safety.points[s.safety.sweepPos]? = some p →
     let i := s.safety.sweepPos
     let moved (t : State) : Prop := t.safety.sweepPos = (if i + 1 < s.safety.points.length then i + 1 else 0)
     (pointLive s p = true →
       ∃ t, exec (.diagnosticSweepTick true) s = .next t ∧ t = { s with safety := t.safety } ∧ moved t ∧
         t.safety.points = modifyAt s.safety.points i fun q => { q with outcome := 1, ts := s.tclk }) ∧
     (∀ u, unitOfCode p.unit = some u → isFenced s u = true → ∀ flagged,
       ∃ t, exec (.diagnosticSweepTick flagged) s = .next t ∧ t = { s with safety := t.safety } ∧ moved t ∧
         t.safety.points = modifyAt s.safety.points i fun q => { q with outcome := 3 }) ∧
     (∀ u, unitOfCode p.unit = some u → isFenced s u = false → isGated s u = true → ∀ flagged,
       ∃ t, exec (.diagnosticSweepTick flagged) s = .next t ∧ t = { s with safety := t.safety } ∧ moved t ∧
         t.safety.points = s.safety.points) ∧
     (∀ u, unitOfCode p.unit = some u → pointLive s p = true →
       ∃ t, exec (.diagnosticSweepTick false) s = .next t ∧ u ∈ t.safety.fences ∧ moved t ∧
         t.safety.latent = (s.safety.latent + 1) % 2 ^ 32) ∧
     (unitOfCode p.unit = none →
       ∃ t, exec (.diagnosticSweepTick false) s = .next t ∧ Held s t (0x0100 + p.det) 0 ∧ moved t ∧
         t.safety.latent = (s.safety.latent + 1) % 2 ^ 32)) ∧
  (∀ s, s.boot.state ≠ .off →
     (∀ level, s.safety.haltQual ≠ level → (level = true ∨ s.safety.rearm = true) →
       ∃ t, exec (.haltReqNChange level) s = .next t ∧ t.safety.haltQual = level ∧ t.boot = s.boot ∧ t.cases = s.cases ∧
         t.safety.causes = s.safety.causes) ∧
     (s.safety.rearm = true → s.safety.haltQual = s.safety.haltActed →
       exec .haltReqNRearmExpiry s = .next { s with safety := { s.safety with rearm := false } }) ∧
     (∀ level, s.power.throtLevel ≠ level →
       ∃ t, exec (.throtNChange level) s = .next t ∧ t.power.throtLevel = level ∧
         t.power.throtChanges = (s.power.throtChanges + 1) % 2 ^ 32 ∧ t.boot = s.boot ∧ t.cases = s.cases) ∧
     (∀ ts, ∃ t, exec (.syncInEdge ts) s = .next t ∧ t.pins.lastEdge = ts ∧
       (syncState s.boot.state = true → t.pins.pulse = some ts) ∧
       (syncState s.boot.state = false → t.pins.pulse = s.pins.pulse) ∧ t.pins.syncOut = s.pins.syncOut ∧
       (∀ h k, contractOf s h = some k → isOpen k = true → k.rcd.terms.arrivalKind = 2 →
         contractOf t h = some { k with arrival := { k.arrival with pendingEpoch := some ts } }) ∧
       (∀ h k, contractOf s h = some k → (isOpen k = false ∨ k.rcd.terms.arrivalKind ≠ 2) → contractOf t h = some k)) ∧
     (∀ e, s.pins.pulse = some e →
       exec .syncOutPulseStart s = .next { s with pins := { s.pins with syncOut := true } }) ∧
     (s.pins.syncOut = true →
       exec .syncOutPulseEnd s = .next { s with pins := { s.pins with syncOut := false, pulse := none } }) ∧
     (rootUp s = true → s.boot.locked = false →
       exec (.clockRelockAttempt true) s = .next { s with boot := { s.boot with
         locked := true, backup := false, relockTs := some s.tclk } } ∧
       exec (.clockRelockAttempt false) s = .next s))

/-- What goes wrong on a Garnet: an undervoltage and a stretch budget fault make every command of the die begin again
(R322, R336); an undervoltage that persists, a fault of a VARR rail, an engine that does not come free, a wake that fails and a
header switch that drops fence their unit (R143, R325, R326, R335, R336).
Choices of the model in it: log 105 and 106. -/
def Obligations.DieFaultsRerunOrFence : Prop :=
  ∀ s g, g < 4 → g < s.power.dies.length →
    ((∀ c ∈ cmdsOnDie s g, c.reruns < 3) →
      (∀ mv, ∃ t, exec (.voltMon g mv false) s = .next t ∧ cmdsOnDie t g = [] ∧ (dieOf t g).underv = true) ∧
      (∀ region, region < 16 → ∃ t, exec (.stretchBudgetFault g region) s = .next t ∧ cmdsOnDie t g = [] ∧
        t.power.stretchFaults = (s.power.stretchFaults + 1) % 2 ^ 32)) ∧
    ((dieOf s g).underv = true →
      ∃ t, exec (.undervoltagePersistence g) s = .next t ∧ NowFenced s t { kind := 1, idx := g }) ∧
    ((dieOf s g).underv = false → exec (.undervoltagePersistence g) s = .next s) ∧
    (∀ word, ∃ t, exec (.railMon (7 + g) word) s = .next t ∧ NowFenced s t { kind := 1, idx := g }) ∧
    (∀ u c, isEngine u = true → (holders s [u]).find? (fun x => x.preemptTs.isSome) = some c →
      ∃ t, exec (.preemptWdogTimeout u) s = .next t ∧ NowFenced s t (reportUnit u)) ∧
    (∀ i stage, i < 4 → 1 ≤ stage → stage ≤ 4 →
      let core := 4 * g + i
      (isWaking (coreState s core) = true →
        (∃ t, exec (.coreReady core) s = .next t ∧ coreState t core = .ready) ∧
        (∃ t, exec (.hdrSwitchTimeout core stage) s = .next t ∧
          (s.boot.state ≠ .booting → NowFenced s t { kind := 2, idx := core }) ∧
          (s.boot.state = .booting → { kind := 1, idx := g } ∈ t.safety.fences) ∧
          (∀ o ∈ t.strata.opens, o.waking = false))) ∧
      (coreState s core = .ready →
        ∃ t, exec (.headerSwitchReadyLost core) s = .next t ∧ NowFenced s t { kind := 2, idx := core }))

/-! ## Power (R311 to R332, R381, R382) -/

/-- The end of a dwell and the acknowledgement of a voltage step move a die one divider toward its target: a slower one at once,
a faster one after its setpoint, each when the die's running arrays have come to a tile boundary; a step that is not
acknowledged reverts, and the third in a row is a rail fault (R311 to R314, R316).
Choices of the model in it: log 56. -/
def Obligations.DividersMoveOneStep : Prop :=
  ∀ s g, g < 4 → g < s.power.dies.length →
    (∀ ma, let a := updDie s g fun d => { d with dwell := false, loadMa := ma }
      let d := dieOf a g
      (targetDiv a g = d.div ∨ d.req ≠ none ∨ d.pend ≠ none ∨ d.aclkOn = false →
        exec (.dividerDwellEnd g ma) s = .next a) ∧
      (d.div < targetDiv a g → d.req = none → d.pend = none → d.aclkOn = true → slower d.div ≠ d.div →
        ∃ t, exec (.dividerDwellEnd g ma) s = .next t ∧
          (runningArrays a g = [] → (dieOf t g).div = slower d.div ∧ (dieOf t g).dwell = true ∧ (dieOf t g).req = none) ∧
          (runningArrays a g ≠ [] → (dieOf t g).div = d.div ∧ (dieOf t g).req = some (slower d.div) ∧
            (dieOf t g).adopting = runningArrays a g)) ∧
      (targetDiv a g < d.div → d.req = none → d.pend = none → d.aclkOn = true →
        let need := needMv d (faster d.div)
        ∃ t, exec (.dividerDwellEnd g ma) s = .next t ∧
          (need ≤ d.vset → runningArrays a g = [] → (dieOf t g).div = faster d.div) ∧
          (d.vset < need → (dieOf t g).div = d.div ∧ (dieOf t g).pend =
            some { target := min need (d.vset + 80), prev := d.vset, divider := some (faster d.div) } ∧
            Out.avs (7 + g) (min need (d.vset + 80)) ∈ newOut s t))) ∧
    (∀ p, (dieOf s g).pend = some p →
      (∃ t, exec (.voltageStepAck (7 + g)) s = .next t ∧ (dieOf t g).vset = p.target ∧ (dieOf t g).stepFails = 0 ∧
        (∀ v, p.divider = some v →
          let a := updDie s g fun d => { d with vset := p.target, pend := none, stepFails := 0 }
          (v < targetDiv a g → t = a) ∧
          (targetDiv a g ≤ v → needMv (dieOf a g) v ≤ p.target → runningArrays s g = [] → (dieOf t g).div = v))) ∧
      (∃ t, exec (.voltageStepTimeout (7 + g)) s = .next t ∧ (dieOf t g).vset = p.prev ∧ (dieOf t g).pend = none ∧
        (dieOf t g).stepFails = (dieOf s g).stepFails + 1 ∧ Out.avs (7 + g) p.prev ∈ newOut s t ∧
        (2 ≤ (dieOf s g).stepFails → NowFenced s t { kind := 1, idx := g }))) ∧
    ((dieOf s g).pend = none →
      exec (.voltageStepAck (7 + g)) s = .next s ∧ exec (.voltageStepTimeout (7 + g)) s = .next s) ∧
    (∀ rail, rail < 7 → exec (.voltageStepAck rail) s = .next s ∧ exec (.voltageStepTimeout rail) s = .next s)

/-- The MIN-SENSE loop captures each region's minimum, moves VARR toward its target by at most 10 mV under VCEIL, and reverts to
LOAD-LINE on a loop fault; the third unmatched fall of a region within 1 s derates it; stretching and the raise of a setpoint
begin and end (R318 to R320, R322, R323, R327, R328).
Choices of the model in it: log 102. -/
def Obligations.SensorsDriveTheRail : Prop :=
  ∀ s g, g < 4 → g < s.power.dies.length →
    (∀ ma rd, ∃ t, exec (.minSenseLoopPeriod g ma rd) s = .next t ∧ (dieOf t g).loadMa = ma ∧
      (dieOf t g).vsense = rd.vsense ∧ (dieOf t g).regions.length = (dieOf s g).regions.length ∧
      (∀ (i : Nat) (r : Region) (x : RegionReading), (dieOf s g).regions[i]? = some r → rd.regions[i]? = some x →
        ((dieOf t g).regions[i]?).map Region.minMv = some (min r.minMv x.lo)) ∧
      ((dieOf s g).loadline = false → loopFault rd ≠ none → (dieOf t g).loadline = true ∧ (dieOf t g).reverted = true) ∧
      (let d := dieOf s g
       let cap := vceilOf s g
       let goal := minTargetMv (runDiv d) + d.raisedBy
       let lowest := lowestOf rd
       (∀ r ∈ d.regions, ∀ x, r.overSince = some x → s.tclk < x + 12000000) → d.loadline = false → loopFault rd = none → d.aclkOn = true → d.pend = none → 500 ≤ d.vset →
        d.vset ≤ cap → needMv { d with loadMa := ma } d.div ≤ cap → needMv { d with loadMa := ma } (runDiv d) ≤ cap →
        (lowest < goal → d.vset < cap → (dieOf t g).pend =
          some { target := min cap (d.vset + min 10 (goal - lowest)), prev := d.vset, divider := none }) ∧
        (lowest = goal → (dieOf t g).pend = none) ∧
        (goal < lowest → 500 < d.vset → (dieOf t g).pend =
          some { target := min cap (max 500 (d.vset - min 10 (lowest - goal))), prev := d.vset, divider := none }))) ∧
    (∀ region mv r, region < 16 → (dieOf s g).regions[region]? = some r →
      let falls := (r.falls ++ [s.tclk]).filter fun x => decide (s.tclk < x + 120000000)
      ∃ t q, exec (.unmatchedFall g region mv) s = .next t ∧ (dieOf t g).regions[region]? = some q ∧
        q.unmatched = true ∧ q.falls = falls ∧ q.minMv = r.minMv ∧
        (falls.length < 3 → q.derated = r.derated ∧ (dieOf t g).loadline = (dieOf s g).loadline) ∧
        (3 ≤ falls.length → r.derated = false → q.derated = true ∧ (dieOf t g).loadline = true)) ∧
    (∀ region r, region < 16 → (dieOf s g).regions[region]? = some r → (dieOf s g).stretching = false →
      ∃ t, exec (.clockStretchStart g region) s = .next t ∧ t = updDie s g (fun _ => dieOf t g) ∧
        (dieOf t g).stretching = true ∧
        (dieOf t g).regions[region]? = some { r with stretches := (r.stretches + 1) % 2 ^ 32 }) ∧
    ((dieOf s g).stretching = true → ∀ region, region < 16 → exec (.clockStretchStart g region) s = .next s) ∧
    (∃ t, exec (.clockStretchEnd g) s = .next t ∧ t = updDie s g (fun _ => { dieOf s g with stretching := false })) ∧
    ((dieOf s g).raisedBy ≠ 0 →
      ∃ t, exec (.setpointRaiseExpiry g) s = .next t ∧ (dieOf t g).raisedBy = 0 ∧ (dieOf t g).div = (dieOf s g).div) ∧
    ((dieOf s g).raisedBy = 0 → exec (.setpointRaiseExpiry g) s = .next s)

/-- The power cap moves every die's request one divider slower, or at MIN_DIV withholds BACKGROUND grants, and gives both back
with 5 W of room; its calibration rises to the telemetry; junctions are read, and a hot die's thermal request moves one
divider a step (R324, R329, R330).
Choices of the model in it: log 103 and 104. -/
def Obligations.CapAndThermalRequestsMove : Prop :=
  ∀ s,
    (∀ e avg hi,
      let p := s.power
      let base := standingMw p.policy.vceil + p.calib
      let tooMuch : Prop := p.policy.capW * 1000 < e + base * 6 / 10 + 400 * pMaxW (fastestDiv s)
      let room : Prop := hi + base + 5000 ≤ p.policy.capW * 1000
      ∃ t, exec (.powerCapEvaluation e avg hi) s = .next t ∧ t.power.pwr1ms = avg + base ∧
        t.power.pwrPeak = max p.pwrPeak (avg + base) ∧ t.boot = s.boot ∧ t.cases = s.cases ∧
        (tooMuch → (∀ d ∈ p.dies, p.policy.minDiv ≤ d.capReq) → t.power.withhold = true ∧ t.power.dies = p.dies) ∧
        (tooMuch → (∃ d ∈ p.dies, d.capReq < p.policy.minDiv) →
          ∀ g, g < p.dies.length → (dieOf t g).capReq = min p.policy.minDiv (slower (dieOf s g).capReq)) ∧
        (¬ tooMuch → room → t.power.withhold = false ∧
          ∀ g, g < p.dies.length → (dieOf t g).capReq = faster (dieOf s g).capReq) ∧
        (¬ tooMuch → ¬ room → t.power.withhold = p.withhold ∧ t.power.dies = p.dies)) ∧
    (∀ est tele,
      (tele ≤ est + baseMw s.power → exec (.capCalibration est tele) s = .next s) ∧
      (est + baseMw s.power < tele → ∃ t, exec (.capCalibration est tele) s = .next t ∧ est + baseMw t.power = tele ∧
        t.power.dies = s.power.dies)) ∧
    (∀ temps, tripped temps = none →
      ∃ t, exec (.thermalSensorRead temps) s = .next t ∧ t.boot = s.boot ∧ t.cases = s.cases ∧
        t.power.tj = (List.range 7).map (fun k => hottest (temps.getD k [])) ∧
        ∀ g, g < 4 → (dieOf t g).hot = decide (1520 ≤ hottest (temps.getD g [])) ∧
          (dieOf t g).thermReq = (dieOf s g).thermReq) ∧
    (∀ g, g < 4 → g < s.power.dies.length →
      ∃ t, exec (.thermalThrottleStep g) s = .next t ∧ t.boot = s.boot ∧
        ((dieOf s g).hot = true → (dieOf t g).thermReq =
          max (dieOf s g).thermReq (min s.power.policy.minDiv (slower (dieOf s g).thermReq))) ∧
        (∀ x, (dieOf s g).hot = false → (dieOf s g).coolSince = some x → max x (dieOf s g).thermTs + 1200000 ≤ s.tclk →
          (dieOf t g).thermReq = faster (dieOf s g).thermReq ∧ (dieOf t g).thermTs = s.tclk ∧ (dieOf t g).coolSince = some x)) ∧
    (∃ t, exec (.thermalThrottleStep 4) s = .next t ∧ t.boot = s.boot ∧
      (s.power.sharedHot = true → t.power.sharedReq =
        max s.power.sharedReq (min s.power.policy.minDiv (slower s.power.sharedReq))))

/-- DOZE gates every Garnet of a READY module with nothing to do, and nothing else enters it; a die woken for BACKGROUND work is
gated again when its commands have gone (R381, R382).
Choices of the model in it: log 3. -/
def Obligations.DozeGatesTheGarnets : Prop :=
  ∀ s,
    (s.boot.state = .ready → s.cases = [] → s.bg = [] → s.msgs = [] →
      ∃ t, exec .dozeEntry s = .next t ∧ t.boot.state = .doze ∧ t.models = s.models ∧ t.tables = s.tables ∧
        t.indexes = s.indexes ∧ t.parts = s.parts ∧ t.contracts = s.contracts ∧
        ∀ d ∈ t.power.dies, d.aclkOn = false ∧ ∀ x ∈ d.cores, x = .off) ∧
    ((s.boot.state ≠ .ready ∨ s.cases ≠ [] ∨ s.bg ≠ [] ∨ s.msgs ≠ []) → exec .dozeEntry s = .next s) ∧
    (∀ g, g < 4 → s.boot.state = .doze → (dieOf s g).woken = true → cmdsOnDie s g = [] →
      ∃ t, exec (.dieRegate g) s = .next t ∧ t.boot = s.boot ∧ (dieOf t g).aclkOn = false ∧ (dieOf t g).woken = false ∧
        (∀ x ∈ (dieOf t g).cores, x = .off) ∧ (∀ j, j ≠ g → dieOf t j = dieOf s j))

/-! ## Memory (R271, R272, R275 to R288, R390) -/

/-- A tick of patrol scrub writes back what the correction queue holds, checks what the pass has come to, and moves on; a
corrected read is counted and queued, an uncorrectable one leaves the poison mask; a pass starts, or falls due (R275 to R277,
R282).
A channel whose read times out is retrained; its third retrain within 1 s, or its second failed one in a row, fails it: the
channel is fenced (R286). An ATS invalidation leaves no translation of its range (R272), and a DMA completion that times out ends
its read as UR does, once its time has passed (R390).
Choices of the model in it: log 34, 99, 110, 111 and 173. -/
def Obligations.MemoryIsScrubbedAndFails : Prop :=
  (∀ s t,
     let m := tierOf s t
     (scrubRuns s t = false → ∀ rs, exec (.patrolScrubTick t rs) s = .next s) ∧
     (scrubRuns s t = true → (∀ e ∈ s.mem.armed, e.1 ≠ t) →
       (∃ u, exec (.patrolScrubTick t []) s = .next u ∧ (tierOf u t).queues = [] ∧
         (∀ e ∈ m.queues, ∀ p, eccDecode (granuleSyn s t e.2.1 e.2.2) = .corrected p →
           granuleSyn u t e.2.1 e.2.2 = { s0 := 0, s1 := 0 }) ∧
         (m.scrubbing = true → m.scrubPos + 1 < passLength s t →
           (tierOf u t).scrubPos = m.scrubPos + 1 ∧ (tierOf u t).scrubbing = true ∧
           (tierOf u t).scrubPasses = m.scrubPasses) ∧
         (m.scrubbing = true → passLength s t ≤ m.scrubPos + 1 →
           (tierOf u t).scrubPos = 0 ∧ (tierOf u t).scrubbing = m.scrubDue ∧
           (tierOf u t).scrubPasses = m.scrubPasses + 1 ∧ (tierOf u t).scrubLast = s.tclk)) ∧
       (∀ d : DramRead, d.tier = t → m.scrubbing = true → m.queues = [] →
         let ch := granuleChannel d.frame d.granule
         (∀ p, readResult s d = .corrected p →
           ∃ u, exec (.patrolScrubTick t [d]) s = .next u ∧ (tierOf u t).ce = m.ce + 1 ∧
             (tierOf u t).queues = [(ch, d.frame, d.granule)] ∧
             granuleSyn u t d.frame d.granule = addSyn (granuleSyn s t d.frame d.granule) d.syn) ∧
         (readResult s d = .uncorrectable →
           ∃ u, exec (.patrolScrubTick t [d]) s = .next u ∧ (tierOf u t).ue = m.ue + 1 ∧
             d.frame ∈ (tierOf u t).retired ∧ granuleSyn u t d.frame d.granule = poisonMask) ∧
         (readResult s d = .poisoned →
           ∃ u, exec (.patrolScrubTick t [d]) s = .next u ∧ u.mem.poisonReads = s.mem.poisonReads + 1 ∧
             d.frame ∈ (tierOf u t).retired ∧ (tierOf u t).ue = m.ue))) ∧
     (runState s.boot.state = true → m.scrubbing = false →
       ∃ u, exec (.scrubPassStart t) s = .next u ∧ u = { s with mem := u.mem } ∧ (tierOf u t).scrubbing = true ∧
         (tierOf u t).scrubPos = 0 ∧ (tierOf u t).scrubDue = false) ∧
     ((s.boot.state = .safeHold ∨ (runState s.boot.state = true ∧ m.scrubbing = true)) →
       ∃ u, exec (.scrubPassStart t) s = .next u ∧ u = { s with mem := u.mem } ∧ (tierOf u t).scrubDue = true ∧
         (tierOf u t).scrubbing = m.scrubbing)) ∧
  ((∀ s t ch, ch < 32 →
     let m := tierOf s t
     let recent := m.retrains.filter fun e => e.1 == ch && decide (s.tclk < e.2 + 120000000)
     (runState s.boot.state = true → m.retraining = none → ch ∉ m.chFailed →
       (recent.length < 2 →
         ∃ u, exec (.channelReadTimeout t ch) s = .next u ∧ (tierOf u t).retraining = some ch ∧
           u.mem.retrainCount = s.mem.retrainCount + 1 ∧ u.safety.fences = s.safety.fences ∧ u.contracts = s.contracts) ∧
       (2 ≤ recent.length →
         ∃ u, exec (.channelReadTimeout t ch) s = .next u ∧ channelUnit t ch ∈ u.safety.fences ∧
           u.mem.retrainCount = s.mem.retrainCount + 1)) ∧
     (m.retraining = some ch →
       (∃ u, exec (.retrainEnd t ch true) s = .next u ∧ u = { s with mem := u.mem } ∧ (tierOf u t).retraining = none ∧
         failsInRow (tierOf u t) ch = 0) ∧
       (failsInRow m ch = 0 → ∃ u, exec (.retrainEnd t ch false) s = .next u ∧ u = { s with mem := u.mem } ∧
         (tierOf u t).retraining = none ∧ failsInRow (tierOf u t) ch = 1) ∧
       (1 ≤ failsInRow m ch → ∃ u, exec (.retrainEnd t ch false) s = .next u ∧ channelUnit t ch ∈ u.safety.fences)) ∧
     (m.retraining ≠ some ch → ∀ ok, exec (.retrainEnd t ch ok) s = .next s)) ∧
   (∀ s f lo hi, f < 33 → lo < hi →
     ∃ u, exec (.atsInvalidation f lo hi) s = .next u ∧ u = { s with pcie := { s.pcie with atc := u.pcie.atc } } ∧
       (∀ r, (f, r) ∈ u.pcie.atc → r.hi ≤ lo ∨ hi ≤ r.lo) ∧
       (∀ e, e.1 ≠ f → (e ∈ u.pcie.atc ↔ e ∈ s.pcie.atc)) ∧
       (∀ r, (f, r) ∈ s.pcie.atc → (r.hi ≤ lo ∨ hi ≤ r.lo) → (f, r) ∈ u.pcie.atc)) ∧
   (∀ s key c m k,
     (∀ d, (s.pcie.ctoDisable = true ∨ s.tclk < readIssued s d + completionTimeout s.pcie.ctoValue) → readFits d = true →
       exec (.dmaCompletionTimeout d) s = .next s) ∧
     (s.pcie.ctoDisable = false → m.grantTs + completionTimeout s.pcie.ctoValue ≤ s.tclk → Running s key .intake c m k → c.desc.sg ≠ [] →
       ∃ t x, exec (.dmaCompletionTimeout (.intake key)) s = .next t ∧ caseOf t key = some x ∧ x.stage = .intake ∧
         x.ending = some .faultHostDma ∧ x.failedStage = 1) ∧
     (s.pcie.ctoDisable = false → m.grantTs + completionTimeout s.pcie.ctoValue ≤ s.tclk → Running s key .fetch c m k → ∀ id, id ∈ readsLeft s k.rcd c → id ∉ c.pass.stale →
       ∃ t x, exec (.dmaCompletionTimeout (.store key id)) s = .next t ∧ caseOf t key = some x ∧ x.stage = .fetch ∧
         x.ending = some .faultHostDma ∧ x.failedStage = 6)) ∧
   (∀ s f i e, f < 33 → f < s.mail.length → (mbOf s f).sqFetch.find? (fun x => x.1 == i) = some e →
     mbServes s f = true → canReserve s f = true → s.pcie.ctoDisable = false → e.2 + completionTimeout s.pcie.ctoValue ≤ s.tclk →
     ∃ t, exec (.dmaCompletionTimeout (.ringFetch f i)) s = .next t ∧ (mbOf t f).st.halted = true ∧
       (mbOf t f).st.haltCause = 4 ∧ (mbOf t f).sqQ = (mbOf s f).sqQ))

/-! ## Strata (R290 to R309) -/

/-- A port trains with a valid cable, waits after a failed attempt, and comes up with the LINK flit, when HELLO leaves; a link that
loses its signal, its cable or its peer is down, and the routes move on (R291, R292, R300, R301, R307, R401).
Choices of the model in it: log 113. -/
def Obligations.LinksTrainAndFail : Prop :=
  ∀ s p, p < 4 → p < s.strata.ports.length → basaltRuns s = true →
    let x := portOf s p
    let failed (t : State) (step : Nat) : Prop :=
      t = record { s with strata := { s.strata with ports := t.strata.ports } } 0x1402 (leBytes 1 p ++ leBytes 1 step) ∧
      portOf t p = { x with fails := x.fails + 1, waiting := true, step := 0 }
    let down (t : State) : Prop :=
      (portOf t p).st = 3 ∧
      ((myPos s, p) ∉ s.strata.stack.down → (∀ y, neighbour s (myPos s) p = some y → y ∉ s.strata.stack.down) →
        (myPos s, p) ∈ t.strata.stack.down ∧ t.strata.stack.routeGen = s.strata.stack.routeGen + 1)
    (∀ e, x.present = false →
      ∃ t, exec (.cableInsertion p e) s = .next t ∧ portOf t p =
        (if cableKind e = 0 then { Port.reset with present := true }
         else { Port.reset with present := true, cable := cableKind e, st := 1, step := 1 }) ∧
        t.strata.stack = s.strata.stack) ∧
    (x.present = true → x.cable ≠ 0 → (x.st = 1 ∨ x.st = 3) → x.waiting = false →
      ∃ t, exec (.linkTrainingAttempt p) s = .next t ∧ t = updPort s p (fun _ => { x with st := 1, step := 1, echoes := [] })) ∧
    (x.st = 1 → x.waiting = false → x.step ≠ 0 →
      (∀ step, 1 ≤ step → step ≤ 5 → ∃ t, exec (.trainingStepTimeout p step) s = .next t ∧ failed t step) ∧
      (∀ fl, fl.ftype = 3 →
        (flitOk fl = false → ∃ t, exec (.linkFlit p fl) s = .next t ∧
          t = updPort s p (fun _ => { x with crcErrors := x.crcErrors + 1 })) ∧
        (flitOk fl = true → byteAt fl.payload 0 ≠ 1 → ∃ t, exec (.linkFlit p fl) s = .next t ∧ failed t 4) ∧
        (flitOk fl = true → byteAt fl.payload 0 = 1 → ∃ t m, exec (.linkFlit p fl) s = .next t ∧
          (portOf t p).st = 2 ∧ (portOf t p).fails = 0 ∧ (portOf t p).bulkOnly = stackBusy s ∧
          (portOf t p).latNs = latency ((List.range 16).map fun i => le fl.payload (10 + 2 * i) 2) ∧
          (portOf t p).vcs.map VcState.limit = (List.range 4).map (fun i => le fl.payload (2 + 2 * i) 2) ∧
          Out.strata p m ∈ newOut s t ∧ m.type = 0x01 ∧ m.data = helloData s p)) ∧
      (∃ t, exec (.lossOfSignal p) s = .next t ∧ failed t x.step) ∧
      (∃ t, exec (.cblIntN p) s = .next t ∧ failed t x.step)) ∧
    (x.st = 1 → x.waiting = true → ∃ t, exec (.trainingRetryTimer p) s = .next t ∧
      t = updPort s p (fun _ => { x with waiting := false, step := 1 })) ∧
    ((x.st = 2 ∨ x.st = 4) →
      (∃ t, exec (.lossOfSignal p) s = .next t ∧ down t) ∧ (∃ t, exec (.cblIntN p) s = .next t ∧ down t)) ∧
    (∃ t, exec (.cableRemoval p) s = .next t ∧ (portOf t p).st = 0 ∧ (portOf t p).present = false ∧
      (portOf t p).waiting = false ∧ (portOf t p).step = 0) ∧
    (∀ pos, pos ≠ myPos s → pos < s.strata.stack.members.length → x.st = 2 →
      (neighbour s (myPos s) p).map Prod.fst = some pos →
      ∃ t, exec (.memberSilentTimeout pos) s = .next t ∧ (portOf t p).st = 3)

/-- A DATA flit in order is received and its message completed at EOM; a failed CRC or a gap asks for a resend; a NAK resends
every unacknowledged flit, and the 16th without progress takes the link down; an IDLE flit acknowledges (R293 to R295,
R297).
Choices of the model in it: log 92. -/
def Obligations.FlitsAreRetried : Prop :=
  ∀ s p fl, p < 4 → p < s.strata.ports.length → basaltRuns s = true → (portOf s p).st = 2 ∨ (portOf s p).st = 4 →
    let x := portOf s p
    let ahead := (fl.seq + 65536 - x.retry.rxSeq) % 65536
    (fl.ftype = 1 → flitOk fl = true →
      (fl.seq = (x.retry.rxSeq + 1) % 65536 →
        ∃ t, exec (.dataFlit p fl) s = .next t ∧ (portOf t p).retry.rxSeq = fl.seq ∧ (portOf t p).retry.naking = false ∧
          (portOf t p).flitsRx = x.flitsRx + 1 ∧
          (fl.som = true → fl.eom = true →
            t.strata.ml.inbox = s.strata.ml.inbox ++ [(p, fl.payload.take fl.bytes)])) ∧
      (fl.seq ≠ (x.retry.rxSeq + 1) % 65536 → ahead ≤ 512 →
        ∃ t f, exec (.dataFlit p fl) s = .next t ∧ (portOf t p).retry.rxSeq = x.retry.rxSeq ∧
          (portOf t p).retry.naking = true ∧ Out.flit p f ∈ newOut s t ∧ f.ftype = 2 ∧ f.ackSeq = x.retry.rxSeq ∧
          t.strata.ml = s.strata.ml) ∧
      (512 < ahead → ∃ t, exec (.dataFlit p fl) s = .next t ∧ (portOf t p).retry.rxSeq = x.retry.rxSeq ∧
        t.strata.ml = s.strata.ml ∧ t.out = s.out)) ∧
    (flitOk fl = false → (x.retry.crcTimes.filter fun e => decide (s.tclk < e + 120000)).length < 1023 →
      let resent (t : State) : Prop := (portOf t p).crcErrors = x.crcErrors + 1 ∧ (portOf t p).retry.naking = true ∧
        (portOf t p).retry.rxSeq = x.retry.rxSeq ∧ t.safety.recovered = (s.safety.recovered + 1) % 2 ^ 32 ∧
        t.strata.ml = s.strata.ml
      (fl.ftype = 1 → ∃ t, exec (.dataFlit p fl) s = .next t ∧ resent t) ∧
      (fl.ftype = 0 → ∃ t, exec (.idleFlit p fl) s = .next t ∧ resent t) ∧
      (fl.ftype = 2 → ∃ t, exec (.nakFlit p fl) s = .next t ∧ resent t)) ∧
    (fl.ftype = 0 → flitOk fl = true → ∃ t, exec (.idleFlit p fl) s = .next t ∧
      (portOf t p).retry.rxSeq = x.retry.rxSeq ∧ t.strata.ml = s.strata.ml ∧
      (let gone := (fl.ackSeq + 65536 - x.retry.ackSeq) % 65536
       0 < gone → gone ≤ x.retry.unacked.length →
        (portOf t p).retry.ackSeq = fl.ackSeq ∧ x.retry.unacked.drop gone <+: (portOf t p).retry.unacked)) ∧
    (fl.ftype = 2 → flitOk fl = true → fl.ackSeq = x.retry.ackSeq → fl.ackSeq < 65536 → x.retry.unacked ≠ [] →
      (x.retry.resends < 15 → ∃ t, exec (.nakFlit p fl) s = .next t ∧
        newOut s t = x.retry.unacked.map (Out.flit p) ∧ (portOf t p).retries = x.retries + 1 ∧
        (portOf t p).retry.resends = x.retry.resends + 1) ∧
      (15 ≤ x.retry.resends → ∃ t, exec (.nakFlit p fl) s = .next t ∧ (portOf t p).st = 3))

/-- Modules meet by HELLO, the lowest MODULE_ID forms an epoch, FORM fixes it, LINK_STATE moves the routes, and ACK releases what
it covers; a message of an unknown type is dropped (R299 to R301).
Choices of the model in it: log 112, 114 and 116. -/
def Obligations.StacksForm : Prop :=
  ∀ s p, p < 4 → p < s.strata.ports.length → basaltRuns s = true →
    (∀ m, m.type = 0x01 → portCarries (portOf s p) 0x01 = true →
      let h := helloInfo p m.data
      ∃ t, exec (.hello p m) s = .next t ∧ (portOf t p).peerId = h.id ∧ (portOf t p).peerPort = byteAt m.data 10 ∧
        h ∈ t.strata.stack.hellos ∧
        (s.strata.stack.epoch = 0 → (portOf t p).st = 2 ∧ (portOf t p).peerPos = h.pos) ∧
        (s.strata.stack.epoch ≠ 0 → h.id ∈ s.strata.stack.members →
          (portOf t p).st = 2 ∧ (portOf t p).peerPos = s.strata.stack.members.idxOf h.id) ∧
        (s.strata.stack.epoch ≠ 0 → h.id ∉ s.strata.stack.members → (portOf t p).st = 4)) ∧
    (∀ shape members, stackBusy s = false → shape ≤ 3 → members.head? = some s.ident.moduleId →
      (∀ i ∈ members, s.ident.moduleId ≤ i) → 2 ≤ members.length → members.length ≤ 8 → cablingFits s shape members = true →
      ∃ t, exec (.formationQuietTimeout shape members) s = .next t ∧
        t.strata.stack.epoch = max s.strata.stack.epoch (maxNat (s.strata.stack.hellos.map HelloInfo.epoch)) + 1 ∧
        t.strata.stack.shape = shape ∧ t.strata.stack.members = members ∧ t.strata.stack.pos = 0 ∧
        t.strata.stack.routeGen = s.strata.stack.routeGen + 1 ∧ t.strata.time.locked = true ∧
        (s.cases = [] → t.tclk = max s.tclk (maxNat (s.strata.stack.hellos.map HelloInfo.ts))) ∧
        (s.cases ≠ [] → t.tclk = s.tclk)) ∧
    (∀ shape members, cablingFits s shape members = false → exec (.formationQuietTimeout shape members) s = .next s) ∧
    (∀ m, Arrives s p 0x02 m → stackBusy s = false → s.ident.moduleId ∈ formMembers m.data →
      s.strata.stack.epoch < le m.data 0 8 →
      ∃ t, exec (.form p m) s = .next t ∧ t.strata.stack.epoch = le m.data 0 8 ∧
        t.strata.stack.shape = byteAt m.data 8 ∧ t.strata.stack.members = formMembers m.data ∧
        t.strata.stack.pos = (formMembers m.data).idxOf s.ident.moduleId ∧ t.contracts = s.contracts) ∧
    (∀ m, Arrives s p 0x03 m →
      let e := (byteAt m.data 0, byteAt m.data 1)
      (byteAt m.data 2 = 0 → e ∉ s.strata.stack.down →
        (∀ y, neighbour s e.1 e.2 = some y → y ∉ s.strata.stack.down) →
        ∃ t, exec (.linkState p m) s = .next t ∧ t.strata.stack.down = s.strata.stack.down ++ [e] ∧
          t.strata.stack.routeGen = s.strata.stack.routeGen + 1) ∧
      (byteAt m.data 2 ≠ 0 → stackBusy s = false →
        ∃ t, exec (.linkState p m) s = .next t ∧ t.contracts = s.contracts ∧
          t.strata.stack.down = s.strata.stack.down.filter (fun d => !(d == e || some d == neighbour s e.1 e.2)))) ∧
    (∀ m, Arrives s p 0x04 m → m.dst ≠ 0xFF →
      ∃ t, exec (.ack p m) s = .next t ∧ t.out = s.out ∧
        ∀ x, x ∈ t.strata.ml.unacked ↔ x ∈ s.strata.ml.unacked ∧
          ¬ ∃ e ∈ ackEntries m.data, e.1 = x.src ∧ e.2.1 = x.vc ∧ x.id ≤ e.2.2 ∧ (x.dst = m.src ∨ x.dst = 0xFF)) ∧
    (∀ m, Arrives s p 0x70 m → m.dst ≠ 0xFF → exec (.bulk p m) s = .next (takeInbox s p m)) ∧
    (∀ m, Arrives s p 0x50 m → ∃ t, exec (.throttleAdvise p m) s = .next t ∧ OnWire s t) ∧
    (∀ m, (portOf s p).st = 2 → m.dst = myPos s → m.dst ≠ 0xFF → m.type = 0x7F →
      (m.vc ≠ 1 → exec (.unknownMessageType p m) s = .next (takeInbox s p m)) ∧
      (m.vc = 1 → ∃ t, exec (.unknownMessageType p m) s = .next t ∧ OnWire s t ∧
        Sent s t 0x04 m.src (leBytes 1 m.src ++ leBytes 1 m.vc ++ leBytes 8 m.id)))

/-- Time: a member asks its parent and takes the answer, steering or stepping its counter; it is locked after 16 exchanges within the
bound, and no longer without a path to position 0 (R304, R305).
Choices of the model in it: log 112 and 115. -/
def Obligations.StackTimeIsAligned : Prop :=
  ∀ s, basaltRuns s = true →
    (∀ p, myPos s ≠ 0 → nextHop s 0 = some p →
      ∃ t, exec .syncExchangeTimer s = .next t ∧ t.strata.time =
        { s.strata.time with seq := (s.strata.time.seq + 1) % 2 ^ 32, t1 := some (256 * s.tclk) } ∧ t.tclk = s.tclk) ∧
    (myPos s ≠ 0 → hops s (myPos s) 0 = none → s.strata.time.locked = true →
      ∃ t, exec .syncExchangeTimer s = .next t ∧ t.strata.time = { s.strata.time with locked := false, good := 0 }) ∧
    (∀ p m t2 t3, Arrives s p 0x60 m → m.dst ≠ 0xFF →
      ∃ t, exec (.syncReq p m t2 t3) s = .next t ∧ OnWire s t ∧
        Sent s t 0x61 m.src (leBytes 4 (le m.data 0 4) ++ leBytes 8 (le m.data 4 8) ++ leBytes 8 t2 ++ leBytes 8 t3)) ∧
    (∀ p m t4, Arrives s p 0x61 m → m.dst ≠ 0xFF → s.strata.time.t1 = some (le m.data 4 8) →
      s.strata.time.seq = le m.data 0 4 →
      let off := syncOffset (le m.data 4 8) (le m.data 12 8) (le m.data 20 8) t4
      let good := if withinBound off s.strata.time.bound then min 16 (s.strata.time.good + 1) else 0
      ∃ t, exec (.syncResp p m t4) s = .next t ∧ t.strata.time.t1 = none ∧ t.strata.time.good = good ∧
        -500 ≤ t.strata.time.rate ∧ t.strata.time.rate ≤ 500 ∧
        t.strata.time.locked = (s.strata.time.locked || decide (16 ≤ good)) ∧
        (s.cases = [] → 0 < off → t.tclk = s.tclk + (off / 256).toNat) ∧
        ((s.cases ≠ [] ∨ off ≤ 0) → t.tclk = s.tclk))

/-- Reservations: a shard module holds what a RESERVE asks for when it can, and answers; the home module waits for every answer,
and a missing one refuses the open; RELEASE frees what was held (R302).
Choices of the model in it: log 38 and 118. -/
def Obligations.ShardsReserve : Prop :=
  ∀ s p m, p < s.strata.ports.length →
    (∀ w, Arrives s p 0x10 m → m.dst ≠ 0xFF →
      let st := reserveStatus s w m.src m.data
      let x := reserveIndex s m.data
      ∃ t, exec (.reserve p m w) s = .next t ∧
        Sent s t 0x11 m.src (leBytes 4 (le m.data 0 4) ++ leBytes 1 (byteAt m.data 4) ++
          leBytes 1 ((x.map fun i => i.cfg.shard).getD 0xFF) ++ leBytes 2 (statusCode st) ++
          leBytes 8 ((x.map fun i => shardBound s w i m.src m.data).getD 0) ++ leBytes 4 (shardEnergy s w m.data)) ∧
        (st ≠ .ok → OnWire s t) ∧
        (st = .ok → ∃ r, t.strata.rsvs = s.strata.rsvs ++ [r] ∧ r.home = m.src ∧ r.contract = le m.data 0 4 ∧
          r.owner = byteAt m.data 4 ∧ x.map (fun i => (i.cfg.shard, i.handle)) = some (r.shard, r.index) ∧
          r.t2Slots = le m.data 6 2 ∧ r.t2Pages = le m.data 8 4 ∧
          r.cairns = stageCairnsFor s (byteAt m.data 4) (le m.data 36 4) ∧
          ∃ n, t.cairns = s.cairns ++ r.cairns.map (fun c => { num := c, st := .stage, val := 0, copy := 0, run := n }))) ∧
    (∀ o, Arrives s p 0x11 m → m.dst ≠ 0xFF →
      s.strata.opens.find? (fun o => o.handle == le m.data 0 4 && o.shards.contains m.src) = some o →
      ((∃ q ∈ o.shards, q ≠ m.src) →
        ∃ t, exec (.reserveAck p m) s = .next t ∧ t.contracts = s.contracts ∧ t.msgs = s.msgs ∧
          t.strata.opens = s.strata.opens.map (fun x => if x.msg = o.msg then addReserveAck o m.src m.data else x)) ∧
      ((∀ q ∈ o.shards, q = m.src) →
        ∃ t, exec (.reserveAck p m) s = .next t ∧ ∀ x ∈ t.strata.opens, x.msg = o.msg → x.waking = true)) ∧
    (∀ o, s.strata.opens.find? (fun x => x.handle == o.handle && !x.shards.isEmpty) = some o →
      shardsCover s o.rcd (reserved o.acks) = false →
      ∃ t, exec (.reserveTimeout o.handle) s = .next t ∧ t.contracts = s.contracts ∧
        t.strata.opens = s.strata.opens.filter (fun x => x.msg != o.msg) ∧ (∀ y ∈ t.msgs, y.id ≠ o.msg)) ∧
    (Arrives s p 0x12 m → m.dst ≠ 0xFF →
      let mine (r : ShardRsv) : Bool := r.home == m.src && r.contract == le m.data 0 4
      ∃ t, exec (.release p m) s = .next t ∧ t.strata.rsvs = s.strata.rsvs.filter (fun r => !mine r) ∧
        t.strata.jobs = s.strata.jobs.filter (fun j => !(j.home == m.src && j.contract == le m.data 0 4)) ∧
        t.cairns = s.cairns.filter (fun c => !((s.strata.rsvs.filter mine).flatMap ShardRsv.cairns).contains c.num) ∧
        t.contracts = s.contracts ∧ t.cases = s.cases)

/-- Shard scans: a SIGNAL counts once, DISPATCH starts a scan on a snapshot of its own, a SHARD_RESULT joins the case's candidates,
and KILL ends the scan (R150, R192, R307).
Choices of the model in it: log 60, 112 and 119. -/
def Obligations.ShardsScan : Prop :=
  ∀ s p m, p < s.strata.ports.length → m.dst ≠ 0xFF →
    (Arrives s p 0x20 m →
      let n := le m.data 0 4
      (takesSignal s n = true → ∃ t, exec (.signal p m) s = .next t ∧
        cairnOf t n = (cairnOf s n).map (fun c =>
          { c with val := (c.val + le m.data 4 4) % 2 ^ 32, copy := (c.val + le m.data 4 4) % 2 ^ 32 }) ∧
        ∀ j, j ≠ n → cairnOf t j = cairnOf s j) ∧
      (takesSignal s n = false → ∃ t, exec (.signal p m) s = .next t ∧ OnWire s t)) ∧
    (∀ i, p < 4 → basaltRuns s = true → portCarries (portOf s p) 0x20 = true → m.type = 0x20 → m.dst = myPos s →
      deliveredId s m.src m.vc = some i → m.id ≤ i →
      ∃ t, exec (.signal p m) s = .next t ∧ OnWire s t) ∧
    (Arrives s p 0x40 m →
      (∀ r x, s.strata.rsvs.find? (fun r => r.home == m.src && r.contract == le m.data 0 4) = some r →
        indexOf s r.index = some x →
        ∃ t j, exec (.dispatch p m) s = .next t ∧ t.strata.jobs = s.strata.jobs ++ [j] ∧ j.key = s.nextCase ∧
          j.home = r.home ∧ j.contract = r.contract ∧ j.caseKey = le m.data 8 8 ∧ j.cairn = le m.data 4 4 ∧
          j.index = x.handle ∧ j.gen = x.gen ∧ j.seq = x.nextSeq - 1 ∧ j.recvTs = s.tclk ∧ j.waitScree = true ∧
          j.waitLists = j.visited ∧ j.found = [] ∧ t.cases = s.cases ∧ t.indexes = s.indexes) ∧
      (s.strata.rsvs.find? (fun r => r.home == m.src && r.contract == le m.data 0 4) = none →
        ∃ t, exec (.dispatch p m) s = .next t ∧ OnWire s t)) ∧
    (∀ c q, Arrives s p 0x41 m → s.cases.find? (refNames m.data) = some c → caseOf s c.hd.key = some c →
      caseRuns c = true → byteAt m.data 16 ∈ c.srch.shardsLeft →
      let cands := (List.range (le m.data 17 2)).map fun i => candAt m.data (49 + 32 * i)
      let left := c.srch.shardsLeft.filter fun k => k != byteAt m.data 16
      let out := fpMinOf [c.srch.shardLOut, BitVec.ofNat 32 (le m.data 25 4)]
      ((left ≠ [] ∨ c.srch.waitLists ≠ [] ∨ c.srch.waitScree = true) →
        ∃ t, exec (.shardResult p m q) s = .next t ∧ caseOf t c.hd.key = some { c with srch := { c.srch with
          found := c.srch.found ++ cands, shardLOut := out, shardsLeft := left } }) ∧
      (∀ k, contractOf s c.hd.contract = some k → c.stage = .listScan → left = [] → c.srch.waitLists = [] →
        c.srch.waitScree = false → cmdsOfCase s c.hd.key = [] →
        ∃ t x, exec (.shardResult p m q) s = .next t ∧ Advances s t c x k q ∧
          x.srch.cand = some (certify (c.srch.found ++ cands) k.rcd.lim.candC out c.srch.gen c.srch.seq))) ∧
    (Arrives s p 0x43 m →
      let mine (j : ShardJob) : Bool := j.home == m.src && j.contract == le m.data 0 4 && j.cairn == le m.data 4 4 &&
        j.caseKey == le m.data 8 8
      (∀ j, s.strata.jobs.find? mine = some j →
        ∃ t, exec (.kill p m) s = .next t ∧ t.strata.jobs = s.strata.jobs.filter (fun x => x.key != j.key) ∧
          t.cases = s.cases) ∧
      (∀ c, s.strata.jobs.find? mine = none → s.cases.find? (refNames m.data) = some c → caseOf s c.hd.key = some c →
        caseRuns c = true → c.stage = .listScan →
        ∃ t x, exec (.kill p m) s = .next t ∧ caseOf t c.hd.key = some x ∧
          x.ending = some (killStatus (le m.data 16 2)) ∧ x.failedStage = 5 ∧ x.hd = c.hd))

/-- Collectives: partials add up to one result that every participant votes on; the coordinator commits when every vote is ok
and equal, and aborts on a failed, unequal or missing one; participants follow its decision (R306).
Choices of the model in it: log 112 and 117. -/
def Obligations.CollectivesAreDecidedOnce : Prop :=
  ∀ s c, collOf s c.txn = some c →
    (∀ p m, Arrives s p 0x42 m → m.dst ≠ 0xFF → le m.data 0 8 = c.txn →
      (∀ e ∈ c.partials, ¬ (e.1 = m.src ∧ e.2.1 = le m.data 8 2)) →
      let d := { c with partials := c.partials ++ [(m.src, le m.data 8 2, m.data.drop 10)] }
      ((∃ q ∈ c.parts, q ≠ myPos s ∧ ∀ e ∈ d.partials, e.1 ≠ q) →
        ∃ t, exec (.partialMsg p m) s = .next t ∧ collOf t c.txn = some d) ∧
      ((∀ q ∈ c.parts, q = myPos s ∨ ∃ e ∈ d.partials, e.1 = q) → c.voted = false → c.decision = none →
        c.coord ≠ myPos s →
        ∃ t, exec (.partialMsg p m) s = .next t ∧ collOf t c.txn = some { d with voted := true } ∧
          Sent s t 0x30 c.coord (leBytes 8 c.txn ++ leBytes 1 1 ++ leBytes 4 (crc32c (collResult (myPos s) d)).toNat))) ∧
    (∀ p m, Arrives s p 0x30 m → m.dst ≠ 0xFF → le m.data 0 8 = c.txn → c.decision = none → c.coord = myPos s →
      (∀ w ∈ c.votes, w.1 ≠ m.src) →
      let v : Nat × Bool × Nat := (m.src, byteAt m.data 8 == 1, le m.data 9 4)
      ((∀ w ∈ c.votes ++ [v], w.2.1 = true ∧ w.2.2 = v.2.2) → (∀ q ∈ c.parts, ∃ w ∈ c.votes ++ [v], w.1 = q) →
        ∃ t, exec (.vote p m) s = .next t ∧
          collOf t c.txn = some { c with votes := c.votes ++ [v], decision := some true }) ∧
      ((∃ w ∈ c.votes ++ [v], w.2.1 = false ∨ w.2.2 ≠ v.2.2) →
        ∃ t, exec (.vote p m) s = .next t ∧
          collOf t c.txn = some { c with votes := c.votes ++ [v], decision := some false })) ∧
    (c.decision = none → c.coord = myPos s → c.voted = true →
      ∃ t, exec (.voteTimeout c.txn) s = .next t ∧ collOf t c.txn = some { c with decision := some false }) ∧
    (c.decision.isSome = true → exec (.voteTimeout c.txn) s = .next s) ∧
    (∀ p m, Arrives s p 0x31 m → m.dst ≠ 0xFF → le m.data 0 8 = c.txn → c.decision = none → c.coord ≠ myPos s →
      ∃ t, exec (.decide p m) s = .next t ∧ collOf t c.txn = some { c with decision := some (byteAt m.data 8 == 1) }) ∧
    (c.voted = true → c.decision = none → c.coord ≠ myPos s →
      ((nextHop s c.coord).isSome = true → ∃ t, exec (.decisionWaitTimeout c.txn) s = .next t ∧ OnWire s t ∧
        Sent s t 0x32 c.coord (leBytes 8 c.txn)) ∧
      (nextHop s c.coord = none → ∃ t, exec (.decisionWaitTimeout c.txn) s = .next t ∧
        t = { s with strata := { s.strata with colls := s.strata.colls.filter fun x => x.txn != c.txn } })) ∧
    (∀ p m d, Arrives s p 0x32 m → m.dst ≠ 0xFF → le m.data 0 8 = c.txn → c.decision = some d →
      ∃ t, exec (.decisionQuery p m) s = .next t ∧ OnWire s t ∧
        Sent s t 0x31 m.src (leBytes 8 c.txn ++ leBytes 1 (bit d)))

/-! ## Power-up, boot and resets (R371 to R388) -/

/-- The sequencer: auxiliary power starts an epoch of the recorder, the slot's supplies start an attempt, each rail's power good the
next rail, then the oscillator and the PLL, and Basalt is released with PERST# deasserted; what does not come up in time costs the
attempt, and the fourth failed one leads to LOCKOUT (R361, R371 to R374). Losing power or PERST# resets the module (R384).
Choices of the model in it: log 121, 122 and 123. -/
def Obligations.TheSequencerPowersUp : Prop :=
  ∀ s, s.power.dies.length = 4 →
    let empty (t : State) : Prop := t.cases = [] ∧ t.contracts = [] ∧ t.models = [] ∧ t.indexes = [] ∧ t.parts = [] ∧ t.msgs = [] ∧
      t.bg = [] ∧ t.safety.fences = [] ∧ t.amber.slots = s.amber.slots
    let failed (t : State) (code detail : Nat) : Prop :=
      (s.boot.attempt < 4 → t.boot.phase = .retryWait ∧ t.boot.state = s.boot.state) ∧
      (4 ≤ s.boot.attempt → t.boot.state = .lockout ∧ t.boot.phase = .idle ∧ t.boot.failCode = code ∧ t.boot.failDetail = detail)
    let began (t : State) (n : Nat) : Prop := t.boot.state = .booting ∧ t.boot.phase = .rail 0 ∧ t.boot.attempt = n
    let released (t : State) : Prop := t.boot.phase = .verify ∧ t.boot.releaseTs = s.tclk ∧ t.pcie.linkUp = true
    (s.boot.state = .off → ∀ ok, ∃ t, exec (.auxPowerOn ok) s = .next t ∧ t.boot.aux = true ∧ t.tclk = 0 ∧
      t.amber.epoch = nextEpoch s.amber ok ∧ t.amber.full = s.amber.full ∧ t.boot.floor = s.boot.floor ∧ empty t ∧
      (s.boot.main = true → began t 1) ∧ (s.boot.main = false → t.boot.state = .aoOnly)) ∧
    (s.boot.state ≠ .off → (∀ ok, exec (.auxPowerOn ok) s = .next s) ∧
      ∃ t, exec .auxPowerLost s = .next t ∧ t.boot.state = .off ∧ s.amber.slots <+: t.amber.slots ∧
        (s.amber.queue = [] → empty t ∧ t.amber.full = s.amber.full)) ∧
    (s.boot.main = false →
      (s.boot.state = .aoOnly → ∃ t, exec .mainPowerPresent s = .next t ∧ t.boot.main = true ∧ began t 1) ∧
      (s.boot.state ≠ .aoOnly → exec .mainPowerPresent s = .next { s with boot := { s.boot with main := true } })) ∧
    ((s.boot.state = .off ∨ s.boot.state = .aoOnly) →
      exec .mainPowerLost s = .next { s with boot := { s.boot with main := false } }) ∧
    (s.boot.state ≠ .off → s.boot.state ≠ .aoOnly →
      ∃ t, exec .mainPowerLost s = .next t ∧ t.boot.state = .aoOnly ∧ t.boot.phase = .idle ∧ t.boot.main = false ∧ t.tclk = s.tclk ∧
        empty t) ∧
    (∀ r, r ≤ 10 → s.boot.phase = .rail r →
      (∃ t, exec (.railPowerGood r) s = .next t ∧ t.boot = { s.boot with phase := if r < 10 then .rail (r + 1) else .oscillator } ∧
        (7 ≤ r → (dieOf t (r - 7)).vset = 576)) ∧
      ∃ t, exec (.powerGoodTimeout r) s = .next t ∧ failed t 0x01 r) ∧
    (s.boot.phase = .oscillator →
      exec .oscillatorStable s = .next { s with boot := { s.boot with phase := .pll } } ∧
      ∃ t, exec (.refclkTimeout false) s = .next t ∧ failed t 0x02 0) ∧
    (s.boot.phase = .pll →
      (∃ t, exec .pllLock s = .next t ∧ t.boot.locked = true ∧ t.boot.backup = false ∧
        (s.boot.perst = true → t.boot.phase = .perst) ∧ (s.boot.perst = false → released t)) ∧
      ∃ t, exec (.refclkTimeout true) s = .next t ∧ failed t 0x03 0) ∧
    (s.boot.phase = .retryWait → ∃ t, exec .attemptRetryWaitExpiry s = .next t ∧ began t (s.boot.attempt + 1)) ∧
    (basaltRuns s = true →
      ∃ t, exec .perstAssert s = .next t ∧ t.boot.state = .booting ∧ t.boot.phase = .perst ∧ t.boot.perst = true ∧ empty t) ∧
    (basaltRuns s = false → exec .perstAssert s = .next { s with boot := { s.boot with perst := true } }) ∧
    (s.boot.perst = false → exec .perstDeassert s = .next s) ∧
    (s.boot.perst = true →
      (s.boot.state = .lockout → s.boot.main = true → ∃ t, exec .perstDeassert s = .next t ∧ t.boot.perst = false ∧ began t 1) ∧
      (s.boot.state ≠ .lockout → s.boot.phase = .perst →
        ∃ t, exec .perstDeassert s = .next t ∧ t.boot.perst = false ∧ t.boot.state = s.boot.state ∧ released t))

/-- The boot ROM boots and measures the first slot in its order that verifies, or locks the module out; a memory channel that does not
train is fenced; with memory initialized the mailboxes are served, partition 0 is there, and the state is READY, DEGRADED or, with
HALT_REQ_N low, SAFE_HOLD. A trial image that is not ready in time loses its trial (R375, R376, R378 to R380, R388).
Choices of the model in it: log 98, 102 and 125. -/
def Obligations.TheModuleBoots : Prop :=
  ∀ s,
    let c := bcbInUse s.boot
    (s.boot.phase = .verify →
      (s.boot.norOk = false → ∃ t, exec .bootVerifyComplete s = .next t ∧ t.boot.state = .lockout ∧ t.boot.failCode = 0x05) ∧
      (s.boot.norOk = true →
        (∀ before slot after x i, slotOrder c = before ++ slot :: after → (∀ b ∈ before, slotFails s.boot b ≠ none) →
          slotFails s.boot slot = none → s.boot.slots[slot]? = some x → slotImage x x.imageLen = i →
          ∃ t, exec .bootVerifyComplete s = .next t ∧ t.boot = { s.boot with phase := .training, meas := t.boot.meas } ∧
            t.boot.meas = some { slot := slot, trial := c.trial, image := i, content := x.written, floor := s.boot.floor,
                                 part := s.ident.part, moduleId := s.ident.moduleId } ∧
            t.ident = { s.ident with fwMinor := i.fwMinor, fwBuild := i.fwBuild }) ∧
        ((∀ b ∈ slotOrder c, slotFails s.boot b ≠ none) →
          ∃ t, exec .bootVerifyComplete s = .next t ∧ t.boot.state = .lockout ∧ t.boot.failCode = 0x04))) ∧
    (s.boot.phase = .training → ∀ failed, (∀ e ∈ failed, e.2 < 32) →
      ∃ t, exec (.memoryTrainingComplete failed) s = .next t ∧ t.boot.phase = .memInit ∧ t.power.vlogTrimmed = true ∧
        (∀ i, (Tier.t1, i) ∈ failed → ({ kind := 8, idx := i } : UnitId) ∈ t.safety.fences) ∧
        (∀ i, (Tier.t2, i) ∈ failed → ({ kind := 9, idx := i } : UnitId) ∈ t.safety.fences)) ∧
    (s.boot.phase = .memInit → s.boot.state = .booting → s.safety.causes = [] → s.safety.rearm = false →
      s.mail.length = 33 →
      ∃ t, exec (.memoryInitComplete [] []) s = .next t ∧ t.boot.phase = .done ∧ t.boot.endTs = s.tclk ∧
        (s.safety.haltQual = true → s.safety.haltActed = true → t.pins.faultN = false ∧ t.parts = [partZero s] ∧
          (∀ f, f < 33 → funcExists s f = true → (mbOf t f).st.running = true) ∧
          (s.safety.fences = [] → t.boot.state = .ready) ∧ (s.safety.fences ≠ [] → t.boot.state = .degraded)) ∧
        (s.safety.haltQual = false → t.boot.state = .safeHold ∧ t.pins.faultN = true ∧ t.safety.haltActed = false)) ∧
    (s.boot.state = .booting → basaltRuns s = true → c.trial = true → s.boot.bcb.length = 2 →
      (∀ m, s.boot.meas = some m → m.slot = c.trialSlot) →
      ∃ t, exec .trialBootTimeout s = .next t ∧ t.boot.state = .booting ∧ (bcbInUse t.boot).trial = false ∧
        (bcbInUse t.boot).active = c.active ∧ t.boot.phase = (if s.boot.perst then .perst else .verify)) ∧
    ((s.boot.state ≠ .booting ∨ c.trial = false) → exec .trialBootTimeout s = .next s)

/-- Function-level resets and VF Enable: a function's window returns to reset values, what it had under way is gone without
completions, and clearing VF Enable destroys every partition but 0 (R16, R385, R386); in D3hot the state is kept (R390).
Choices of the model in it: log 128, 129 and 130. -/
def Obligations.FunctionsAreReset : Prop :=
  ∀ s,
    let none' (t : State) (f : Nat) : Prop :=
      (∀ c ∈ t.cases, c.hd.owner ≠ f) ∧ (∀ m ∈ t.msgs, m.f ≠ f) ∧ (∀ w ∈ t.waits, w.owner ≠ f) ∧ (∀ b ∈ t.bg, b.owner ≠ f) ∧
      (∀ k ∈ t.contracts, k.owner ≠ f) ∧ (∀ m ∈ t.models, m.owner ≠ f) ∧ (∀ x ∈ t.tables, x.owner ≠ f) ∧
      (∀ x ∈ t.indexes, x.owner ≠ f) ∧ (∀ p ∈ t.pfxs, p.owner ≠ f)
    (∀ f, 1 ≤ f → f ≤ 32 →
      (s.pcie.linkUp = true → funcExists s f = true → firmwareRuns s = true →
        ∃ t, exec (.flrVf f) s = .next t ∧ none' t f ∧ (∀ p, partOf s f = some p → ∃ q, partOf t f = some q ∧ q.cfg = p.cfg)) ∧
      (s.pcie.linkUp = true → funcExists s f = true → firmwareRuns s = false → exec (.flrVf f) s = .next (resetWindow s f false)) ∧
      ((s.pcie.linkUp = false ∨ funcExists s f = false) → exec (.flrVf f) s = .next s)) ∧
    (s.pcie.linkUp = true → s.pcie.vfEnable = true →
      ∃ t, exec .vfEnableClear s = .next t ∧ t.pcie.vfEnable = false ∧ t.pcie.numVfs = 0 ∧ (∀ m ∈ t.msgs, m.f = 0) ∧
        (firmwareRuns s = true → ∀ p ∈ t.parts, p.id = 0)) ∧
    ((s.pcie.linkUp = false ∨ s.pcie.vfEnable = false) → exec .vfEnableClear s = .next s) ∧
    (s.pcie.linkUp = true →
      ∃ t, exec .flrPf s = .next t ∧ none' t 0 ∧ t.pcie.vfEnable = false ∧ t.pcie.d3hot = false ∧
        (firmwareRuns s = true → ∀ p ∈ t.parts, p.id = 0 ∧ p.suspended = false ∧ p.cfg = partZeroCfg s) ∧
        (0 < s.mail.length → mbOf t 0 =
          { Mailbox.reset with st := { Mailbox.reset.st with running := firmwareRuns s } })) ∧
    (s.pcie.linkUp = false → exec .flrPf s = .next s) ∧
    (∀ n, n ≤ 32 →
      (s.pcie.linkUp = true → s.pcie.vfEnable = false →
        ∃ t, exec (.vfEnableSet n) s = .next t ∧ t = { s with pcie := t.pcie, mail := t.mail } ∧ t.pcie.vfEnable = true ∧
          t.pcie.numVfs = n ∧ mbOf t 0 = mbOf s 0 ∧
          ∀ f, 1 ≤ f → f ≤ 32 → f < s.mail.length → mbOf t f = { Mailbox.reset with
            st := { Mailbox.reset.st with running := decide (f ≤ n) && firmwareRuns s } }) ∧
      ((s.pcie.linkUp = false ∨ s.pcie.vfEnable = true) → exec (.vfEnableSet n) s = .next s)) ∧
    (∀ enter, (s.pcie.linkUp = true →
        exec (.d3hotTransition enter) s = .next { s with pcie := { s.pcie with d3hot := enter } }) ∧
      (s.pcie.linkUp = false → exec (.d3hotTransition enter) s = .next s))

/-! ## Amber and the sideband (R359 to R368, R378, R387, R393, R394) -/

/-- The recorder drains its intake into the ring, each record taking the next SEQ and the oldest giving way in a full ring; a
safety-class record is queued for the flash or counted as dropped. An append takes the next slot, and the last one fills the region
(R361, R363 to R365).
Choices of the model in it: log 124. -/
def Obligations.RecordsAreWritten : Prop :=
  ∀ s r rest,
    (basaltRuns s = true → s.amber.intake = r :: rest → s.amber.lost = 0 →
      let a := s.amber
      let safety := r.rflags % 2 = 1
      let room := a.full = false ∧ a.queue.length < 1024
      let new := { r with seq := nextSeq a }
      ∃ t, exec .amberRingWrite s = .next t ∧ t = { s with amber := t.amber } ∧ t.amber.intake = rest ∧
        t.amber.count = a.count + 1 ∧ t.amber.epoch = a.epoch ∧ t.amber.slots = a.slots ∧ t.amber.full = a.full ∧
        t.amber.ring = (if a.ring.length < 16384 then a.ring else a.ring.drop 1) ++ [new] ∧
        (¬ safety → t.amber.queue = a.queue ∧ t.amber.dropped = a.dropped) ∧
        (safety → room → t.amber.queue = a.queue ++ [new] ∧ t.amber.dropped = a.dropped) ∧
        (safety → ¬ room → t.amber.queue = a.queue ∧ t.amber.dropped = a.dropped + 1)) ∧
    (basaltRuns s = true → s.amber.intake = r :: rest → s.amber.lost ≠ 0 → rest.length < 256 →
      ∃ t x, exec .amberRingWrite s = .next t ∧ t.amber.lost = 0 ∧ t.amber.intake = rest ++ [x] ∧ x.code = 0x1602 ∧
        x.payload.take 4 = leBytes 4 s.amber.lost) ∧
    ((basaltRuns s = false ∨ s.amber.intake = []) → exec .amberRingWrite s = .next s) ∧
    (s.boot.state ≠ .off → s.amber.full = false → s.amber.queue = r :: rest →
      (s.amber.slots.length + 1 < 65536 →
        exec (.amberPersistentAppend true) s =
          .next { s with amber := { s.amber with slots := s.amber.slots ++ [r], queue := rest } } ∧
        ∃ t x, exec (.amberPersistentAppend false) s = .next t ∧ t.amber.slots = s.amber.slots ++ [x] ∧ x.damaged ≠ none ∧
          t.amber.full = false ∧ t.amber.queue.head? = some r) ∧
      (65536 ≤ s.amber.slots.length + 1 →
        ∃ t, exec (.amberPersistentAppend true) s = .next t ∧ t.amber.slots = s.amber.slots ++ [r] ∧ t.amber.full = true ∧
          t.amber.queue = [] ∧ t.amber.dropped = s.amber.dropped + rest.length)) ∧
    ((s.boot.state = .off ∨ s.amber.full = true ∨ s.amber.queue = []) →
      ∀ ok, exec (.amberPersistentAppend ok) s = .next s)

/-- The vendor commands of the sideband answer in every state but OFF: a read sends its bytes, a write is acknowledged or NACKed, and
RETRY starts a fresh attempt in LOCKOUT only (R368, R374, R393, R394).
Choices of the model in it: log 135 and 136. -/
def Obligations.TheSidebandAnswers : Prop :=
  ∀ s b pec, s.boot.state ≠ .off →
    let replies (c : Instr) (a : State) (x : List Byte) : Prop := exec c s = .next (emit a (.sideband x))
    let nack (c : Instr) : Prop := exec c s = .next (emit s .sidebandNack)
    replies .id s (leBytes 8 s.ident.moduleId ++ leBytes 1 (partCode s.ident.part) ++ leBytes 1 0xB0 ++ zeros 2) ∧
    replies .status s (leBytes 1 (stateCode s.boot.state) ++ leBytes 1 s.boot.failCode ++ leBytes 1 s.boot.failDetail ++
      leBytes 1 (bit s.amber.full + 2 * bit s.pins.faultN + 4 * bit s.safety.haltQual + 8 * bit s.power.throtLevel)) ∧
    replies .recorder s ((recorderWords s.amber).flatMap (leBytes 4)) ∧
    (pec = true → b.length = 9 → byteAt b 0 ≤ 1 →
      replies (.amberSelect b pec) { s with sideband := { s.sideband with
        region := byteAt b 0, cursor := some (le b 1 8), skip := 0 } } []) ∧
    ((pec = false ∨ b.length ≠ 9 ∨ 1 < byteAt b 0) → nack (.amberSelect b pec)) ∧
    (nextRecord s = none → replies .amberNext s (leBytes 1 2 ++ zeros 64)) ∧
    (∀ q r, nextRecord s = some (q, r) →
      replies .amberNext { s with sideband := { s.sideband with cursor := some (q + 1), skip := s.sideband.skip + 1 } }
        (leBytes 1 (bit (decide (r.damaged ≠ none))) ++ recordBytes r)) ∧
    (pec = true → b.length = 4 → le b 0 4 = 0xA5C30001 →
      ((s.boot.state ≠ .lockout ∨ s.boot.main = false) → replies (.retry b pec) s []) ∧
      (s.boot.state = .lockout → s.boot.main = true →
        ∃ t, exec (.retry b pec) s = .next t ∧ t.boot.state = .booting ∧ t.boot.phase = .rail 0 ∧ t.boot.attempt = 1 ∧
          Out.sideband [] ∈ newOut s t)) ∧
    ((pec = false ∨ b.length ≠ 4 ∨ le b 0 4 ≠ 0xA5C30001) → nack (.retry b pec)) ∧
    (pec = false → nack (.mctpControl b pec))

/-- The protocols of the sideband: an MCTP control request may assign the endpoint id, a PLDM update owns the inactive slot from its
request to its activation, a sensor answers its reading, and SPDM answers from the end of verification on (R378, R387, R393). Their
codes and layouts beyond the rules are the model's (PRESUMED from DSP0236, DSP0248, DSP0267 and DSP0274).
Choices of the model in it: log 132, 133 and 134. -/
def Obligations.TheProtocolsAnswer : Prop :=
  ∀ s, s.boot.state ≠ .off →
    let pldm (q : PldmReq) (a : State) (code : Nat) : Prop := exec (.pldmFirmwareUpdate q) s = .next (emit a (.pldm code []))
    (∀ b, ∃ t x, exec (.mctpControl b true) s = .next t ∧
      t = { s with sideband := { s.sideband with eid := t.sideband.eid }, free := s.free + 1,
                   out := s.out ++ [.sideband (b.take 2 ++ x)] } ∧
      (byteAt b 1 = 1 → byteAt b 2 ≤ 1 → 8 ≤ byteAt b 3 → byteAt b 3 ≤ 254 → t.sideband.eid = byteAt b 3) ∧
      (byteAt b 1 ≠ 1 → t.sideband.eid = s.sideband.eid)) ∧
    (s.boot.pfUpdate = false → s.boot.sbUpdate = false →
      pldm .requestUpdate { s with boot := { s.boot with sbUpdate := true } } 0) ∧
    ((s.boot.pfUpdate = true ∨ s.boot.sbUpdate = true) → pldm .requestUpdate s 0x81) ∧
    (s.boot.sbUpdate = false → (∀ o d k, pldm (.firmwareData o d k) s 0x80) ∧ (∀ n, pldm (.activate n) s 0x80) ∧
      pldm .cancel s 0x80) ∧
    (s.boot.sbUpdate = true →
      pldm .cancel { s with boot := { s.boot with sbUpdate := false } } 0 ∧
      (∀ o d, o + d.length ≤ 16777216 → d ≠ [] →
        pldm (.firmwareData o d true) (writeSlot s (inactiveSlot s) o d (o == 0) true) 0) ∧
      (∀ n, imageChecks s (inactiveSlot s) (stagedImage s n) = none → s.boot.bcb.length = 2 →
        ∃ t, exec (.pldmFirmwareUpdate (.activate n)) s = .next t ∧ t.boot.sbUpdate = false ∧ (bcbInUse t.boot).trial = true ∧
          (bcbInUse t.boot).trialSlot = inactiveSlot s ∧ (bcbInUse t.boot).active = (bcbInUse s.boot).active ∧
          Out.pldm 0 [] ∈ newOut s t)) ∧
    (∀ n, n < 12 → served s = true →
      exec (.pldmPlatformMonitoring n) s =
        .next (emit s (.pldm 0 (leBytes 1 0 ++ leBytes 4 (unsignedOf 32 (sensorValue s n)))))) ∧
    (∀ q, spdmUp s = true → ∃ code x, exec (.spdmRequest q) s = .next (emit (bumpFree s) (.spdm code x))) ∧
    (∀ q, spdmUp s = false → exec (.spdmRequest q) s = .next s)

/-! ## The queue, reset and every step -/

/-- A step runs the command at the front of the queue on the rest. On an empty queue one TCLK passes in every state but OFF: the cairn
waits that its count resolves complete, and the commands that were asked to yield and have come to their preemption points do. That is
the model's choice of what an idle block does.
Choices of the model in it: log 1. -/
def Obligations.StepRunsTheFrontCommand : Prop :=
  ∀ s,
    (∀ c cs, s.pending = c :: cs → step s = exec c { s with pending := cs }) ∧
    (s.pending = [] → s.boot.state ≠ .off →
      step s = .next { yieldPoints (resolveWaits s) with tclk := s.tclk + 1 } ∧
      (s.waits = [] → (∀ c ∈ s.sched.cmds, c.preemptTs = none) → step s = .next { s with tclk := s.tclk + 1 })) ∧
    (s.pending = [] → s.boot.state = .off → step s = .next s)

/-- The module before auxiliary power first appears: OFF, nothing waiting, nothing known, and the invariants of this file hold.
Choices of the model in it: log 9 and 10. -/
def Obligations.ResetIsOffAndEmpty : Prop :=
  let s := State.reset
  s.pending = [] ∧ s.boot.state = .off ∧ s.out = [] ∧ s.msgs = [] ∧ s.parts = [] ∧ s.models = [] ∧ s.tables = [] ∧
  s.indexes = [] ∧ s.pfxs = [] ∧ s.contracts = [] ∧ s.cases = [] ∧ s.cairns = [] ∧ s.safety.points.length = 476 ∧
  s.amber.slots = [] ∧ s.amber.full = false ∧ s.mail = List.replicate 33 Mailbox.reset ∧
  (∀ d ∈ s.power.dies, d.div = 8) ∧ s.power.policy = { minDiv := 8, regMode := 0, capW := 75, vceil := [780, 780, 780, 780] } ∧
  (∀ p ∈ s.strata.ports, p.st = 0) ∧ Fresh s ∧ PinsOk s ∧ DegOk s

/-- Every well-formed command runs: it answers a next state, and the queue is left as it was. -/
def Obligations.EveryCommandAnswers : Prop :=
  ∀ c s, Instr.wf c = true → ∃ t, exec c s = .next t ∧ t.pending = s.pending

/-- Commands that complete: on the conditions their rules give for normal execution each answers a next state, which holds the command's own
effect. The fetch of a ring entry, a register write and the end of MOD_TIME (R3, R26, R33); the records of an index (R77); coarse search,
the end of a hold and a list pass (R176, R177, R179); a case's result (R233); a token, a window and a fall of the link's rate (R119, R392); the power
policy and a firmware update (R99, R103, R104); a pool switch and a layer (R135, R273); dwells and voltage steps (R312, R314); flits (R293 to
R297); the exchange of time (R304).
Choices of the model in it: log 48, 50, 56, 92 and 115. -/
def Obligations.CommandsComplete : Prop :=
  (∀ s f, f < 33 → f < s.mail.length →
    (∀ i e b, Fresh s → (mbOf s f).sqFetch.find? (fun x => x.1 == i) = some e → mbServes s f = true → canReserve s f = true →
      ∃ t, exec (.sqEntryFetchComplete f i (.data b)) s = .next t ∧
        (mbOf t f).sqFetch = (mbOf s f).sqFetch.filter (fun x => x.1 != i)) ∧
    (∀ v, v < 2 ^ 32 → windowOpen s f = true →
      ∃ t, exec (.registerWrite f .mailbox 0x20 v) s = .next t ∧ (mbOf t f).inl.pi = v % 16) ∧
    ((mbOf s f).ev.unsignalled ≠ 0 → ∃ t, exec (.modTimeExpiry f) s = .next t ∧ (mbOf t f).ev.unsignalled = 0)) ∧
  (∀ s f src m h b i, Fresh s → ownIndex s f (le m.bytes 32 4) = some i → i.state = .live →
    addrCheck s h f false (le m.bytes 40 8) (le m.bytes 48 8) 40 = none → i.scree.length + le m.bytes 36 4 ≤ screeMax →
    let grown (t : State) : Prop := ∃ y, indexOf t i.handle = some y ∧ y.nextSeq = i.nextSeq + le m.bytes 36 4 ∧
      y.scree.length = i.scree.length + le m.bytes 36 4
    (Head s f src 0x0403 m → le m.bytes 36 4 * slotBytes i.cfg.codeBytes ≤ le m.bytes 48 8 →
      mainEntries i.lists + liveInserts i.scree + le m.bytes 36 4 ≤ i.cfg.maxEntries →
      (∀ k < le m.bytes 36 4, insertCheck i.cfg b k = none) →
      ∃ t, exec (.indexInsert f src h (.data b)) s = .next t ∧ grown t) ∧
    (Head s f src 0x0404 m → le m.bytes 36 4 * 8 ≤ le m.bytes 48 8 → (∀ k < le m.bytes 36 4, le b (8 * k) 8 ≠ noId) →
      ∃ t, exec (.indexDelete f src h (.data b)) s = .next t ∧ grown t)) ∧
  (∀ s key c k, caseOf s key = some c → contractOf s c.hd.contract = some k →
    (∀ m x qv, cmdOf s m.id = some m → m.serves = .cases [key] → m.stage = 4 → mayCommit s m = true → OnTime s m → c.stage = .coarse →
      indexOf s k.rcd.refs.index = some x → c.enc.query = some qv →
      ∃ t y, exec (.coarseSearchCommit m.id none) s = .next t ∧ caseOf t key = some y ∧ y.stage = .listScan ∧
        y.srch.visited = visitedLists x qv k.rcd.lim.nprobe) ∧
    (∃ t y, exec (.holdExpiry key) s = .next t ∧ caseOf t key = some y ∧ y.srch.holdExpired = true) ∧
    (∀ m i g l ps qv, cmdOf s m.id = some m → m.serves = .pass i g l [key] → mayCommit s m = true → OnTime s m →
      c.enc.query = some qv → c.srch.shardsLeft ≠ [] →
      ∃ t y, exec (.listPassCommit m.id ps none) s = .next t ∧ caseOf t key = some y ∧
        y.srch.found = c.srch.found ++ passHits s i l qv c.srch.gen c.srch.seq) ∧
    (∀ m, Running s key .result c m k → ∃ t, exec (.resultRecordIssue key) s = .next t ∧ caseOf t key = none)) ∧
  (∀ s k, contractOf s k.handle = some k → isOpen k = true →
    (k.rcd.terms.arrivalKind = 1 → ∃ t x, exec (.arrivalTokenAccrual k.handle) s = .next t ∧ contractOf t k.handle = some x ∧
      x.arrival.tokens = (k.arrival.tokens ++ [s.tclk]).take k.rcd.terms.burst) ∧
    (∀ e, k.rcd.terms.arrivalKind = 2 → k.arrival.pendingEpoch = some e → e < (windowStart k k.arrival.epoch s.tclk).toNat →
      ∃ t x, exec (.periodWindowEnd k.handle) s = .next t ∧ contractOf t k.handle = some x ∧ x.arrival.epoch = e)) ∧
  (∀ s rate width, ∃ t, exec (.linkRateFall rate width) s = .next t ∧ t.pcie.rate = rate ∧ t.pcie.width = width) ∧
  (∀ s f src m, Fresh s →
    (Head s f src 0x0B01 m → (∀ g < 4, loadLineMv (policyOf m.bytes).minDiv ≤ (policyOf m.bytes).vceil.getD g 0) →
      brokenBy (policyOf m.bytes) [] (openContracts s) = none →
      ∃ t, exec (.powerPolicySet f src) s = .next t ∧ t.power.policy = policyOf m.bytes) ∧
    (updateHeld s m.bytes = false → s.boot.sbUpdate = false →
      (∀ h d ok, Head s f src 0x0D01 m → le m.bytes 32 4 + le m.bytes 36 4 ≤ 16777216 →
        addrCheck s h f false (le m.bytes 40 8) (le m.bytes 36 4) 40 = none →
        ∃ t, exec (.fwStage f src h (.data d) ok) s = .next t ∧ StaysOpen s t f src m ∧ t.bg.length = s.bg.length + 1) ∧
      (Head s f src 0x0D02 m → imageChecks s (inactiveSlot s) (stagedImage s (le m.bytes 32 4)) = none →
        ∃ t, exec (.fwActivate f src) s = .next t ∧ StaysOpen s t f src m ∧ t.bg.length = s.bg.length + 1))) ∧
  (∀ s,
    (∀ p, s.sched.poolLoading = some p →
      ∃ t, exec (.modelSwitchLoadDone p.model) s = .next t ∧ t.sched.poolLoading = none ∧ t.sched.poolModel = some p.model) ∧
    (∀ m layer x, modelOf s m = some x → layer < x.img.shape.layers →
      ∃ t, exec (.layerMoveDone m layer 0) s = .next t ∧ t.sched.layers.contains (m, layer) = true)) ∧
  (∀ s g, g < 4 → g < s.power.dies.length →
    (∀ ma, ∃ t, exec (.dividerDwellEnd g ma) s = .next t ∧ (dieOf t g).loadMa = ma) ∧
    (∀ p, (dieOf s g).pend = some p →
      (∃ t, exec (.voltageStepAck (7 + g)) s = .next t ∧ (dieOf t g).vset = p.target) ∧
      ∃ t, exec (.voltageStepTimeout (7 + g)) s = .next t ∧ (dieOf t g).vset = p.prev)) ∧
  (∀ s p fl, p < 4 → p < s.strata.ports.length → basaltRuns s = true → (portOf s p).st = 2 → flitOk fl = true →
    (fl.ftype = 1 → fl.seq = ((portOf s p).retry.rxSeq + 1) % 65536 →
      ∃ t, exec (.dataFlit p fl) s = .next t ∧ (portOf t p).retry.rxSeq = fl.seq) ∧
    (fl.ftype = 0 → ∃ t, exec (.idleFlit p fl) s = .next t ∧ (portOf t p).retry.rxSeq = (portOf s p).retry.rxSeq) ∧
    (fl.ftype = 2 → fl.ackSeq = (portOf s p).retry.ackSeq → fl.ackSeq < 65536 → (portOf s p).retry.unacked ≠ [] →
      (portOf s p).retry.resends < 15 → ∃ t, exec (.nakFlit p fl) s = .next t ∧ (portOf t p).retries = (portOf s p).retries + 1)) ∧
  (∀ s p, basaltRuns s = true →
    (myPos s ≠ 0 → nextHop s 0 = some p →
      ∃ t, exec .syncExchangeTimer s = .next t ∧ t.strata.time.seq = (s.strata.time.seq + 1) % 2 ^ 32) ∧
    (∀ m t2 t3, Arrives s p 0x60 m → m.dst ≠ 0xFF →
      ∃ t, exec (.syncReq p m t2 t3) s = .next t ∧
        Sent s t 0x61 m.src (leBytes 4 (le m.data 0 4) ++ leBytes 8 (le m.data 4 8) ++ leBytes 8 t2 ++ leBytes 8 t3)) ∧
    (∀ m t4, Arrives s p 0x61 m → m.dst ≠ 0xFF → s.strata.time.t1 = some (le m.data 4 8) → s.strata.time.seq = le m.data 0 4 →
      ∃ t, exec (.syncResp p m t4) s = .next t ∧ t.strata.time.t1 = none))

/-- A message that fails one of steps 1 to 5 of R35 is answered with that step's status and offset and has no other effect (R35, R48);
CASE_SUBMIT's refusals are counted too (R14). An opcode's command whose channel has no message of that opcode at its head that may
start changes nothing: that is the model's choice, since such a command is none the module carries out.
Choices of the model in it: log 2 and 16. -/
def Obligations.OnlyHeadMessagesStart : Prop :=
  (∀ c f src op s m r, opcodeCommand c = some (f, src, op) → f < 33 → Fresh s → headOf s f src = some m → opcodeOf m = op →
     mayStart s f src m = true → heldBack c s m.bytes = false → commonCheck s f m.bytes = some r →
     ∃ t, exec c s = .next t ∧ Answered s t f src m r.st r.off r.result 0 ∧ (op ≠ 0x0601 → Rest f s t)) ∧
  (∀ c f src op s, opcodeCommand c = some (f, src, op) → f < 33 →
     (∀ m, headOf s f src = some m → opcodeOf m ≠ op ∨ mayStart s f src m = false ∨ heldBack c s m.bytes = true) →
     exec c s = .next s)

/-- The invariant of the machine: no open message has an id still to be given, FAULT_N and SYNC_OUT follow the state (R13, R398,
R399), and while the firmware runs the state is DEGRADED exactly while a unit is fenced (R342). Every step keeps it. -/
def Obligations.EveryStepKeepsTheInvariant : Prop :=
  ∀ s t, Fresh s → PinsOk s → DegOk s → step s = .next t → Fresh t ∧ PinsOk t ∧ DegOk t

/-- No step clears AMBER_FULL, changes a record of the persistent region or takes one from it, and while the module is powered no step
lowers a sequence number, changes the epoch, or takes a record from the volatile ring but the oldest of a full one (R366). The rollback floor never
falls, and the identity of the card does not change. -/
def Obligations.EveryStepKeepsTheRecord : Prop :=
  ∀ s t, step s = .next t → Keeps s t
end

