-- ==== Sys2Proof/Laws/Exec.lean ====
section
/-! SUPPORT. The meaning that each constructor's arm calls. -/

namespace Sys2Proof.Machine

@[simp] theorem exec_inlPiObserved (f : Nat) (s : State) :
    exec (.inlPiObserved f) s = execInlPiObserved f s := rfl

@[simp] theorem exec_sqPiObserved (f : Nat) (s : State) :
    exec (.sqPiObserved f) s = execSqPiObserved f s := rfl

@[simp] theorem exec_cqCiObserved (f : Nat) (s : State) :
    exec (.cqCiObserved f) s = execCqCiObserved f s := rfl

@[simp] theorem exec_sqEntryFetchComplete (f index : Nat) (r : HostRead (List Byte)) (s : State) :
    exec (.sqEntryFetchComplete f index r) s = execSqEntryFetchComplete f index r s := rfl

@[simp] theorem exec_mbReset (f : Nat) (s : State) :
    exec (.mbReset f) s = execMbReset f s := rfl

@[simp] theorem exec_sqEnable (f : Nat) (withCq : Bool) (h : HostView) (s : State) :
    exec (.sqEnable f withCq h) s = execSqEnable f withCq h s := rfl

@[simp] theorem exec_cqEnable (f : Nat) (h : HostView) (s : State) :
    exec (.cqEnable f h) s = execCqEnable f h s := rfl

@[simp] theorem exec_eventPendingClear (f mask same : Nat) (s : State) :
    exec (.eventPendingClear f mask same) s = execEventPendingClear f mask same s := rfl

@[simp] theorem exec_evtLostRead (f same : Nat) (s : State) :
    exec (.evtLostRead f same) s = execEvtLostRead f same s := rfl

@[simp] theorem exec_complDroppedRead (f same : Nat) (s : State) :
    exec (.complDroppedRead f same) s = execComplDroppedRead f same s := rfl

@[simp] theorem exec_conflictsRead (same : Nat) (s : State) :
    exec (.conflictsRead same) s = execConflictsRead same s := rfl

@[simp] theorem exec_throtChangesRead (same : Nat) (s : State) :
    exec (.throtChangesRead same) s = execThrotChangesRead same s := rfl

@[simp] theorem exec_stretchFaultsRead (same : Nat) (s : State) :
    exec (.stretchFaultsRead same) s = execStretchFaultsRead same s := rfl

@[simp] theorem exec_minRearm (s : State) :
    exec .minRearm s = execMinRearm s := rfl

@[simp] theorem exec_registerWrite (f : Nat) (win : Window) (off val : Nat) (s : State) :
    exec (.registerWrite f win off val) s = execRegisterWrite f win off val s := rfl

@[simp] theorem exec_modTimeExpiry (f : Nat) (s : State) :
    exec (.modTimeExpiry f) s = execModTimeExpiry f s := rfl

@[simp] theorem exec_partitionCreate (f : Nat) (src : Src) (s : State) :
    exec (.partitionCreate f src) s = execPartitionCreate f src s := rfl

@[simp] theorem exec_partitionSetQuota (f : Nat) (src : Src) (s : State) :
    exec (.partitionSetQuota f src) s = execPartitionSetQuota f src s := rfl

@[simp] theorem exec_partitionControl (f : Nat) (src : Src) (s : State) :
    exec (.partitionControl f src) s = execPartitionControl f src s := rfl

@[simp] theorem exec_partitionQuery (f : Nat) (src : Src) (h : HostView) (s : State) :
    exec (.partitionQuery f src h) s = execPartitionQuery f src h s := rfl

@[simp] theorem exec_modelLoad (f : Nat) (src : Src) (h : HostView) (r : HostRead ModelImage) (s : State) :
    exec (.modelLoad f src h r) s = execModelLoad f src h r s := rfl

@[simp] theorem exec_modelPin (f : Nat) (src : Src) (s : State) :
    exec (.modelPin f src) s = execModelPin f src s := rfl

@[simp] theorem exec_modelEvict (f : Nat) (src : Src) (s : State) :
    exec (.modelEvict f src) s = execModelEvict f src s := rfl

@[simp] theorem exec_tableCreate (f : Nat) (src : Src) (s : State) :
    exec (.tableCreate f src) s = execTableCreate f src s := rfl

@[simp] theorem exec_tableLoad (f : Nat) (src : Src) (h : HostView) (r : HostRead (List Byte)) (s : State) :
    exec (.tableLoad f src h r) s = execTableLoad f src h r s := rfl

@[simp] theorem exec_tableDestroy (f : Nat) (src : Src) (s : State) :
    exec (.tableDestroy f src) s = execTableDestroy f src s := rfl

@[simp] theorem exec_indexCreate (f : Nat) (src : Src) (s : State) :
    exec (.indexCreate f src) s = execIndexCreate f src s := rfl

@[simp] theorem exec_indexBulkLoad (f : Nat) (src : Src) (h : HostView) (r : HostRead (List Byte)) (s : State) :
    exec (.indexBulkLoad f src h r) s = execIndexBulkLoad f src h r s := rfl

@[simp] theorem exec_indexInsert (f : Nat) (src : Src) (h : HostView) (r : HostRead (List Byte)) (s : State) :
    exec (.indexInsert f src h r) s = execIndexInsert f src h r s := rfl

@[simp] theorem exec_indexDelete (f : Nat) (src : Src) (h : HostView) (r : HostRead (List Byte)) (s : State) :
    exec (.indexDelete f src h r) s = execIndexDelete f src h r s := rfl

@[simp] theorem exec_indexSettle (f : Nat) (src : Src) (s : State) :
    exec (.indexSettle f src) s = execIndexSettle f src s := rfl

@[simp] theorem exec_indexSnapshot (f : Nat) (src : Src) (h : HostView) (s : State) :
    exec (.indexSnapshot f src h) s = execIndexSnapshot f src h s := rfl

@[simp] theorem exec_indexDestroy (f : Nat) (src : Src) (s : State) :
    exec (.indexDestroy f src) s = execIndexDestroy f src s := rfl

@[simp] theorem exec_indexQuery (f : Nat) (src : Src) (s : State) :
    exec (.indexQuery f src) s = execIndexQuery f src s := rfl

@[simp] theorem exec_prefixRegister (f : Nat) (src : Src) (h : HostView) (r : HostRead (List Byte)) (s : State) :
    exec (.prefixRegister f src h r) s = execPrefixRegister f src h r s := rfl

@[simp] theorem exec_prefixRelease (f : Nat) (src : Src) (s : State) :
    exec (.prefixRelease f src) s = execPrefixRelease f src s := rfl

@[simp] theorem exec_contractOpen (f : Nat) (src : Src) (h : HostView) (r : HostRead (List Byte)) (w : Schedules) (s : State) :
    exec (.contractOpen f src h r w) s = execContractOpen f src h r w s := rfl

@[simp] theorem exec_contractQueryProof (f : Nat) (src : Src) (h : HostView) (s : State) :
    exec (.contractQueryProof f src h) s = execContractQueryProof f src h s := rfl

@[simp] theorem exec_contractClose (f : Nat) (src : Src) (s : State) :
    exec (.contractClose f src) s = execContractClose f src s := rfl

@[simp] theorem exec_caseSubmit (f : Nat) (src : Src) (h : HostView) (r : HostRead (List Byte)) (s : State) :
    exec (.caseSubmit f src h r) s = execCaseSubmit f src h r s := rfl

@[simp] theorem exec_caseCancel (f : Nat) (src : Src) (s : State) :
    exec (.caseCancel f src) s = execCaseCancel f src s := rfl

@[simp] theorem exec_caseQuery (f : Nat) (src : Src) (h : HostView) (s : State) :
    exec (.caseQuery f src h) s = execCaseQuery f src h s := rfl

@[simp] theorem exec_cairnAlloc (f : Nat) (src : Src) (s : State) :
    exec (.cairnAlloc f src) s = execCairnAlloc f src s := rfl

@[simp] theorem exec_cairnFree (f : Nat) (src : Src) (s : State) :
    exec (.cairnFree f src) s = execCairnFree f src s := rfl

@[simp] theorem exec_cairnSignal (f : Nat) (src : Src) (s : State) :
    exec (.cairnSignal f src) s = execCairnSignal f src s := rfl

@[simp] theorem exec_cairnWaitArm (f : Nat) (src : Src) (s : State) :
    exec (.cairnWaitArm f src) s = execCairnWaitArm f src s := rfl

@[simp] theorem exec_cairnQuery (f : Nat) (src : Src) (s : State) :
    exec (.cairnQuery f src) s = execCairnQuery f src s := rfl

@[simp] theorem exec_telemetryRead (f : Nat) (src : Src) (h : HostView) (s : State) :
    exec (.telemetryRead f src h) s = execTelemetryRead f src h s := rfl

@[simp] theorem exec_accountRead (f : Nat) (src : Src) (h : HostView) (s : State) :
    exec (.accountRead f src h) s = execAccountRead f src h s := rfl

@[simp] theorem exec_safetySelftestRead (f : Nat) (src : Src) (h : HostView) (s : State) :
    exec (.safetySelftestRead f src h) s = execSafetySelftestRead f src h s := rfl

@[simp] theorem exec_safetyInject (f : Nat) (src : Src) (s : State) :
    exec (.safetyInject f src) s = execSafetyInject f src s := rfl

@[simp] theorem exec_safetyFence (f : Nat) (src : Src) (testOk : Bool) (s : State) :
    exec (.safetyFence f src testOk) s = execSafetyFence f src testOk s := rfl

@[simp] theorem exec_safetyHoldRelease (f : Nat) (src : Src) (failed : List Nat) (s : State) :
    exec (.safetyHoldRelease f src failed) s = execSafetyHoldRelease f src failed s := rfl

@[simp] theorem exec_powerPolicySet (f : Nat) (src : Src) (s : State) :
    exec (.powerPolicySet f src) s = execPowerPolicySet f src s := rfl

@[simp] theorem exec_powerPolicyGet (f : Nat) (src : Src) (s : State) :
    exec (.powerPolicyGet f src) s = execPowerPolicyGet f src s := rfl

@[simp] theorem exec_amberRead (f : Nat) (src : Src) (h : HostView) (s : State) :
    exec (.amberRead f src h) s = execAmberRead f src h s := rfl

@[simp] theorem exec_fwStage (f : Nat) (src : Src) (h : HostView) (r : HostRead (List Byte)) (flashOk : Bool) (s : State) :
    exec (.fwStage f src h r flashOk) s = execFwStage f src h r flashOk s := rfl

@[simp] theorem exec_fwActivate (f : Nat) (src : Src) (s : State) :
    exec (.fwActivate f src) s = execFwActivate f src s := rfl

@[simp] theorem exec_attestMeasurements (f : Nat) (src : Src) (h : HostView) (s : State) :
    exec (.attestMeasurements f src h) s = execAttestMeasurements f src h s := rfl

@[simp] theorem exec_backgroundOpCommit (op : Nat) (wr : List DramWrite) (s : State) :
    exec (.backgroundOpCommit op wr) s = execBackgroundOpCommit op wr s := rfl

@[simp] theorem exec_commandSelection (u : UnitId) (s : State) :
    exec (.commandSelection u) s = execCommandSelection u s := rfl

@[simp] theorem exec_tileEnd (cmd : Nat) (u : UnitId) (t : TileRun) (s : State) :
    exec (.tileEnd cmd u t) s = execTileEnd cmd u t s := rfl

@[simp] theorem exec_commandCommit (cmd : Nat) (p : Prediction) (wr : List DramWrite) (det : Option Detection) (s : State) :
    exec (.commandCommit cmd p wr det) s = execCommandCommit cmd p wr det s := rfl

@[simp] theorem exec_preemptWdogTimeout (u : UnitId) (s : State) :
    exec (.preemptWdogTimeout u) s = execPreemptWdogTimeout u s := rfl

@[simp] theorem exec_modelSwitchLoadDone (m : Nat) (s : State) :
    exec (.modelSwitchLoadDone m) s = execModelSwitchLoadDone m s := rfl

@[simp] theorem exec_layerMoveDone (m layer late : Nat) (s : State) :
    exec (.layerMoveDone m layer late) s = execLayerMoveDone m layer late s := rfl

@[simp] theorem exec_intakeCommit (c : Nat) (rs : List (HostRead (List Byte))) (wr : List DramWrite) (s : State) :
    exec (.intakeCommit c rs wr) s = execIntakeCommit c rs wr s := rfl

@[simp] theorem exec_chunkEncodeCommit (c chunk : Nat) (det : Option Detection) (s : State) :
    exec (.chunkEncodeCommit c chunk det) s = execChunkEncodeCommit c chunk det s := rfl

@[simp] theorem exec_summaryPassCommit (c : Nat) (det : Option Detection) (s : State) :
    exec (.summaryPassCommit c det) s = execSummaryPassCommit c det s := rfl

@[simp] theorem exec_coarseSearchCommit (cmd : Nat) (det : Option Detection) (s : State) :
    exec (.coarseSearchCommit cmd det) s = execCoarseSearchCommit cmd det s := rfl

@[simp] theorem exec_holdExpiry (c : Nat) (s : State) :
    exec (.holdExpiry c) s = execHoldExpiry c s := rfl

@[simp] theorem exec_listPassCommit (cmd : Nat) (ps : List (Nat × Prediction)) (det : Option Detection) (s : State) :
    exec (.listPassCommit cmd ps det) s = execListPassCommit cmd ps det s := rfl

@[simp] theorem exec_passageStoreReadComplete (c id : Nat) (r : HostRead (List Byte)) (s : State) :
    exec (.passageStoreReadComplete c id r) s = execPassageStoreReadComplete c id r s := rfl

@[simp] theorem exec_t3BudgetExpiry (c : Nat) (p : Prediction) (s : State) :
    exec (.t3BudgetExpiry c p) s = execT3BudgetExpiry c p s := rfl

@[simp] theorem exec_t3LatestSwitchPoint (c : Nat) (p : Prediction) (s : State) :
    exec (.t3LatestSwitchPoint c p) s = execT3LatestSwitchPoint c p s := rfl

@[simp] theorem exec_passageFetchCommit (c : Nat) (p : Prediction) (s : State) :
    exec (.passageFetchCommit c p) s = execPassageFetchCommit c p s := rfl

@[simp] theorem exec_cacheFillCommit (op : Nat) (s : State) :
    exec (.cacheFillCommit op) s = execCacheFillCommit op s := rfl

@[simp] theorem exec_rerankBatchCommit (c : Nat) (p : Prediction) (det : Option Detection) (s : State) :
    exec (.rerankBatchCommit c p det) s = execRerankBatchCommit c p det s := rfl

@[simp] theorem exec_packingCommit (c : Nat) (p : Prediction) (s : State) :
    exec (.packingCommit c p) s = execPackingCommit c p s := rfl

@[simp] theorem exec_prefillCommit (c : Nat) (p : Prediction) (det : Option Detection) (s : State) :
    exec (.prefillCommit c p det) s = execPrefillCommit c p det s := rfl

@[simp] theorem exec_fileChunkPrefillCommit (c chunk : Nat) (det : Option Detection) (s : State) :
    exec (.fileChunkPrefillCommit c chunk det) s = execFileChunkPrefillCommit c chunk det s := rfl

@[simp] theorem exec_draftStep (c : Nat) (s : State) :
    exec (.draftStep c) s = execDraftStep c s := rfl

@[simp] theorem exec_verifyPassCommit (cmd : Nat) (ps : List (Nat × Prediction)) (det : Option Detection) (s : State) :
    exec (.verifyPassCommit cmd ps det) s = execVerifyPassCommit cmd ps det s := rfl

@[simp] theorem exec_resultRecordIssue (c : Nat) (s : State) :
    exec (.resultRecordIssue c) s = execResultRecordIssue c s := rfl

@[simp] theorem exec_arrivalTokenAccrual (k : Nat) (s : State) :
    exec (.arrivalTokenAccrual k) s = execArrivalTokenAccrual k s := rfl

@[simp] theorem exec_periodWindowEnd (k : Nat) (s : State) :
    exec (.periodWindowEnd k) s = execPeriodWindowEnd k s := rfl

@[simp] theorem exec_cairnWaitTimeout (w : Nat) (s : State) :
    exec (.cairnWaitTimeout w) s = execCairnWaitTimeout w s := rfl

@[simp] theorem exec_linkRateFall (rate width : Nat) (s : State) :
    exec (.linkRateFall rate width) s = execLinkRateFall rate width s := rfl

@[simp] theorem exec_voltMon (g mv : Nat) (high : Bool) (s : State) :
    exec (.voltMon g mv high) s = execVoltMon g mv high s := rfl

@[simp] theorem exec_stretchBudgetFault (g region : Nat) (s : State) :
    exec (.stretchBudgetFault g region) s = execStretchBudgetFault g region s := rfl

@[simp] theorem exec_railMon (rail word : Nat) (s : State) :
    exec (.railMon rail word) s = execRailMon rail word s := rfl

@[simp] theorem exec_lockstepMismatch (pairB : Bool) (pos pc : Nat) (s : State) :
    exec (.lockstepMismatch pairB pos pc) s = execLockstepMismatch pairB pos pc s := rfl

@[simp] theorem exec_fwWdog (pairB : Bool) (task : Nat) (s : State) :
    exec (.fwWdog pairB task) s = execFwWdog pairB task s := rfl

@[simp] theorem exec_clockMon (domain : Nat) (dev : Int) (s : State) :
    exec (.clockMon domain dev) s = execClockMon domain dev s := rfl

@[simp] theorem exec_clockRelockAttempt (ok : Bool) (s : State) :
    exec (.clockRelockAttempt ok) s = execClockRelockAttempt ok s := rfl

@[simp] theorem exec_diagnosticSweepTick (flagged : Bool) (s : State) :
    exec (.diagnosticSweepTick flagged) s = execDiagnosticSweepTick flagged s := rfl

@[simp] theorem exec_haltReqNChange (level : Bool) (s : State) :
    exec (.haltReqNChange level) s = execHaltReqNChange level s := rfl

@[simp] theorem exec_haltReqNRearmExpiry (s : State) :
    exec .haltReqNRearmExpiry s = execHaltReqNRearmExpiry s := rfl

@[simp] theorem exec_throtNChange (level : Bool) (s : State) :
    exec (.throtNChange level) s = execThrotNChange level s := rfl

@[simp] theorem exec_syncInEdge (ts : Nat) (s : State) :
    exec (.syncInEdge ts) s = execSyncInEdge ts s := rfl

@[simp] theorem exec_syncOutPulseStart (s : State) :
    exec .syncOutPulseStart s = execSyncOutPulseStart s := rfl

@[simp] theorem exec_syncOutPulseEnd (s : State) :
    exec .syncOutPulseEnd s = execSyncOutPulseEnd s := rfl

@[simp] theorem exec_dividerDwellEnd (g ma : Nat) (s : State) :
    exec (.dividerDwellEnd g ma) s = execDividerDwellEnd g ma s := rfl

@[simp] theorem exec_voltageStepAck (rail : Nat) (s : State) :
    exec (.voltageStepAck rail) s = execVoltageStepAck rail s := rfl

@[simp] theorem exec_voltageStepTimeout (rail : Nat) (s : State) :
    exec (.voltageStepTimeout rail) s = execVoltageStepTimeout rail s := rfl

@[simp] theorem exec_minSenseLoopPeriod (g ma : Nat) (rd : LoopReading) (s : State) :
    exec (.minSenseLoopPeriod g ma rd) s = execMinSenseLoopPeriod g ma rd s := rfl

@[simp] theorem exec_unmatchedFall (g region mv : Nat) (s : State) :
    exec (.unmatchedFall g region mv) s = execUnmatchedFall g region mv s := rfl

@[simp] theorem exec_powerCapEvaluation (energyUj avgMw maxMw : Nat) (s : State) :
    exec (.powerCapEvaluation energyUj avgMw maxMw) s = execPowerCapEvaluation energyUj avgMw maxMw s := rfl

@[simp] theorem exec_capCalibration (estMw teleMw : Nat) (s : State) :
    exec (.capCalibration estMw teleMw) s = execCapCalibration estMw teleMw s := rfl

@[simp] theorem exec_thermalSensorRead (temps : List (List Int)) (s : State) :
    exec (.thermalSensorRead temps) s = execThermalSensorRead temps s := rfl

@[simp] theorem exec_thermalThrottleStep (g : Nat) (s : State) :
    exec (.thermalThrottleStep g) s = execThermalThrottleStep g s := rfl

@[simp] theorem exec_coreReady (core : Nat) (s : State) :
    exec (.coreReady core) s = execCoreReady core s := rfl

@[simp] theorem exec_hdrSwitchTimeout (core stage : Nat) (s : State) :
    exec (.hdrSwitchTimeout core stage) s = execHdrSwitchTimeout core stage s := rfl

@[simp] theorem exec_headerSwitchReadyLost (core : Nat) (s : State) :
    exec (.headerSwitchReadyLost core) s = execHeaderSwitchReadyLost core s := rfl

@[simp] theorem exec_dozeEntry (s : State) :
    exec .dozeEntry s = execDozeEntry s := rfl

@[simp] theorem exec_dieRegate (g : Nat) (s : State) :
    exec (.dieRegate g) s = execDieRegate g s := rfl

@[simp] theorem exec_patrolScrubTick (t : Tier) (reads : List DramRead) (s : State) :
    exec (.patrolScrubTick t reads) s = execPatrolScrubTick t reads s := rfl

@[simp] theorem exec_scrubPassStart (t : Tier) (s : State) :
    exec (.scrubPassStart t) s = execScrubPassStart t s := rfl

@[simp] theorem exec_channelReadTimeout (t : Tier) (ch : Nat) (s : State) :
    exec (.channelReadTimeout t ch) s = execChannelReadTimeout t ch s := rfl

@[simp] theorem exec_retrainEnd (t : Tier) (ch : Nat) (ok : Bool) (s : State) :
    exec (.retrainEnd t ch ok) s = execRetrainEnd t ch ok s := rfl

@[simp] theorem exec_atsInvalidation (f lo hi : Nat) (s : State) :
    exec (.atsInvalidation f lo hi) s = execAtsInvalidation f lo hi s := rfl

@[simp] theorem exec_dmaCompletionTimeout (d : DmaRef) (s : State) :
    exec (.dmaCompletionTimeout d) s = execDmaCompletionTimeout d s := rfl

@[simp] theorem exec_cableInsertion (p : Nat) (eeprom : Option (List Byte)) (s : State) :
    exec (.cableInsertion p eeprom) s = execCableInsertion p eeprom s := rfl

@[simp] theorem exec_linkTrainingAttempt (p : Nat) (s : State) :
    exec (.linkTrainingAttempt p) s = execLinkTrainingAttempt p s := rfl

@[simp] theorem exec_trainingStepTimeout (p step : Nat) (s : State) :
    exec (.trainingStepTimeout p step) s = execTrainingStepTimeout p step s := rfl

@[simp] theorem exec_trainingRetryTimer (p : Nat) (s : State) :
    exec (.trainingRetryTimer p) s = execTrainingRetryTimer p s := rfl

@[simp] theorem exec_linkFlit (p : Nat) (fl : Flit) (s : State) :
    exec (.linkFlit p fl) s = execLinkFlit p fl s := rfl

@[simp] theorem exec_dataFlit (p : Nat) (fl : Flit) (s : State) :
    exec (.dataFlit p fl) s = execDataFlit p fl s := rfl

@[simp] theorem exec_idleFlit (p : Nat) (fl : Flit) (s : State) :
    exec (.idleFlit p fl) s = execIdleFlit p fl s := rfl

@[simp] theorem exec_nakFlit (p : Nat) (fl : Flit) (s : State) :
    exec (.nakFlit p fl) s = execNakFlit p fl s := rfl

@[simp] theorem exec_lossOfSignal (p : Nat) (s : State) :
    exec (.lossOfSignal p) s = execLossOfSignal p s := rfl

@[simp] theorem exec_cblIntN (p : Nat) (s : State) :
    exec (.cblIntN p) s = execCblIntN p s := rfl

@[simp] theorem exec_memberSilentTimeout (pos : Nat) (s : State) :
    exec (.memberSilentTimeout pos) s = execMemberSilentTimeout pos s := rfl

@[simp] theorem exec_formationQuietTimeout (shape : Nat) (members : List Nat) (s : State) :
    exec (.formationQuietTimeout shape members) s = execFormationQuietTimeout shape members s := rfl

@[simp] theorem exec_hello (p : Nat) (m : StrataMsg) (s : State) :
    exec (.hello p m) s = execHello p m s := rfl

@[simp] theorem exec_form (p : Nat) (m : StrataMsg) (s : State) :
    exec (.form p m) s = execForm p m s := rfl

@[simp] theorem exec_linkState (p : Nat) (m : StrataMsg) (s : State) :
    exec (.linkState p m) s = execLinkState p m s := rfl

@[simp] theorem exec_ack (p : Nat) (m : StrataMsg) (s : State) :
    exec (.ack p m) s = execAck p m s := rfl

@[simp] theorem exec_reserve (p : Nat) (m : StrataMsg) (w : Schedules) (s : State) :
    exec (.reserve p m w) s = execReserve p m w s := rfl

@[simp] theorem exec_reserveAck (p : Nat) (m : StrataMsg) (s : State) :
    exec (.reserveAck p m) s = execReserveAck p m s := rfl

@[simp] theorem exec_reserveTimeout (k : Nat) (s : State) :
    exec (.reserveTimeout k) s = execReserveTimeout k s := rfl

@[simp] theorem exec_release (p : Nat) (m : StrataMsg) (s : State) :
    exec (.release p m) s = execRelease p m s := rfl

@[simp] theorem exec_signal (p : Nat) (m : StrataMsg) (s : State) :
    exec (.signal p m) s = execSignal p m s := rfl

@[simp] theorem exec_vote (p : Nat) (m : StrataMsg) (s : State) :
    exec (.vote p m) s = execVote p m s := rfl

@[simp] theorem exec_voteTimeout (txn : Nat) (s : State) :
    exec (.voteTimeout txn) s = execVoteTimeout txn s := rfl

@[simp] theorem exec_decide (p : Nat) (m : StrataMsg) (s : State) :
    exec (.decide p m) s = execDecide p m s := rfl

@[simp] theorem exec_decisionWaitTimeout (txn : Nat) (s : State) :
    exec (.decisionWaitTimeout txn) s = execDecisionWaitTimeout txn s := rfl

@[simp] theorem exec_decisionQuery (p : Nat) (m : StrataMsg) (s : State) :
    exec (.decisionQuery p m) s = execDecisionQuery p m s := rfl

@[simp] theorem exec_dispatch (p : Nat) (m : StrataMsg) (s : State) :
    exec (.dispatch p m) s = execDispatch p m s := rfl

@[simp] theorem exec_shardResult (p : Nat) (m : StrataMsg) (q : Prediction) (s : State) :
    exec (.shardResult p m q) s = execShardResult p m q s := rfl

@[simp] theorem exec_partialMsg (p : Nat) (m : StrataMsg) (s : State) :
    exec (.partialMsg p m) s = execPartialMsg p m s := rfl

@[simp] theorem exec_kill (p : Nat) (m : StrataMsg) (s : State) :
    exec (.kill p m) s = execKill p m s := rfl

@[simp] theorem exec_throttleAdvise (p : Nat) (m : StrataMsg) (s : State) :
    exec (.throttleAdvise p m) s = execThrottleAdvise p m s := rfl

@[simp] theorem exec_syncExchangeTimer (s : State) :
    exec .syncExchangeTimer s = execSyncExchangeTimer s := rfl

@[simp] theorem exec_syncReq (p : Nat) (m : StrataMsg) (t2 t3 : Nat) (s : State) :
    exec (.syncReq p m t2 t3) s = execSyncReq p m t2 t3 s := rfl

@[simp] theorem exec_syncResp (p : Nat) (m : StrataMsg) (t4 : Nat) (s : State) :
    exec (.syncResp p m t4) s = execSyncResp p m t4 s := rfl

@[simp] theorem exec_bulk (p : Nat) (m : StrataMsg) (s : State) :
    exec (.bulk p m) s = execBulk p m s := rfl

@[simp] theorem exec_unknownMessageType (p : Nat) (m : StrataMsg) (s : State) :
    exec (.unknownMessageType p m) s = execUnknownMessageType p m s := rfl

@[simp] theorem exec_auxPowerOn (epochOk : Bool) (s : State) :
    exec (.auxPowerOn epochOk) s = execAuxPowerOn epochOk s := rfl

@[simp] theorem exec_auxPowerLost (s : State) :
    exec .auxPowerLost s = execAuxPowerLost s := rfl

@[simp] theorem exec_mainPowerPresent (s : State) :
    exec .mainPowerPresent s = execMainPowerPresent s := rfl

@[simp] theorem exec_mainPowerLost (s : State) :
    exec .mainPowerLost s = execMainPowerLost s := rfl

@[simp] theorem exec_railPowerGood (rail : Nat) (s : State) :
    exec (.railPowerGood rail) s = execRailPowerGood rail s := rfl

@[simp] theorem exec_powerGoodTimeout (rail : Nat) (s : State) :
    exec (.powerGoodTimeout rail) s = execPowerGoodTimeout rail s := rfl

@[simp] theorem exec_oscillatorStable (s : State) :
    exec .oscillatorStable s = execOscillatorStable s := rfl

@[simp] theorem exec_pllLock (s : State) :
    exec .pllLock s = execPllLock s := rfl

@[simp] theorem exec_refclkTimeout (pll : Bool) (s : State) :
    exec (.refclkTimeout pll) s = execRefclkTimeout pll s := rfl

@[simp] theorem exec_attemptRetryWaitExpiry (s : State) :
    exec .attemptRetryWaitExpiry s = execAttemptRetryWaitExpiry s := rfl

@[simp] theorem exec_perstAssert (s : State) :
    exec .perstAssert s = execPerstAssert s := rfl

@[simp] theorem exec_perstDeassert (s : State) :
    exec .perstDeassert s = execPerstDeassert s := rfl

@[simp] theorem exec_bootVerifyComplete (s : State) :
    exec .bootVerifyComplete s = execBootVerifyComplete s := rfl

@[simp] theorem exec_memoryTrainingComplete (failed : List (Tier × Nat)) (s : State) :
    exec (.memoryTrainingComplete failed) s = execMemoryTrainingComplete failed s := rfl

@[simp] theorem exec_memoryInitComplete (bad : List (Tier × Nat)) (failed : List Nat) (s : State) :
    exec (.memoryInitComplete bad failed) s = execMemoryInitComplete bad failed s := rfl

@[simp] theorem exec_trialBootTimeout (s : State) :
    exec .trialBootTimeout s = execTrialBootTimeout s := rfl

@[simp] theorem exec_flrVf (f : Nat) (s : State) :
    exec (.flrVf f) s = execFlrVf f s := rfl

@[simp] theorem exec_flrPf (s : State) :
    exec .flrPf s = execFlrPf s := rfl

@[simp] theorem exec_vfEnableClear (s : State) :
    exec .vfEnableClear s = execVfEnableClear s := rfl

@[simp] theorem exec_vfEnableSet (n : Nat) (s : State) :
    exec (.vfEnableSet n) s = execVfEnableSet n s := rfl

@[simp] theorem exec_d3hotTransition (enter : Bool) (s : State) :
    exec (.d3hotTransition enter) s = execD3hotTransition enter s := rfl

@[simp] theorem exec_amberRingWrite (s : State) :
    exec .amberRingWrite s = execAmberRingWrite s := rfl

@[simp] theorem exec_amberPersistentAppend (ok : Bool) (s : State) :
    exec (.amberPersistentAppend ok) s = execAmberPersistentAppend ok s := rfl

@[simp] theorem exec_id (s : State) :
    exec .id s = execId s := rfl

@[simp] theorem exec_status (s : State) :
    exec .status s = execStatus s := rfl

@[simp] theorem exec_recorder (s : State) :
    exec .recorder s = execRecorder s := rfl

@[simp] theorem exec_amberSelect (b : List Byte) (pec : Bool) (s : State) :
    exec (.amberSelect b pec) s = execAmberSelect b pec s := rfl

@[simp] theorem exec_amberNext (s : State) :
    exec .amberNext s = execAmberNext s := rfl

@[simp] theorem exec_retry (b : List Byte) (pec : Bool) (s : State) :
    exec (.retry b pec) s = execRetry b pec s := rfl

@[simp] theorem exec_mctpControl (b : List Byte) (pec : Bool) (s : State) :
    exec (.mctpControl b pec) s = execMctpControl b pec s := rfl

@[simp] theorem exec_pldmFirmwareUpdate (q : PldmReq) (s : State) :
    exec (.pldmFirmwareUpdate q) s = execPldmFirmwareUpdate q s := rfl

@[simp] theorem exec_pldmPlatformMonitoring (sensor : Nat) (s : State) :
    exec (.pldmPlatformMonitoring sensor) s = execPldmPlatformMonitoring sensor s := rfl

@[simp] theorem exec_spdmRequest (q : SpdmReq) (s : State) :
    exec (.spdmRequest q) s = execSpdmRequest q s := rfl

@[simp] theorem exec_clockStretchStart (g region : Nat) (s : State) :
    exec (.clockStretchStart g region) s = execClockStretchStart g region s := rfl

@[simp] theorem exec_clockStretchEnd (g : Nat) (s : State) :
    exec (.clockStretchEnd g) s = execClockStretchEnd g s := rfl

@[simp] theorem exec_setpointRaiseExpiry (g : Nat) (s : State) :
    exec (.setpointRaiseExpiry g) s = execSetpointRaiseExpiry g s := rfl

@[simp] theorem exec_undervoltagePersistence (g : Nat) (s : State) :
    exec (.undervoltagePersistence g) s = execUndervoltagePersistence g s := rfl

@[simp] theorem exec_cableRemoval (p : Nat) (s : State) :
    exec (.cableRemoval p) s = execCableRemoval p s := rfl

end Sys2Proof.Machine
end

