-- ==== Sys2Proof/Laws/Messages.lean ====
section
/-! SUPPORT. What starting and answering a message can change: `Rest` through every operation of the message path,
and one lemma that answers a message from its effect. -/

namespace Sys2Proof.Machine

theorem modifyAt_getD_same {α : Type} (l : List α) (i : Nat) (g : α → α) (d : α) (h : i < l.length) :
    (modifyAt l i g).getD i d = g (l.getD i d) := by
  induction l generalizing i with
  | nil => simp at h
  | cons x xs ih =>
    cases i with
    | zero => simp [modifyAt]
    | succ i =>
      have := ih i (by simpa using h)
      simpa [modifyAt] using this

theorem modifyAt_getD_ne {α : Type} (l : List α) (i j : Nat) (g : α → α) (d : α) (h : j ≠ i) :
    (modifyAt l i g).getD j d = l.getD j d := by
  induction l generalizing i j with
  | nil => simp [modifyAt]
  | cons x xs ih =>
    cases i with
    | zero => cases j with
      | zero => exact absurd rfl h
      | succ j => simp [modifyAt]
    | succ i => cases j with
      | zero => simp [modifyAt]
      | succ j =>
        have := ih i j (fun e => h (by rw [e]))
        simpa [modifyAt] using this

theorem modifyAt_getD_of_ge {α : Type} (l : List α) (i j : Nat) (g : α → α) (d : α) (h : l.length ≤ i) :
    (modifyAt l i g).getD j d = l.getD j d := by
  induction l generalizing i j with
  | nil => simp [modifyAt]
  | cons x xs ih =>
    cases i with
    | zero => simp at h
    | succ i => cases j with
      | zero => simp [modifyAt]
      | succ j =>
        have := ih i j (by simpa using h)
        simpa [modifyAt] using this

/-! ## The mailbox -/

theorem MbSame.refl (a : Mailbox) : MbSame a a := ⟨rfl, rfl, rfl, rfl, rfl, rfl, rfl, rfl⟩

theorem MbSame.trans {a b c : Mailbox} (h : MbSame a b) (k : MbSame b c) : MbSame a c := by
  obtain ⟨h1, h2, h3, h4, h5, h6, h7, h8⟩ := h
  obtain ⟨k1, k2, k3, k4, k5, k6, k7, k8⟩ := k
  refine ⟨?_, k2.trans h2, k3.trans h3, k4.trans h4, ?_, ?_, ?_, k8.trans h8⟩
  · rw [k1, h1]
  · rw [k5, h5]
  · rw [k6, h6]
  · rw [k7, h7]

/-- Two states have the same mailboxes but for `f`'s, which keeps what `MbSame` says. -/
theorem mbOf_updMb_ne (s : State) (f g : Nat) (u : Mailbox → Mailbox) (h : g ≠ f) : mbOf (updMb s f u) g = mbOf s g :=
  modifyAt_getD_ne _ _ _ _ _ h

theorem mbSame_updMb (s : State) (f : Nat) (u : Mailbox → Mailbox) (hu : ∀ a, MbSame a (u a)) :
    MbSame (mbOf s f) (mbOf (updMb s f u) f) := by
  rcases Nat.lt_or_ge f s.mail.length with h | h
  · have e : mbOf (updMb s f u) f = u (mbOf s f) := modifyAt_getD_same _ _ _ _ h
    rw [e]
    exact hu _
  · have e : mbOf (updMb s f u) f = mbOf s f := modifyAt_getD_of_ge _ _ _ _ _ h
    rw [e]
    exact MbSame.refl _

/-! ## Rest -/

theorem modifyAt_length {α : Type} (l : List α) (i : Nat) (g : α → α) : (modifyAt l i g).length = l.length := by
  induction l generalizing i with
  | nil => simp [modifyAt]
  | cons x xs ih => cases i <;> simp [modifyAt, ih]

theorem Rest.refl (f : Nat) (a : State) : Rest f a a :=
  ⟨rfl, MbSame.refl _, fun _ _ => rfl, rfl, List.prefix_refl _⟩

theorem Rest.trans {f : Nat} {a b c : State} (h : Rest f a b) (k : Rest f b c) : Rest f a c := by
  obtain ⟨h1, h2, h3, h4, h5⟩ := h
  obtain ⟨k1, k2, k3, k4, k5⟩ := k
  exact ⟨by rw [k1, h1], h2.trans k2, fun g hg => (k3 g hg).trans (h3 g hg), k4.trans h4, h5.trans k5⟩

theorem rest_updMb (s : State) (f : Nat) (u : Mailbox → Mailbox) (hu : ∀ a, MbSame a (u a)) : Rest f s (updMb s f u) :=
  ⟨rfl, mbSame_updMb s f u hu, fun _ hg => mbOf_updMb_ne s f _ u hg, modifyAt_length _ _ _, List.prefix_refl _⟩

theorem rest_emit (s : State) (f : Nat) (o : Out) : Rest f s (emit s o) :=
  ⟨rfl, MbSame.refl _, fun _ _ => rfl, rfl, List.prefix_append _ _⟩

theorem rest_recordAs (s : State) (f : Nat) (cls inj : Bool) (code source func : Nat) (p : List Byte) :
    Rest f s (recordAs s cls inj code source func p) :=
  ⟨rfl, MbSame.refl _, fun _ _ => rfl, rfl, List.prefix_refl _⟩

theorem rest_msgs (s : State) (f n : Nat) (l : List OpenMsg) : Rest f s { s with msgs := l, nextMsg := n } :=
  ⟨rfl, MbSame.refl _, fun _ _ => rfl, rfl, List.prefix_refl _⟩

theorem rest_fireVector (s : State) (f v : Nat) : Rest f s (fireVector s f v) := by
  unfold fireVector
  split
  · exact Rest.refl f s
  · split
    · exact rest_updMb s f _ fun _ => ⟨rfl, rfl, rfl, rfl, rfl, rfl, rfl, rfl⟩
    · exact rest_emit s f _

theorem rest_signalCompletion (s : State) (f : Nat) : Rest f s (signalCompletion s f) := by
  unfold signalCompletion
  dsimp only
  split
  · refine Rest.trans ?_ (rest_fireVector _ f 0)
    exact rest_updMb s f _ fun _ => ⟨rfl, rfl, rfl, rfl, rfl, rfl, rfl, rfl⟩
  · exact rest_updMb s f _ fun _ => ⟨rfl, rfl, rfl, rfl, rfl, rfl, rfl, rfl⟩

theorem rest_haltMailbox (s : State) (f cause index : Nat) : Rest f s (haltMailbox s f cause index) := by
  unfold haltMailbox
  dsimp only
  split
  · exact rest_recordAs s f _ _ _ _ _ _
  · refine Rest.trans ?_ (rest_recordAs _ f _ _ _ _ _ _)
    refine Rest.trans ?_ (rest_fireVector _ f 3)
    exact rest_updMb s f _ fun _ => ⟨rfl, rfl, rfl, rfl, rfl, rfl, rfl, rfl⟩

theorem rest_advanceCq (s : State) (f : Nat) : Rest f s (advanceCq s f) :=
  rest_updMb s f _ fun _ => ⟨rfl, rfl, rfl, rfl, rfl, rfl, rfl, rfl⟩

theorem rest_writeCompletion (s : State) (m : OpenMsg) (st : Status) (o b : Nat) (r : List Byte) :
    Rest m.f s (writeCompletion s m st o b r) := by
  unfold writeCompletion
  dsimp only
  split
  · refine Rest.trans ?_ (rest_signalCompletion _ m.f)
    refine Rest.trans ?_ (rest_emit _ m.f _)
    exact rest_updMb s m.f _ fun _ => ⟨rfl, rfl, rfl, rfl, rfl, rfl, rfl, rfl⟩
  · split
    · exact Rest.refl _ _
    · split
      · refine Rest.trans ?_ (rest_signalCompletion _ m.f)
        refine Rest.trans ?_ (rest_advanceCq _ m.f)
        exact rest_emit s m.f _
      · exact rest_haltMailbox s m.f 5 0

/-! ## Starting a message -/

/-- The message that starts next, once it is open. -/
def openOf (x : MsgCtx) : OpenMsg :=
  { id := x.id, f := x.f, src := x.src, origin := x.origin, opcode := le x.bytes 0 2, tag := le x.bytes 2 2,
    cookie := le x.bytes 24 8, respAddr := le x.bytes 8 8 }

theorem startMsg_msgs (s : State) (x : MsgCtx) : (startMsg s x).msgs = s.msgs ++ [openOf x] := rfl

theorem startMsg_nextMsg (s : State) (x : MsgCtx) : (startMsg s x).nextMsg = s.nextMsg + 1 := rfl

theorem rest_startMsg (s : State) (x : MsgCtx) : Rest x.f s (startMsg s x) := by
  refine Rest.trans ?_ (rest_msgs _ x.f _ _)
  refine rest_updMb s x.f _ fun _ => ?_
  cases x.src <;> exact ⟨rfl, rfl, rfl, rfl, rfl, rfl, rfl, rfl⟩

theorem commonCheck_startMsg (s : State) (x : MsgCtx) (f : Nat) (b : List Byte) :
    commonCheck (startMsg s x) f b = commonCheck s f b := rfl

/-! ## Answering a message -/

theorem find_last {l : List OpenMsg} {o : OpenMsg} (h : ∀ a ∈ l, a.id < o.id) :
    (l ++ [o]).find? (fun m => m.id == o.id) = some o := by
  induction l with
  | nil => simp
  | cons a l ih =>
    have ha := h a (by simp)
    have : (a.id == o.id) = false := by simp; omega
    simp only [List.cons_append, List.find?_cons, this]
    exact ih fun b hb => h b (by simp [hb])

theorem filter_last {l : List OpenMsg} {o : OpenMsg} (h : ∀ a ∈ l, a.id < o.id) :
    (l ++ [o]).filter (fun m => m.id != o.id) = l := by
  have h1 : l.filter (fun m => m.id != o.id) = l := by
    rw [List.filter_eq_self]
    intro a ha
    have := h a ha
    simp; omega
  simp [List.filter_append, h1]

/-- Completing the last message opened writes its completion over the messages that were open before it. -/
theorem complete_last (s : State) (o : OpenMsg) (l : List OpenMsg) (hs : s.msgs = l ++ [o])
    (h : ∀ a ∈ l, a.id < o.id) (st : Status) (e : Nat) (r : List Byte) (b : Nat) :
    complete s o.id st e r b = writeCompletion { s with msgs := l } o st e b r := by
  unfold complete
  rw [hs, find_last h, filter_last h]

/-! ## What a completion leaves of the open messages -/

theorem fireVector_msgs (s : State) (f v : Nat) :
    (fireVector s f v).msgs = s.msgs ∧ (fireVector s f v).nextMsg = s.nextMsg := by
  unfold fireVector
  split
  · exact ⟨rfl, rfl⟩
  · split <;> exact ⟨rfl, rfl⟩

theorem signalCompletion_msgs (s : State) (f : Nat) :
    (signalCompletion s f).msgs = s.msgs ∧ (signalCompletion s f).nextMsg = s.nextMsg := by
  unfold signalCompletion
  dsimp only
  split
  · exact fireVector_msgs _ f 0
  · exact ⟨rfl, rfl⟩

theorem haltMailbox_msgs (s : State) (f c i : Nat) :
    (haltMailbox s f c i).msgs = s.msgs ∧ (haltMailbox s f c i).nextMsg = s.nextMsg := by
  unfold haltMailbox
  dsimp only
  split
  · exact ⟨rfl, rfl⟩
  · exact fireVector_msgs _ f 3

theorem writeCompletion_msgs (s : State) (m : OpenMsg) (st : Status) (o b : Nat) (r : List Byte) :
    (writeCompletion s m st o b r).msgs = s.msgs ∧ (writeCompletion s m st o b r).nextMsg = s.nextMsg := by
  unfold writeCompletion
  dsimp only
  split
  · exact signalCompletion_msgs _ m.f
  · split
    · exact ⟨rfl, rfl⟩
    · split
      · exact signalCompletion_msgs _ m.f
      · exact haltMailbox_msgs s m.f 5 0

theorem complete_msgs (s : State) (o : OpenMsg) (l : List OpenMsg) (hs : s.msgs = l ++ [o])
    (h : ∀ a ∈ l, a.id < o.id) (st : Status) (e : Nat) (r : List Byte) (b : Nat) :
    (complete s o.id st e r b).msgs = l ∧ (complete s o.id st e r b).nextMsg = s.nextMsg := by
  rw [complete_last s o l hs h]
  exact writeCompletion_msgs _ o st e b r

theorem rest_complete_last (s : State) (o : OpenMsg) (l : List OpenMsg) (hs : s.msgs = l ++ [o])
    (h : ∀ a ∈ l, a.id < o.id) (st : Status) (e : Nat) (r : List Byte) (b : Nat) :
    Rest o.f s (complete s o.id st e r b) := by
  rw [complete_last s o l hs h]
  exact (rest_msgs s o.f _ _).trans (rest_writeCompletion _ o st e b r)

/-! ## Halted mailboxes start nothing -/

theorem recordFunc_mail (s : State) (f c : Nat) (p : List Byte) : (recordFunc s f c p).mail = s.mail := rfl

theorem mbOf_updMb (s : State) (f : Nat) (u : Mailbox → Mailbox) (h : f < s.mail.length) :
    mbOf (updMb s f u) f = u (mbOf s f) := modifyAt_getD_same _ _ _ _ h

theorem mbOf_updMb_st (s : State) (f g : Nat) (u : Mailbox → Mailbox) (hu : ∀ a, (u a).st = a.st) :
    (mbOf (updMb s f u) g).st = (mbOf s g).st := by
  rcases eq_or_ne g f with rfl | h
  · rcases Nat.lt_or_ge g s.mail.length with hl | hl
    · rw [mbOf_updMb _ _ _ hl, hu]
    · exact congrArg Mailbox.st (modifyAt_getD_of_ge _ _ _ _ _ hl)
  · rw [mbOf_updMb_ne _ _ _ _ h]

theorem fireVector_halted (s : State) (f v g : Nat) : (mbOf (fireVector s f v) g).st = (mbOf s g).st := by
  unfold fireVector
  split
  · rfl
  · split
    · exact mbOf_updMb_st s f g _ fun _ => rfl
    · rfl

theorem haltMailbox_halted (s : State) (f c i : Nat) (hf : f < s.mail.length) :
    (mbOf (haltMailbox s f c i) f).st.halted = true := by
  unfold haltMailbox
  dsimp only
  split
  · rename_i h
    exact h
  · show (mbOf (fireVector _ f 3) f).st.halted = true
    rw [fireVector_halted, mbOf_updMb _ _ _ hf]

theorem mayStart_of_halted {s : State} {f : Nat} (h : (mbOf s f).st.halted = true) (src : Src) (m : MsgIn) :
    mayStart s f src m = false := by
  simp [mayStart, mbServes, h]

theorem serveStrays_of_halted {s : State} {f : Nat} (h : (mbOf s f).st.halted = true) (src : Src) (n : Nat) :
    serveStrays f src n s = s := by
  cases n with
  | zero => rfl
  | succ n =>
    unfold serveStrays
    split
    · rfl
    · simp [mayStart_of_halted h]

/-! ## Strays -/

theorem opcodeCheck_of_none {b : List Byte} (h : opInfo (le b 0 2) = none) : (opcodeCheck b).isSome = true := by
  simp [opcodeCheck, h, failIf]

theorem firstSome_isSome {α : Type} {l : List (Option α)} {a : Option α} (ha : a ∈ l) (h : a.isSome = true) :
    (firstSome l).isSome = true := by
  induction l with
  | nil => simp at ha
  | cons x xs ih =>
    cases x with
    | some y => rfl
    | none =>
      refine ih ?_
      rcases List.mem_cons.1 ha with rfl | ha
      · simp at h
      · exact ha

theorem commonCheck_of_none {s : State} {f : Nat} {b : List Byte} (h : opInfo (le b 0 2) = none) :
    (commonCheck s f b).isSome = true :=
  firstSome_isSome (a := opcodeCheck b) (by simp) (opcodeCheck_of_none h)

theorem countRefused_of_ne {s : State} {x : MsgCtx} {st : Status} (h : le x.bytes 0 2 ≠ 0x0601) :
    countRefused s x st = s := by
  simp [countRefused, h]

/-- A refused message that is no CASE_SUBMIT: only the message path is touched. -/
theorem reject_last (s : State) (x : MsgCtx) (l : List OpenMsg) (hs : s.msgs = l ++ [openOf x])
    (h : ∀ a ∈ l, a.id < x.id) (hop : le x.bytes 0 2 ≠ 0x0601) (r : Refuse) :
    Rest x.f s (reject s x r) ∧ (reject s x r).msgs = l ∧ (reject s x r).nextMsg = s.nextMsg := by
  unfold reject
  dsimp only
  rw [countRefused_of_ne hop]
  split
  · refine ⟨?_, complete_msgs (recordFunc s x.f 0x0103 _) (openOf x) l hs h _ _ _ _⟩
    refine Rest.trans ?_ (rest_complete_last (recordFunc s x.f 0x0103 _) (openOf x) l hs h _ _ _ _)
    exact rest_recordAs s x.f _ _ _ _ _ _
  · exact ⟨rest_complete_last _ (openOf x) l hs h _ _ _ _, complete_msgs _ (openOf x) l hs h _ _ _ _⟩

theorem serveStrays_rest (f : Nat) (src : Src) (n : Nat) (s : State) (fr : Fresh s) :
    Rest f s (serveStrays f src n s) ∧ (serveStrays f src n s).msgs = s.msgs ∧
      s.nextMsg ≤ (serveStrays f src n s).nextMsg := by
  induction n generalizing s with
  | zero => exact ⟨Rest.refl _ _, rfl, Nat.le_refl _⟩
  | succ n ih =>
    unfold serveStrays
    split
    · exact ⟨Rest.refl _ _, rfl, Nat.le_refl _⟩
    · rename_i m hm
      split
      · rename_i hc
        have hnone : opInfo (opcodeOf m) = none := by
          simp only [Bool.and_eq_true, Option.isNone_iff_eq_none] at hc
          exact hc.1
        have hop : opcodeOf m ≠ 0x0601 := by
          intro e
          rw [e] at hnone
          simp [opInfo] at hnone
        obtain ⟨r, hr⟩ := Option.isSome_iff_exists.1
          (commonCheck_of_none (s := startMsg s (ctxOf s f src m)) (f := f) (b := m.bytes) hnone)
        simp only [hr, settle]
        obtain ⟨h1, h2, h3⟩ := reject_last (startMsg s (ctxOf s f src m)) (ctxOf s f src m) s.msgs rfl fr hop r
        have fr' : Fresh (reject (startMsg s (ctxOf s f src m)) (ctxOf s f src m) r) := by
          intro o ho
          rw [h2] at ho
          rw [h3, startMsg_nextMsg]
          exact Nat.lt_succ_of_lt (fr o ho)
        obtain ⟨k1, k2, k3⟩ := ih _ fr'
        refine ⟨Rest.trans (Rest.trans (rest_startMsg s (ctxOf s f src m)) h1) k1, k2.trans h2, ?_⟩
        rw [h3, startMsg_nextMsg] at k3
        omega
      · exact ⟨Rest.refl _ _, rfl, Nat.le_refl _⟩

theorem sweepStrays_rest (s : State) (f : Nat) (src : Src) (fr : Fresh s) :
    Rest f s (sweepStrays s f src) ∧ (sweepStrays s f src).msgs = s.msgs ∧ s.nextMsg ≤ (sweepStrays s f src).nextMsg :=
  serveStrays_rest f src _ s fr

/-! ## The whole path of a message -/

theorem mem_newOut {s u t : State} {o : Out} (h1 : s.out <+: u.out) (h2 : u.out ++ [o] <+: t.out) : o ∈ newOut s t := by
  obtain ⟨a, ha⟩ := h1
  obtain ⟨b, hb⟩ := h2
  rw [newOut, ← hb, ← ha]
  simp

theorem mail_of_running {s : State} {f : Nat} (h : (mbOf s f).st.running = true) : f < s.mail.length := by
  by_contra hf
  have e : mbOf s f = Mailbox.reset := List.getD_eq_default _ _ (Nat.le_of_not_lt hf)
  rw [e] at h
  simp [Mailbox.reset] at h

theorem mayStart_serves {s : State} {f : Nat} {src : Src} {m : MsgIn} (h : mayStart s f src m = true) :
    mbServes s f = true ∧ (src = .ring → canReserve s f = true) := by
  simp only [mayStart, Bool.and_eq_true, Bool.or_eq_true, decide_eq_true_eq] at h
  obtain ⟨⟨h1, h2⟩, -⟩ := h
  refine ⟨h1, fun e => ?_⟩
  rcases h2 with h2 | h2
  · rw [e] at h2
    exact absurd h2 (by decide)
  · exact h2

theorem Rest.cq_active {f : Nat} {a t : State} (h : Rest f a t) : (mbOf t f).cq.active = (mbOf a f).cq.active := by
  obtain ⟨-, h, -⟩ := h
  obtain ⟨-, -, -, -, -, h, -⟩ := h
  rw [h]

theorem Rest.out {f : Nat} {a t : State} (h : Rest f a t) : a.out <+: t.out := h.2.2.2.2

theorem Rest.mail_length {f : Nat} {a t : State} (h : Rest f a t) : t.mail.length = a.mail.length := h.2.2.2.1

theorem emit_appends (s : State) (o : Out) : (emit s o).out = s.out ++ [o] := rfl

theorem emit_updMb_out (s : State) (f : Nat) (u : Mailbox → Mailbox) (o : Out) :
    (emit (updMb s f u) o).out = s.out ++ [o] := rfl

theorem advanceCq_out (s : State) (f : Nat) : (advanceCq s f).out = s.out := rfl

theorem signalled {s u : State} {c : Completion} (h : u.out = s.out ++ [Out.completion c]) (f : Nat) :
    s.out ++ [Out.completion c] <+: (signalCompletion u f).out := h ▸ (rest_signalCompletion u f).out

/-- The completion that `writeCompletion` sends, or the halt that replaces it. -/
theorem writeCompletion_out (s : State) (x : MsgCtx) (st : Status) (e b : Nat) (r : List Byte)
    (hf : x.f < s.mail.length) (hc : x.src = .ring → (mbOf s x.f).cq.active = true) :
    (∃ c, s.out ++ [Out.completion c] <+: (writeCompletion s (openOf x) st e b r).out ∧ c.f = x.f ∧ c.src = x.src ∧
      c.tag = le x.bytes 2 2 ∧ c.code = le x.bytes 0 2 ∧ c.cookie = le x.bytes 24 8 ∧ c.status = st ∧
      c.errOffset = e ∧ c.result = r.take 32 ∧ c.respBytes = b) ∨
    (x.src = .ring ∧ (mbOf (writeCompletion s (openOf x) st e b r) x.f).st.halted = true) := by
  unfold writeCompletion
  dsimp only
  split
  · rename_i hsrc
    exact .inl ⟨_, signalled (emit_updMb_out _ _ _ _) _, rfl, rfl, rfl, rfl, rfl, rfl, rfl, rfl, rfl⟩
  · rename_i hsrc
    have hx : (mbOf s (openOf x).f).cq.active = true := hc hsrc
    simp only [hx, Bool.not_true, Bool.false_eq_true, if_false]
    split
    · exact .inl ⟨_, signalled ((advanceCq_out _ _).trans (emit_appends _ _)) _, rfl, rfl, rfl, rfl, rfl, rfl, rfl,
        rfl, rfl⟩
    · exact .inr ⟨hsrc, haltMailbox_halted s x.f 5 0 hf⟩

/-- A message that starts now, whose handler `k` completes it over a state `a` that differs from the one before it only
outside the message path: it is answered, and nothing but `a` and the message path has changed. -/
theorem answers {s a : State} {f : Nat} {src : Src} {op : Nat} {m : MsgIn} {held : List Byte → Bool}
    {k : State → MsgCtx → State} {st : Status} {off b : Nat} {res : List Byte}
    (hd : Head s f src op m) (fr : Fresh s) (hh : held m.bytes = false)
    (ha : a.mail = s.mail ∧ a.msgs = s.msgs ∧ a.nextMsg = s.nextMsg) (ho : s.out <+: a.out)
    (hk : k (startMsg s (ctxOf s f src m)) (ctxOf s f src m) =
      complete (startMsg a (ctxOf s f src m)) s.nextMsg st off res b) :
    ∃ t, onMessage s f src op held k = .next t ∧ Answered s t f src m st off res b ∧ Rest f a t := by
  obtain ⟨hf, hm, hop, hs, hc⟩ := hd
  obtain ⟨ha1, ha2, ha3⟩ := ha
  generalize hx : ctxOf s f src m = x at hk
  have xf : x.f = f := by rw [← hx]; rfl
  have xs : x.src = src := by rw [← hx]; rfl
  have xi : x.id = s.nextMsg := by rw [← hx]; rfl
  have xb : x.bytes = m.bytes := by rw [← hx]; rfl
  have hmsgs : (startMsg a x).msgs = s.msgs ++ [openOf x] := by rw [startMsg_msgs, ha2]
  have hlt : ∀ o ∈ s.msgs, o.id < (openOf x).id := fun o h => by
    show o.id < x.id
    rw [xi]
    exact fr o h
  have hlen : x.f < (startMsg a x).mail.length := by
    rw [(rest_startMsg a x).mail_length, ha1, xf]
    refine mail_of_running (s := s) ?_
    have := (mayStart_serves hs).1
    simp only [mbServes, Bool.and_eq_true] at this
    exact this.1.1.2
  have hact : x.src = .ring → (mbOf (startMsg a x) x.f).cq.active = true := by
    intro e
    have h1 := (mayStart_serves hs).2 (xs ▸ e)
    simp only [canReserve, Bool.and_eq_true] at h1
    have h3 : mbOf a x.f = mbOf s f := by unfold mbOf; rw [ha1, xf]
    rw [(rest_startMsg a x).cq_active, h3]
    exact h1.1
  have e : complete (startMsg a x) s.nextMsg st off res b =
      writeCompletion { startMsg a x with msgs := s.msgs } (openOf x) st off b res := by
    rw [← xi]
    exact complete_last _ (openOf x) s.msgs hmsgs hlt st off res b
  generalize hu : writeCompletion { startMsg a x with msgs := s.msgs } (openOf x) st off b res = u at e
  have hum : u.msgs = s.msgs ∧ u.nextMsg = s.nextMsg + 1 := by
    rw [← hu]
    have := writeCompletion_msgs { startMsg a x with msgs := s.msgs } (openOf x) st off b res
    refine ⟨this.1, this.2.trans ?_⟩
    show a.nextMsg + 1 = _
    rw [ha3]
  have hur : Rest f a u := by
    rw [← hu, ← xf]
    refine Rest.trans ?_ (rest_writeCompletion _ (openOf x) st off b res)
    exact Rest.trans (rest_startMsg a x) (rest_msgs _ x.f _ s.msgs)
  have hfr : Fresh u := by
    intro o h
    rw [hum.1] at h
    rw [hum.2]
    exact Nat.lt_succ_of_lt (fr o h)
  obtain ⟨w1, w2, w3⟩ := sweepStrays_rest u f src hfr
  refine ⟨sweepStrays u f src, ?_, ⟨w2.trans hum.1, by omega, ?_⟩, hur.trans w1⟩
  · unfold onMessage
    simp only [guardUnit, hf, decide_true, if_true, hm, hop, hs, hh, and_self]
    rw [commonCheck_startMsg, hc]
    simp only [settle, hx, hk, e]
  · have hout := writeCompletion_out { startMsg a x with msgs := s.msgs } x st off b res hlen hact
    rw [hu] at hout
    rcases hout with ⟨c, h1, h2, h3, h4⟩ | ⟨h1, h2⟩
    · refine .inl ⟨c, mem_newOut (u := a) ho ?_, h2.trans xf, h3.trans xs, xb ▸ h4⟩
      exact h1.trans w1.out
    · refine .inr ⟨xs ▸ h1, ?_⟩
      rw [xf] at h2
      show (mbOf (serveStrays f src _ u) f).st.halted = true
      rw [serveStrays_of_halted h2]
      exact h2

/-- A message that starts now and whose handler leaves it open over a state `a`: nothing but `a` and the message path
has changed. -/
theorem stays_open {s a : State} {f : Nat} {src : Src} {op : Nat} {m : MsgIn} {held : List Byte → Bool}
    {k : State → MsgCtx → State} (hd : Head s f src op m) (fr : Fresh s) (hh : held m.bytes = false)
    (ha : a.mail = s.mail ∧ a.msgs = s.msgs ∧ a.nextMsg = s.nextMsg)
    (hk : k (startMsg s (ctxOf s f src m)) (ctxOf s f src m) = startMsg a (ctxOf s f src m)) :
    ∃ t, onMessage s f src op held k = .next t ∧ StaysOpen s t f src m ∧ Rest f a t := by
  obtain ⟨hf, hm, hop, hs, hc⟩ := hd
  obtain ⟨-, ha2, ha3⟩ := ha
  have hfr : Fresh (startMsg a (ctxOf s f src m)) := by
    intro o h
    rw [startMsg_msgs, ha2] at h
    rw [startMsg_nextMsg, ha3]
    rcases List.mem_append.1 h with h | h
    · exact Nat.lt_succ_of_lt (fr o h)
    · rw [List.mem_singleton.1 h]
      exact Nat.lt_succ_self _
  obtain ⟨w1, w2, w3⟩ := sweepStrays_rest _ f src hfr
  refine ⟨_, ?_, ⟨?_, openOf (ctxOf s f src m), ?_, rfl, rfl, rfl, rfl, rfl, rfl⟩,
    (rest_startMsg a (ctxOf s f src m)).trans w1⟩
  · unfold onMessage
    simp only [guardUnit, hf, decide_true, if_true, hm, hop, hs, hh, and_self]
    rw [commonCheck_startMsg, hc]
    simp only [settle, hk]
  · rw [startMsg_nextMsg, ha3] at w3
    omega
  · rw [w2, startMsg_msgs, ha2]

end Sys2Proof.Machine
end

