-- ==== Sys2Proof/Laws/PerInstr.lean ====
section
/-! SUPPORT. Facts about every command as syntax, one lemma per constructor. -/

set_option Elab.async false

open Sys2Proof.Machine

/-! ## Channel: a well-formed command that starts a message names a function of the module -/

/-- A well-formed command that starts a message names one of the 33 functions. -/
def Sys2Proof.Laws.Channel.Statement (i : Sys2Proof.Instr) : Prop :=
  ∀ f src op, Sys2Proof.Machine.opcodeCommand i = some (f, src, op) → Sys2Proof.Instr.wf i = true → f < 33

theorem Sys2Proof.Laws.Channel.inlPiObserved (f : Nat) :
    Sys2Proof.Laws.Channel.Statement (.inlPiObserved f) :=
  fun _ _ _ h => nomatch h

theorem Sys2Proof.Laws.Channel.sqPiObserved (f : Nat) :
    Sys2Proof.Laws.Channel.Statement (.sqPiObserved f) :=
  fun _ _ _ h => nomatch h

theorem Sys2Proof.Laws.Channel.cqCiObserved (f : Nat) :
    Sys2Proof.Laws.Channel.Statement (.cqCiObserved f) :=
  fun _ _ _ h => nomatch h

theorem Sys2Proof.Laws.Channel.sqEntryFetchComplete (f index : Nat) (r : HostRead (List Byte)) :
    Sys2Proof.Laws.Channel.Statement (.sqEntryFetchComplete f index r) :=
  fun _ _ _ h => nomatch h

theorem Sys2Proof.Laws.Channel.mbReset (f : Nat) :
    Sys2Proof.Laws.Channel.Statement (.mbReset f) :=
  fun _ _ _ h => nomatch h

theorem Sys2Proof.Laws.Channel.sqEnable (f : Nat) (withCq : Bool) (h : HostView) :
    Sys2Proof.Laws.Channel.Statement (.sqEnable f withCq h) :=
  fun _ _ _ h => nomatch h

theorem Sys2Proof.Laws.Channel.cqEnable (f : Nat) (h : HostView) :
    Sys2Proof.Laws.Channel.Statement (.cqEnable f h) :=
  fun _ _ _ h => nomatch h

theorem Sys2Proof.Laws.Channel.eventPendingClear (f mask same : Nat) :
    Sys2Proof.Laws.Channel.Statement (.eventPendingClear f mask same) :=
  fun _ _ _ h => nomatch h

theorem Sys2Proof.Laws.Channel.evtLostRead (f same : Nat) :
    Sys2Proof.Laws.Channel.Statement (.evtLostRead f same) :=
  fun _ _ _ h => nomatch h

theorem Sys2Proof.Laws.Channel.complDroppedRead (f same : Nat) :
    Sys2Proof.Laws.Channel.Statement (.complDroppedRead f same) :=
  fun _ _ _ h => nomatch h

theorem Sys2Proof.Laws.Channel.conflictsRead (same : Nat) :
    Sys2Proof.Laws.Channel.Statement (.conflictsRead same) :=
  fun _ _ _ h => nomatch h

theorem Sys2Proof.Laws.Channel.throtChangesRead (same : Nat) :
    Sys2Proof.Laws.Channel.Statement (.throtChangesRead same) :=
  fun _ _ _ h => nomatch h

theorem Sys2Proof.Laws.Channel.stretchFaultsRead (same : Nat) :
    Sys2Proof.Laws.Channel.Statement (.stretchFaultsRead same) :=
  fun _ _ _ h => nomatch h

theorem Sys2Proof.Laws.Channel.minRearm :
    Sys2Proof.Laws.Channel.Statement .minRearm :=
  fun _ _ _ h => nomatch h

theorem Sys2Proof.Laws.Channel.registerWrite (f : Nat) (win : Window) (off val : Nat) :
    Sys2Proof.Laws.Channel.Statement (.registerWrite f win off val) :=
  fun _ _ _ h => nomatch h

theorem Sys2Proof.Laws.Channel.modTimeExpiry (f : Nat) :
    Sys2Proof.Laws.Channel.Statement (.modTimeExpiry f) :=
  fun _ _ _ h => nomatch h

theorem Sys2Proof.Laws.Channel.partitionCreate (f : Nat) (src : Src) :
    Sys2Proof.Laws.Channel.Statement (.partitionCreate f src) := by
  intro f' src' op h w
  cases h
  simpa [Sys2Proof.Instr.wf, Sys2Proof.fn] using w

theorem Sys2Proof.Laws.Channel.partitionSetQuota (f : Nat) (src : Src) :
    Sys2Proof.Laws.Channel.Statement (.partitionSetQuota f src) := by
  intro f' src' op h w
  cases h
  simpa [Sys2Proof.Instr.wf, Sys2Proof.fn] using w

theorem Sys2Proof.Laws.Channel.partitionControl (f : Nat) (src : Src) :
    Sys2Proof.Laws.Channel.Statement (.partitionControl f src) := by
  intro f' src' op h w
  cases h
  simpa [Sys2Proof.Instr.wf, Sys2Proof.fn] using w

theorem Sys2Proof.Laws.Channel.partitionQuery (f : Nat) (src : Src) (h : HostView) :
    Sys2Proof.Laws.Channel.Statement (.partitionQuery f src h) := by
  intro f' src' op h w
  cases h
  simpa [Sys2Proof.Instr.wf, Sys2Proof.fn] using w

theorem Sys2Proof.Laws.Channel.modelLoad (f : Nat) (src : Src) (h : HostView) (r : HostRead ModelImage) :
    Sys2Proof.Laws.Channel.Statement (.modelLoad f src h r) := by
  intro f' src' op h w
  cases h
  simpa [Sys2Proof.Instr.wf, Sys2Proof.fn] using w

theorem Sys2Proof.Laws.Channel.modelPin (f : Nat) (src : Src) :
    Sys2Proof.Laws.Channel.Statement (.modelPin f src) := by
  intro f' src' op h w
  cases h
  simpa [Sys2Proof.Instr.wf, Sys2Proof.fn] using w

theorem Sys2Proof.Laws.Channel.modelEvict (f : Nat) (src : Src) :
    Sys2Proof.Laws.Channel.Statement (.modelEvict f src) := by
  intro f' src' op h w
  cases h
  simpa [Sys2Proof.Instr.wf, Sys2Proof.fn] using w

theorem Sys2Proof.Laws.Channel.tableCreate (f : Nat) (src : Src) :
    Sys2Proof.Laws.Channel.Statement (.tableCreate f src) := by
  intro f' src' op h w
  cases h
  simpa [Sys2Proof.Instr.wf, Sys2Proof.fn] using w

theorem Sys2Proof.Laws.Channel.tableLoad (f : Nat) (src : Src) (h : HostView) (r : HostRead (List Byte)) :
    Sys2Proof.Laws.Channel.Statement (.tableLoad f src h r) := by
  intro f' src' op h w
  cases h
  simpa [Sys2Proof.Instr.wf, Sys2Proof.fn] using w

theorem Sys2Proof.Laws.Channel.tableDestroy (f : Nat) (src : Src) :
    Sys2Proof.Laws.Channel.Statement (.tableDestroy f src) := by
  intro f' src' op h w
  cases h
  simpa [Sys2Proof.Instr.wf, Sys2Proof.fn] using w

theorem Sys2Proof.Laws.Channel.indexCreate (f : Nat) (src : Src) :
    Sys2Proof.Laws.Channel.Statement (.indexCreate f src) := by
  intro f' src' op h w
  cases h
  simpa [Sys2Proof.Instr.wf, Sys2Proof.fn] using w

theorem Sys2Proof.Laws.Channel.indexBulkLoad (f : Nat) (src : Src) (h : HostView) (r : HostRead (List Byte)) :
    Sys2Proof.Laws.Channel.Statement (.indexBulkLoad f src h r) := by
  intro f' src' op h w
  cases h
  simpa [Sys2Proof.Instr.wf, Sys2Proof.fn] using w

theorem Sys2Proof.Laws.Channel.indexInsert (f : Nat) (src : Src) (h : HostView) (r : HostRead (List Byte)) :
    Sys2Proof.Laws.Channel.Statement (.indexInsert f src h r) := by
  intro f' src' op h w
  cases h
  simpa [Sys2Proof.Instr.wf, Sys2Proof.fn] using w

theorem Sys2Proof.Laws.Channel.indexDelete (f : Nat) (src : Src) (h : HostView) (r : HostRead (List Byte)) :
    Sys2Proof.Laws.Channel.Statement (.indexDelete f src h r) := by
  intro f' src' op h w
  cases h
  simpa [Sys2Proof.Instr.wf, Sys2Proof.fn] using w

theorem Sys2Proof.Laws.Channel.indexSettle (f : Nat) (src : Src) :
    Sys2Proof.Laws.Channel.Statement (.indexSettle f src) := by
  intro f' src' op h w
  cases h
  simpa [Sys2Proof.Instr.wf, Sys2Proof.fn] using w

theorem Sys2Proof.Laws.Channel.indexSnapshot (f : Nat) (src : Src) (h : HostView) :
    Sys2Proof.Laws.Channel.Statement (.indexSnapshot f src h) := by
  intro f' src' op h w
  cases h
  simpa [Sys2Proof.Instr.wf, Sys2Proof.fn] using w

theorem Sys2Proof.Laws.Channel.indexDestroy (f : Nat) (src : Src) :
    Sys2Proof.Laws.Channel.Statement (.indexDestroy f src) := by
  intro f' src' op h w
  cases h
  simpa [Sys2Proof.Instr.wf, Sys2Proof.fn] using w

theorem Sys2Proof.Laws.Channel.indexQuery (f : Nat) (src : Src) :
    Sys2Proof.Laws.Channel.Statement (.indexQuery f src) := by
  intro f' src' op h w
  cases h
  simpa [Sys2Proof.Instr.wf, Sys2Proof.fn] using w

theorem Sys2Proof.Laws.Channel.prefixRegister (f : Nat) (src : Src) (h : HostView) (r : HostRead (List Byte)) :
    Sys2Proof.Laws.Channel.Statement (.prefixRegister f src h r) := by
  intro f' src' op h w
  cases h
  simpa [Sys2Proof.Instr.wf, Sys2Proof.fn] using w

theorem Sys2Proof.Laws.Channel.prefixRelease (f : Nat) (src : Src) :
    Sys2Proof.Laws.Channel.Statement (.prefixRelease f src) := by
  intro f' src' op h w
  cases h
  simpa [Sys2Proof.Instr.wf, Sys2Proof.fn] using w

theorem Sys2Proof.Laws.Channel.contractOpen (f : Nat) (src : Src) (h : HostView) (r : HostRead (List Byte)) (w : Schedules) :
    Sys2Proof.Laws.Channel.Statement (.contractOpen f src h r w) := by
  intro f' src' op h w
  cases h
  simpa [Sys2Proof.Instr.wf, Sys2Proof.fn] using w

theorem Sys2Proof.Laws.Channel.contractQueryProof (f : Nat) (src : Src) (h : HostView) :
    Sys2Proof.Laws.Channel.Statement (.contractQueryProof f src h) := by
  intro f' src' op h w
  cases h
  simpa [Sys2Proof.Instr.wf, Sys2Proof.fn] using w

theorem Sys2Proof.Laws.Channel.contractClose (f : Nat) (src : Src) :
    Sys2Proof.Laws.Channel.Statement (.contractClose f src) := by
  intro f' src' op h w
  cases h
  simpa [Sys2Proof.Instr.wf, Sys2Proof.fn] using w

theorem Sys2Proof.Laws.Channel.caseSubmit (f : Nat) (src : Src) (h : HostView) (r : HostRead (List Byte)) :
    Sys2Proof.Laws.Channel.Statement (.caseSubmit f src h r) := by
  intro f' src' op h w
  cases h
  simpa [Sys2Proof.Instr.wf, Sys2Proof.fn] using w

theorem Sys2Proof.Laws.Channel.caseCancel (f : Nat) (src : Src) :
    Sys2Proof.Laws.Channel.Statement (.caseCancel f src) := by
  intro f' src' op h w
  cases h
  simpa [Sys2Proof.Instr.wf, Sys2Proof.fn] using w

theorem Sys2Proof.Laws.Channel.caseQuery (f : Nat) (src : Src) (h : HostView) :
    Sys2Proof.Laws.Channel.Statement (.caseQuery f src h) := by
  intro f' src' op h w
  cases h
  simpa [Sys2Proof.Instr.wf, Sys2Proof.fn] using w

theorem Sys2Proof.Laws.Channel.cairnAlloc (f : Nat) (src : Src) :
    Sys2Proof.Laws.Channel.Statement (.cairnAlloc f src) := by
  intro f' src' op h w
  cases h
  simpa [Sys2Proof.Instr.wf, Sys2Proof.fn] using w

theorem Sys2Proof.Laws.Channel.cairnFree (f : Nat) (src : Src) :
    Sys2Proof.Laws.Channel.Statement (.cairnFree f src) := by
  intro f' src' op h w
  cases h
  simpa [Sys2Proof.Instr.wf, Sys2Proof.fn] using w

theorem Sys2Proof.Laws.Channel.cairnSignal (f : Nat) (src : Src) :
    Sys2Proof.Laws.Channel.Statement (.cairnSignal f src) := by
  intro f' src' op h w
  cases h
  simpa [Sys2Proof.Instr.wf, Sys2Proof.fn] using w

theorem Sys2Proof.Laws.Channel.cairnWaitArm (f : Nat) (src : Src) :
    Sys2Proof.Laws.Channel.Statement (.cairnWaitArm f src) := by
  intro f' src' op h w
  cases h
  simpa [Sys2Proof.Instr.wf, Sys2Proof.fn] using w

theorem Sys2Proof.Laws.Channel.cairnQuery (f : Nat) (src : Src) :
    Sys2Proof.Laws.Channel.Statement (.cairnQuery f src) := by
  intro f' src' op h w
  cases h
  simpa [Sys2Proof.Instr.wf, Sys2Proof.fn] using w

theorem Sys2Proof.Laws.Channel.telemetryRead (f : Nat) (src : Src) (h : HostView) :
    Sys2Proof.Laws.Channel.Statement (.telemetryRead f src h) := by
  intro f' src' op h w
  cases h
  simpa [Sys2Proof.Instr.wf, Sys2Proof.fn] using w

theorem Sys2Proof.Laws.Channel.accountRead (f : Nat) (src : Src) (h : HostView) :
    Sys2Proof.Laws.Channel.Statement (.accountRead f src h) := by
  intro f' src' op h w
  cases h
  simpa [Sys2Proof.Instr.wf, Sys2Proof.fn] using w

theorem Sys2Proof.Laws.Channel.safetySelftestRead (f : Nat) (src : Src) (h : HostView) :
    Sys2Proof.Laws.Channel.Statement (.safetySelftestRead f src h) := by
  intro f' src' op h w
  cases h
  simpa [Sys2Proof.Instr.wf, Sys2Proof.fn] using w

theorem Sys2Proof.Laws.Channel.safetyInject (f : Nat) (src : Src) :
    Sys2Proof.Laws.Channel.Statement (.safetyInject f src) := by
  intro f' src' op h w
  cases h
  simpa [Sys2Proof.Instr.wf, Sys2Proof.fn] using w

theorem Sys2Proof.Laws.Channel.safetyFence (f : Nat) (src : Src) (testOk : Bool) :
    Sys2Proof.Laws.Channel.Statement (.safetyFence f src testOk) := by
  intro f' src' op h w
  cases h
  simpa [Sys2Proof.Instr.wf, Sys2Proof.fn] using w

theorem Sys2Proof.Laws.Channel.safetyHoldRelease (f : Nat) (src : Src) (failed : List Nat) :
    Sys2Proof.Laws.Channel.Statement (.safetyHoldRelease f src failed) := by
  intro f' src' op h w
  cases h
  simpa [Sys2Proof.Instr.wf, Sys2Proof.fn] using w

theorem Sys2Proof.Laws.Channel.powerPolicySet (f : Nat) (src : Src) :
    Sys2Proof.Laws.Channel.Statement (.powerPolicySet f src) := by
  intro f' src' op h w
  cases h
  simpa [Sys2Proof.Instr.wf, Sys2Proof.fn] using w

theorem Sys2Proof.Laws.Channel.powerPolicyGet (f : Nat) (src : Src) :
    Sys2Proof.Laws.Channel.Statement (.powerPolicyGet f src) := by
  intro f' src' op h w
  cases h
  simpa [Sys2Proof.Instr.wf, Sys2Proof.fn] using w

theorem Sys2Proof.Laws.Channel.amberRead (f : Nat) (src : Src) (h : HostView) :
    Sys2Proof.Laws.Channel.Statement (.amberRead f src h) := by
  intro f' src' op h w
  cases h
  simpa [Sys2Proof.Instr.wf, Sys2Proof.fn] using w

theorem Sys2Proof.Laws.Channel.fwStage (f : Nat) (src : Src) (h : HostView) (r : HostRead (List Byte)) (flashOk : Bool) :
    Sys2Proof.Laws.Channel.Statement (.fwStage f src h r flashOk) := by
  intro f' src' op h w
  cases h
  simpa [Sys2Proof.Instr.wf, Sys2Proof.fn] using w

theorem Sys2Proof.Laws.Channel.fwActivate (f : Nat) (src : Src) :
    Sys2Proof.Laws.Channel.Statement (.fwActivate f src) := by
  intro f' src' op h w
  cases h
  simpa [Sys2Proof.Instr.wf, Sys2Proof.fn] using w

theorem Sys2Proof.Laws.Channel.attestMeasurements (f : Nat) (src : Src) (h : HostView) :
    Sys2Proof.Laws.Channel.Statement (.attestMeasurements f src h) := by
  intro f' src' op h w
  cases h
  simpa [Sys2Proof.Instr.wf, Sys2Proof.fn] using w

theorem Sys2Proof.Laws.Channel.backgroundOpCommit (op : Nat) (wr : List DramWrite) :
    Sys2Proof.Laws.Channel.Statement (.backgroundOpCommit op wr) :=
  fun _ _ _ h => nomatch h

theorem Sys2Proof.Laws.Channel.commandSelection (u : UnitId) :
    Sys2Proof.Laws.Channel.Statement (.commandSelection u) :=
  fun _ _ _ h => nomatch h

theorem Sys2Proof.Laws.Channel.tileEnd (cmd : Nat) (u : UnitId) (t : TileRun) :
    Sys2Proof.Laws.Channel.Statement (.tileEnd cmd u t) :=
  fun _ _ _ h => nomatch h

theorem Sys2Proof.Laws.Channel.commandCommit (cmd : Nat) (p : Prediction) (wr : List DramWrite) (det : Option Detection) :
    Sys2Proof.Laws.Channel.Statement (.commandCommit cmd p wr det) :=
  fun _ _ _ h => nomatch h

theorem Sys2Proof.Laws.Channel.preemptWdogTimeout (u : UnitId) :
    Sys2Proof.Laws.Channel.Statement (.preemptWdogTimeout u) :=
  fun _ _ _ h => nomatch h

theorem Sys2Proof.Laws.Channel.modelSwitchLoadDone (m : Nat) :
    Sys2Proof.Laws.Channel.Statement (.modelSwitchLoadDone m) :=
  fun _ _ _ h => nomatch h

theorem Sys2Proof.Laws.Channel.layerMoveDone (m layer late : Nat) :
    Sys2Proof.Laws.Channel.Statement (.layerMoveDone m layer late) :=
  fun _ _ _ h => nomatch h

theorem Sys2Proof.Laws.Channel.intakeCommit (c : Nat) (rs : List (HostRead (List Byte))) (wr : List DramWrite) :
    Sys2Proof.Laws.Channel.Statement (.intakeCommit c rs wr) :=
  fun _ _ _ h => nomatch h

theorem Sys2Proof.Laws.Channel.chunkEncodeCommit (c chunk : Nat) (det : Option Detection) :
    Sys2Proof.Laws.Channel.Statement (.chunkEncodeCommit c chunk det) :=
  fun _ _ _ h => nomatch h

theorem Sys2Proof.Laws.Channel.summaryPassCommit (c : Nat) (det : Option Detection) :
    Sys2Proof.Laws.Channel.Statement (.summaryPassCommit c det) :=
  fun _ _ _ h => nomatch h

theorem Sys2Proof.Laws.Channel.coarseSearchCommit (cmd : Nat) (det : Option Detection) :
    Sys2Proof.Laws.Channel.Statement (.coarseSearchCommit cmd det) :=
  fun _ _ _ h => nomatch h

theorem Sys2Proof.Laws.Channel.holdExpiry (c : Nat) :
    Sys2Proof.Laws.Channel.Statement (.holdExpiry c) :=
  fun _ _ _ h => nomatch h

theorem Sys2Proof.Laws.Channel.listPassCommit (cmd : Nat) (ps : List (Nat × Prediction)) (det : Option Detection) :
    Sys2Proof.Laws.Channel.Statement (.listPassCommit cmd ps det) :=
  fun _ _ _ h => nomatch h

theorem Sys2Proof.Laws.Channel.passageStoreReadComplete (c id : Nat) (r : HostRead (List Byte)) :
    Sys2Proof.Laws.Channel.Statement (.passageStoreReadComplete c id r) :=
  fun _ _ _ h => nomatch h

theorem Sys2Proof.Laws.Channel.t3BudgetExpiry (c : Nat) (p : Prediction) :
    Sys2Proof.Laws.Channel.Statement (.t3BudgetExpiry c p) :=
  fun _ _ _ h => nomatch h

theorem Sys2Proof.Laws.Channel.t3LatestSwitchPoint (c : Nat) (p : Prediction) :
    Sys2Proof.Laws.Channel.Statement (.t3LatestSwitchPoint c p) :=
  fun _ _ _ h => nomatch h

theorem Sys2Proof.Laws.Channel.passageFetchCommit (c : Nat) (p : Prediction) :
    Sys2Proof.Laws.Channel.Statement (.passageFetchCommit c p) :=
  fun _ _ _ h => nomatch h

theorem Sys2Proof.Laws.Channel.cacheFillCommit (op : Nat) :
    Sys2Proof.Laws.Channel.Statement (.cacheFillCommit op) :=
  fun _ _ _ h => nomatch h

theorem Sys2Proof.Laws.Channel.rerankBatchCommit (c : Nat) (p : Prediction) (det : Option Detection) :
    Sys2Proof.Laws.Channel.Statement (.rerankBatchCommit c p det) :=
  fun _ _ _ h => nomatch h

theorem Sys2Proof.Laws.Channel.packingCommit (c : Nat) (p : Prediction) :
    Sys2Proof.Laws.Channel.Statement (.packingCommit c p) :=
  fun _ _ _ h => nomatch h

theorem Sys2Proof.Laws.Channel.prefillCommit (c : Nat) (p : Prediction) (det : Option Detection) :
    Sys2Proof.Laws.Channel.Statement (.prefillCommit c p det) :=
  fun _ _ _ h => nomatch h

theorem Sys2Proof.Laws.Channel.fileChunkPrefillCommit (c chunk : Nat) (det : Option Detection) :
    Sys2Proof.Laws.Channel.Statement (.fileChunkPrefillCommit c chunk det) :=
  fun _ _ _ h => nomatch h

theorem Sys2Proof.Laws.Channel.draftStep (c : Nat) :
    Sys2Proof.Laws.Channel.Statement (.draftStep c) :=
  fun _ _ _ h => nomatch h

theorem Sys2Proof.Laws.Channel.verifyPassCommit (cmd : Nat) (ps : List (Nat × Prediction)) (det : Option Detection) :
    Sys2Proof.Laws.Channel.Statement (.verifyPassCommit cmd ps det) :=
  fun _ _ _ h => nomatch h

theorem Sys2Proof.Laws.Channel.resultRecordIssue (c : Nat) :
    Sys2Proof.Laws.Channel.Statement (.resultRecordIssue c) :=
  fun _ _ _ h => nomatch h

theorem Sys2Proof.Laws.Channel.arrivalTokenAccrual (k : Nat) :
    Sys2Proof.Laws.Channel.Statement (.arrivalTokenAccrual k) :=
  fun _ _ _ h => nomatch h

theorem Sys2Proof.Laws.Channel.periodWindowEnd (k : Nat) :
    Sys2Proof.Laws.Channel.Statement (.periodWindowEnd k) :=
  fun _ _ _ h => nomatch h

theorem Sys2Proof.Laws.Channel.cairnWaitTimeout (w : Nat) :
    Sys2Proof.Laws.Channel.Statement (.cairnWaitTimeout w) :=
  fun _ _ _ h => nomatch h

theorem Sys2Proof.Laws.Channel.linkRateFall (rate width : Nat) :
    Sys2Proof.Laws.Channel.Statement (.linkRateFall rate width) :=
  fun _ _ _ h => nomatch h

theorem Sys2Proof.Laws.Channel.voltMon (g mv : Nat) (high : Bool) :
    Sys2Proof.Laws.Channel.Statement (.voltMon g mv high) :=
  fun _ _ _ h => nomatch h

theorem Sys2Proof.Laws.Channel.stretchBudgetFault (g region : Nat) :
    Sys2Proof.Laws.Channel.Statement (.stretchBudgetFault g region) :=
  fun _ _ _ h => nomatch h

theorem Sys2Proof.Laws.Channel.railMon (rail word : Nat) :
    Sys2Proof.Laws.Channel.Statement (.railMon rail word) :=
  fun _ _ _ h => nomatch h

theorem Sys2Proof.Laws.Channel.lockstepMismatch (pairB : Bool) (pos pc : Nat) :
    Sys2Proof.Laws.Channel.Statement (.lockstepMismatch pairB pos pc) :=
  fun _ _ _ h => nomatch h

theorem Sys2Proof.Laws.Channel.fwWdog (pairB : Bool) (task : Nat) :
    Sys2Proof.Laws.Channel.Statement (.fwWdog pairB task) :=
  fun _ _ _ h => nomatch h

theorem Sys2Proof.Laws.Channel.clockMon (domain : Nat) (dev : Int) :
    Sys2Proof.Laws.Channel.Statement (.clockMon domain dev) :=
  fun _ _ _ h => nomatch h

theorem Sys2Proof.Laws.Channel.clockRelockAttempt (ok : Bool) :
    Sys2Proof.Laws.Channel.Statement (.clockRelockAttempt ok) :=
  fun _ _ _ h => nomatch h

theorem Sys2Proof.Laws.Channel.diagnosticSweepTick (flagged : Bool) :
    Sys2Proof.Laws.Channel.Statement (.diagnosticSweepTick flagged) :=
  fun _ _ _ h => nomatch h

theorem Sys2Proof.Laws.Channel.haltReqNChange (level : Bool) :
    Sys2Proof.Laws.Channel.Statement (.haltReqNChange level) :=
  fun _ _ _ h => nomatch h

theorem Sys2Proof.Laws.Channel.haltReqNRearmExpiry :
    Sys2Proof.Laws.Channel.Statement .haltReqNRearmExpiry :=
  fun _ _ _ h => nomatch h

theorem Sys2Proof.Laws.Channel.throtNChange (level : Bool) :
    Sys2Proof.Laws.Channel.Statement (.throtNChange level) :=
  fun _ _ _ h => nomatch h

theorem Sys2Proof.Laws.Channel.syncInEdge (ts : Nat) :
    Sys2Proof.Laws.Channel.Statement (.syncInEdge ts) :=
  fun _ _ _ h => nomatch h

theorem Sys2Proof.Laws.Channel.syncOutPulseStart :
    Sys2Proof.Laws.Channel.Statement .syncOutPulseStart :=
  fun _ _ _ h => nomatch h

theorem Sys2Proof.Laws.Channel.syncOutPulseEnd :
    Sys2Proof.Laws.Channel.Statement .syncOutPulseEnd :=
  fun _ _ _ h => nomatch h

theorem Sys2Proof.Laws.Channel.dividerDwellEnd (g ma : Nat) :
    Sys2Proof.Laws.Channel.Statement (.dividerDwellEnd g ma) :=
  fun _ _ _ h => nomatch h

theorem Sys2Proof.Laws.Channel.voltageStepAck (rail : Nat) :
    Sys2Proof.Laws.Channel.Statement (.voltageStepAck rail) :=
  fun _ _ _ h => nomatch h

theorem Sys2Proof.Laws.Channel.voltageStepTimeout (rail : Nat) :
    Sys2Proof.Laws.Channel.Statement (.voltageStepTimeout rail) :=
  fun _ _ _ h => nomatch h

theorem Sys2Proof.Laws.Channel.minSenseLoopPeriod (g ma : Nat) (rd : LoopReading) :
    Sys2Proof.Laws.Channel.Statement (.minSenseLoopPeriod g ma rd) :=
  fun _ _ _ h => nomatch h

theorem Sys2Proof.Laws.Channel.unmatchedFall (g region mv : Nat) :
    Sys2Proof.Laws.Channel.Statement (.unmatchedFall g region mv) :=
  fun _ _ _ h => nomatch h

theorem Sys2Proof.Laws.Channel.powerCapEvaluation (energyUj avgMw maxMw : Nat) :
    Sys2Proof.Laws.Channel.Statement (.powerCapEvaluation energyUj avgMw maxMw) :=
  fun _ _ _ h => nomatch h

theorem Sys2Proof.Laws.Channel.capCalibration (estMw teleMw : Nat) :
    Sys2Proof.Laws.Channel.Statement (.capCalibration estMw teleMw) :=
  fun _ _ _ h => nomatch h

theorem Sys2Proof.Laws.Channel.thermalSensorRead (temps : List (List Int)) :
    Sys2Proof.Laws.Channel.Statement (.thermalSensorRead temps) :=
  fun _ _ _ h => nomatch h

theorem Sys2Proof.Laws.Channel.thermalThrottleStep (g : Nat) :
    Sys2Proof.Laws.Channel.Statement (.thermalThrottleStep g) :=
  fun _ _ _ h => nomatch h

theorem Sys2Proof.Laws.Channel.coreReady (core : Nat) :
    Sys2Proof.Laws.Channel.Statement (.coreReady core) :=
  fun _ _ _ h => nomatch h

theorem Sys2Proof.Laws.Channel.hdrSwitchTimeout (core stage : Nat) :
    Sys2Proof.Laws.Channel.Statement (.hdrSwitchTimeout core stage) :=
  fun _ _ _ h => nomatch h

theorem Sys2Proof.Laws.Channel.headerSwitchReadyLost (core : Nat) :
    Sys2Proof.Laws.Channel.Statement (.headerSwitchReadyLost core) :=
  fun _ _ _ h => nomatch h

theorem Sys2Proof.Laws.Channel.dozeEntry :
    Sys2Proof.Laws.Channel.Statement .dozeEntry :=
  fun _ _ _ h => nomatch h

theorem Sys2Proof.Laws.Channel.dieRegate (g : Nat) :
    Sys2Proof.Laws.Channel.Statement (.dieRegate g) :=
  fun _ _ _ h => nomatch h

theorem Sys2Proof.Laws.Channel.patrolScrubTick (t : Tier) (reads : List DramRead) :
    Sys2Proof.Laws.Channel.Statement (.patrolScrubTick t reads) :=
  fun _ _ _ h => nomatch h

theorem Sys2Proof.Laws.Channel.scrubPassStart (t : Tier) :
    Sys2Proof.Laws.Channel.Statement (.scrubPassStart t) :=
  fun _ _ _ h => nomatch h

theorem Sys2Proof.Laws.Channel.channelReadTimeout (t : Tier) (ch : Nat) :
    Sys2Proof.Laws.Channel.Statement (.channelReadTimeout t ch) :=
  fun _ _ _ h => nomatch h

theorem Sys2Proof.Laws.Channel.retrainEnd (t : Tier) (ch : Nat) (ok : Bool) :
    Sys2Proof.Laws.Channel.Statement (.retrainEnd t ch ok) :=
  fun _ _ _ h => nomatch h

theorem Sys2Proof.Laws.Channel.atsInvalidation (f lo hi : Nat) :
    Sys2Proof.Laws.Channel.Statement (.atsInvalidation f lo hi) :=
  fun _ _ _ h => nomatch h

theorem Sys2Proof.Laws.Channel.dmaCompletionTimeout (d : DmaRef) :
    Sys2Proof.Laws.Channel.Statement (.dmaCompletionTimeout d) :=
  fun _ _ _ h => nomatch h

theorem Sys2Proof.Laws.Channel.cableInsertion (p : Nat) (eeprom : Option (List Byte)) :
    Sys2Proof.Laws.Channel.Statement (.cableInsertion p eeprom) :=
  fun _ _ _ h => nomatch h

theorem Sys2Proof.Laws.Channel.linkTrainingAttempt (p : Nat) :
    Sys2Proof.Laws.Channel.Statement (.linkTrainingAttempt p) :=
  fun _ _ _ h => nomatch h

theorem Sys2Proof.Laws.Channel.trainingStepTimeout (p step : Nat) :
    Sys2Proof.Laws.Channel.Statement (.trainingStepTimeout p step) :=
  fun _ _ _ h => nomatch h

theorem Sys2Proof.Laws.Channel.trainingRetryTimer (p : Nat) :
    Sys2Proof.Laws.Channel.Statement (.trainingRetryTimer p) :=
  fun _ _ _ h => nomatch h

theorem Sys2Proof.Laws.Channel.linkFlit (p : Nat) (fl : Flit) :
    Sys2Proof.Laws.Channel.Statement (.linkFlit p fl) :=
  fun _ _ _ h => nomatch h

theorem Sys2Proof.Laws.Channel.dataFlit (p : Nat) (fl : Flit) :
    Sys2Proof.Laws.Channel.Statement (.dataFlit p fl) :=
  fun _ _ _ h => nomatch h

theorem Sys2Proof.Laws.Channel.idleFlit (p : Nat) (fl : Flit) :
    Sys2Proof.Laws.Channel.Statement (.idleFlit p fl) :=
  fun _ _ _ h => nomatch h

theorem Sys2Proof.Laws.Channel.nakFlit (p : Nat) (fl : Flit) :
    Sys2Proof.Laws.Channel.Statement (.nakFlit p fl) :=
  fun _ _ _ h => nomatch h

theorem Sys2Proof.Laws.Channel.lossOfSignal (p : Nat) :
    Sys2Proof.Laws.Channel.Statement (.lossOfSignal p) :=
  fun _ _ _ h => nomatch h

theorem Sys2Proof.Laws.Channel.cblIntN (p : Nat) :
    Sys2Proof.Laws.Channel.Statement (.cblIntN p) :=
  fun _ _ _ h => nomatch h

theorem Sys2Proof.Laws.Channel.memberSilentTimeout (pos : Nat) :
    Sys2Proof.Laws.Channel.Statement (.memberSilentTimeout pos) :=
  fun _ _ _ h => nomatch h

theorem Sys2Proof.Laws.Channel.formationQuietTimeout (shape : Nat) (members : List Nat) :
    Sys2Proof.Laws.Channel.Statement (.formationQuietTimeout shape members) :=
  fun _ _ _ h => nomatch h

theorem Sys2Proof.Laws.Channel.hello (p : Nat) (m : StrataMsg) :
    Sys2Proof.Laws.Channel.Statement (.hello p m) :=
  fun _ _ _ h => nomatch h

theorem Sys2Proof.Laws.Channel.form (p : Nat) (m : StrataMsg) :
    Sys2Proof.Laws.Channel.Statement (.form p m) :=
  fun _ _ _ h => nomatch h

theorem Sys2Proof.Laws.Channel.linkState (p : Nat) (m : StrataMsg) :
    Sys2Proof.Laws.Channel.Statement (.linkState p m) :=
  fun _ _ _ h => nomatch h

theorem Sys2Proof.Laws.Channel.ack (p : Nat) (m : StrataMsg) :
    Sys2Proof.Laws.Channel.Statement (.ack p m) :=
  fun _ _ _ h => nomatch h

theorem Sys2Proof.Laws.Channel.reserve (p : Nat) (m : StrataMsg) (w : Schedules) :
    Sys2Proof.Laws.Channel.Statement (.reserve p m w) :=
  fun _ _ _ h => nomatch h

theorem Sys2Proof.Laws.Channel.reserveAck (p : Nat) (m : StrataMsg) :
    Sys2Proof.Laws.Channel.Statement (.reserveAck p m) :=
  fun _ _ _ h => nomatch h

theorem Sys2Proof.Laws.Channel.reserveTimeout (k : Nat) :
    Sys2Proof.Laws.Channel.Statement (.reserveTimeout k) :=
  fun _ _ _ h => nomatch h

theorem Sys2Proof.Laws.Channel.release (p : Nat) (m : StrataMsg) :
    Sys2Proof.Laws.Channel.Statement (.release p m) :=
  fun _ _ _ h => nomatch h

theorem Sys2Proof.Laws.Channel.signal (p : Nat) (m : StrataMsg) :
    Sys2Proof.Laws.Channel.Statement (.signal p m) :=
  fun _ _ _ h => nomatch h

theorem Sys2Proof.Laws.Channel.vote (p : Nat) (m : StrataMsg) :
    Sys2Proof.Laws.Channel.Statement (.vote p m) :=
  fun _ _ _ h => nomatch h

theorem Sys2Proof.Laws.Channel.voteTimeout (txn : Nat) :
    Sys2Proof.Laws.Channel.Statement (.voteTimeout txn) :=
  fun _ _ _ h => nomatch h

theorem Sys2Proof.Laws.Channel.decide (p : Nat) (m : StrataMsg) :
    Sys2Proof.Laws.Channel.Statement (.decide p m) :=
  fun _ _ _ h => nomatch h

theorem Sys2Proof.Laws.Channel.decisionWaitTimeout (txn : Nat) :
    Sys2Proof.Laws.Channel.Statement (.decisionWaitTimeout txn) :=
  fun _ _ _ h => nomatch h

theorem Sys2Proof.Laws.Channel.decisionQuery (p : Nat) (m : StrataMsg) :
    Sys2Proof.Laws.Channel.Statement (.decisionQuery p m) :=
  fun _ _ _ h => nomatch h

theorem Sys2Proof.Laws.Channel.dispatch (p : Nat) (m : StrataMsg) :
    Sys2Proof.Laws.Channel.Statement (.dispatch p m) :=
  fun _ _ _ h => nomatch h

theorem Sys2Proof.Laws.Channel.shardResult (p : Nat) (m : StrataMsg) (q : Prediction) :
    Sys2Proof.Laws.Channel.Statement (.shardResult p m q) :=
  fun _ _ _ h => nomatch h

theorem Sys2Proof.Laws.Channel.partialMsg (p : Nat) (m : StrataMsg) :
    Sys2Proof.Laws.Channel.Statement (.partialMsg p m) :=
  fun _ _ _ h => nomatch h

theorem Sys2Proof.Laws.Channel.kill (p : Nat) (m : StrataMsg) :
    Sys2Proof.Laws.Channel.Statement (.kill p m) :=
  fun _ _ _ h => nomatch h

theorem Sys2Proof.Laws.Channel.throttleAdvise (p : Nat) (m : StrataMsg) :
    Sys2Proof.Laws.Channel.Statement (.throttleAdvise p m) :=
  fun _ _ _ h => nomatch h

theorem Sys2Proof.Laws.Channel.syncExchangeTimer :
    Sys2Proof.Laws.Channel.Statement .syncExchangeTimer :=
  fun _ _ _ h => nomatch h

theorem Sys2Proof.Laws.Channel.syncReq (p : Nat) (m : StrataMsg) (t2 t3 : Nat) :
    Sys2Proof.Laws.Channel.Statement (.syncReq p m t2 t3) :=
  fun _ _ _ h => nomatch h

theorem Sys2Proof.Laws.Channel.syncResp (p : Nat) (m : StrataMsg) (t4 : Nat) :
    Sys2Proof.Laws.Channel.Statement (.syncResp p m t4) :=
  fun _ _ _ h => nomatch h

theorem Sys2Proof.Laws.Channel.bulk (p : Nat) (m : StrataMsg) :
    Sys2Proof.Laws.Channel.Statement (.bulk p m) :=
  fun _ _ _ h => nomatch h

theorem Sys2Proof.Laws.Channel.unknownMessageType (p : Nat) (m : StrataMsg) :
    Sys2Proof.Laws.Channel.Statement (.unknownMessageType p m) :=
  fun _ _ _ h => nomatch h

theorem Sys2Proof.Laws.Channel.auxPowerOn (epochOk : Bool) :
    Sys2Proof.Laws.Channel.Statement (.auxPowerOn epochOk) :=
  fun _ _ _ h => nomatch h

theorem Sys2Proof.Laws.Channel.auxPowerLost :
    Sys2Proof.Laws.Channel.Statement .auxPowerLost :=
  fun _ _ _ h => nomatch h

theorem Sys2Proof.Laws.Channel.mainPowerPresent :
    Sys2Proof.Laws.Channel.Statement .mainPowerPresent :=
  fun _ _ _ h => nomatch h

theorem Sys2Proof.Laws.Channel.mainPowerLost :
    Sys2Proof.Laws.Channel.Statement .mainPowerLost :=
  fun _ _ _ h => nomatch h

theorem Sys2Proof.Laws.Channel.railPowerGood (rail : Nat) :
    Sys2Proof.Laws.Channel.Statement (.railPowerGood rail) :=
  fun _ _ _ h => nomatch h

theorem Sys2Proof.Laws.Channel.powerGoodTimeout (rail : Nat) :
    Sys2Proof.Laws.Channel.Statement (.powerGoodTimeout rail) :=
  fun _ _ _ h => nomatch h

theorem Sys2Proof.Laws.Channel.oscillatorStable :
    Sys2Proof.Laws.Channel.Statement .oscillatorStable :=
  fun _ _ _ h => nomatch h

theorem Sys2Proof.Laws.Channel.pllLock :
    Sys2Proof.Laws.Channel.Statement .pllLock :=
  fun _ _ _ h => nomatch h

theorem Sys2Proof.Laws.Channel.refclkTimeout (pll : Bool) :
    Sys2Proof.Laws.Channel.Statement (.refclkTimeout pll) :=
  fun _ _ _ h => nomatch h

theorem Sys2Proof.Laws.Channel.attemptRetryWaitExpiry :
    Sys2Proof.Laws.Channel.Statement .attemptRetryWaitExpiry :=
  fun _ _ _ h => nomatch h

theorem Sys2Proof.Laws.Channel.perstAssert :
    Sys2Proof.Laws.Channel.Statement .perstAssert :=
  fun _ _ _ h => nomatch h

theorem Sys2Proof.Laws.Channel.perstDeassert :
    Sys2Proof.Laws.Channel.Statement .perstDeassert :=
  fun _ _ _ h => nomatch h

theorem Sys2Proof.Laws.Channel.bootVerifyComplete :
    Sys2Proof.Laws.Channel.Statement .bootVerifyComplete :=
  fun _ _ _ h => nomatch h

theorem Sys2Proof.Laws.Channel.memoryTrainingComplete (failed : List (Tier × Nat)) :
    Sys2Proof.Laws.Channel.Statement (.memoryTrainingComplete failed) :=
  fun _ _ _ h => nomatch h

theorem Sys2Proof.Laws.Channel.memoryInitComplete (bad : List (Tier × Nat)) (failed : List Nat) :
    Sys2Proof.Laws.Channel.Statement (.memoryInitComplete bad failed) :=
  fun _ _ _ h => nomatch h

theorem Sys2Proof.Laws.Channel.trialBootTimeout :
    Sys2Proof.Laws.Channel.Statement .trialBootTimeout :=
  fun _ _ _ h => nomatch h

theorem Sys2Proof.Laws.Channel.flrVf (f : Nat) :
    Sys2Proof.Laws.Channel.Statement (.flrVf f) :=
  fun _ _ _ h => nomatch h

theorem Sys2Proof.Laws.Channel.flrPf :
    Sys2Proof.Laws.Channel.Statement .flrPf :=
  fun _ _ _ h => nomatch h

theorem Sys2Proof.Laws.Channel.vfEnableClear :
    Sys2Proof.Laws.Channel.Statement .vfEnableClear :=
  fun _ _ _ h => nomatch h

theorem Sys2Proof.Laws.Channel.vfEnableSet (n : Nat) :
    Sys2Proof.Laws.Channel.Statement (.vfEnableSet n) :=
  fun _ _ _ h => nomatch h

theorem Sys2Proof.Laws.Channel.d3hotTransition (enter : Bool) :
    Sys2Proof.Laws.Channel.Statement (.d3hotTransition enter) :=
  fun _ _ _ h => nomatch h

theorem Sys2Proof.Laws.Channel.amberRingWrite :
    Sys2Proof.Laws.Channel.Statement .amberRingWrite :=
  fun _ _ _ h => nomatch h

theorem Sys2Proof.Laws.Channel.amberPersistentAppend (ok : Bool) :
    Sys2Proof.Laws.Channel.Statement (.amberPersistentAppend ok) :=
  fun _ _ _ h => nomatch h

theorem Sys2Proof.Laws.Channel.id :
    Sys2Proof.Laws.Channel.Statement .id :=
  fun _ _ _ h => nomatch h

theorem Sys2Proof.Laws.Channel.status :
    Sys2Proof.Laws.Channel.Statement .status :=
  fun _ _ _ h => nomatch h

theorem Sys2Proof.Laws.Channel.recorder :
    Sys2Proof.Laws.Channel.Statement .recorder :=
  fun _ _ _ h => nomatch h

theorem Sys2Proof.Laws.Channel.amberSelect (b : List Byte) (pec : Bool) :
    Sys2Proof.Laws.Channel.Statement (.amberSelect b pec) :=
  fun _ _ _ h => nomatch h

theorem Sys2Proof.Laws.Channel.amberNext :
    Sys2Proof.Laws.Channel.Statement .amberNext :=
  fun _ _ _ h => nomatch h

theorem Sys2Proof.Laws.Channel.retry (b : List Byte) (pec : Bool) :
    Sys2Proof.Laws.Channel.Statement (.retry b pec) :=
  fun _ _ _ h => nomatch h

theorem Sys2Proof.Laws.Channel.mctpControl (b : List Byte) (pec : Bool) :
    Sys2Proof.Laws.Channel.Statement (.mctpControl b pec) :=
  fun _ _ _ h => nomatch h

theorem Sys2Proof.Laws.Channel.pldmFirmwareUpdate (q : PldmReq) :
    Sys2Proof.Laws.Channel.Statement (.pldmFirmwareUpdate q) :=
  fun _ _ _ h => nomatch h

theorem Sys2Proof.Laws.Channel.pldmPlatformMonitoring (sensor : Nat) :
    Sys2Proof.Laws.Channel.Statement (.pldmPlatformMonitoring sensor) :=
  fun _ _ _ h => nomatch h

theorem Sys2Proof.Laws.Channel.spdmRequest (q : SpdmReq) :
    Sys2Proof.Laws.Channel.Statement (.spdmRequest q) :=
  fun _ _ _ h => nomatch h

theorem Sys2Proof.Laws.Channel.clockStretchStart (g region : Nat) :
    Sys2Proof.Laws.Channel.Statement (.clockStretchStart g region) :=
  fun _ _ _ h => nomatch h

theorem Sys2Proof.Laws.Channel.clockStretchEnd (g : Nat) :
    Sys2Proof.Laws.Channel.Statement (.clockStretchEnd g) :=
  fun _ _ _ h => nomatch h

theorem Sys2Proof.Laws.Channel.setpointRaiseExpiry (g : Nat) :
    Sys2Proof.Laws.Channel.Statement (.setpointRaiseExpiry g) :=
  fun _ _ _ h => nomatch h

theorem Sys2Proof.Laws.Channel.undervoltagePersistence (g : Nat) :
    Sys2Proof.Laws.Channel.Statement (.undervoltagePersistence g) :=
  fun _ _ _ h => nomatch h

theorem Sys2Proof.Laws.Channel.cableRemoval (p : Nat) :
    Sys2Proof.Laws.Channel.Statement (.cableRemoval p) :=
  fun _ _ _ h => nomatch h
end

