-- ==== Sys2Proof/Laws/Posting.lean ====
section
/-! SUPPORT. What a record, an interrupt, an event, a completion and a change of the module state can touch, each said
once, so that no later proof unfolds them. -/

namespace Sys2Proof.Machine

/-- Only the mailboxes, the recorder and what leaves the module have changed, and what left before is still there. -/
def Posts (s t : State) : Prop :=
  t = { s with mail := t.mail, amber := t.amber, out := t.out } ∧ s.out <+: t.out ∧ t.mail.length = s.mail.length

theorem Posts.refl (s : State) : Posts s s := ⟨rfl, List.prefix_refl _, rfl⟩

theorem Posts.trans {a b c : State} (h : Posts a b) (k : Posts b c) : Posts a c := by
  obtain ⟨h1, h2, h3⟩ := h
  obtain ⟨k1, k2, k3⟩ := k
  exact ⟨by rw [k1, h1], h2.trans k2, k3.trans h3⟩

theorem posts_updMb (s : State) (f : Nat) (u : Mailbox → Mailbox) : Posts s (updMb s f u) :=
  ⟨rfl, List.prefix_refl _, modifyAt_length _ _ _⟩

theorem posts_emit (s : State) (o : Out) : Posts s (emit s o) := ⟨rfl, List.prefix_append _ _, rfl⟩

theorem posts_hostWrite (s : State) (f a : Nat) (b : List Byte) : Posts s (hostWrite s f a b) := posts_emit s _

theorem posts_recordAs (s : State) (cls inj : Bool) (code source func : Nat) (p : List Byte) :
    Posts s (recordAs s cls inj code source func p) := ⟨rfl, List.prefix_refl _, rfl⟩

theorem posts_record (s : State) (code : Nat) (p : List Byte) : Posts s (record s code p) := posts_recordAs s _ _ _ _ _ _

theorem posts_recordFunc (s : State) (f code : Nat) (p : List Byte) : Posts s (recordFunc s f code p) :=
  posts_recordAs s _ _ _ _ _ _

theorem posts_recordUnit (s : State) (u : UnitId) (inj : Bool) (code : Nat) (p : List Byte) :
    Posts s (recordUnit s u inj code p) := posts_recordAs s _ _ _ _ _ _

theorem posts_fireVector (s : State) (f v : Nat) : Posts s (fireVector s f v) := by
  unfold fireVector
  split
  · exact Posts.refl s
  · split
    · exact posts_updMb s f _
    · exact posts_emit s _

theorem posts_signalCompletion (s : State) (f : Nat) : Posts s (signalCompletion s f) := by
  unfold signalCompletion
  dsimp only
  split
  · exact (posts_updMb s f _).trans (posts_fireVector _ f 0)
  · exact posts_updMb s f _

theorem posts_haltMailbox (s : State) (f cause index : Nat) : Posts s (haltMailbox s f cause index) := by
  unfold haltMailbox
  dsimp only
  split
  · exact posts_recordFunc s f _ _
  · exact ((posts_updMb s f _).trans (posts_fireVector _ f 3)).trans (posts_recordFunc _ f _ _)

theorem posts_writeCompletion (s : State) (m : OpenMsg) (st : Status) (o b : Nat) (r : List Byte) :
    Posts s (writeCompletion s m st o b r) := by
  unfold writeCompletion
  dsimp only
  split
  · exact ((posts_updMb s m.f _).trans (posts_emit _ _)).trans (posts_signalCompletion _ m.f)
  · split
    · exact Posts.refl s
    · split
      · exact ((posts_emit s _).trans (posts_updMb _ m.f _)).trans (posts_signalCompletion _ m.f)
      · exact posts_haltMailbox s m.f 5 0

/-- Ending a message takes it out of the open ones, and does no more than post. -/
theorem posts_complete (s : State) (id : Nat) (st : Status) (o : Nat) (r : List Byte) (b : Nat) :
    Posts { s with msgs := s.msgs.filter fun m => m.id != id } (complete s id st o r b) ∨
      ((∀ m ∈ s.msgs, m.id ≠ id) ∧ complete s id st o r b = s) := by
  unfold complete
  split
  · rename_i h
    refine .inr ⟨fun m hm e => ?_, rfl⟩
    have := List.find?_eq_none.1 h m hm
    simp [e] at this
  · exact .inl (posts_writeCompletion _ _ _ _ _ _)

theorem posts_postEvent (s : State) (f : Nat) (c : EventCode) (r : List Byte) : Posts s (postEvent s f c r) := by
  have h : Posts s (fireVector (updMb s f fun mb => { mb with ev := setPending mb.ev c }) f (eventVector c)) :=
    (posts_updMb s f _).trans (posts_fireVector _ f _)
  unfold postEvent
  dsimp only
  split
  · exact Posts.refl s
  · split
    · exact h
    · split
      · exact h.trans ((posts_updMb _ f _).trans (posts_recordFunc _ f _ _))
      · split
        · exact h.trans ((posts_emit _ _).trans (posts_updMb _ f _))
        · exact h.trans (posts_haltMailbox _ f 5 0)

theorem posts_foldl {α : Type} (g : State → α → State) (hg : ∀ s a, Posts s (g s a)) (l : List α) (s : State) :
    Posts s (l.foldl g s) := by
  induction l generalizing s with
  | nil => exact Posts.refl s
  | cons a l ih => exact (hg s a).trans (ih _)

theorem posts_postAll (s : State) (c : EventCode) (r : List Byte) : Posts s (postAll s c r) :=
  posts_foldl _ (fun s f => posts_postEvent s f c r) _ s

theorem posts_postPartition (s : State) (p t a : Nat) : Posts s (postPartition s p t a) := by
  unfold postPartition
  dsimp only
  split
  · exact posts_postEvent _ _ _ _
  · exact (posts_postEvent _ _ _ _).trans (posts_postEvent _ _ _ _)

theorem posts_postFault (s : State) (cls : Nat) (inj : Bool) (det unit : Nat) : Posts s (postFault s cls inj det unit) :=
  posts_postAll s _ _

/-- Moving to another state changes the sequencer's state, its time and the rollback floor, and the pins, as R354, R377, R398
and R399 say, and posts. -/
theorem setState_changes (s : State) (m : ModState) (h : s.boot.state ≠ m) :
    Posts { s with
      boot := { s.boot with state := m, stateTs := s.tclk, floor := raisedFloor s.boot m }
      pins := { s.pins with faultN := faultState m, syncOut := s.pins.syncOut && syncState m,
                            pulse := if syncState m then s.pins.pulse else none } } (setState s m) := by
  unfold setState
  rw [if_neg h]
  dsimp only
  exact (posts_record _ _ _).trans (posts_postAll _ _ _)

theorem setState_same (s : State) : setState s s.boot.state = s := by simp [setState]

theorem setState_state (s : State) (m : ModState) : (setState s m).boot.state = m := by
  by_cases h : s.boot.state = m
  · rw [← h, setState_same]
  · rw [(setState_changes s m h).1]

/-- FAULT_N and SYNC_OUT follow the state through every change of it. -/
theorem pinsOk_setState (s : State) (m : ModState) (h : PinsOk s) : PinsOk (setState s m) := by
  by_cases e : s.boot.state = m
  · rw [← e, setState_same]
    exact h
  · rw [(setState_changes s m e).1]
    refine ⟨rfl, fun hs => ?_, fun hp => ?_⟩
    · simp only [Bool.and_eq_true] at hs
      exact hs.2
    · by_contra hn
      simp [hn] at hp

/-- What `Posts` leaves of the invariants of the machine. -/
theorem pinsOk_of_posts {s t : State} (h : Posts s t) (hs : PinsOk s) : PinsOk t := by
  rw [h.1]
  exact hs

theorem degOk_of_posts {s t : State} (h : Posts s t) (hs : DegOk s) : DegOk t := by
  rw [h.1]
  exact hs

theorem fresh_of_posts {s t : State} (h : Posts s t) (hs : Fresh s) : Fresh t := by
  rw [h.1]
  exact hs

/-- The state that the fences and the contracts give is DEGRADED exactly while a unit is fenced. -/
theorem degOk_settleState (s : State) (h : runState s.boot.state = false → DegOk s) : DegOk (settleState s) := by
  unfold settleState
  split
  · intro _
    rw [setState_state]
    have hf : (setState s (properState s)).safety = s.safety := by
      by_cases e : s.boot.state = properState s
      · rw [← e, setState_same]
      · rw [(setState_changes s _ e).1]
    rw [hf]
    unfold properState
    constructor
    · intro hd hn
      rw [if_neg (by simp [hn])] at hd
      split at hd
      · cases hd
      · split at hd <;> cases hd
    · intro hn
      simp [hn]
  · rename_i hr
    exact h (by simpa using hr)

/-- A new command goes to the end of the scheduler's list; nothing but the scheduler changes. -/
theorem addCmd_frame (s : State) (v : Serves) (o l st d a : Nat) (k : Bool) (us : List UnitId) :
    addCmd s v o l st d a k us = { s with sched := (addCmd s v o l st d a k us).sched, nextCmd := s.nextCmd + 1 } := by
  have h : raiseVTime s o l = { s with sched := (raiseVTime s o l).sched } := by
    unfold raiseVTime raiseAmong
    split
    · rfl
    · split
      · rfl
      · dsimp only
        split <;> rfl
  show ({ updSched (raiseVTime s o l) _ with nextCmd := s.nextCmd + 1 } : State) = _
  rw [h]
  rfl

end Sys2Proof.Machine
end

