-- ==== Sys2Proof/Laws/State.lean ====
section
/-! SUPPORT. Each named change of State, field by field: the one field it writes, and that every other is as it was. -/

namespace Sys2Proof.Machine

/-! ## updMb -/

@[simp] theorem updMb_pending (s : State) (f : Nat) (g : Mailbox → Mailbox) : (updMb s f g).pending = s.pending := rfl
@[simp] theorem updMb_ident (s : State) (f : Nat) (g : Mailbox → Mailbox) : (updMb s f g).ident = s.ident := rfl
@[simp] theorem updMb_tclk (s : State) (f : Nat) (g : Mailbox → Mailbox) : (updMb s f g).tclk = s.tclk := rfl
@[simp] theorem updMb_free (s : State) (f : Nat) (g : Mailbox → Mailbox) : (updMb s f g).free = s.free := rfl
@[simp] theorem updMb_mail (s : State) (f : Nat) (g : Mailbox → Mailbox) : (updMb s f g).mail = modifyAt s.mail f g := rfl
@[simp] theorem updMb_msgs (s : State) (f : Nat) (g : Mailbox → Mailbox) : (updMb s f g).msgs = s.msgs := rfl
@[simp] theorem updMb_nextMsg (s : State) (f : Nat) (g : Mailbox → Mailbox) : (updMb s f g).nextMsg = s.nextMsg := rfl
@[simp] theorem updMb_parts (s : State) (f : Nat) (g : Mailbox → Mailbox) : (updMb s f g).parts = s.parts := rfl
@[simp] theorem updMb_models (s : State) (f : Nat) (g : Mailbox → Mailbox) : (updMb s f g).models = s.models := rfl
@[simp] theorem updMb_tables (s : State) (f : Nat) (g : Mailbox → Mailbox) : (updMb s f g).tables = s.tables := rfl
@[simp] theorem updMb_indexes (s : State) (f : Nat) (g : Mailbox → Mailbox) : (updMb s f g).indexes = s.indexes := rfl
@[simp] theorem updMb_pfxs (s : State) (f : Nat) (g : Mailbox → Mailbox) : (updMb s f g).pfxs = s.pfxs := rfl
@[simp] theorem updMb_contracts (s : State) (f : Nat) (g : Mailbox → Mailbox) : (updMb s f g).contracts = s.contracts := rfl
@[simp] theorem updMb_nextHandle (s : State) (f : Nat) (g : Mailbox → Mailbox) : (updMb s f g).nextHandle = s.nextHandle := rfl
@[simp] theorem updMb_cases (s : State) (f : Nat) (g : Mailbox → Mailbox) : (updMb s f g).cases = s.cases := rfl
@[simp] theorem updMb_nextCase (s : State) (f : Nat) (g : Mailbox → Mailbox) : (updMb s f g).nextCase = s.nextCase := rfl
@[simp] theorem updMb_cairns (s : State) (f : Nat) (g : Mailbox → Mailbox) : (updMb s f g).cairns = s.cairns := rfl
@[simp] theorem updMb_nextRun (s : State) (f : Nat) (g : Mailbox → Mailbox) : (updMb s f g).nextRun = s.nextRun := rfl
@[simp] theorem updMb_waits (s : State) (f : Nat) (g : Mailbox → Mailbox) : (updMb s f g).waits = s.waits := rfl
@[simp] theorem updMb_nextWait (s : State) (f : Nat) (g : Mailbox → Mailbox) : (updMb s f g).nextWait = s.nextWait := rfl
@[simp] theorem updMb_bg (s : State) (f : Nat) (g : Mailbox → Mailbox) : (updMb s f g).bg = s.bg := rfl
@[simp] theorem updMb_nextBg (s : State) (f : Nat) (g : Mailbox → Mailbox) : (updMb s f g).nextBg = s.nextBg := rfl
@[simp] theorem updMb_sched (s : State) (f : Nat) (g : Mailbox → Mailbox) : (updMb s f g).sched = s.sched := rfl
@[simp] theorem updMb_nextCmd (s : State) (f : Nat) (g : Mailbox → Mailbox) : (updMb s f g).nextCmd = s.nextCmd := rfl
@[simp] theorem updMb_mem (s : State) (f : Nat) (g : Mailbox → Mailbox) : (updMb s f g).mem = s.mem := rfl
@[simp] theorem updMb_power (s : State) (f : Nat) (g : Mailbox → Mailbox) : (updMb s f g).power = s.power := rfl
@[simp] theorem updMb_safety (s : State) (f : Nat) (g : Mailbox → Mailbox) : (updMb s f g).safety = s.safety := rfl
@[simp] theorem updMb_amber (s : State) (f : Nat) (g : Mailbox → Mailbox) : (updMb s f g).amber = s.amber := rfl
@[simp] theorem updMb_boot (s : State) (f : Nat) (g : Mailbox → Mailbox) : (updMb s f g).boot = s.boot := rfl
@[simp] theorem updMb_pins (s : State) (f : Nat) (g : Mailbox → Mailbox) : (updMb s f g).pins = s.pins := rfl
@[simp] theorem updMb_pcie (s : State) (f : Nat) (g : Mailbox → Mailbox) : (updMb s f g).pcie = s.pcie := rfl
@[simp] theorem updMb_sideband (s : State) (f : Nat) (g : Mailbox → Mailbox) : (updMb s f g).sideband = s.sideband := rfl
@[simp] theorem updMb_strata (s : State) (f : Nat) (g : Mailbox → Mailbox) : (updMb s f g).strata = s.strata := rfl
@[simp] theorem updMb_telem (s : State) (f : Nat) (g : Mailbox → Mailbox) : (updMb s f g).telem = s.telem := rfl
@[simp] theorem updMb_out (s : State) (f : Nat) (g : Mailbox → Mailbox) : (updMb s f g).out = s.out := rfl

/-! ## emit -/

@[simp] theorem emit_pending (s : State) (o : Out) : (emit s o).pending = s.pending := rfl
@[simp] theorem emit_ident (s : State) (o : Out) : (emit s o).ident = s.ident := rfl
@[simp] theorem emit_tclk (s : State) (o : Out) : (emit s o).tclk = s.tclk := rfl
@[simp] theorem emit_free (s : State) (o : Out) : (emit s o).free = s.free := rfl
@[simp] theorem emit_mail (s : State) (o : Out) : (emit s o).mail = s.mail := rfl
@[simp] theorem emit_msgs (s : State) (o : Out) : (emit s o).msgs = s.msgs := rfl
@[simp] theorem emit_nextMsg (s : State) (o : Out) : (emit s o).nextMsg = s.nextMsg := rfl
@[simp] theorem emit_parts (s : State) (o : Out) : (emit s o).parts = s.parts := rfl
@[simp] theorem emit_models (s : State) (o : Out) : (emit s o).models = s.models := rfl
@[simp] theorem emit_tables (s : State) (o : Out) : (emit s o).tables = s.tables := rfl
@[simp] theorem emit_indexes (s : State) (o : Out) : (emit s o).indexes = s.indexes := rfl
@[simp] theorem emit_pfxs (s : State) (o : Out) : (emit s o).pfxs = s.pfxs := rfl
@[simp] theorem emit_contracts (s : State) (o : Out) : (emit s o).contracts = s.contracts := rfl
@[simp] theorem emit_nextHandle (s : State) (o : Out) : (emit s o).nextHandle = s.nextHandle := rfl
@[simp] theorem emit_cases (s : State) (o : Out) : (emit s o).cases = s.cases := rfl
@[simp] theorem emit_nextCase (s : State) (o : Out) : (emit s o).nextCase = s.nextCase := rfl
@[simp] theorem emit_cairns (s : State) (o : Out) : (emit s o).cairns = s.cairns := rfl
@[simp] theorem emit_nextRun (s : State) (o : Out) : (emit s o).nextRun = s.nextRun := rfl
@[simp] theorem emit_waits (s : State) (o : Out) : (emit s o).waits = s.waits := rfl
@[simp] theorem emit_nextWait (s : State) (o : Out) : (emit s o).nextWait = s.nextWait := rfl
@[simp] theorem emit_bg (s : State) (o : Out) : (emit s o).bg = s.bg := rfl
@[simp] theorem emit_nextBg (s : State) (o : Out) : (emit s o).nextBg = s.nextBg := rfl
@[simp] theorem emit_sched (s : State) (o : Out) : (emit s o).sched = s.sched := rfl
@[simp] theorem emit_nextCmd (s : State) (o : Out) : (emit s o).nextCmd = s.nextCmd := rfl
@[simp] theorem emit_mem (s : State) (o : Out) : (emit s o).mem = s.mem := rfl
@[simp] theorem emit_power (s : State) (o : Out) : (emit s o).power = s.power := rfl
@[simp] theorem emit_safety (s : State) (o : Out) : (emit s o).safety = s.safety := rfl
@[simp] theorem emit_amber (s : State) (o : Out) : (emit s o).amber = s.amber := rfl
@[simp] theorem emit_boot (s : State) (o : Out) : (emit s o).boot = s.boot := rfl
@[simp] theorem emit_pins (s : State) (o : Out) : (emit s o).pins = s.pins := rfl
@[simp] theorem emit_pcie (s : State) (o : Out) : (emit s o).pcie = s.pcie := rfl
@[simp] theorem emit_sideband (s : State) (o : Out) : (emit s o).sideband = s.sideband := rfl
@[simp] theorem emit_strata (s : State) (o : Out) : (emit s o).strata = s.strata := rfl
@[simp] theorem emit_telem (s : State) (o : Out) : (emit s o).telem = s.telem := rfl
@[simp] theorem emit_out (s : State) (o : Out) : (emit s o).out = s.out ++ [o] := rfl

/-! ## bumpFree -/

@[simp] theorem bumpFree_pending (s : State) : (bumpFree s).pending = s.pending := rfl
@[simp] theorem bumpFree_ident (s : State) : (bumpFree s).ident = s.ident := rfl
@[simp] theorem bumpFree_tclk (s : State) : (bumpFree s).tclk = s.tclk := rfl
@[simp] theorem bumpFree_free (s : State) : (bumpFree s).free = s.free + 1 := rfl
@[simp] theorem bumpFree_mail (s : State) : (bumpFree s).mail = s.mail := rfl
@[simp] theorem bumpFree_msgs (s : State) : (bumpFree s).msgs = s.msgs := rfl
@[simp] theorem bumpFree_nextMsg (s : State) : (bumpFree s).nextMsg = s.nextMsg := rfl
@[simp] theorem bumpFree_parts (s : State) : (bumpFree s).parts = s.parts := rfl
@[simp] theorem bumpFree_models (s : State) : (bumpFree s).models = s.models := rfl
@[simp] theorem bumpFree_tables (s : State) : (bumpFree s).tables = s.tables := rfl
@[simp] theorem bumpFree_indexes (s : State) : (bumpFree s).indexes = s.indexes := rfl
@[simp] theorem bumpFree_pfxs (s : State) : (bumpFree s).pfxs = s.pfxs := rfl
@[simp] theorem bumpFree_contracts (s : State) : (bumpFree s).contracts = s.contracts := rfl
@[simp] theorem bumpFree_nextHandle (s : State) : (bumpFree s).nextHandle = s.nextHandle := rfl
@[simp] theorem bumpFree_cases (s : State) : (bumpFree s).cases = s.cases := rfl
@[simp] theorem bumpFree_nextCase (s : State) : (bumpFree s).nextCase = s.nextCase := rfl
@[simp] theorem bumpFree_cairns (s : State) : (bumpFree s).cairns = s.cairns := rfl
@[simp] theorem bumpFree_nextRun (s : State) : (bumpFree s).nextRun = s.nextRun := rfl
@[simp] theorem bumpFree_waits (s : State) : (bumpFree s).waits = s.waits := rfl
@[simp] theorem bumpFree_nextWait (s : State) : (bumpFree s).nextWait = s.nextWait := rfl
@[simp] theorem bumpFree_bg (s : State) : (bumpFree s).bg = s.bg := rfl
@[simp] theorem bumpFree_nextBg (s : State) : (bumpFree s).nextBg = s.nextBg := rfl
@[simp] theorem bumpFree_sched (s : State) : (bumpFree s).sched = s.sched := rfl
@[simp] theorem bumpFree_nextCmd (s : State) : (bumpFree s).nextCmd = s.nextCmd := rfl
@[simp] theorem bumpFree_mem (s : State) : (bumpFree s).mem = s.mem := rfl
@[simp] theorem bumpFree_power (s : State) : (bumpFree s).power = s.power := rfl
@[simp] theorem bumpFree_safety (s : State) : (bumpFree s).safety = s.safety := rfl
@[simp] theorem bumpFree_amber (s : State) : (bumpFree s).amber = s.amber := rfl
@[simp] theorem bumpFree_boot (s : State) : (bumpFree s).boot = s.boot := rfl
@[simp] theorem bumpFree_pins (s : State) : (bumpFree s).pins = s.pins := rfl
@[simp] theorem bumpFree_pcie (s : State) : (bumpFree s).pcie = s.pcie := rfl
@[simp] theorem bumpFree_sideband (s : State) : (bumpFree s).sideband = s.sideband := rfl
@[simp] theorem bumpFree_strata (s : State) : (bumpFree s).strata = s.strata := rfl
@[simp] theorem bumpFree_telem (s : State) : (bumpFree s).telem = s.telem := rfl
@[simp] theorem bumpFree_out (s : State) : (bumpFree s).out = s.out := rfl

/-! ## updPart -/

@[simp] theorem updPart_pending (s : State) (i : Nat) (g : Partition → Partition) : (updPart s i g).pending = s.pending := rfl
@[simp] theorem updPart_ident (s : State) (i : Nat) (g : Partition → Partition) : (updPart s i g).ident = s.ident := rfl
@[simp] theorem updPart_tclk (s : State) (i : Nat) (g : Partition → Partition) : (updPart s i g).tclk = s.tclk := rfl
@[simp] theorem updPart_free (s : State) (i : Nat) (g : Partition → Partition) : (updPart s i g).free = s.free := rfl
@[simp] theorem updPart_mail (s : State) (i : Nat) (g : Partition → Partition) : (updPart s i g).mail = s.mail := rfl
@[simp] theorem updPart_msgs (s : State) (i : Nat) (g : Partition → Partition) : (updPart s i g).msgs = s.msgs := rfl
@[simp] theorem updPart_nextMsg (s : State) (i : Nat) (g : Partition → Partition) : (updPart s i g).nextMsg = s.nextMsg := rfl
@[simp] theorem updPart_parts (s : State) (i : Nat) (g : Partition → Partition) : (updPart s i g).parts = modifyWhere s.parts (fun p => p.id == i) g := rfl
@[simp] theorem updPart_models (s : State) (i : Nat) (g : Partition → Partition) : (updPart s i g).models = s.models := rfl
@[simp] theorem updPart_tables (s : State) (i : Nat) (g : Partition → Partition) : (updPart s i g).tables = s.tables := rfl
@[simp] theorem updPart_indexes (s : State) (i : Nat) (g : Partition → Partition) : (updPart s i g).indexes = s.indexes := rfl
@[simp] theorem updPart_pfxs (s : State) (i : Nat) (g : Partition → Partition) : (updPart s i g).pfxs = s.pfxs := rfl
@[simp] theorem updPart_contracts (s : State) (i : Nat) (g : Partition → Partition) : (updPart s i g).contracts = s.contracts := rfl
@[simp] theorem updPart_nextHandle (s : State) (i : Nat) (g : Partition → Partition) : (updPart s i g).nextHandle = s.nextHandle := rfl
@[simp] theorem updPart_cases (s : State) (i : Nat) (g : Partition → Partition) : (updPart s i g).cases = s.cases := rfl
@[simp] theorem updPart_nextCase (s : State) (i : Nat) (g : Partition → Partition) : (updPart s i g).nextCase = s.nextCase := rfl
@[simp] theorem updPart_cairns (s : State) (i : Nat) (g : Partition → Partition) : (updPart s i g).cairns = s.cairns := rfl
@[simp] theorem updPart_nextRun (s : State) (i : Nat) (g : Partition → Partition) : (updPart s i g).nextRun = s.nextRun := rfl
@[simp] theorem updPart_waits (s : State) (i : Nat) (g : Partition → Partition) : (updPart s i g).waits = s.waits := rfl
@[simp] theorem updPart_nextWait (s : State) (i : Nat) (g : Partition → Partition) : (updPart s i g).nextWait = s.nextWait := rfl
@[simp] theorem updPart_bg (s : State) (i : Nat) (g : Partition → Partition) : (updPart s i g).bg = s.bg := rfl
@[simp] theorem updPart_nextBg (s : State) (i : Nat) (g : Partition → Partition) : (updPart s i g).nextBg = s.nextBg := rfl
@[simp] theorem updPart_sched (s : State) (i : Nat) (g : Partition → Partition) : (updPart s i g).sched = s.sched := rfl
@[simp] theorem updPart_nextCmd (s : State) (i : Nat) (g : Partition → Partition) : (updPart s i g).nextCmd = s.nextCmd := rfl
@[simp] theorem updPart_mem (s : State) (i : Nat) (g : Partition → Partition) : (updPart s i g).mem = s.mem := rfl
@[simp] theorem updPart_power (s : State) (i : Nat) (g : Partition → Partition) : (updPart s i g).power = s.power := rfl
@[simp] theorem updPart_safety (s : State) (i : Nat) (g : Partition → Partition) : (updPart s i g).safety = s.safety := rfl
@[simp] theorem updPart_amber (s : State) (i : Nat) (g : Partition → Partition) : (updPart s i g).amber = s.amber := rfl
@[simp] theorem updPart_boot (s : State) (i : Nat) (g : Partition → Partition) : (updPart s i g).boot = s.boot := rfl
@[simp] theorem updPart_pins (s : State) (i : Nat) (g : Partition → Partition) : (updPart s i g).pins = s.pins := rfl
@[simp] theorem updPart_pcie (s : State) (i : Nat) (g : Partition → Partition) : (updPart s i g).pcie = s.pcie := rfl
@[simp] theorem updPart_sideband (s : State) (i : Nat) (g : Partition → Partition) : (updPart s i g).sideband = s.sideband := rfl
@[simp] theorem updPart_strata (s : State) (i : Nat) (g : Partition → Partition) : (updPart s i g).strata = s.strata := rfl
@[simp] theorem updPart_telem (s : State) (i : Nat) (g : Partition → Partition) : (updPart s i g).telem = s.telem := rfl
@[simp] theorem updPart_out (s : State) (i : Nat) (g : Partition → Partition) : (updPart s i g).out = s.out := rfl

/-! ## updStats -/

@[simp] theorem updStats_pending (s : State) (i : Nat) (g : PartStats → PartStats) : (updStats s i g).pending = s.pending := rfl
@[simp] theorem updStats_ident (s : State) (i : Nat) (g : PartStats → PartStats) : (updStats s i g).ident = s.ident := rfl
@[simp] theorem updStats_tclk (s : State) (i : Nat) (g : PartStats → PartStats) : (updStats s i g).tclk = s.tclk := rfl
@[simp] theorem updStats_free (s : State) (i : Nat) (g : PartStats → PartStats) : (updStats s i g).free = s.free := rfl
@[simp] theorem updStats_mail (s : State) (i : Nat) (g : PartStats → PartStats) : (updStats s i g).mail = s.mail := rfl
@[simp] theorem updStats_msgs (s : State) (i : Nat) (g : PartStats → PartStats) : (updStats s i g).msgs = s.msgs := rfl
@[simp] theorem updStats_nextMsg (s : State) (i : Nat) (g : PartStats → PartStats) : (updStats s i g).nextMsg = s.nextMsg := rfl
@[simp] theorem updStats_parts (s : State) (i : Nat) (g : PartStats → PartStats) : (updStats s i g).parts = modifyWhere s.parts (fun p => p.id == i) fun p => { p with stats := g p.stats } := rfl
@[simp] theorem updStats_models (s : State) (i : Nat) (g : PartStats → PartStats) : (updStats s i g).models = s.models := rfl
@[simp] theorem updStats_tables (s : State) (i : Nat) (g : PartStats → PartStats) : (updStats s i g).tables = s.tables := rfl
@[simp] theorem updStats_indexes (s : State) (i : Nat) (g : PartStats → PartStats) : (updStats s i g).indexes = s.indexes := rfl
@[simp] theorem updStats_pfxs (s : State) (i : Nat) (g : PartStats → PartStats) : (updStats s i g).pfxs = s.pfxs := rfl
@[simp] theorem updStats_contracts (s : State) (i : Nat) (g : PartStats → PartStats) : (updStats s i g).contracts = s.contracts := rfl
@[simp] theorem updStats_nextHandle (s : State) (i : Nat) (g : PartStats → PartStats) : (updStats s i g).nextHandle = s.nextHandle := rfl
@[simp] theorem updStats_cases (s : State) (i : Nat) (g : PartStats → PartStats) : (updStats s i g).cases = s.cases := rfl
@[simp] theorem updStats_nextCase (s : State) (i : Nat) (g : PartStats → PartStats) : (updStats s i g).nextCase = s.nextCase := rfl
@[simp] theorem updStats_cairns (s : State) (i : Nat) (g : PartStats → PartStats) : (updStats s i g).cairns = s.cairns := rfl
@[simp] theorem updStats_nextRun (s : State) (i : Nat) (g : PartStats → PartStats) : (updStats s i g).nextRun = s.nextRun := rfl
@[simp] theorem updStats_waits (s : State) (i : Nat) (g : PartStats → PartStats) : (updStats s i g).waits = s.waits := rfl
@[simp] theorem updStats_nextWait (s : State) (i : Nat) (g : PartStats → PartStats) : (updStats s i g).nextWait = s.nextWait := rfl
@[simp] theorem updStats_bg (s : State) (i : Nat) (g : PartStats → PartStats) : (updStats s i g).bg = s.bg := rfl
@[simp] theorem updStats_nextBg (s : State) (i : Nat) (g : PartStats → PartStats) : (updStats s i g).nextBg = s.nextBg := rfl
@[simp] theorem updStats_sched (s : State) (i : Nat) (g : PartStats → PartStats) : (updStats s i g).sched = s.sched := rfl
@[simp] theorem updStats_nextCmd (s : State) (i : Nat) (g : PartStats → PartStats) : (updStats s i g).nextCmd = s.nextCmd := rfl
@[simp] theorem updStats_mem (s : State) (i : Nat) (g : PartStats → PartStats) : (updStats s i g).mem = s.mem := rfl
@[simp] theorem updStats_power (s : State) (i : Nat) (g : PartStats → PartStats) : (updStats s i g).power = s.power := rfl
@[simp] theorem updStats_safety (s : State) (i : Nat) (g : PartStats → PartStats) : (updStats s i g).safety = s.safety := rfl
@[simp] theorem updStats_amber (s : State) (i : Nat) (g : PartStats → PartStats) : (updStats s i g).amber = s.amber := rfl
@[simp] theorem updStats_boot (s : State) (i : Nat) (g : PartStats → PartStats) : (updStats s i g).boot = s.boot := rfl
@[simp] theorem updStats_pins (s : State) (i : Nat) (g : PartStats → PartStats) : (updStats s i g).pins = s.pins := rfl
@[simp] theorem updStats_pcie (s : State) (i : Nat) (g : PartStats → PartStats) : (updStats s i g).pcie = s.pcie := rfl
@[simp] theorem updStats_sideband (s : State) (i : Nat) (g : PartStats → PartStats) : (updStats s i g).sideband = s.sideband := rfl
@[simp] theorem updStats_strata (s : State) (i : Nat) (g : PartStats → PartStats) : (updStats s i g).strata = s.strata := rfl
@[simp] theorem updStats_telem (s : State) (i : Nat) (g : PartStats → PartStats) : (updStats s i g).telem = s.telem := rfl
@[simp] theorem updStats_out (s : State) (i : Nat) (g : PartStats → PartStats) : (updStats s i g).out = s.out := rfl

/-! ## updContract -/

@[simp] theorem updContract_pending (s : State) (h : Nat) (g : Contract → Contract) : (updContract s h g).pending = s.pending := rfl
@[simp] theorem updContract_ident (s : State) (h : Nat) (g : Contract → Contract) : (updContract s h g).ident = s.ident := rfl
@[simp] theorem updContract_tclk (s : State) (h : Nat) (g : Contract → Contract) : (updContract s h g).tclk = s.tclk := rfl
@[simp] theorem updContract_free (s : State) (h : Nat) (g : Contract → Contract) : (updContract s h g).free = s.free := rfl
@[simp] theorem updContract_mail (s : State) (h : Nat) (g : Contract → Contract) : (updContract s h g).mail = s.mail := rfl
@[simp] theorem updContract_msgs (s : State) (h : Nat) (g : Contract → Contract) : (updContract s h g).msgs = s.msgs := rfl
@[simp] theorem updContract_nextMsg (s : State) (h : Nat) (g : Contract → Contract) : (updContract s h g).nextMsg = s.nextMsg := rfl
@[simp] theorem updContract_parts (s : State) (h : Nat) (g : Contract → Contract) : (updContract s h g).parts = s.parts := rfl
@[simp] theorem updContract_models (s : State) (h : Nat) (g : Contract → Contract) : (updContract s h g).models = s.models := rfl
@[simp] theorem updContract_tables (s : State) (h : Nat) (g : Contract → Contract) : (updContract s h g).tables = s.tables := rfl
@[simp] theorem updContract_indexes (s : State) (h : Nat) (g : Contract → Contract) : (updContract s h g).indexes = s.indexes := rfl
@[simp] theorem updContract_pfxs (s : State) (h : Nat) (g : Contract → Contract) : (updContract s h g).pfxs = s.pfxs := rfl
@[simp] theorem updContract_contracts (s : State) (h : Nat) (g : Contract → Contract) : (updContract s h g).contracts = modifyWhere s.contracts (fun k => k.handle == h) g := rfl
@[simp] theorem updContract_nextHandle (s : State) (h : Nat) (g : Contract → Contract) : (updContract s h g).nextHandle = s.nextHandle := rfl
@[simp] theorem updContract_cases (s : State) (h : Nat) (g : Contract → Contract) : (updContract s h g).cases = s.cases := rfl
@[simp] theorem updContract_nextCase (s : State) (h : Nat) (g : Contract → Contract) : (updContract s h g).nextCase = s.nextCase := rfl
@[simp] theorem updContract_cairns (s : State) (h : Nat) (g : Contract → Contract) : (updContract s h g).cairns = s.cairns := rfl
@[simp] theorem updContract_nextRun (s : State) (h : Nat) (g : Contract → Contract) : (updContract s h g).nextRun = s.nextRun := rfl
@[simp] theorem updContract_waits (s : State) (h : Nat) (g : Contract → Contract) : (updContract s h g).waits = s.waits := rfl
@[simp] theorem updContract_nextWait (s : State) (h : Nat) (g : Contract → Contract) : (updContract s h g).nextWait = s.nextWait := rfl
@[simp] theorem updContract_bg (s : State) (h : Nat) (g : Contract → Contract) : (updContract s h g).bg = s.bg := rfl
@[simp] theorem updContract_nextBg (s : State) (h : Nat) (g : Contract → Contract) : (updContract s h g).nextBg = s.nextBg := rfl
@[simp] theorem updContract_sched (s : State) (h : Nat) (g : Contract → Contract) : (updContract s h g).sched = s.sched := rfl
@[simp] theorem updContract_nextCmd (s : State) (h : Nat) (g : Contract → Contract) : (updContract s h g).nextCmd = s.nextCmd := rfl
@[simp] theorem updContract_mem (s : State) (h : Nat) (g : Contract → Contract) : (updContract s h g).mem = s.mem := rfl
@[simp] theorem updContract_power (s : State) (h : Nat) (g : Contract → Contract) : (updContract s h g).power = s.power := rfl
@[simp] theorem updContract_safety (s : State) (h : Nat) (g : Contract → Contract) : (updContract s h g).safety = s.safety := rfl
@[simp] theorem updContract_amber (s : State) (h : Nat) (g : Contract → Contract) : (updContract s h g).amber = s.amber := rfl
@[simp] theorem updContract_boot (s : State) (h : Nat) (g : Contract → Contract) : (updContract s h g).boot = s.boot := rfl
@[simp] theorem updContract_pins (s : State) (h : Nat) (g : Contract → Contract) : (updContract s h g).pins = s.pins := rfl
@[simp] theorem updContract_pcie (s : State) (h : Nat) (g : Contract → Contract) : (updContract s h g).pcie = s.pcie := rfl
@[simp] theorem updContract_sideband (s : State) (h : Nat) (g : Contract → Contract) : (updContract s h g).sideband = s.sideband := rfl
@[simp] theorem updContract_strata (s : State) (h : Nat) (g : Contract → Contract) : (updContract s h g).strata = s.strata := rfl
@[simp] theorem updContract_telem (s : State) (h : Nat) (g : Contract → Contract) : (updContract s h g).telem = s.telem := rfl
@[simp] theorem updContract_out (s : State) (h : Nat) (g : Contract → Contract) : (updContract s h g).out = s.out := rfl

/-! ## updCase -/

@[simp] theorem updCase_pending (s : State) (key : Nat) (g : Case → Case) : (updCase s key g).pending = s.pending := rfl
@[simp] theorem updCase_ident (s : State) (key : Nat) (g : Case → Case) : (updCase s key g).ident = s.ident := rfl
@[simp] theorem updCase_tclk (s : State) (key : Nat) (g : Case → Case) : (updCase s key g).tclk = s.tclk := rfl
@[simp] theorem updCase_free (s : State) (key : Nat) (g : Case → Case) : (updCase s key g).free = s.free := rfl
@[simp] theorem updCase_mail (s : State) (key : Nat) (g : Case → Case) : (updCase s key g).mail = s.mail := rfl
@[simp] theorem updCase_msgs (s : State) (key : Nat) (g : Case → Case) : (updCase s key g).msgs = s.msgs := rfl
@[simp] theorem updCase_nextMsg (s : State) (key : Nat) (g : Case → Case) : (updCase s key g).nextMsg = s.nextMsg := rfl
@[simp] theorem updCase_parts (s : State) (key : Nat) (g : Case → Case) : (updCase s key g).parts = s.parts := rfl
@[simp] theorem updCase_models (s : State) (key : Nat) (g : Case → Case) : (updCase s key g).models = s.models := rfl
@[simp] theorem updCase_tables (s : State) (key : Nat) (g : Case → Case) : (updCase s key g).tables = s.tables := rfl
@[simp] theorem updCase_indexes (s : State) (key : Nat) (g : Case → Case) : (updCase s key g).indexes = s.indexes := rfl
@[simp] theorem updCase_pfxs (s : State) (key : Nat) (g : Case → Case) : (updCase s key g).pfxs = s.pfxs := rfl
@[simp] theorem updCase_contracts (s : State) (key : Nat) (g : Case → Case) : (updCase s key g).contracts = s.contracts := rfl
@[simp] theorem updCase_nextHandle (s : State) (key : Nat) (g : Case → Case) : (updCase s key g).nextHandle = s.nextHandle := rfl
@[simp] theorem updCase_cases (s : State) (key : Nat) (g : Case → Case) : (updCase s key g).cases = modifyWhere s.cases (fun c => c.hd.key == key) g := rfl
@[simp] theorem updCase_nextCase (s : State) (key : Nat) (g : Case → Case) : (updCase s key g).nextCase = s.nextCase := rfl
@[simp] theorem updCase_cairns (s : State) (key : Nat) (g : Case → Case) : (updCase s key g).cairns = s.cairns := rfl
@[simp] theorem updCase_nextRun (s : State) (key : Nat) (g : Case → Case) : (updCase s key g).nextRun = s.nextRun := rfl
@[simp] theorem updCase_waits (s : State) (key : Nat) (g : Case → Case) : (updCase s key g).waits = s.waits := rfl
@[simp] theorem updCase_nextWait (s : State) (key : Nat) (g : Case → Case) : (updCase s key g).nextWait = s.nextWait := rfl
@[simp] theorem updCase_bg (s : State) (key : Nat) (g : Case → Case) : (updCase s key g).bg = s.bg := rfl
@[simp] theorem updCase_nextBg (s : State) (key : Nat) (g : Case → Case) : (updCase s key g).nextBg = s.nextBg := rfl
@[simp] theorem updCase_sched (s : State) (key : Nat) (g : Case → Case) : (updCase s key g).sched = s.sched := rfl
@[simp] theorem updCase_nextCmd (s : State) (key : Nat) (g : Case → Case) : (updCase s key g).nextCmd = s.nextCmd := rfl
@[simp] theorem updCase_mem (s : State) (key : Nat) (g : Case → Case) : (updCase s key g).mem = s.mem := rfl
@[simp] theorem updCase_power (s : State) (key : Nat) (g : Case → Case) : (updCase s key g).power = s.power := rfl
@[simp] theorem updCase_safety (s : State) (key : Nat) (g : Case → Case) : (updCase s key g).safety = s.safety := rfl
@[simp] theorem updCase_amber (s : State) (key : Nat) (g : Case → Case) : (updCase s key g).amber = s.amber := rfl
@[simp] theorem updCase_boot (s : State) (key : Nat) (g : Case → Case) : (updCase s key g).boot = s.boot := rfl
@[simp] theorem updCase_pins (s : State) (key : Nat) (g : Case → Case) : (updCase s key g).pins = s.pins := rfl
@[simp] theorem updCase_pcie (s : State) (key : Nat) (g : Case → Case) : (updCase s key g).pcie = s.pcie := rfl
@[simp] theorem updCase_sideband (s : State) (key : Nat) (g : Case → Case) : (updCase s key g).sideband = s.sideband := rfl
@[simp] theorem updCase_strata (s : State) (key : Nat) (g : Case → Case) : (updCase s key g).strata = s.strata := rfl
@[simp] theorem updCase_telem (s : State) (key : Nat) (g : Case → Case) : (updCase s key g).telem = s.telem := rfl
@[simp] theorem updCase_out (s : State) (key : Nat) (g : Case → Case) : (updCase s key g).out = s.out := rfl

/-! ## updIndex -/

@[simp] theorem updIndex_pending (s : State) (h : Nat) (g : Index → Index) : (updIndex s h g).pending = s.pending := rfl
@[simp] theorem updIndex_ident (s : State) (h : Nat) (g : Index → Index) : (updIndex s h g).ident = s.ident := rfl
@[simp] theorem updIndex_tclk (s : State) (h : Nat) (g : Index → Index) : (updIndex s h g).tclk = s.tclk := rfl
@[simp] theorem updIndex_free (s : State) (h : Nat) (g : Index → Index) : (updIndex s h g).free = s.free := rfl
@[simp] theorem updIndex_mail (s : State) (h : Nat) (g : Index → Index) : (updIndex s h g).mail = s.mail := rfl
@[simp] theorem updIndex_msgs (s : State) (h : Nat) (g : Index → Index) : (updIndex s h g).msgs = s.msgs := rfl
@[simp] theorem updIndex_nextMsg (s : State) (h : Nat) (g : Index → Index) : (updIndex s h g).nextMsg = s.nextMsg := rfl
@[simp] theorem updIndex_parts (s : State) (h : Nat) (g : Index → Index) : (updIndex s h g).parts = s.parts := rfl
@[simp] theorem updIndex_models (s : State) (h : Nat) (g : Index → Index) : (updIndex s h g).models = s.models := rfl
@[simp] theorem updIndex_tables (s : State) (h : Nat) (g : Index → Index) : (updIndex s h g).tables = s.tables := rfl
@[simp] theorem updIndex_indexes (s : State) (h : Nat) (g : Index → Index) : (updIndex s h g).indexes = modifyWhere s.indexes (fun x => x.handle == h) g := rfl
@[simp] theorem updIndex_pfxs (s : State) (h : Nat) (g : Index → Index) : (updIndex s h g).pfxs = s.pfxs := rfl
@[simp] theorem updIndex_contracts (s : State) (h : Nat) (g : Index → Index) : (updIndex s h g).contracts = s.contracts := rfl
@[simp] theorem updIndex_nextHandle (s : State) (h : Nat) (g : Index → Index) : (updIndex s h g).nextHandle = s.nextHandle := rfl
@[simp] theorem updIndex_cases (s : State) (h : Nat) (g : Index → Index) : (updIndex s h g).cases = s.cases := rfl
@[simp] theorem updIndex_nextCase (s : State) (h : Nat) (g : Index → Index) : (updIndex s h g).nextCase = s.nextCase := rfl
@[simp] theorem updIndex_cairns (s : State) (h : Nat) (g : Index → Index) : (updIndex s h g).cairns = s.cairns := rfl
@[simp] theorem updIndex_nextRun (s : State) (h : Nat) (g : Index → Index) : (updIndex s h g).nextRun = s.nextRun := rfl
@[simp] theorem updIndex_waits (s : State) (h : Nat) (g : Index → Index) : (updIndex s h g).waits = s.waits := rfl
@[simp] theorem updIndex_nextWait (s : State) (h : Nat) (g : Index → Index) : (updIndex s h g).nextWait = s.nextWait := rfl
@[simp] theorem updIndex_bg (s : State) (h : Nat) (g : Index → Index) : (updIndex s h g).bg = s.bg := rfl
@[simp] theorem updIndex_nextBg (s : State) (h : Nat) (g : Index → Index) : (updIndex s h g).nextBg = s.nextBg := rfl
@[simp] theorem updIndex_sched (s : State) (h : Nat) (g : Index → Index) : (updIndex s h g).sched = s.sched := rfl
@[simp] theorem updIndex_nextCmd (s : State) (h : Nat) (g : Index → Index) : (updIndex s h g).nextCmd = s.nextCmd := rfl
@[simp] theorem updIndex_mem (s : State) (h : Nat) (g : Index → Index) : (updIndex s h g).mem = s.mem := rfl
@[simp] theorem updIndex_power (s : State) (h : Nat) (g : Index → Index) : (updIndex s h g).power = s.power := rfl
@[simp] theorem updIndex_safety (s : State) (h : Nat) (g : Index → Index) : (updIndex s h g).safety = s.safety := rfl
@[simp] theorem updIndex_amber (s : State) (h : Nat) (g : Index → Index) : (updIndex s h g).amber = s.amber := rfl
@[simp] theorem updIndex_boot (s : State) (h : Nat) (g : Index → Index) : (updIndex s h g).boot = s.boot := rfl
@[simp] theorem updIndex_pins (s : State) (h : Nat) (g : Index → Index) : (updIndex s h g).pins = s.pins := rfl
@[simp] theorem updIndex_pcie (s : State) (h : Nat) (g : Index → Index) : (updIndex s h g).pcie = s.pcie := rfl
@[simp] theorem updIndex_sideband (s : State) (h : Nat) (g : Index → Index) : (updIndex s h g).sideband = s.sideband := rfl
@[simp] theorem updIndex_strata (s : State) (h : Nat) (g : Index → Index) : (updIndex s h g).strata = s.strata := rfl
@[simp] theorem updIndex_telem (s : State) (h : Nat) (g : Index → Index) : (updIndex s h g).telem = s.telem := rfl
@[simp] theorem updIndex_out (s : State) (h : Nat) (g : Index → Index) : (updIndex s h g).out = s.out := rfl

/-! ## updTelem -/

@[simp] theorem updTelem_pending (s : State) (g : Telem → Telem) : (updTelem s g).pending = s.pending := rfl
@[simp] theorem updTelem_ident (s : State) (g : Telem → Telem) : (updTelem s g).ident = s.ident := rfl
@[simp] theorem updTelem_tclk (s : State) (g : Telem → Telem) : (updTelem s g).tclk = s.tclk := rfl
@[simp] theorem updTelem_free (s : State) (g : Telem → Telem) : (updTelem s g).free = s.free := rfl
@[simp] theorem updTelem_mail (s : State) (g : Telem → Telem) : (updTelem s g).mail = s.mail := rfl
@[simp] theorem updTelem_msgs (s : State) (g : Telem → Telem) : (updTelem s g).msgs = s.msgs := rfl
@[simp] theorem updTelem_nextMsg (s : State) (g : Telem → Telem) : (updTelem s g).nextMsg = s.nextMsg := rfl
@[simp] theorem updTelem_parts (s : State) (g : Telem → Telem) : (updTelem s g).parts = s.parts := rfl
@[simp] theorem updTelem_models (s : State) (g : Telem → Telem) : (updTelem s g).models = s.models := rfl
@[simp] theorem updTelem_tables (s : State) (g : Telem → Telem) : (updTelem s g).tables = s.tables := rfl
@[simp] theorem updTelem_indexes (s : State) (g : Telem → Telem) : (updTelem s g).indexes = s.indexes := rfl
@[simp] theorem updTelem_pfxs (s : State) (g : Telem → Telem) : (updTelem s g).pfxs = s.pfxs := rfl
@[simp] theorem updTelem_contracts (s : State) (g : Telem → Telem) : (updTelem s g).contracts = s.contracts := rfl
@[simp] theorem updTelem_nextHandle (s : State) (g : Telem → Telem) : (updTelem s g).nextHandle = s.nextHandle := rfl
@[simp] theorem updTelem_cases (s : State) (g : Telem → Telem) : (updTelem s g).cases = s.cases := rfl
@[simp] theorem updTelem_nextCase (s : State) (g : Telem → Telem) : (updTelem s g).nextCase = s.nextCase := rfl
@[simp] theorem updTelem_cairns (s : State) (g : Telem → Telem) : (updTelem s g).cairns = s.cairns := rfl
@[simp] theorem updTelem_nextRun (s : State) (g : Telem → Telem) : (updTelem s g).nextRun = s.nextRun := rfl
@[simp] theorem updTelem_waits (s : State) (g : Telem → Telem) : (updTelem s g).waits = s.waits := rfl
@[simp] theorem updTelem_nextWait (s : State) (g : Telem → Telem) : (updTelem s g).nextWait = s.nextWait := rfl
@[simp] theorem updTelem_bg (s : State) (g : Telem → Telem) : (updTelem s g).bg = s.bg := rfl
@[simp] theorem updTelem_nextBg (s : State) (g : Telem → Telem) : (updTelem s g).nextBg = s.nextBg := rfl
@[simp] theorem updTelem_sched (s : State) (g : Telem → Telem) : (updTelem s g).sched = s.sched := rfl
@[simp] theorem updTelem_nextCmd (s : State) (g : Telem → Telem) : (updTelem s g).nextCmd = s.nextCmd := rfl
@[simp] theorem updTelem_mem (s : State) (g : Telem → Telem) : (updTelem s g).mem = s.mem := rfl
@[simp] theorem updTelem_power (s : State) (g : Telem → Telem) : (updTelem s g).power = s.power := rfl
@[simp] theorem updTelem_safety (s : State) (g : Telem → Telem) : (updTelem s g).safety = s.safety := rfl
@[simp] theorem updTelem_amber (s : State) (g : Telem → Telem) : (updTelem s g).amber = s.amber := rfl
@[simp] theorem updTelem_boot (s : State) (g : Telem → Telem) : (updTelem s g).boot = s.boot := rfl
@[simp] theorem updTelem_pins (s : State) (g : Telem → Telem) : (updTelem s g).pins = s.pins := rfl
@[simp] theorem updTelem_pcie (s : State) (g : Telem → Telem) : (updTelem s g).pcie = s.pcie := rfl
@[simp] theorem updTelem_sideband (s : State) (g : Telem → Telem) : (updTelem s g).sideband = s.sideband := rfl
@[simp] theorem updTelem_strata (s : State) (g : Telem → Telem) : (updTelem s g).strata = s.strata := rfl
@[simp] theorem updTelem_telem (s : State) (g : Telem → Telem) : (updTelem s g).telem = g s.telem := rfl
@[simp] theorem updTelem_out (s : State) (g : Telem → Telem) : (updTelem s g).out = s.out := rfl

/-! ## updPower -/

@[simp] theorem updPower_pending (s : State) (g : Power → Power) : (updPower s g).pending = s.pending := rfl
@[simp] theorem updPower_ident (s : State) (g : Power → Power) : (updPower s g).ident = s.ident := rfl
@[simp] theorem updPower_tclk (s : State) (g : Power → Power) : (updPower s g).tclk = s.tclk := rfl
@[simp] theorem updPower_free (s : State) (g : Power → Power) : (updPower s g).free = s.free := rfl
@[simp] theorem updPower_mail (s : State) (g : Power → Power) : (updPower s g).mail = s.mail := rfl
@[simp] theorem updPower_msgs (s : State) (g : Power → Power) : (updPower s g).msgs = s.msgs := rfl
@[simp] theorem updPower_nextMsg (s : State) (g : Power → Power) : (updPower s g).nextMsg = s.nextMsg := rfl
@[simp] theorem updPower_parts (s : State) (g : Power → Power) : (updPower s g).parts = s.parts := rfl
@[simp] theorem updPower_models (s : State) (g : Power → Power) : (updPower s g).models = s.models := rfl
@[simp] theorem updPower_tables (s : State) (g : Power → Power) : (updPower s g).tables = s.tables := rfl
@[simp] theorem updPower_indexes (s : State) (g : Power → Power) : (updPower s g).indexes = s.indexes := rfl
@[simp] theorem updPower_pfxs (s : State) (g : Power → Power) : (updPower s g).pfxs = s.pfxs := rfl
@[simp] theorem updPower_contracts (s : State) (g : Power → Power) : (updPower s g).contracts = s.contracts := rfl
@[simp] theorem updPower_nextHandle (s : State) (g : Power → Power) : (updPower s g).nextHandle = s.nextHandle := rfl
@[simp] theorem updPower_cases (s : State) (g : Power → Power) : (updPower s g).cases = s.cases := rfl
@[simp] theorem updPower_nextCase (s : State) (g : Power → Power) : (updPower s g).nextCase = s.nextCase := rfl
@[simp] theorem updPower_cairns (s : State) (g : Power → Power) : (updPower s g).cairns = s.cairns := rfl
@[simp] theorem updPower_nextRun (s : State) (g : Power → Power) : (updPower s g).nextRun = s.nextRun := rfl
@[simp] theorem updPower_waits (s : State) (g : Power → Power) : (updPower s g).waits = s.waits := rfl
@[simp] theorem updPower_nextWait (s : State) (g : Power → Power) : (updPower s g).nextWait = s.nextWait := rfl
@[simp] theorem updPower_bg (s : State) (g : Power → Power) : (updPower s g).bg = s.bg := rfl
@[simp] theorem updPower_nextBg (s : State) (g : Power → Power) : (updPower s g).nextBg = s.nextBg := rfl
@[simp] theorem updPower_sched (s : State) (g : Power → Power) : (updPower s g).sched = s.sched := rfl
@[simp] theorem updPower_nextCmd (s : State) (g : Power → Power) : (updPower s g).nextCmd = s.nextCmd := rfl
@[simp] theorem updPower_mem (s : State) (g : Power → Power) : (updPower s g).mem = s.mem := rfl
@[simp] theorem updPower_power (s : State) (g : Power → Power) : (updPower s g).power = g s.power := rfl
@[simp] theorem updPower_safety (s : State) (g : Power → Power) : (updPower s g).safety = s.safety := rfl
@[simp] theorem updPower_amber (s : State) (g : Power → Power) : (updPower s g).amber = s.amber := rfl
@[simp] theorem updPower_boot (s : State) (g : Power → Power) : (updPower s g).boot = s.boot := rfl
@[simp] theorem updPower_pins (s : State) (g : Power → Power) : (updPower s g).pins = s.pins := rfl
@[simp] theorem updPower_pcie (s : State) (g : Power → Power) : (updPower s g).pcie = s.pcie := rfl
@[simp] theorem updPower_sideband (s : State) (g : Power → Power) : (updPower s g).sideband = s.sideband := rfl
@[simp] theorem updPower_strata (s : State) (g : Power → Power) : (updPower s g).strata = s.strata := rfl
@[simp] theorem updPower_telem (s : State) (g : Power → Power) : (updPower s g).telem = s.telem := rfl
@[simp] theorem updPower_out (s : State) (g : Power → Power) : (updPower s g).out = s.out := rfl

/-! ## updDie -/

@[simp] theorem updDie_pending (s : State) (i : Nat) (g : Die → Die) : (updDie s i g).pending = s.pending := rfl
@[simp] theorem updDie_ident (s : State) (i : Nat) (g : Die → Die) : (updDie s i g).ident = s.ident := rfl
@[simp] theorem updDie_tclk (s : State) (i : Nat) (g : Die → Die) : (updDie s i g).tclk = s.tclk := rfl
@[simp] theorem updDie_free (s : State) (i : Nat) (g : Die → Die) : (updDie s i g).free = s.free := rfl
@[simp] theorem updDie_mail (s : State) (i : Nat) (g : Die → Die) : (updDie s i g).mail = s.mail := rfl
@[simp] theorem updDie_msgs (s : State) (i : Nat) (g : Die → Die) : (updDie s i g).msgs = s.msgs := rfl
@[simp] theorem updDie_nextMsg (s : State) (i : Nat) (g : Die → Die) : (updDie s i g).nextMsg = s.nextMsg := rfl
@[simp] theorem updDie_parts (s : State) (i : Nat) (g : Die → Die) : (updDie s i g).parts = s.parts := rfl
@[simp] theorem updDie_models (s : State) (i : Nat) (g : Die → Die) : (updDie s i g).models = s.models := rfl
@[simp] theorem updDie_tables (s : State) (i : Nat) (g : Die → Die) : (updDie s i g).tables = s.tables := rfl
@[simp] theorem updDie_indexes (s : State) (i : Nat) (g : Die → Die) : (updDie s i g).indexes = s.indexes := rfl
@[simp] theorem updDie_pfxs (s : State) (i : Nat) (g : Die → Die) : (updDie s i g).pfxs = s.pfxs := rfl
@[simp] theorem updDie_contracts (s : State) (i : Nat) (g : Die → Die) : (updDie s i g).contracts = s.contracts := rfl
@[simp] theorem updDie_nextHandle (s : State) (i : Nat) (g : Die → Die) : (updDie s i g).nextHandle = s.nextHandle := rfl
@[simp] theorem updDie_cases (s : State) (i : Nat) (g : Die → Die) : (updDie s i g).cases = s.cases := rfl
@[simp] theorem updDie_nextCase (s : State) (i : Nat) (g : Die → Die) : (updDie s i g).nextCase = s.nextCase := rfl
@[simp] theorem updDie_cairns (s : State) (i : Nat) (g : Die → Die) : (updDie s i g).cairns = s.cairns := rfl
@[simp] theorem updDie_nextRun (s : State) (i : Nat) (g : Die → Die) : (updDie s i g).nextRun = s.nextRun := rfl
@[simp] theorem updDie_waits (s : State) (i : Nat) (g : Die → Die) : (updDie s i g).waits = s.waits := rfl
@[simp] theorem updDie_nextWait (s : State) (i : Nat) (g : Die → Die) : (updDie s i g).nextWait = s.nextWait := rfl
@[simp] theorem updDie_bg (s : State) (i : Nat) (g : Die → Die) : (updDie s i g).bg = s.bg := rfl
@[simp] theorem updDie_nextBg (s : State) (i : Nat) (g : Die → Die) : (updDie s i g).nextBg = s.nextBg := rfl
@[simp] theorem updDie_sched (s : State) (i : Nat) (g : Die → Die) : (updDie s i g).sched = s.sched := rfl
@[simp] theorem updDie_nextCmd (s : State) (i : Nat) (g : Die → Die) : (updDie s i g).nextCmd = s.nextCmd := rfl
@[simp] theorem updDie_mem (s : State) (i : Nat) (g : Die → Die) : (updDie s i g).mem = s.mem := rfl
@[simp] theorem updDie_power (s : State) (i : Nat) (g : Die → Die) : (updDie s i g).power = { s.power with dies := modifyAt s.power.dies i g } := rfl
@[simp] theorem updDie_safety (s : State) (i : Nat) (g : Die → Die) : (updDie s i g).safety = s.safety := rfl
@[simp] theorem updDie_amber (s : State) (i : Nat) (g : Die → Die) : (updDie s i g).amber = s.amber := rfl
@[simp] theorem updDie_boot (s : State) (i : Nat) (g : Die → Die) : (updDie s i g).boot = s.boot := rfl
@[simp] theorem updDie_pins (s : State) (i : Nat) (g : Die → Die) : (updDie s i g).pins = s.pins := rfl
@[simp] theorem updDie_pcie (s : State) (i : Nat) (g : Die → Die) : (updDie s i g).pcie = s.pcie := rfl
@[simp] theorem updDie_sideband (s : State) (i : Nat) (g : Die → Die) : (updDie s i g).sideband = s.sideband := rfl
@[simp] theorem updDie_strata (s : State) (i : Nat) (g : Die → Die) : (updDie s i g).strata = s.strata := rfl
@[simp] theorem updDie_telem (s : State) (i : Nat) (g : Die → Die) : (updDie s i g).telem = s.telem := rfl
@[simp] theorem updDie_out (s : State) (i : Nat) (g : Die → Die) : (updDie s i g).out = s.out := rfl

/-! ## updSafety -/

@[simp] theorem updSafety_pending (s : State) (g : Safety → Safety) : (updSafety s g).pending = s.pending := rfl
@[simp] theorem updSafety_ident (s : State) (g : Safety → Safety) : (updSafety s g).ident = s.ident := rfl
@[simp] theorem updSafety_tclk (s : State) (g : Safety → Safety) : (updSafety s g).tclk = s.tclk := rfl
@[simp] theorem updSafety_free (s : State) (g : Safety → Safety) : (updSafety s g).free = s.free := rfl
@[simp] theorem updSafety_mail (s : State) (g : Safety → Safety) : (updSafety s g).mail = s.mail := rfl
@[simp] theorem updSafety_msgs (s : State) (g : Safety → Safety) : (updSafety s g).msgs = s.msgs := rfl
@[simp] theorem updSafety_nextMsg (s : State) (g : Safety → Safety) : (updSafety s g).nextMsg = s.nextMsg := rfl
@[simp] theorem updSafety_parts (s : State) (g : Safety → Safety) : (updSafety s g).parts = s.parts := rfl
@[simp] theorem updSafety_models (s : State) (g : Safety → Safety) : (updSafety s g).models = s.models := rfl
@[simp] theorem updSafety_tables (s : State) (g : Safety → Safety) : (updSafety s g).tables = s.tables := rfl
@[simp] theorem updSafety_indexes (s : State) (g : Safety → Safety) : (updSafety s g).indexes = s.indexes := rfl
@[simp] theorem updSafety_pfxs (s : State) (g : Safety → Safety) : (updSafety s g).pfxs = s.pfxs := rfl
@[simp] theorem updSafety_contracts (s : State) (g : Safety → Safety) : (updSafety s g).contracts = s.contracts := rfl
@[simp] theorem updSafety_nextHandle (s : State) (g : Safety → Safety) : (updSafety s g).nextHandle = s.nextHandle := rfl
@[simp] theorem updSafety_cases (s : State) (g : Safety → Safety) : (updSafety s g).cases = s.cases := rfl
@[simp] theorem updSafety_nextCase (s : State) (g : Safety → Safety) : (updSafety s g).nextCase = s.nextCase := rfl
@[simp] theorem updSafety_cairns (s : State) (g : Safety → Safety) : (updSafety s g).cairns = s.cairns := rfl
@[simp] theorem updSafety_nextRun (s : State) (g : Safety → Safety) : (updSafety s g).nextRun = s.nextRun := rfl
@[simp] theorem updSafety_waits (s : State) (g : Safety → Safety) : (updSafety s g).waits = s.waits := rfl
@[simp] theorem updSafety_nextWait (s : State) (g : Safety → Safety) : (updSafety s g).nextWait = s.nextWait := rfl
@[simp] theorem updSafety_bg (s : State) (g : Safety → Safety) : (updSafety s g).bg = s.bg := rfl
@[simp] theorem updSafety_nextBg (s : State) (g : Safety → Safety) : (updSafety s g).nextBg = s.nextBg := rfl
@[simp] theorem updSafety_sched (s : State) (g : Safety → Safety) : (updSafety s g).sched = s.sched := rfl
@[simp] theorem updSafety_nextCmd (s : State) (g : Safety → Safety) : (updSafety s g).nextCmd = s.nextCmd := rfl
@[simp] theorem updSafety_mem (s : State) (g : Safety → Safety) : (updSafety s g).mem = s.mem := rfl
@[simp] theorem updSafety_power (s : State) (g : Safety → Safety) : (updSafety s g).power = s.power := rfl
@[simp] theorem updSafety_safety (s : State) (g : Safety → Safety) : (updSafety s g).safety = g s.safety := rfl
@[simp] theorem updSafety_amber (s : State) (g : Safety → Safety) : (updSafety s g).amber = s.amber := rfl
@[simp] theorem updSafety_boot (s : State) (g : Safety → Safety) : (updSafety s g).boot = s.boot := rfl
@[simp] theorem updSafety_pins (s : State) (g : Safety → Safety) : (updSafety s g).pins = s.pins := rfl
@[simp] theorem updSafety_pcie (s : State) (g : Safety → Safety) : (updSafety s g).pcie = s.pcie := rfl
@[simp] theorem updSafety_sideband (s : State) (g : Safety → Safety) : (updSafety s g).sideband = s.sideband := rfl
@[simp] theorem updSafety_strata (s : State) (g : Safety → Safety) : (updSafety s g).strata = s.strata := rfl
@[simp] theorem updSafety_telem (s : State) (g : Safety → Safety) : (updSafety s g).telem = s.telem := rfl
@[simp] theorem updSafety_out (s : State) (g : Safety → Safety) : (updSafety s g).out = s.out := rfl

/-! ## journaled -/

@[simp] theorem journaled_pending (s : State) (ms : List Cmd) (t : State) : (journaled s ms t).pending = t.pending := rfl
@[simp] theorem journaled_ident (s : State) (ms : List Cmd) (t : State) : (journaled s ms t).ident = t.ident := rfl
@[simp] theorem journaled_tclk (s : State) (ms : List Cmd) (t : State) : (journaled s ms t).tclk = t.tclk := rfl
@[simp] theorem journaled_free (s : State) (ms : List Cmd) (t : State) : (journaled s ms t).free = t.free := rfl
@[simp] theorem journaled_mail (s : State) (ms : List Cmd) (t : State) : (journaled s ms t).mail = t.mail := rfl
@[simp] theorem journaled_msgs (s : State) (ms : List Cmd) (t : State) : (journaled s ms t).msgs = t.msgs := rfl
@[simp] theorem journaled_nextMsg (s : State) (ms : List Cmd) (t : State) : (journaled s ms t).nextMsg = t.nextMsg := rfl
@[simp] theorem journaled_parts (s : State) (ms : List Cmd) (t : State) : (journaled s ms t).parts = t.parts := rfl
@[simp] theorem journaled_models (s : State) (ms : List Cmd) (t : State) : (journaled s ms t).models = t.models := rfl
@[simp] theorem journaled_tables (s : State) (ms : List Cmd) (t : State) : (journaled s ms t).tables = t.tables := rfl
@[simp] theorem journaled_indexes (s : State) (ms : List Cmd) (t : State) : (journaled s ms t).indexes = t.indexes := rfl
@[simp] theorem journaled_pfxs (s : State) (ms : List Cmd) (t : State) : (journaled s ms t).pfxs = t.pfxs := rfl
@[simp] theorem journaled_contracts (s : State) (ms : List Cmd) (t : State) : (journaled s ms t).contracts = t.contracts := rfl
@[simp] theorem journaled_nextHandle (s : State) (ms : List Cmd) (t : State) : (journaled s ms t).nextHandle = t.nextHandle := rfl
@[simp] theorem journaled_cases (s : State) (ms : List Cmd) (t : State) : (journaled s ms t).cases = t.cases := rfl
@[simp] theorem journaled_nextCase (s : State) (ms : List Cmd) (t : State) : (journaled s ms t).nextCase = t.nextCase := rfl
@[simp] theorem journaled_cairns (s : State) (ms : List Cmd) (t : State) : (journaled s ms t).cairns = t.cairns := rfl
@[simp] theorem journaled_nextRun (s : State) (ms : List Cmd) (t : State) : (journaled s ms t).nextRun = t.nextRun := rfl
@[simp] theorem journaled_waits (s : State) (ms : List Cmd) (t : State) : (journaled s ms t).waits = t.waits := rfl
@[simp] theorem journaled_nextWait (s : State) (ms : List Cmd) (t : State) : (journaled s ms t).nextWait = t.nextWait := rfl
@[simp] theorem journaled_bg (s : State) (ms : List Cmd) (t : State) : (journaled s ms t).bg = t.bg := rfl
@[simp] theorem journaled_nextBg (s : State) (ms : List Cmd) (t : State) : (journaled s ms t).nextBg = t.nextBg := rfl
@[simp] theorem journaled_sched (s : State) (ms : List Cmd) (t : State) : (journaled s ms t).sched = t.sched := rfl
@[simp] theorem journaled_nextCmd (s : State) (ms : List Cmd) (t : State) : (journaled s ms t).nextCmd = t.nextCmd := rfl
@[simp] theorem journaled_mem (s : State) (ms : List Cmd) (t : State) : (journaled s ms t).mem = t.mem := rfl
@[simp] theorem journaled_power (s : State) (ms : List Cmd) (t : State) : (journaled s ms t).power = t.power := rfl
@[simp] theorem journaled_amber (s : State) (ms : List Cmd) (t : State) : (journaled s ms t).amber = t.amber := rfl
@[simp] theorem journaled_boot (s : State) (ms : List Cmd) (t : State) : (journaled s ms t).boot = t.boot := rfl
@[simp] theorem journaled_pins (s : State) (ms : List Cmd) (t : State) : (journaled s ms t).pins = t.pins := rfl
@[simp] theorem journaled_pcie (s : State) (ms : List Cmd) (t : State) : (journaled s ms t).pcie = t.pcie := rfl
@[simp] theorem journaled_sideband (s : State) (ms : List Cmd) (t : State) : (journaled s ms t).sideband = t.sideband := rfl
@[simp] theorem journaled_strata (s : State) (ms : List Cmd) (t : State) : (journaled s ms t).strata = t.strata := rfl
@[simp] theorem journaled_telem (s : State) (ms : List Cmd) (t : State) : (journaled s ms t).telem = t.telem := rfl
@[simp] theorem journaled_out (s : State) (ms : List Cmd) (t : State) : (journaled s ms t).out = t.out := rfl

/-! ## updBoot -/

@[simp] theorem updBoot_pending (s : State) (g : Boot → Boot) : (updBoot s g).pending = s.pending := rfl
@[simp] theorem updBoot_ident (s : State) (g : Boot → Boot) : (updBoot s g).ident = s.ident := rfl
@[simp] theorem updBoot_tclk (s : State) (g : Boot → Boot) : (updBoot s g).tclk = s.tclk := rfl
@[simp] theorem updBoot_free (s : State) (g : Boot → Boot) : (updBoot s g).free = s.free := rfl
@[simp] theorem updBoot_mail (s : State) (g : Boot → Boot) : (updBoot s g).mail = s.mail := rfl
@[simp] theorem updBoot_msgs (s : State) (g : Boot → Boot) : (updBoot s g).msgs = s.msgs := rfl
@[simp] theorem updBoot_nextMsg (s : State) (g : Boot → Boot) : (updBoot s g).nextMsg = s.nextMsg := rfl
@[simp] theorem updBoot_parts (s : State) (g : Boot → Boot) : (updBoot s g).parts = s.parts := rfl
@[simp] theorem updBoot_models (s : State) (g : Boot → Boot) : (updBoot s g).models = s.models := rfl
@[simp] theorem updBoot_tables (s : State) (g : Boot → Boot) : (updBoot s g).tables = s.tables := rfl
@[simp] theorem updBoot_indexes (s : State) (g : Boot → Boot) : (updBoot s g).indexes = s.indexes := rfl
@[simp] theorem updBoot_pfxs (s : State) (g : Boot → Boot) : (updBoot s g).pfxs = s.pfxs := rfl
@[simp] theorem updBoot_contracts (s : State) (g : Boot → Boot) : (updBoot s g).contracts = s.contracts := rfl
@[simp] theorem updBoot_nextHandle (s : State) (g : Boot → Boot) : (updBoot s g).nextHandle = s.nextHandle := rfl
@[simp] theorem updBoot_cases (s : State) (g : Boot → Boot) : (updBoot s g).cases = s.cases := rfl
@[simp] theorem updBoot_nextCase (s : State) (g : Boot → Boot) : (updBoot s g).nextCase = s.nextCase := rfl
@[simp] theorem updBoot_cairns (s : State) (g : Boot → Boot) : (updBoot s g).cairns = s.cairns := rfl
@[simp] theorem updBoot_nextRun (s : State) (g : Boot → Boot) : (updBoot s g).nextRun = s.nextRun := rfl
@[simp] theorem updBoot_waits (s : State) (g : Boot → Boot) : (updBoot s g).waits = s.waits := rfl
@[simp] theorem updBoot_nextWait (s : State) (g : Boot → Boot) : (updBoot s g).nextWait = s.nextWait := rfl
@[simp] theorem updBoot_bg (s : State) (g : Boot → Boot) : (updBoot s g).bg = s.bg := rfl
@[simp] theorem updBoot_nextBg (s : State) (g : Boot → Boot) : (updBoot s g).nextBg = s.nextBg := rfl
@[simp] theorem updBoot_sched (s : State) (g : Boot → Boot) : (updBoot s g).sched = s.sched := rfl
@[simp] theorem updBoot_nextCmd (s : State) (g : Boot → Boot) : (updBoot s g).nextCmd = s.nextCmd := rfl
@[simp] theorem updBoot_mem (s : State) (g : Boot → Boot) : (updBoot s g).mem = s.mem := rfl
@[simp] theorem updBoot_power (s : State) (g : Boot → Boot) : (updBoot s g).power = s.power := rfl
@[simp] theorem updBoot_safety (s : State) (g : Boot → Boot) : (updBoot s g).safety = s.safety := rfl
@[simp] theorem updBoot_amber (s : State) (g : Boot → Boot) : (updBoot s g).amber = s.amber := rfl
@[simp] theorem updBoot_boot (s : State) (g : Boot → Boot) : (updBoot s g).boot = g s.boot := rfl
@[simp] theorem updBoot_pins (s : State) (g : Boot → Boot) : (updBoot s g).pins = s.pins := rfl
@[simp] theorem updBoot_pcie (s : State) (g : Boot → Boot) : (updBoot s g).pcie = s.pcie := rfl
@[simp] theorem updBoot_sideband (s : State) (g : Boot → Boot) : (updBoot s g).sideband = s.sideband := rfl
@[simp] theorem updBoot_strata (s : State) (g : Boot → Boot) : (updBoot s g).strata = s.strata := rfl
@[simp] theorem updBoot_telem (s : State) (g : Boot → Boot) : (updBoot s g).telem = s.telem := rfl
@[simp] theorem updBoot_out (s : State) (g : Boot → Boot) : (updBoot s g).out = s.out := rfl

/-! ## updSched -/

@[simp] theorem updSched_pending (s : State) (g : Sched → Sched) : (updSched s g).pending = s.pending := rfl
@[simp] theorem updSched_ident (s : State) (g : Sched → Sched) : (updSched s g).ident = s.ident := rfl
@[simp] theorem updSched_tclk (s : State) (g : Sched → Sched) : (updSched s g).tclk = s.tclk := rfl
@[simp] theorem updSched_free (s : State) (g : Sched → Sched) : (updSched s g).free = s.free := rfl
@[simp] theorem updSched_mail (s : State) (g : Sched → Sched) : (updSched s g).mail = s.mail := rfl
@[simp] theorem updSched_msgs (s : State) (g : Sched → Sched) : (updSched s g).msgs = s.msgs := rfl
@[simp] theorem updSched_nextMsg (s : State) (g : Sched → Sched) : (updSched s g).nextMsg = s.nextMsg := rfl
@[simp] theorem updSched_parts (s : State) (g : Sched → Sched) : (updSched s g).parts = s.parts := rfl
@[simp] theorem updSched_models (s : State) (g : Sched → Sched) : (updSched s g).models = s.models := rfl
@[simp] theorem updSched_tables (s : State) (g : Sched → Sched) : (updSched s g).tables = s.tables := rfl
@[simp] theorem updSched_indexes (s : State) (g : Sched → Sched) : (updSched s g).indexes = s.indexes := rfl
@[simp] theorem updSched_pfxs (s : State) (g : Sched → Sched) : (updSched s g).pfxs = s.pfxs := rfl
@[simp] theorem updSched_contracts (s : State) (g : Sched → Sched) : (updSched s g).contracts = s.contracts := rfl
@[simp] theorem updSched_nextHandle (s : State) (g : Sched → Sched) : (updSched s g).nextHandle = s.nextHandle := rfl
@[simp] theorem updSched_cases (s : State) (g : Sched → Sched) : (updSched s g).cases = s.cases := rfl
@[simp] theorem updSched_nextCase (s : State) (g : Sched → Sched) : (updSched s g).nextCase = s.nextCase := rfl
@[simp] theorem updSched_cairns (s : State) (g : Sched → Sched) : (updSched s g).cairns = s.cairns := rfl
@[simp] theorem updSched_nextRun (s : State) (g : Sched → Sched) : (updSched s g).nextRun = s.nextRun := rfl
@[simp] theorem updSched_waits (s : State) (g : Sched → Sched) : (updSched s g).waits = s.waits := rfl
@[simp] theorem updSched_nextWait (s : State) (g : Sched → Sched) : (updSched s g).nextWait = s.nextWait := rfl
@[simp] theorem updSched_bg (s : State) (g : Sched → Sched) : (updSched s g).bg = s.bg := rfl
@[simp] theorem updSched_nextBg (s : State) (g : Sched → Sched) : (updSched s g).nextBg = s.nextBg := rfl
@[simp] theorem updSched_sched (s : State) (g : Sched → Sched) : (updSched s g).sched = g s.sched := rfl
@[simp] theorem updSched_nextCmd (s : State) (g : Sched → Sched) : (updSched s g).nextCmd = s.nextCmd := rfl
@[simp] theorem updSched_mem (s : State) (g : Sched → Sched) : (updSched s g).mem = s.mem := rfl
@[simp] theorem updSched_power (s : State) (g : Sched → Sched) : (updSched s g).power = s.power := rfl
@[simp] theorem updSched_safety (s : State) (g : Sched → Sched) : (updSched s g).safety = s.safety := rfl
@[simp] theorem updSched_amber (s : State) (g : Sched → Sched) : (updSched s g).amber = s.amber := rfl
@[simp] theorem updSched_boot (s : State) (g : Sched → Sched) : (updSched s g).boot = s.boot := rfl
@[simp] theorem updSched_pins (s : State) (g : Sched → Sched) : (updSched s g).pins = s.pins := rfl
@[simp] theorem updSched_pcie (s : State) (g : Sched → Sched) : (updSched s g).pcie = s.pcie := rfl
@[simp] theorem updSched_sideband (s : State) (g : Sched → Sched) : (updSched s g).sideband = s.sideband := rfl
@[simp] theorem updSched_strata (s : State) (g : Sched → Sched) : (updSched s g).strata = s.strata := rfl
@[simp] theorem updSched_telem (s : State) (g : Sched → Sched) : (updSched s g).telem = s.telem := rfl
@[simp] theorem updSched_out (s : State) (g : Sched → Sched) : (updSched s g).out = s.out := rfl

/-! ## updCmd -/

@[simp] theorem updCmd_pending (s : State) (i : Nat) (g : Cmd → Cmd) : (updCmd s i g).pending = s.pending := rfl
@[simp] theorem updCmd_ident (s : State) (i : Nat) (g : Cmd → Cmd) : (updCmd s i g).ident = s.ident := rfl
@[simp] theorem updCmd_tclk (s : State) (i : Nat) (g : Cmd → Cmd) : (updCmd s i g).tclk = s.tclk := rfl
@[simp] theorem updCmd_free (s : State) (i : Nat) (g : Cmd → Cmd) : (updCmd s i g).free = s.free := rfl
@[simp] theorem updCmd_mail (s : State) (i : Nat) (g : Cmd → Cmd) : (updCmd s i g).mail = s.mail := rfl
@[simp] theorem updCmd_msgs (s : State) (i : Nat) (g : Cmd → Cmd) : (updCmd s i g).msgs = s.msgs := rfl
@[simp] theorem updCmd_nextMsg (s : State) (i : Nat) (g : Cmd → Cmd) : (updCmd s i g).nextMsg = s.nextMsg := rfl
@[simp] theorem updCmd_parts (s : State) (i : Nat) (g : Cmd → Cmd) : (updCmd s i g).parts = s.parts := rfl
@[simp] theorem updCmd_models (s : State) (i : Nat) (g : Cmd → Cmd) : (updCmd s i g).models = s.models := rfl
@[simp] theorem updCmd_tables (s : State) (i : Nat) (g : Cmd → Cmd) : (updCmd s i g).tables = s.tables := rfl
@[simp] theorem updCmd_indexes (s : State) (i : Nat) (g : Cmd → Cmd) : (updCmd s i g).indexes = s.indexes := rfl
@[simp] theorem updCmd_pfxs (s : State) (i : Nat) (g : Cmd → Cmd) : (updCmd s i g).pfxs = s.pfxs := rfl
@[simp] theorem updCmd_contracts (s : State) (i : Nat) (g : Cmd → Cmd) : (updCmd s i g).contracts = s.contracts := rfl
@[simp] theorem updCmd_nextHandle (s : State) (i : Nat) (g : Cmd → Cmd) : (updCmd s i g).nextHandle = s.nextHandle := rfl
@[simp] theorem updCmd_cases (s : State) (i : Nat) (g : Cmd → Cmd) : (updCmd s i g).cases = s.cases := rfl
@[simp] theorem updCmd_nextCase (s : State) (i : Nat) (g : Cmd → Cmd) : (updCmd s i g).nextCase = s.nextCase := rfl
@[simp] theorem updCmd_cairns (s : State) (i : Nat) (g : Cmd → Cmd) : (updCmd s i g).cairns = s.cairns := rfl
@[simp] theorem updCmd_nextRun (s : State) (i : Nat) (g : Cmd → Cmd) : (updCmd s i g).nextRun = s.nextRun := rfl
@[simp] theorem updCmd_waits (s : State) (i : Nat) (g : Cmd → Cmd) : (updCmd s i g).waits = s.waits := rfl
@[simp] theorem updCmd_nextWait (s : State) (i : Nat) (g : Cmd → Cmd) : (updCmd s i g).nextWait = s.nextWait := rfl
@[simp] theorem updCmd_bg (s : State) (i : Nat) (g : Cmd → Cmd) : (updCmd s i g).bg = s.bg := rfl
@[simp] theorem updCmd_nextBg (s : State) (i : Nat) (g : Cmd → Cmd) : (updCmd s i g).nextBg = s.nextBg := rfl
@[simp] theorem updCmd_sched (s : State) (i : Nat) (g : Cmd → Cmd) : (updCmd s i g).sched = { s.sched with cmds := modifyWhere s.sched.cmds (fun c => c.id == i) g } := rfl
@[simp] theorem updCmd_nextCmd (s : State) (i : Nat) (g : Cmd → Cmd) : (updCmd s i g).nextCmd = s.nextCmd := rfl
@[simp] theorem updCmd_mem (s : State) (i : Nat) (g : Cmd → Cmd) : (updCmd s i g).mem = s.mem := rfl
@[simp] theorem updCmd_power (s : State) (i : Nat) (g : Cmd → Cmd) : (updCmd s i g).power = s.power := rfl
@[simp] theorem updCmd_safety (s : State) (i : Nat) (g : Cmd → Cmd) : (updCmd s i g).safety = s.safety := rfl
@[simp] theorem updCmd_amber (s : State) (i : Nat) (g : Cmd → Cmd) : (updCmd s i g).amber = s.amber := rfl
@[simp] theorem updCmd_boot (s : State) (i : Nat) (g : Cmd → Cmd) : (updCmd s i g).boot = s.boot := rfl
@[simp] theorem updCmd_pins (s : State) (i : Nat) (g : Cmd → Cmd) : (updCmd s i g).pins = s.pins := rfl
@[simp] theorem updCmd_pcie (s : State) (i : Nat) (g : Cmd → Cmd) : (updCmd s i g).pcie = s.pcie := rfl
@[simp] theorem updCmd_sideband (s : State) (i : Nat) (g : Cmd → Cmd) : (updCmd s i g).sideband = s.sideband := rfl
@[simp] theorem updCmd_strata (s : State) (i : Nat) (g : Cmd → Cmd) : (updCmd s i g).strata = s.strata := rfl
@[simp] theorem updCmd_telem (s : State) (i : Nat) (g : Cmd → Cmd) : (updCmd s i g).telem = s.telem := rfl
@[simp] theorem updCmd_out (s : State) (i : Nat) (g : Cmd → Cmd) : (updCmd s i g).out = s.out := rfl

/-! ## newHandle -/

@[simp] theorem newHandle_pending (s : State) : (newHandle s).pending = s.pending := rfl
@[simp] theorem newHandle_ident (s : State) : (newHandle s).ident = s.ident := rfl
@[simp] theorem newHandle_tclk (s : State) : (newHandle s).tclk = s.tclk := rfl
@[simp] theorem newHandle_free (s : State) : (newHandle s).free = s.free := rfl
@[simp] theorem newHandle_mail (s : State) : (newHandle s).mail = s.mail := rfl
@[simp] theorem newHandle_msgs (s : State) : (newHandle s).msgs = s.msgs := rfl
@[simp] theorem newHandle_nextMsg (s : State) : (newHandle s).nextMsg = s.nextMsg := rfl
@[simp] theorem newHandle_parts (s : State) : (newHandle s).parts = s.parts := rfl
@[simp] theorem newHandle_models (s : State) : (newHandle s).models = s.models := rfl
@[simp] theorem newHandle_tables (s : State) : (newHandle s).tables = s.tables := rfl
@[simp] theorem newHandle_indexes (s : State) : (newHandle s).indexes = s.indexes := rfl
@[simp] theorem newHandle_pfxs (s : State) : (newHandle s).pfxs = s.pfxs := rfl
@[simp] theorem newHandle_contracts (s : State) : (newHandle s).contracts = s.contracts := rfl
@[simp] theorem newHandle_nextHandle (s : State) : (newHandle s).nextHandle = s.nextHandle + 1 := rfl
@[simp] theorem newHandle_cases (s : State) : (newHandle s).cases = s.cases := rfl
@[simp] theorem newHandle_nextCase (s : State) : (newHandle s).nextCase = s.nextCase := rfl
@[simp] theorem newHandle_cairns (s : State) : (newHandle s).cairns = s.cairns := rfl
@[simp] theorem newHandle_nextRun (s : State) : (newHandle s).nextRun = s.nextRun := rfl
@[simp] theorem newHandle_waits (s : State) : (newHandle s).waits = s.waits := rfl
@[simp] theorem newHandle_nextWait (s : State) : (newHandle s).nextWait = s.nextWait := rfl
@[simp] theorem newHandle_bg (s : State) : (newHandle s).bg = s.bg := rfl
@[simp] theorem newHandle_nextBg (s : State) : (newHandle s).nextBg = s.nextBg := rfl
@[simp] theorem newHandle_sched (s : State) : (newHandle s).sched = s.sched := rfl
@[simp] theorem newHandle_nextCmd (s : State) : (newHandle s).nextCmd = s.nextCmd := rfl
@[simp] theorem newHandle_mem (s : State) : (newHandle s).mem = s.mem := rfl
@[simp] theorem newHandle_power (s : State) : (newHandle s).power = s.power := rfl
@[simp] theorem newHandle_safety (s : State) : (newHandle s).safety = s.safety := rfl
@[simp] theorem newHandle_amber (s : State) : (newHandle s).amber = s.amber := rfl
@[simp] theorem newHandle_boot (s : State) : (newHandle s).boot = s.boot := rfl
@[simp] theorem newHandle_pins (s : State) : (newHandle s).pins = s.pins := rfl
@[simp] theorem newHandle_pcie (s : State) : (newHandle s).pcie = s.pcie := rfl
@[simp] theorem newHandle_sideband (s : State) : (newHandle s).sideband = s.sideband := rfl
@[simp] theorem newHandle_strata (s : State) : (newHandle s).strata = s.strata := rfl
@[simp] theorem newHandle_telem (s : State) : (newHandle s).telem = s.telem := rfl
@[simp] theorem newHandle_out (s : State) : (newHandle s).out = s.out := rfl

/-! ## updTier -/

@[simp] theorem updTier_pending (s : State) (t : Tier) (g : TierState → TierState) : (updTier s t g).pending = s.pending := by
  cases t <;> rfl
@[simp] theorem updTier_ident (s : State) (t : Tier) (g : TierState → TierState) : (updTier s t g).ident = s.ident := by
  cases t <;> rfl
@[simp] theorem updTier_tclk (s : State) (t : Tier) (g : TierState → TierState) : (updTier s t g).tclk = s.tclk := by
  cases t <;> rfl
@[simp] theorem updTier_free (s : State) (t : Tier) (g : TierState → TierState) : (updTier s t g).free = s.free := by
  cases t <;> rfl
@[simp] theorem updTier_mail (s : State) (t : Tier) (g : TierState → TierState) : (updTier s t g).mail = s.mail := by
  cases t <;> rfl
@[simp] theorem updTier_msgs (s : State) (t : Tier) (g : TierState → TierState) : (updTier s t g).msgs = s.msgs := by
  cases t <;> rfl
@[simp] theorem updTier_nextMsg (s : State) (t : Tier) (g : TierState → TierState) : (updTier s t g).nextMsg = s.nextMsg := by
  cases t <;> rfl
@[simp] theorem updTier_parts (s : State) (t : Tier) (g : TierState → TierState) : (updTier s t g).parts = s.parts := by
  cases t <;> rfl
@[simp] theorem updTier_models (s : State) (t : Tier) (g : TierState → TierState) : (updTier s t g).models = s.models := by
  cases t <;> rfl
@[simp] theorem updTier_tables (s : State) (t : Tier) (g : TierState → TierState) : (updTier s t g).tables = s.tables := by
  cases t <;> rfl
@[simp] theorem updTier_indexes (s : State) (t : Tier) (g : TierState → TierState) : (updTier s t g).indexes = s.indexes := by
  cases t <;> rfl
@[simp] theorem updTier_pfxs (s : State) (t : Tier) (g : TierState → TierState) : (updTier s t g).pfxs = s.pfxs := by
  cases t <;> rfl
@[simp] theorem updTier_contracts (s : State) (t : Tier) (g : TierState → TierState) : (updTier s t g).contracts = s.contracts := by
  cases t <;> rfl
@[simp] theorem updTier_nextHandle (s : State) (t : Tier) (g : TierState → TierState) : (updTier s t g).nextHandle = s.nextHandle := by
  cases t <;> rfl
@[simp] theorem updTier_cases (s : State) (t : Tier) (g : TierState → TierState) : (updTier s t g).cases = s.cases := by
  cases t <;> rfl
@[simp] theorem updTier_nextCase (s : State) (t : Tier) (g : TierState → TierState) : (updTier s t g).nextCase = s.nextCase := by
  cases t <;> rfl
@[simp] theorem updTier_cairns (s : State) (t : Tier) (g : TierState → TierState) : (updTier s t g).cairns = s.cairns := by
  cases t <;> rfl
@[simp] theorem updTier_nextRun (s : State) (t : Tier) (g : TierState → TierState) : (updTier s t g).nextRun = s.nextRun := by
  cases t <;> rfl
@[simp] theorem updTier_waits (s : State) (t : Tier) (g : TierState → TierState) : (updTier s t g).waits = s.waits := by
  cases t <;> rfl
@[simp] theorem updTier_nextWait (s : State) (t : Tier) (g : TierState → TierState) : (updTier s t g).nextWait = s.nextWait := by
  cases t <;> rfl
@[simp] theorem updTier_bg (s : State) (t : Tier) (g : TierState → TierState) : (updTier s t g).bg = s.bg := by
  cases t <;> rfl
@[simp] theorem updTier_nextBg (s : State) (t : Tier) (g : TierState → TierState) : (updTier s t g).nextBg = s.nextBg := by
  cases t <;> rfl
@[simp] theorem updTier_sched (s : State) (t : Tier) (g : TierState → TierState) : (updTier s t g).sched = s.sched := by
  cases t <;> rfl
@[simp] theorem updTier_nextCmd (s : State) (t : Tier) (g : TierState → TierState) : (updTier s t g).nextCmd = s.nextCmd := by
  cases t <;> rfl
@[simp] theorem updTier_power (s : State) (t : Tier) (g : TierState → TierState) : (updTier s t g).power = s.power := by
  cases t <;> rfl
@[simp] theorem updTier_safety (s : State) (t : Tier) (g : TierState → TierState) : (updTier s t g).safety = s.safety := by
  cases t <;> rfl
@[simp] theorem updTier_amber (s : State) (t : Tier) (g : TierState → TierState) : (updTier s t g).amber = s.amber := by
  cases t <;> rfl
@[simp] theorem updTier_boot (s : State) (t : Tier) (g : TierState → TierState) : (updTier s t g).boot = s.boot := by
  cases t <;> rfl
@[simp] theorem updTier_pins (s : State) (t : Tier) (g : TierState → TierState) : (updTier s t g).pins = s.pins := by
  cases t <;> rfl
@[simp] theorem updTier_pcie (s : State) (t : Tier) (g : TierState → TierState) : (updTier s t g).pcie = s.pcie := by
  cases t <;> rfl
@[simp] theorem updTier_sideband (s : State) (t : Tier) (g : TierState → TierState) : (updTier s t g).sideband = s.sideband := by
  cases t <;> rfl
@[simp] theorem updTier_strata (s : State) (t : Tier) (g : TierState → TierState) : (updTier s t g).strata = s.strata := by
  cases t <;> rfl
@[simp] theorem updTier_telem (s : State) (t : Tier) (g : TierState → TierState) : (updTier s t g).telem = s.telem := by
  cases t <;> rfl
@[simp] theorem updTier_out (s : State) (t : Tier) (g : TierState → TierState) : (updTier s t g).out = s.out := by
  cases t <;> rfl

@[simp] theorem tierOf_updTier (s : State) (t : Tier) (g : TierState → TierState) : tierOf (updTier s t g) t = g (tierOf s t) := by
  cases t <;> rfl

theorem tierOf_updTier_ne (s : State) (t u : Tier) (g : TierState → TierState) (h : u ≠ t) :
    tierOf (updTier s t g) u = tierOf s u := by
  cases t <;> cases u <;> first | rfl | exact absurd rfl h

end Sys2Proof.Machine
end

