-- ==== Sys2Proof/Laws/Work.lean ====
section
/-! SUPPORT. What the operations on commands, work areas, stages and payloads do, once for each. -/

namespace Sys2Proof.Machine

/-! ## dropAreas and setModes: the work areas and the modes of the cores, in the scheduler alone -/

@[simp] theorem dropAreas_pending (s : State) (ids : List Nat) : (dropAreas s ids).pending = s.pending := rfl
@[simp] theorem dropAreas_ident (s : State) (ids : List Nat) : (dropAreas s ids).ident = s.ident := rfl
@[simp] theorem dropAreas_tclk (s : State) (ids : List Nat) : (dropAreas s ids).tclk = s.tclk := rfl
@[simp] theorem dropAreas_free (s : State) (ids : List Nat) : (dropAreas s ids).free = s.free := rfl
@[simp] theorem dropAreas_mail (s : State) (ids : List Nat) : (dropAreas s ids).mail = s.mail := rfl
@[simp] theorem dropAreas_msgs (s : State) (ids : List Nat) : (dropAreas s ids).msgs = s.msgs := rfl
@[simp] theorem dropAreas_nextMsg (s : State) (ids : List Nat) : (dropAreas s ids).nextMsg = s.nextMsg := rfl
@[simp] theorem dropAreas_parts (s : State) (ids : List Nat) : (dropAreas s ids).parts = s.parts := rfl
@[simp] theorem dropAreas_models (s : State) (ids : List Nat) : (dropAreas s ids).models = s.models := rfl
@[simp] theorem dropAreas_tables (s : State) (ids : List Nat) : (dropAreas s ids).tables = s.tables := rfl
@[simp] theorem dropAreas_indexes (s : State) (ids : List Nat) : (dropAreas s ids).indexes = s.indexes := rfl
@[simp] theorem dropAreas_pfxs (s : State) (ids : List Nat) : (dropAreas s ids).pfxs = s.pfxs := rfl
@[simp] theorem dropAreas_contracts (s : State) (ids : List Nat) : (dropAreas s ids).contracts = s.contracts := rfl
@[simp] theorem dropAreas_nextHandle (s : State) (ids : List Nat) : (dropAreas s ids).nextHandle = s.nextHandle := rfl
@[simp] theorem dropAreas_cases (s : State) (ids : List Nat) : (dropAreas s ids).cases = s.cases := rfl
@[simp] theorem dropAreas_nextCase (s : State) (ids : List Nat) : (dropAreas s ids).nextCase = s.nextCase := rfl
@[simp] theorem dropAreas_cairns (s : State) (ids : List Nat) : (dropAreas s ids).cairns = s.cairns := rfl
@[simp] theorem dropAreas_nextRun (s : State) (ids : List Nat) : (dropAreas s ids).nextRun = s.nextRun := rfl
@[simp] theorem dropAreas_waits (s : State) (ids : List Nat) : (dropAreas s ids).waits = s.waits := rfl
@[simp] theorem dropAreas_nextWait (s : State) (ids : List Nat) : (dropAreas s ids).nextWait = s.nextWait := rfl
@[simp] theorem dropAreas_bg (s : State) (ids : List Nat) : (dropAreas s ids).bg = s.bg := rfl
@[simp] theorem dropAreas_nextBg (s : State) (ids : List Nat) : (dropAreas s ids).nextBg = s.nextBg := rfl
@[simp] theorem dropAreas_nextCmd (s : State) (ids : List Nat) : (dropAreas s ids).nextCmd = s.nextCmd := rfl
@[simp] theorem dropAreas_mem (s : State) (ids : List Nat) : (dropAreas s ids).mem = s.mem := rfl
@[simp] theorem dropAreas_power (s : State) (ids : List Nat) : (dropAreas s ids).power = s.power := rfl
@[simp] theorem dropAreas_safety (s : State) (ids : List Nat) : (dropAreas s ids).safety = s.safety := rfl
@[simp] theorem dropAreas_amber (s : State) (ids : List Nat) : (dropAreas s ids).amber = s.amber := rfl
@[simp] theorem dropAreas_boot (s : State) (ids : List Nat) : (dropAreas s ids).boot = s.boot := rfl
@[simp] theorem dropAreas_pins (s : State) (ids : List Nat) : (dropAreas s ids).pins = s.pins := rfl
@[simp] theorem dropAreas_pcie (s : State) (ids : List Nat) : (dropAreas s ids).pcie = s.pcie := rfl
@[simp] theorem dropAreas_sideband (s : State) (ids : List Nat) : (dropAreas s ids).sideband = s.sideband := rfl
@[simp] theorem dropAreas_strata (s : State) (ids : List Nat) : (dropAreas s ids).strata = s.strata := rfl
@[simp] theorem dropAreas_telem (s : State) (ids : List Nat) : (dropAreas s ids).telem = s.telem := rfl
@[simp] theorem dropAreas_out (s : State) (ids : List Nat) : (dropAreas s ids).out = s.out := rfl

theorem dropAreas_areas (s : State) (ids : List Nat) :
    (dropAreas s ids).sched = { s.sched with areas := s.sched.areas.filter fun r => !ids.contains r.cmd } := rfl

theorem setModes_frame (s : State) (c : Cmd) (us : List UnitId) :
    setModes s c us = { s with sched := { s.sched with gang := (setModes s c us).sched.gang } } := rfl

/-! ## updGen and updSrch: one case's generation and search state -/

@[simp] theorem updGen_pending (s : State) (k : Nat) (g : GenState → GenState) : (updGen s k g).pending = s.pending := rfl
@[simp] theorem updGen_ident (s : State) (k : Nat) (g : GenState → GenState) : (updGen s k g).ident = s.ident := rfl
@[simp] theorem updGen_tclk (s : State) (k : Nat) (g : GenState → GenState) : (updGen s k g).tclk = s.tclk := rfl
@[simp] theorem updGen_free (s : State) (k : Nat) (g : GenState → GenState) : (updGen s k g).free = s.free := rfl
@[simp] theorem updGen_mail (s : State) (k : Nat) (g : GenState → GenState) : (updGen s k g).mail = s.mail := rfl
@[simp] theorem updGen_msgs (s : State) (k : Nat) (g : GenState → GenState) : (updGen s k g).msgs = s.msgs := rfl
@[simp] theorem updGen_nextMsg (s : State) (k : Nat) (g : GenState → GenState) : (updGen s k g).nextMsg = s.nextMsg := rfl
@[simp] theorem updGen_parts (s : State) (k : Nat) (g : GenState → GenState) : (updGen s k g).parts = s.parts := rfl
@[simp] theorem updGen_models (s : State) (k : Nat) (g : GenState → GenState) : (updGen s k g).models = s.models := rfl
@[simp] theorem updGen_tables (s : State) (k : Nat) (g : GenState → GenState) : (updGen s k g).tables = s.tables := rfl
@[simp] theorem updGen_indexes (s : State) (k : Nat) (g : GenState → GenState) : (updGen s k g).indexes = s.indexes := rfl
@[simp] theorem updGen_pfxs (s : State) (k : Nat) (g : GenState → GenState) : (updGen s k g).pfxs = s.pfxs := rfl
@[simp] theorem updGen_contracts (s : State) (k : Nat) (g : GenState → GenState) : (updGen s k g).contracts = s.contracts := rfl
@[simp] theorem updGen_nextHandle (s : State) (k : Nat) (g : GenState → GenState) : (updGen s k g).nextHandle = s.nextHandle := rfl
@[simp] theorem updGen_nextCase (s : State) (k : Nat) (g : GenState → GenState) : (updGen s k g).nextCase = s.nextCase := rfl
@[simp] theorem updGen_cairns (s : State) (k : Nat) (g : GenState → GenState) : (updGen s k g).cairns = s.cairns := rfl
@[simp] theorem updGen_nextRun (s : State) (k : Nat) (g : GenState → GenState) : (updGen s k g).nextRun = s.nextRun := rfl
@[simp] theorem updGen_waits (s : State) (k : Nat) (g : GenState → GenState) : (updGen s k g).waits = s.waits := rfl
@[simp] theorem updGen_nextWait (s : State) (k : Nat) (g : GenState → GenState) : (updGen s k g).nextWait = s.nextWait := rfl
@[simp] theorem updGen_bg (s : State) (k : Nat) (g : GenState → GenState) : (updGen s k g).bg = s.bg := rfl
@[simp] theorem updGen_nextBg (s : State) (k : Nat) (g : GenState → GenState) : (updGen s k g).nextBg = s.nextBg := rfl
@[simp] theorem updGen_sched (s : State) (k : Nat) (g : GenState → GenState) : (updGen s k g).sched = s.sched := rfl
@[simp] theorem updGen_nextCmd (s : State) (k : Nat) (g : GenState → GenState) : (updGen s k g).nextCmd = s.nextCmd := rfl
@[simp] theorem updGen_mem (s : State) (k : Nat) (g : GenState → GenState) : (updGen s k g).mem = s.mem := rfl
@[simp] theorem updGen_power (s : State) (k : Nat) (g : GenState → GenState) : (updGen s k g).power = s.power := rfl
@[simp] theorem updGen_safety (s : State) (k : Nat) (g : GenState → GenState) : (updGen s k g).safety = s.safety := rfl
@[simp] theorem updGen_amber (s : State) (k : Nat) (g : GenState → GenState) : (updGen s k g).amber = s.amber := rfl
@[simp] theorem updGen_boot (s : State) (k : Nat) (g : GenState → GenState) : (updGen s k g).boot = s.boot := rfl
@[simp] theorem updGen_pins (s : State) (k : Nat) (g : GenState → GenState) : (updGen s k g).pins = s.pins := rfl
@[simp] theorem updGen_pcie (s : State) (k : Nat) (g : GenState → GenState) : (updGen s k g).pcie = s.pcie := rfl
@[simp] theorem updGen_sideband (s : State) (k : Nat) (g : GenState → GenState) : (updGen s k g).sideband = s.sideband := rfl
@[simp] theorem updGen_strata (s : State) (k : Nat) (g : GenState → GenState) : (updGen s k g).strata = s.strata := rfl
@[simp] theorem updGen_telem (s : State) (k : Nat) (g : GenState → GenState) : (updGen s k g).telem = s.telem := rfl
@[simp] theorem updGen_out (s : State) (k : Nat) (g : GenState → GenState) : (updGen s k g).out = s.out := rfl

@[simp] theorem updSrch_pending (s : State) (k : Nat) (g : SearchState → SearchState) : (updSrch s k g).pending = s.pending := rfl
@[simp] theorem updSrch_ident (s : State) (k : Nat) (g : SearchState → SearchState) : (updSrch s k g).ident = s.ident := rfl
@[simp] theorem updSrch_tclk (s : State) (k : Nat) (g : SearchState → SearchState) : (updSrch s k g).tclk = s.tclk := rfl
@[simp] theorem updSrch_free (s : State) (k : Nat) (g : SearchState → SearchState) : (updSrch s k g).free = s.free := rfl
@[simp] theorem updSrch_mail (s : State) (k : Nat) (g : SearchState → SearchState) : (updSrch s k g).mail = s.mail := rfl
@[simp] theorem updSrch_msgs (s : State) (k : Nat) (g : SearchState → SearchState) : (updSrch s k g).msgs = s.msgs := rfl
@[simp] theorem updSrch_nextMsg (s : State) (k : Nat) (g : SearchState → SearchState) : (updSrch s k g).nextMsg = s.nextMsg := rfl
@[simp] theorem updSrch_parts (s : State) (k : Nat) (g : SearchState → SearchState) : (updSrch s k g).parts = s.parts := rfl
@[simp] theorem updSrch_models (s : State) (k : Nat) (g : SearchState → SearchState) : (updSrch s k g).models = s.models := rfl
@[simp] theorem updSrch_tables (s : State) (k : Nat) (g : SearchState → SearchState) : (updSrch s k g).tables = s.tables := rfl
@[simp] theorem updSrch_indexes (s : State) (k : Nat) (g : SearchState → SearchState) : (updSrch s k g).indexes = s.indexes := rfl
@[simp] theorem updSrch_pfxs (s : State) (k : Nat) (g : SearchState → SearchState) : (updSrch s k g).pfxs = s.pfxs := rfl
@[simp] theorem updSrch_contracts (s : State) (k : Nat) (g : SearchState → SearchState) : (updSrch s k g).contracts = s.contracts := rfl
@[simp] theorem updSrch_nextHandle (s : State) (k : Nat) (g : SearchState → SearchState) : (updSrch s k g).nextHandle = s.nextHandle := rfl
@[simp] theorem updSrch_nextCase (s : State) (k : Nat) (g : SearchState → SearchState) : (updSrch s k g).nextCase = s.nextCase := rfl
@[simp] theorem updSrch_cairns (s : State) (k : Nat) (g : SearchState → SearchState) : (updSrch s k g).cairns = s.cairns := rfl
@[simp] theorem updSrch_nextRun (s : State) (k : Nat) (g : SearchState → SearchState) : (updSrch s k g).nextRun = s.nextRun := rfl
@[simp] theorem updSrch_waits (s : State) (k : Nat) (g : SearchState → SearchState) : (updSrch s k g).waits = s.waits := rfl
@[simp] theorem updSrch_nextWait (s : State) (k : Nat) (g : SearchState → SearchState) : (updSrch s k g).nextWait = s.nextWait := rfl
@[simp] theorem updSrch_bg (s : State) (k : Nat) (g : SearchState → SearchState) : (updSrch s k g).bg = s.bg := rfl
@[simp] theorem updSrch_nextBg (s : State) (k : Nat) (g : SearchState → SearchState) : (updSrch s k g).nextBg = s.nextBg := rfl
@[simp] theorem updSrch_sched (s : State) (k : Nat) (g : SearchState → SearchState) : (updSrch s k g).sched = s.sched := rfl
@[simp] theorem updSrch_nextCmd (s : State) (k : Nat) (g : SearchState → SearchState) : (updSrch s k g).nextCmd = s.nextCmd := rfl
@[simp] theorem updSrch_mem (s : State) (k : Nat) (g : SearchState → SearchState) : (updSrch s k g).mem = s.mem := rfl
@[simp] theorem updSrch_power (s : State) (k : Nat) (g : SearchState → SearchState) : (updSrch s k g).power = s.power := rfl
@[simp] theorem updSrch_safety (s : State) (k : Nat) (g : SearchState → SearchState) : (updSrch s k g).safety = s.safety := rfl
@[simp] theorem updSrch_amber (s : State) (k : Nat) (g : SearchState → SearchState) : (updSrch s k g).amber = s.amber := rfl
@[simp] theorem updSrch_boot (s : State) (k : Nat) (g : SearchState → SearchState) : (updSrch s k g).boot = s.boot := rfl
@[simp] theorem updSrch_pins (s : State) (k : Nat) (g : SearchState → SearchState) : (updSrch s k g).pins = s.pins := rfl
@[simp] theorem updSrch_pcie (s : State) (k : Nat) (g : SearchState → SearchState) : (updSrch s k g).pcie = s.pcie := rfl
@[simp] theorem updSrch_sideband (s : State) (k : Nat) (g : SearchState → SearchState) : (updSrch s k g).sideband = s.sideband := rfl
@[simp] theorem updSrch_strata (s : State) (k : Nat) (g : SearchState → SearchState) : (updSrch s k g).strata = s.strata := rfl
@[simp] theorem updSrch_telem (s : State) (k : Nat) (g : SearchState → SearchState) : (updSrch s k g).telem = s.telem := rfl
@[simp] theorem updSrch_out (s : State) (k : Nat) (g : SearchState → SearchState) : (updSrch s k g).out = s.out := rfl

/-! ## Lists of work -/

/-- What noting a command's waits may change: telemetry of partitions. -/
theorem noteBlock_frame (s : State) (c : Cmd) : noteBlock s c = { s with parts := (noteBlock s c).parts } := by
  unfold noteBlock
  generalize ((cmdOf s c.id).getD c).asks = l
  suffices h : ∀ (l : List (Nat × Nat)) (a : State), (l.foldl (fun (a : State) e => updStats a e.1 fun p =>
      { p with blockMax := max p.blockMax (a.tclk - e.2) }) a) =
      { a with parts := (l.foldl (fun (a : State) e => updStats a e.1 fun p =>
        { p with blockMax := max p.blockMax (a.tclk - e.2) }) a).parts } from h l s
  intro l
  induction l with
  | nil => intro a; rfl
  | cons e l ih => intro a; rw [List.foldl_cons, ih]; rfl

/-- The reads of a payload leave in entry order, and nothing else changes. -/
theorem readPieces_eq (s : State) (c : Case) :
    readPieces s c = { s with
      out := s.out ++ c.desc.sg.map fun e => .hostRead c.hd.owner (partPasid s c.hd.owner) e.addr e.len } := by
  unfold readPieces
  generalize c.desc.sg = l
  suffices h : ∀ (a : State), a.parts = s.parts →
      l.foldl (fun s e => hostRead s c.hd.owner e.addr e.len) a =
        { a with out := a.out ++ l.map fun e => .hostRead c.hd.owner (partPasid s c.hd.owner) e.addr e.len } from h s rfl
  induction l with
  | nil => intro a _; simp
  | cons e l ih =>
    intro a ha
    have hp : partPasid a c.hd.owner = partPasid s c.hd.owner := by simp only [partPasid, partOf, ha]
    rw [List.foldl_cons, ih (hostRead a c.hd.owner e.addr e.len) (by simpa [hostRead] using ha)]
    simp [hostRead, emit, hp]

/-! ## Rows and areas -/

@[simp] theorem quantizeRow_length (xs : List Word) : (quantizeRow xs).elems.length = xs.length := by simp [quantizeRow]

@[simp] theorem headValues_length (m : ModelImage) (kv : Nat) (h : OutHead) (ctx : List Seen) (n : Nat) :
    (headValues m kv h ctx n).length = n := by simp [headValues]

/-- A chain that goes on leaves its area as it is; one that ends leaves only its sums. -/
theorem endChain_more (r : TileArea) : endChain r .more = r := rfl

theorem endChain_place (r : TileArea) (e : ChainEnd) :
    (endChain r e).cmd = r.cmd ∧ (endChain r e).core = r.core ∧ (endChain r e).quad = r.quad ∧ (endChain r e).block = r.block := by
  unfold endChain
  split <;> exact ⟨rfl, rfl, rfl, rfl⟩

theorem areaAfter_place (r : TileArea) (t : TileRun) (cs : List (List Cell)) :
    (areaAfter r t cs).cmd = r.cmd ∧ (areaAfter r t cs).core = r.core ∧ (areaAfter r t cs).quad = r.quad ∧
    (areaAfter r t cs).block = r.block := ⟨rfl, rfl, rfl, rfl⟩

end Sys2Proof.Machine
end

