-- ==== Sys2Proof/Tests/Fixtures.lean ====
section
/-! SUPPORT. The small states, messages and objects on which the tests stand. -/

namespace Sys2Proof.Tests

open Sys2Proof.Machine

/-- A READY module with its four Garnets awake, its PCIe link up and only partition 0. -/
def live : State :=
  let s := State.reset
  { s with
    boot := { s.boot with state := .ready, phase := .done, aux := true, main := true, locked := true, backup := false }
    power := { s.power with dies := s.power.dies.map fun d =>
      { d with aclkOn := true, vset := 576, cores := List.replicate 4 .ready } }
    parts := [partZero s]
    mail := s.mail.map fun mb => { mb with st := { mb.st with running := true } }
    pcie := { s.pcie with linkUp := true } }

/-- A host that grants nothing and whose BARs lie apart from every address used here. -/
def host : HostView := { grants := [], pfBar := 0x7FFF00000000, vfBar := 0x7FFF10000000 }

/-- A message of opcode `op` and length `len`, with a response buffer of 64 KiB at 0x8000. -/
def msg (op len : Nat) (body : List Byte) : MsgIn :=
  { index := 0, obsTs := 0
    bytes := leBytes 2 op ++ leBytes 2 5 ++ leBytes 2 len ++ zeros 2 ++ leBytes 8 0x8000 ++ leBytes 4 65536 ++ leBytes 1 2 ++
      zeros 3 ++ leBytes 8 77 ++ body ++ zeros (len - 32 - body.length) }

/-- A message at the head of the PF's inline channel. -/
def put (s : State) (m : MsgIn) : State := updMb s 0 fun mb => { mb with inlQ := [m] }

/-- The facts of a model image in a role. -/
def img (r : ModelRole) : ModelImage :=
  { parses := true, signatureOk := true, statedLen := 100, imageId := 1, role := r, version := 1, weightBytes := 100
    shape := ⟨2, 4, 4, 64⟩, vocab := 300, maxPos := 1000, enc := ⟨256, 0, 4, 16, [], [1, 2, 3]⟩
    gen := ⟨true, 2, [], 64, [], true⟩, footprint := 100, workArea := 0, lookahead := 0, tensors := [], acts := [], arrays := 16
    schedule := [] }

/-- A model homed in T1. -/
def mdl (h : Nat) (r : ModelRole) : Model :=
  { handle := h, owner := 0, shared := false, img := img r, home := .t1, pinned := true, unavailable := false, t2Lost := false }

/-- An index of two lists with three entries and one scree record. -/
def idx : Index :=
  let ent (i k : Nat) : IdxEntry := { id := i, code := List.replicate 32 k, bound := 10 }
  let hd : IndexHeader :=
    { magic := 0, imgVersion := 1, codeBytes := 32, metric := 0, lists := 2, shard := 0, shardCount := 1, layoutId := 5
      imageBytes := 0, mainEntries := 3, listBlocks := 2, runCount := 0, screeRecords := 1, centScale := fpOfInt 1
      codebookOff := 0, centOff := 0, dirOff := 0, runOff := 0, blockOff := 0, screeOff := 0, imageCrc := 0, reserved := none }
  { handle := 20, owner := 0, shared := false, cfg := ⟨2, 32, 0, 0, 1, 4, 100⟩, state := .live, hdr := some hd, segs := 1
    image := [], centroids := [], codebook := [], centScale := fpOfInt 1, gen := 1
    lists := [⟨10, [ent 100 0, ent 101 0]⟩, ⟨10, [ent 200 0]⟩]
    scree := [{ id := 300, list := 0, bound := 0, del := false, code := List.replicate 32 0, seq := 1 }], nextSeq := 2
    old := none, cache := ⟨0, []⟩, listPages := 1, bulkBusy := false, snapBusy := false }

/-- `live` with an encoder 10, a generator 12 and the index 20. -/
def stocked : State :=
  { live with models := [mdl 10 .encoder, mdl 12 .generator], indexes := [idx], nextHandle := 100 }

/-- The bytes of a contract record with a deadline and an interval: a FLOW contract over `stocked`'s objects that generates nothing. -/
def recordBytesFor (deadline interval : Nat) : List Byte :=
  leBytes 2 2 ++ leBytes 2 448 ++ leBytes 1 1 ++ leBytes 1 0 ++ leBytes 1 1 ++ leBytes 1 0 ++ leBytes 4 deadline ++
  leBytes 4 1000 ++ leBytes 2 1 ++ leBytes 2 4 ++ leBytes 4 interval ++ leBytes 4 0 ++ leBytes 4 0xFFFFFFFF ++
  leBytes 4 10 ++ leBytes 4 20 ++ leBytes 4 0 ++ leBytes 4 12 ++ zeros 12 ++ leBytes 2 1 ++ leBytes 2 3 ++ zeros 8 ++
  leBytes 4 0 ++ leBytes 4 512 ++ leBytes 1 0 ++ leBytes 1 3 ++ leBytes 2 16 ++ leBytes 4 0 ++
  leBytes 4 256 ++ leBytes 4 128 ++ leBytes 4 384 ++ leBytes 4 16 ++ zeros 152 ++
  leBytes 2 2 ++ leBytes 2 1 ++ leBytes 4 16 ++ leBytes 2 16 ++ leBytes 2 0 ++ leBytes 4 16 ++ leBytes 1 1 ++ leBytes 1 0 ++
  leBytes 1 0 ++ leBytes 1 1 ++ leBytes 4 0xFFFFFFFF ++ leBytes 4 0xFFFFFFFF ++ leBytes 4 0xFFFFFFFF ++
  leBytes 4 0xFFFFFFFF ++ leBytes 4 0xFFFFFFFF ++ zeros 88 ++
  leBytes 4 64 ++ leBytes 4 64 ++ zeros 56

/-- Such a record. -/
def recordBytes : List Byte := recordBytesFor 1440000 300000

/-- One with time for its proof to hold. -/
def longBytes : List Byte := recordBytesFor 6000000 6000000

/-- That record as read. -/
def rcd : ContractRec := recordAt recordBytes 300

/-- The schedules of its forms, which state no work. -/
def plan : Schedules := { forms := [] }

/-- The figures of a proof of it. -/
def figures : ProofFigures :=
  { placeable := true, bound := 400000, slack := 0, stages := List.replicate 10 ⟨10, 20, 0, 1, 10⟩, t1Slots := 1, t2Slots := 1
    t1Pages := 4, t2Pages := 0, rerouteOk := false }

/-- `stocked` with half of both tiers' bandwidth for partition 0. -/
def wide : State := updPart stocked 0 fun p => { p with cfg := { p.cfg with t1Bw := 500, t2Bw := 500 } }

/-- `stocked` with the contract 50 open. -/
def serving : State := admitContract stocked 0 50 rcd plan figures []

/-- That contract. -/
def deal : Contract := newContract stocked 0 50 rcd plan figures []

/-- The message stands at the head of the PF's inline channel and may start. -/
abbrev Ready (s : State) (op : Nat) (m : MsgIn) : Prop := Fresh (put s m) ∧ Head (put s m) 0 .inl op m

/-- Partition 0 with the first 1,024 cairns. -/
def part0 : Partition := partZero State.reset

/-- `live` with two host cairns of value 7. -/
def cairned : State :=
  let c (n : Nat) : CairnRec := { num := n, st := .host, val := 7, copy := 7, run := 1 }
  { live with cairns := [c 3, c 4] }

/-- `live` with one VF. -/
def withVf : State := { live with pcie := { live.pcie with vfEnable := true, numVfs := 1 }, parts := [{ part0 with
  cfg := { part0.cfg with t1Pages := 1000, t2Pages := 1000 } }] }

/-- That with partition 1, which owns a model and a cairn. -/
def withPart : State :=
  { withVf with
    parts := withVf.parts ++ [{ part0 with id := 1, cfg := { part0.cfg with
      t1Pages := 100, t2Pages := 100, cairnFirst := 1024, cairnCount := 64 } }]
    models := [{ mdl 10 .encoder with owner := 1 }]
    cairns := [{ num := 1030, st := .host, val := 0, copy := 0, run := 1 }] }

/-- `live` with a float table, a prefix and a model homed in T2. -/
def shelved : State :=
  { stocked with
    models := stocked.models ++ [{ mdl 13 .generator with home := .t2, pinned := false }, { mdl 14 .generator with home := .t2 }]
    tables := [{ handle := 30, owner := 0, shared := false, nrows := 8, dim := 4, format := 1, kind := 0, hashKey := 0, partA := 0
                 partB := 0, rows := [], unavailable := false }]
    pfxs := [{ handle := 40, owner := 0, shared := false, model := 13, toks := [1], kvFormat := 0, pages := 4, refs := 0
               tailRefs := 0, released := false, unavailable := false, kv := [] }] }

/-- An index that has not been loaded. -/
def bare : Index := newIndex 21 0 false idx.cfg

/-- The header of an image for it. -/
def header : IndexHeader :=
  { magic := 0x58444951, imgVersion := 2, codeBytes := 32, metric := 0, lists := 2, shard := 0, shardCount := 1
    layoutId := 5, imageBytes := 147456, mainEntries := 0, listBlocks := 0, runCount := 0, screeRecords := 0
    centScale := fpOfInt 1, codebookOff := 4096, centOff := 135168, dirOff := 139264, runOff := 143360
    blockOff := 143360, screeOff := 143360, imageCrc := 0, reserved := none }

/-- The first segment of a load into it: the header alone, and zeros. -/
def segment : List Byte := headerBytes header 0

/-- `stocked` with the index 21, not loaded, and the index 22, whose scree is empty. -/
def shelves : State :=
  { stocked with indexes := [idx, bare, { idx with handle := 22, scree := [], nextSeq := 1 }] }

/-- `cairned` with a wait for 9 on cairn 3, for the open message 1. -/
def waiting : State :=
  { cairned with
    waits := [{ id := 1, owner := 0, cairn := 3, threshold := 9, msg := 1, armTs := 0, timeoutUs := 10 }]
    nextWait := 2
    msgs := [{ id := 1, f := 0, src := .inl, origin := 0, opcode := 0x0704, tag := 5, cookie := 77, respAddr := 0 }]
    nextMsg := 2 }

/-- A case descriptor of four payload bytes. -/
def descBytes : List Byte :=
  leBytes 2 2 ++ leBytes 2 80 ++ leBytes 1 1 ++ leBytes 1 1 ++ leBytes 2 0 ++ leBytes 4 4 ++ zeros 52 ++ leBytes 8 0x70000 ++
  leBytes 4 4 ++ zeros 4

/-- A CASE_SUBMIT of it under contract 50. -/
def submission : MsgIn :=
  msg 0x0601 80 (leBytes 4 50 ++ leBytes 4 80 ++ leBytes 8 4242 ++ leBytes 8 0x50000 ++ leBytes 8 0x60000 ++ leBytes 4 65536)

/-- Its case, under a contract, before its message is answered. -/
def fresh (k : Contract) : Case := { newCase serving (ctxOf serving 0 .inl submission) k (descAt descBytes) with sats := 0 }

/-- `serving` with the contract 50 changed, the given case live under it, and a running command that serves the case. -/
def working (k : Contract) (c : Case) (x : Serves) : State :=
  { serving with
    models := serving.models ++ [mdl 11 .reranker, mdl 13 .generator]
    contracts := [k], cases := [c], nextCase := 2
    msgs := [{ id := 1, f := 0, src := .inl, origin := 0, opcode := 0x0601, tag := 5, cookie := 77, respAddr := 0 }], nextMsg := 2
    sched := { serving.sched with cmds := [
      { id := 1, serves := x, owner := 0, level := 1, kill := false, stage := stageNum c.stage, units := [{ kind := 3, idx := 0 }]
        phase := .running, deadline := 1440000, startTs := 0, grantTs := 0, preemptTs := none, asks := [], left := []
        reruns := 0, ovfReruns := 0, spent := 0 }] }
    nextCmd := 2 }

/-- A case under contract 50 that its command serves. -/
def busy : State := working deal (fresh deal) (.cases [1])

/-- `live` with the PF's rings of 64 and 256 entries active. -/
def ringed : State :=
  updMb live 0 fun mb => { mb with
    sq := { mb.sq with active := true, cfg := { base := 0x1000, log2 := 6, pasidEn := false, pasid := 0 } }
    cq := { mb.cq with active := true, cfg := { base := 0x20000, log2 := 8, pasidEn := false, pasid := 0 } } }

/-- `busy` with its case encoding and its command ready. -/
def queued : State :=
  let s := working deal { fresh deal with stage := .encoding } (.cases [1])
  { s with sched := { s.sched with cmds := s.sched.cmds.map fun c => { c with phase := .ready, units := [] } } }

/-- `shelved` with a BACKGROUND operation of a kind and its command. -/
def background (k : BgKind) (t2 : Nat) : State :=
  { shelved with
    bg := [{ id := 1, owner := 0, msg := none, kind := k, applyTs := 0, t1Held := 0, t2Held := t2 }], nextBg := 2
    sched := { shelved.sched with cmds := [
      { id := 1, serves := .bg 1, owner := 0, level := 3, kill := false, stage := 0, units := [{ kind := 13, idx := 0 }]
        phase := .running, deadline := 0, startTs := 0, grantTs := 0, preemptTs := none, asks := [], left := []
        reruns := 0, ovfReruns := 0, spent := 0 }] }
    nextCmd := 2 }

end Sys2Proof.Tests
end

