-- ==== Sys2Proof/Tests/Slice0.lean ====
section
/-! SUPPORT. Tests: that WellFormed refuses what it must, that the hypotheses of the statements can be met, and small
facts worked out from the spec by hand. -/

set_option Elab.async false

namespace Sys2Proof.Tests

open Sys2Proof.Machine

/-! ## Well-formedness -/

theorem test_wf_refuses_functions :
    [Instr.inlPiObserved 33, .sqPiObserved 33, .cqCiObserved 33, .mbReset 33, .sqEnable 33 true host, .cqEnable 33 host,
     .eventPendingClear 33 0 0, .evtLostRead 33 0, .complDroppedRead 33 0, .modTimeExpiry 33, .cairnAlloc 33 .inl,
     .sqEntryFetchComplete 33 0 .ur, .registerWrite 33 .mailbox 0x20 0, .flrVf 0, .flrVf 33, .vfEnableSet 33,
     .dmaCompletionTimeout (.ringFetch 33 0)].all (fun c => !Instr.wf c) = true := by decide

theorem test_wf_refuses_registers :
    [Instr.registerWrite 0 .mailbox 0x18 0, .registerWrite 0 .mailbox 0x28 0, .registerWrite 0 .mailbox 0x22 0,
     .registerWrite 0 .power 0x60 0, .registerWrite 0 .safety 0x4000 0, .registerWrite 0 .mailbox 0x20 (2 ^ 32)].all
      (fun c => !Instr.wf c) = true := by decide

theorem test_wf_refuses_units :
    [Instr.voltMon 4 0 true, .railMon 11 0, .coreReady 16, .hdrSwitchTimeout 0 5, .hdrSwitchTimeout 0 0, .stretchBudgetFault 0 16,
     .thermalThrottleStep 7, .dividerDwellEnd 4 0, .railPowerGood 11, .voltageStepAck 11, .clockMon 7 0, .channelReadTimeout .t1 32,
     .memoryTrainingComplete [(.t2, 32)], .lossOfSignal 4, .trainingStepTimeout 0 6, .commandSelection { kind := 1, idx := 0 }].all
      (fun c => !Instr.wf c) = true := by decide

theorem test_wf_admits :
    [Instr.inlPiObserved 32, .registerWrite 32 .mailbox 0x20 (2 ^ 32 - 1), .coreReady 15, .railMon 10 0, .hdrSwitchTimeout 15 4,
     .flrVf 32, .vfEnableSet 32, .channelReadTimeout .t2 31, .lossOfSignal 3].all Instr.wf = true := by decide

/-! ## The hypotheses of the statements about messages can be met -/

theorem witness_TelemetryReadAnswersTheSet :
    (∀ n ∈ [1, 2, 4, 5, 6], let m := msg 0x0901 48 (leBytes 2 n)
      Ready live 0x0901 m ∧ respCheck (put live m) host 0 (setSize n) m.bytes = none) ∧
    (let m := msg 0x0901 48 (leBytes 2 3 ++ zeros 2 ++ leBytes 4 50)
     Ready serving 0x0901 m ∧ respCheck (put serving m) host 0 (setSize 3) m.bytes = none ∧ contractOf serving 50 = some deal ∧
     deal.owner = 0) ∧ partOf live 0 = some part0 := by decide +kernel

theorem witness_ReadsAnswerAndChangeNothing :
    Ready live 0x0B02 (msg 0x0B02 32 []) ∧
    (∀ e ∈ [(0x0902, 40, 8192), (0x0104, 40, 128), (0x0A01, 32, 8192), (0x0D03, 40, 8192)], let m := msg e.1 e.2.1 []
      Ready live e.1 m ∧ respCheck (put live m) host 0 e.2.2 m.bytes = none) ∧
    (let m := msg 0x0C01 48 (leBytes 4 0 ++ leBytes 4 1024)
     Ready live 0x0C01 m ∧ respCheck (put live m) host 0 (64 * 1024) m.bytes = none) ∧
    (let m := msg 0x0408 40 (leBytes 4 20)
     Ready stocked 0x0408 m ∧ readIndex (put stocked m) 0 20 = some idx) ∧
    (let m := msg 0x0502 40 (leBytes 4 50)
     Ready serving 0x0502 m ∧ respCheck (put serving m) host 0 4096 m.bytes = none ∧ ownContract serving 0 50 = some deal) ∧
    (let m := msg 0x0603 48 (zeros 8 ++ leBytes 4 2)
     Ready live 0x0603 m ∧ respCheck (put live m) host 0 64 m.bytes = none) := by decide +kernel

theorem witness_CairnQuery :
    let m := msg 0x0705 48 (leBytes 4 3 ++ leBytes 4 2)
    Ready cairned 0x0705 m ∧ (∀ n ∈ cairnNums m.bytes, (hostCairn cairned 0 n).isSome = true) := by decide +kernel

/-- A body of partition 1's settings. -/
def quotaBody (flags : Nat) : List Byte :=
  leBytes 1 1 ++ leBytes 1 flags ++ zeros 6 ++ leBytes 4 50 ++ leBytes 4 50 ++ leBytes 2 500 ++ leBytes 2 0 ++ leBytes 2 10 ++
  leBytes 2 5 ++ leBytes 4 64

theorem witness_PartitionsAreManaged :
    (∀ flags ∈ [0, 1], let m := msg 0x0101 80 (quotaBody flags)
      Ready withVf 0x0101 m ∧ bindTo (put withVf m) 1 = some 1 ∧ cairnRun (put withVf m) 64 = some 1024 ∧
      pagesFit (put withVf m) 1 (newCfg m.bytes 1024) = true ∧ sharesFit (put withVf m) 1 (newCfg m.bytes 1024) = true) ∧
    (let m := msg 0x0102 64 ((quotaBody 0).take 24)
     let s := put withPart m
     let c := quotaOf m.bytes part0.cfg
     Ready withPart 0x0102 m ∧ (partOf s 1).isSome = true ∧ (usedPages s 1).1 ≤ c.t1Pages ∧ (usedPages s 1).2 ≤ c.t2Pages ∧
     pagesFit s 1 c = true ∧ sharesFit s 1 c = true ∧ (slotsReserved s 1).1 ≤ slotsOf c.t1Bw ∧
     (slotsReserved s 1).2 ≤ slotsOf c.t2Bw ∧ s.contracts = []) ∧
    (∀ a ∈ [1, 2, 3], let m := msg 0x0103 40 (leBytes 1 1 ++ leBytes 1 a)
      Ready withPart 0x0103 m ∧ (partOf (put withPart m) 1).isSome = true ∧ controlHeld (put withPart m) m.bytes = false) := by
  decide +kernel

theorem witness_LoadsRunInTheBackground :
    (let m := msg 0x0201 64 (leBytes 8 0x10000 ++ leBytes 8 4096 ++ leBytes 1 2 ++ leBytes 1 1)
     Ready live 0x0201 m ∧ addrCheck (put live m) host 0 false 0x10000 4096 32 = none ∧
     modelChecks (put live m) (ctxOf (put live m) 0 .inl m) (img .encoder) 0 = none) ∧
    (let m := msg 0x0302 64 (leBytes 4 30 ++ leBytes 4 7 ++ leBytes 4 1 ++ zeros 4 ++ leBytes 8 0x10000 ++ leBytes 8 8)
     let s := put shelved m
     Ready shelved 0x0302 m ∧ tableHeld s m.bytes = false ∧ addrCheck s host 0 false 0x10000 8 48 = none ∧
     (ownTable s 0 30).any (fun t => !t.unavailable && decide (t.kind ≠ 2 ∧ 7 + 1 ≤ t.nrows ∧ rowBytes t.format t.dim ≤ 8)) = true ∧
     inUse s 30 = false ∧ badInRows 1 4 0 (cutRows 8 (zeros 8) 1) = none) ∧
    (let m := msg 0x0801 64 (leBytes 4 12 ++ leBytes 4 2 ++ leBytes 8 0x10000 ++ leBytes 4 8 ++ leBytes 1 0)
     let s := put stocked m
     Ready stocked 0x0801 m ∧ addrCheck s host 0 false 0x10000 8 40 = none ∧ readModel s 0 12 = some (mdl 12 .generator) ∧
     (img .generator).gen.hasKv = true ∧ (headGroup (img .generator).shape 0).isSome = true ∧ pfxCount s < 256 ∧
     fitsQuota s 0 (kvPages (img .generator).shape 0 2) 0 = true ∧ badToken 300 (tokensOf (zeros 8) 2) = none) := by
  decide +kernel

theorem witness_ObjectsAreMovedAndRemoved :
    (∀ e ∈ [(10, 1), (13, 1), (14, 2)], let m := msg 0x0202 40 (leBytes 4 e.1 ++ leBytes 1 e.2)
      Ready shelved 0x0202 m ∧ (ownModel (put shelved m) 0 e.1).isSome = true ∧
      fitsQuota (put shelved m) 0 (pagesOf 100) 0 = true ∧ residenceInUse (put shelved m) e.1 = false) ∧
    (∀ e ∈ [(0x0203, 13), (0x0303, 30), (0x0802, 40), (0x0407, 20)], let m := msg e.1 40 (leBytes 4 e.2)
      Ready shelved e.1 m ∧ inUse (put shelved m) e.2 = false) ∧
    (let s := shelved
     (ownModel s 0 13).isSome = true ∧ (ownTable s 0 30).isSome = true ∧ (ownPfx s 0 40).isSome = true ∧
     ownIndex s 0 20 = some idx ∧ modelHeld s (msg 0x0203 40 (leBytes 4 13)).bytes = false ∧ modelLoading s 13 = false ∧
     tableHeld s (msg 0x0303 40 (leBytes 4 30)).bytes = false ∧ shardNames s 20 = false ∧
     (∀ p ∈ s.pfxs, p.model = 13 → inUse s p.handle = false) ∧
     (∀ t ∈ s.tables, t.kind = 2 → t.partA ≠ 30 ∧ t.partB ≠ 30)) := by decide +kernel

theorem witness_CreatesRegisterUnderANewHandle :
    (let m := msg 0x0301 64 (leBytes 4 8 ++ leBytes 2 4)
     let s := put live m
     let t := newTable s.nextHandle 0 m.bytes
     Ready live 0x0301 m ∧ t.nrows * rowBytes t.format t.dim ≤ 34359738368 ∧ composedChecks s 0 t = none ∧
     fitsQuota s 0 (tablePages t) 0 = true) ∧
    (let m := msg 0x0401 64 (leBytes 4 2 ++ leBytes 1 32 ++ zeros 3 ++ leBytes 1 1 ++ zeros 7 ++ leBytes 8 12884901888)
     let s := put live m
     let c := indexCfgOf m.bytes
     Ready live 0x0401 m ∧ c.maxEntries * (c.codeBytes + 1) ≤ productMax s ∧
     fitsQuota s 0 (indexFixedPages c).1 (indexFixedPages c).2 = true ∧ s.mem.t2.accepts = true) := by decide +kernel

theorem witness_ScreeGrowsByConsecutiveSeqs :
    ∀ e ∈ [(0x0403, 128), (0x0404, 64)],
      let m := msg e.1 64 (leBytes 4 20 ++ leBytes 4 2 ++ leBytes 8 0x10000 ++ leBytes 8 e.2)
      let s := put stocked m
      Ready stocked e.1 m ∧ ownIndex s 0 20 = some idx ∧ idx.state = .live ∧ addrCheck s host 0 false 0x10000 e.2 40 = none ∧
      2 * slotBytes 32 ≤ 128 ∧ mainEntries idx.lists + liveInserts idx.scree + 2 ≤ idx.cfg.maxEntries ∧
      (∀ k < 2, insertCheck idx.cfg (zeros 128) k = none) ∧ (∀ k < 2, le (zeros 128) (8 * k) 8 ≠ noId) := by decide +kernel

theorem witness_IndexWorkRunsInTheBackground :
    (let m := msg 0x0402 64 (leBytes 4 21 ++ leBytes 2 0 ++ zeros 2 ++ leBytes 8 0x10000 ++ leBytes 8 4096)
     let s := put shelves m
     Ready shelves 0x0402 m ∧ addrCheck s host 0 false 0x10000 4096 40 = none ∧ ownIndex s 0 21 = some bare ∧
     bare.bulkBusy = false ∧ bare.state = .empty ∧ bare.segs = 0 ∧ segmentCheck s bare false (readBytes segment 4096) = none) ∧
    (let m := msg 0x0405 40 (leBytes 4 20)
     let s := put shelves m
     Ready shelves 0x0405 m ∧ ownIndex s 0 20 = some idx ∧ (fold idx (settlePoint s idx)).folded ≠ 0) ∧
    (let m := msg 0x0405 40 (leBytes 4 22)
     let s := put shelves m
     Ready shelves 0x0405 m ∧ (ownIndex s 0 22).any (fun i => (fold i (settlePoint s i)).folded == 0) = true) ∧
    (let m := msg 0x0406 64 (leBytes 4 20 ++ zeros 4 ++ leBytes 8 0x10000 ++ leBytes 8 (snapSize idx))
     let s := put shelves m
     Ready shelves 0x0406 m ∧ addrCheck s host 0 true 0x10000 (snapSize idx) 40 = none ∧ readIndex s 0 20 = some idx) := by
  decide +kernel

theorem witness_HostCairnsWork :
    (let m := msg 0x0701 48 (leBytes 4 3 ++ leBytes 4 9)
     Ready cairned 0x0701 m ∧ partOf (put cairned m) 0 = some (partZero State.reset) ∧
     freeRun (put cairned m) (partZero State.reset) 3 = some 0) ∧
    (let m := msg 0x0702 48 (leBytes 4 3 ++ leBytes 4 2)
     Ready cairned 0x0702 m ∧ cairned.waits = [] ∧
     (∀ n ∈ cairnNums m.bytes, (hostCairn (put cairned m) 0 n).isSome = true ∧ cairnInUse (put cairned m) n = false)) ∧
    (let m := msg 0x0703 48 (leBytes 4 3 ++ leBytes 4 1)
     Ready waiting 0x0703 m ∧ (hostCairn (put waiting m) 0 3).any (fun c => decide (c.val + 1 < 2 ^ 32)) = true) ∧
    (let m := msg 0x0704 48 (leBytes 4 3 ++ leBytes 4 8 ++ leBytes 4 5)
     Ready cairned 0x0704 m ∧ (hostCairn (put cairned m) 0 3).isSome = true) ∧
    (∀ now ∈ [1200, 1201], let s := { waiting with tclk := now }
     ((s.waits.find? (fun x => x.id == 1)).any fun w => decide (s.tclk ≤ w.armTs + 120 * w.timeoutUs) == (now == 1200)) = true ∧
     (s.msgs.find? (fun x => x.id == 1)).any (·.src == .inl) = true ∧ (cairnOf s 3).isSome = true) := by decide +kernel

theorem witness_ContractOpenAdmits :
    (∀ flags ∈ [0, 1], let m := msg 0x0501 64 (leBytes 8 0x10000 ++ leBytes 4 448 ++ leBytes 1 flags)
      let s := put wide m
      let r := recordAt longBytes (((modelOf s (refsAt longBytes).genModel).map fun k => k.img.vocab).getD 0)
      let pf := openFigures s 0 r plan []
      Ready wide 0x0501 m ∧ s.strata.opens = [] ∧ addrCheck s host 0 false 0x10000 448 32 = none ∧
      respCheck s host 0 4096 m.bytes = none ∧ recordCheck s host 0 longBytes 448 r = none ∧ quotaCheck s 0 r pf = none ∧
      r.terms.topology = 0 ∧ (prove s 0 r pf []).reason = 0 ∧ diesAwake s = true ∧ pf.t1Pages + pf.t2Pages ≠ 0) ∧
    (let m := msg 0x0501 64 (leBytes 8 0x10000 ++ leBytes 4 448)
     let s := put stocked m
     let pf := openFigures s 0 rcd plan []
     Ready stocked 0x0501 m ∧ s.strata.opens = [] ∧ addrCheck s host 0 false 0x10000 448 32 = none ∧
     respCheck s host 0 4096 m.bytes = none ∧
     recordAt recordBytes (((modelOf s (refsAt recordBytes).genModel).map fun k => k.img.vocab).getD 0) = rcd ∧
     recordCheck s host 0 recordBytes 448 rcd = none ∧ quotaCheck s 0 rcd pf = none ∧
     rcd.terms.topology = 0 ∧ (prove s 0 rcd pf []).reason ≠ 0) := by decide +kernel

theorem witness_ContractCloseEnds :
    (∀ a ∈ [1, 2], let m := msg 0x0503 40 (leBytes 4 50 ++ leBytes 1 a)
      Ready serving 0x0503 m ∧ ownContract (put serving m) 0 50 = some deal ∧ closeFits deal (a == 2) = true ∧ serving.cases = [] ∧
      deal.closes = []) ∧
    (∀ a ∈ [1, 2], let m := msg 0x0503 40 (leBytes 4 50 ++ leBytes 1 a)
      Ready busy 0x0503 m ∧ ownContract (put busy m) 0 50 = some deal ∧ ∃ c ∈ busy.cases, c.hd.contract = deal.handle) := by
  decide +kernel

/-- A contract whose proof holds. -/
def longRcd : ContractRec := recordAt longBytes 300

/-- `wide` with such a contract 50 open. -/
def roomy : State := admitContract wide 0 50 longRcd plan (openFigures wide 0 longRcd plan []) []

/-- A state whose link has fallen, its contracts proven again. -/
def afterFall (s : State) : State :=
  reproveAll (reproveAll { s with pcie := { s.pcie with rate := 160, width := 16, fellAt := some s.tclk } })

theorem witness_ArrivalsAndLinkRatesAreFollowed :
    contractOf serving 50 = some deal ∧ deal.rcd.terms.arrivalKind = 1 ∧ isOpen deal = true ∧
    (let k := { deal with rcd := { rcd with terms := { rcd.terms with arrivalKind := 2 } }
                          arrival := { deal.arrival with pendingEpoch := some 500 } }
     contractOf { serving with contracts := [k], tclk := 400000 } 50 = some k ∧
     500 < (windowStart k k.arrival.epoch 400000).toNat) ∧
    (∀ k ∈ serving.contracts, isOpen k = true → k.linkRate ≤ 320 ∧ k.linkWidth ≤ 16) ∧
    (∀ s ∈ [serving, roomy], (∃ k ∈ s.contracts, isOpen k = true ∧ (160 < k.linkRate ∨ 16 < k.linkWidth)) ∧
      (failedProofs (afterFall s) [] (byLevel ((afterFall s).contracts.filter isOpen)) = [] ↔ s = roomy)) := by decide +kernel

theorem witness_CasesAreSubmittedAndCancelled :
    (let m := submission
     let s := put serving m
     Ready serving 0x0601 m ∧ addrCheck s host 0 false 0x50000 80 48 = none ∧ addrCheck s host 0 true 0x60000 65536 56 = none ∧
     ownContract s 0 50 = some deal ∧ resultNeed deal.rcd.lim ≤ 65536 ∧ caseQuotas s 0 m.obsTs = none ∧ deal.ended = none ∧
     descCheck s host 0 descBytes 80 deal = none ∧ contractCheck deal (descAt descBytes).caseType m.obsTs = none) ∧
    (let m := submission
     let k := { deal with state := .revoked, ended := some (7, .contractRevoked) }
     let s := put { serving with contracts := [k] } m
     Fresh s ∧ Head s 0 .inl 0x0601 m ∧ ownContract s 0 50 = some k ∧ caseQuotas s 0 m.obsTs = none ∧ s.cases = [] ∧
     descCheck s host 0 descBytes 80 k = none ∧ contractCheck k (descAt descBytes).caseType m.obsTs = none) ∧
    (∀ n ∈ [4242, 7], let m := msg 0x0602 48 (leBytes 8 n)
      Ready busy 0x0602 m ∧ anyContract (put busy m) 0 0 40 = none ∧ (matching (put busy m) 0 n 0 = [] ↔ n = 7)) := by
  decide +kernel

theorem witness_SafetyMessagesTakeEffect :
    (let m := msg 0x0A02 48 (leBytes 2 1 ++ leBytes 2 0x3005 ++ leBytes 1 2)
     Ready live 0x0A02 m ∧ unitOfCode 0x3005 = some { kind := 3, idx := 5 } ∧ hasPoint (put live m) 1 0x3005 = true) ∧
    (∀ a ∈ [1, 2], ∀ u ∈ [0x3005, 0x8001], let m := msg 0x0A03 40 (leBytes 2 u ++ leBytes 1 a)
      Ready live 0x0A03 m ∧ (unitOfCode u).isSome = true ∧ live.safety.fences = []) ∧
    (let s := { live with boot := { live.boot with state := .degraded }
                          safety := { live.safety with fences := [{ kind := 3, idx := 5 }] } }
     (let m := msg 0x0A03 40 (leBytes 2 0x3005 ++ leBytes 1 2)
      Ready s 0x0A03 m ∧ runState s.boot.state = true) ∧
     (let m := msg 0x0A02 48 (leBytes 2 1 ++ leBytes 2 0x3005 ++ leBytes 1 1)
      Ready s 0x0A02 m ∧ isFenced s { kind := 3, idx := 5 } = true)) := by decide +kernel

theorem witness_SafetyHoldReleaseEndsTheHold :
    let m := msg 0x0A04 32 []
    let s := { live with boot := { live.boot with state := .safeHold } }
    let b := { s with safety := { s.safety with haltActed := false, haltQual := false, causes := [{ cause := 0x80, unit := 0 }] } }
    Ready live 0x0A04 m ∧ (Ready s 0x0A04 m ∧ causeActive (put s m) = false) ∧ (Ready b 0x0A04 m ∧ causeActive (put b m) = true) := by
  decide +kernel

theorem witness_PolicyAndFirmwareMessagesTakeEffect :
    (let m := msg 0x0B01 48 (leBytes 1 8 ++ leBytes 1 0 ++ leBytes 2 75 ++ (List.replicate 4 (leBytes 2 780)).flatten)
     let p := policyOf m.bytes
     Ready live 0x0B01 m ∧ (∀ g < 4, loadLineMv p.minDiv ≤ p.vceil.getD g 0) ∧
     brokenBy p [] (openContracts (put live m)) = none) ∧
    (let m := msg 0x0D01 64 (leBytes 4 0 ++ leBytes 4 4096 ++ leBytes 8 0x10000 ++ leBytes 1 1)
     Ready live 0x0D01 m ∧ updateHeld (put live m) m.bytes = false ∧ live.boot.sbUpdate = false ∧
     addrCheck (put live m) host 0 false 0x10000 4096 40 = none) ∧
    (let m := msg 0x0D02 48 (leBytes 4 4096)
     let s := put { live with boot := { live.boot with slots :=
       [{ image := some FwImage.shipped, imageLen := 4096, valid := true, written := [] },
        { image := some FwImage.shipped, imageLen := 4096, valid := true, written := [(0, zeros 4)] }] } } m
     Fresh s ∧ Head s 0 .inl 0x0D02 m ∧ updateHeld s m.bytes = false ∧
     imageChecks s (inactiveSlot s) (stagedImage s (le m.bytes 32 4)) = none) := by
  decide +kernel

/-! ## Mailboxes -/

theorem witness_IndexRegistersAreObserved :
    (∀ e ∈ [(2, true), (9, false)], let s := updMb live 0 fun mb => { mb with inl := { mb.inl with pi := e.1 } }
      Fresh s ∧ observes s 0 = true ∧ (mbOf s 0).inl.pi ≠ (mbOf s 0).inl.seen ∧ validPi 8 0 0 e.1 = e.2) ∧
    (∀ e ∈ [(64, true), (65, false)], let s := updMb ringed 0 fun mb => { mb with sq := { mb.sq with hostIdx := e.1 } }
      observes s 0 = true ∧ (mbOf s 0).sq.active = true ∧ (mbOf s 0).sq.hostIdx ≠ (mbOf s 0).sq.seen ∧
      validPi (ringSize (mbOf s 0).sq) 0 0 e.1 = e.2) ∧
    (∀ e ∈ [(5, true), (6, false)],
      let s := updMb ringed 0 fun mb => { mb with cq := { mb.cq with hostIdx := e.1, devIdx := 5 } }
      Fresh s ∧ observes s 0 = true ∧ (mbOf s 0).cq.active = true ∧ (mbOf s 0).cq.hostIdx ≠ (mbOf s 0).cq.seen ∧
      (e.2 = true ↔ (e.1 ≤ 511 ∧ (e.1 + 512 - 0) % 512 ≤ (5 + 512 - 0) % 512))) := by decide +kernel

theorem witness_FetchesAndModTimesEnd :
    (let s := updMb ringed 0 fun mb => { mb with sqFetch := [(0, 0)] }
     Fresh s ∧ (mbOf s 0).sqFetch.find? (fun x => x.1 == 0) = some (0, 0) ∧ mbServes s 0 = true ∧ canReserve s 0 = true ∧
     mbRuns s 0 = true ∧ (mbOf s 0).st.halted = false ∧ (mbOf s 0).sqQ = []) ∧
    (let s := updMb ringed 0 fun mb => { mb with sqFetch := [(0, 0)], st := { mb.st with halted := true } }
     Fresh s ∧ (mbOf s 0).sqFetch.find? (fun x => x.1 == 0) = some (0, 0) ∧ mbServes s 0 = false ∧ mbRuns s 0 = true ∧
     (mbOf s 0).st.halted = true) ∧
    mbRuns (updMb live 0 fun mb => { mb with st := { mb.st with running := false } }) 0 = false ∧
    (∀ e ∈ [(false, 0), (true, 0), (true, 1)],
      let s := updMb { live with pcie := { live.pcie with fns := live.pcie.fns.map fun x => { x with msixEnable := e.1 } } } 0 fun mb =>
        { mb with ev := { mb.ev with unsignalled := 2, msix := List.replicate 4 { MsixEntry.reset with ctrl := e.2 } } }
      0 < s.mail.length ∧ (mbOf s 0).ev.unsignalled ≠ 0 ∧ (fnOf s 0).msixEnable = e.1 ∧ (vectorMasked s 0 0 = true ↔ e.2 = 1)) := by
  decide +kernel

/-- A window that is open, of a function whose mailbox runs. -/
theorem witness_of_an_open_window :
    windowOpen live 0 = true ∧ (live.safety.pairA && live.safety.pairB) = false ∧ (mbOf live 0).st.running = true ∧
    live.mail.length = 33 ∧ windowOpen withVf 1 = true ∧ (mbOf live 0).ev.pba = 0 ∧ windowReadable live 0 = true ∧
    funcExists live 0 = true ∧ live.pcie.linkUp = true ∧ live.pcie.d3hot = false ∧ 0 < live.pcie.fns.length ∧
    funcExists live 1 = false ∧ windowOpen State.reset 0 = false := by decide +kernel

theorem witness_RingsAreEnabled :
    (let s := updMb live 0 fun mb =>
       { mb with sq := { mb.sq with baseLo := 0x1000, log2 := 6 }, cq := { mb.cq with baseLo := 0x20000, log2 := 8 } }
     ringDenied s 0 host (mbOf s 0).cq true 64 = false ∧ ringDenied s 0 host (mbOf s 0).sq false 256 = false) ∧
    enableError false false false false false = 0 ∧ enableError true true false false true = 2 := by decide +kernel

/-! ## Scheduling and BACKGROUND work -/

/-- A tile of one step whose rows and columns hold one operand each. -/
def tile (flips : List (Nat × Nat × Word)) : TileRun :=
  { op := .mac8, block := 0, rows := [[3]], cols := [[5]], flips := flips, twin := [], stuck := [], next := .more }

theorem witness_CommandsAreGrantedAndTilesEnd :
    ∀ s ∈ [live, queued], let u : UnitId := { kind := 3, idx := 0 }
      let s1 := yieldPoints (chargeAll s)
      isEngine u = true ∧ runState s.boot.state = true ∧
      (s.cases = [] → select s1 u = none) ∧
      (s.cases ≠ [] → (select s1 u).any (fun c =>
        c.id != 0 && decide (weightsOf s1 c = .here) && (holders s1 (engines s1 c u)).isEmpty &&
        !(engines s1 c u).any (switchHolds s1)) = true) := by decide +kernel

/-- A tile that passes its compare, and one in which a cell has flipped. -/
theorem witness_CommandsAreGrantedAndTilesEnd_tiles :
    ∀ e ∈ [([], []), ([(0, 0, 1#32)], [false])],
      let s := working deal { fresh deal with stage := .encoding } (.cases [1])
      let u : UnitId := { kind := 3, idx := 0 }
      let r := tile e.1
      ∃ c ∈ s.sched.cmds, cmdOf s 1 = some c ∧ c.phase = .running ∧ u ∈ c.units ∧ c.preemptTs = none ∧ tileFits s c u r = true ∧
        s.safety.killed = [] ∧
        (let q := quadrant (inGang s (u.idx / 4)) (u.idx % 4) r
         let pre := areaOf s c u q.block
         let cells := tileCells pre q
         (tileDetections s c u q cells (areaAfter pre q cells)).map (fun x => atLimit c x.det) = e.2) := by
  decide +kernel

theorem witness_ModelsAreSwitched :
    (let p : PoolLoad := { model := 10, start := 0, owner := 0, level := 1, mover := 0, charged := 0 }
     ({ stocked with sched := { stocked.sched with poolLoading := some p } } : State).sched.poolLoading = some p) ∧
    modelOf stocked 10 = some (mdl 10 .encoder) ∧ 0 < (mdl 10 .encoder).img.shape.layers ∧ casesOfModel stocked 10 = [] := by
  decide +kernel

theorem witness_BackgroundOpsCommitWhole :
    ∀ e ∈ [(BgKind.modelLoad (img .encoder) .t1 true false, false), (.tableLoad 30 7 [zeros 8], false),
           (.settle 20 1, false), (.prefixRegister 12 [1, 2] 0 4 false, false), (.bulkLoad 20 [1] false, false),
           (.fwStage 0 [1] true true true, false), (.fwActivate 4096 FwImage.shipped, false), (.zero 30 0 [] [], false)],
      let s := background e.1 0
      ∃ b, s.bg.find? (fun o => o.id == b.id) = some b ∧ bgReady s b = true ∧ s.boot.bcb.length = 2 ∧ b.kind = e.1 ∧
        bgLost (clearBusy s b.kind) b = e.2 ∧ ((bgCmd s b.id).all fun c => c.preemptTs.isNone) = true := by
  intro e h
  refine ⟨{ id := 1, owner := 0, msg := none, kind := e.1, applyTs := 0, t1Held := 0, t2Held := 0 }, ?_⟩
  revert e
  decide +kernel

theorem witness_BackgroundOpsCommitWhole_lost :
    let s := { background (.settle 20 1) 1 with mem := { live.mem with t2 := { live.mem.t2 with lost := true } } }
    ∃ b ∈ s.bg, s.bg.find? (fun o => o.id == b.id) = some b ∧ bgReady s b = true ∧ bgLost (clearBusy s b.kind) b = true := by
  decide +kernel

/-! ## The stages of a case -/

/-- The command of `working` may commit, and its case runs. -/
abbrev Works (k : Contract) (c : Case) : Prop :=
  let s := working k c (.cases [1])
  ∃ m ∈ s.sched.cmds, m.id = 1 ∧ cmdOf s 1 = some m ∧ caseOf s 1 = some c ∧ caseCmd s 1 = some m ∧
    contractOf s c.hd.contract = some k ∧ caseRuns c = true ∧ mayCommit s m = true ∧ m.preemptTs = none

theorem runs_of_works (k : Contract) (c : Case) (h : Works k c) :
    ∃ m, m.id = 1 ∧ cmdOf (working k c (.cases [1])) 1 = some m ∧ Running (working k c (.cases [1])) 1 c.stage c m k := by
  obtain ⟨m, -, i, a, b, d, e, f, g, p⟩ := h
  exact ⟨m, i, a, b, d, e, rfl, f, g, fun t ht => by simp [p] at ht⟩

/-- A contract that fetches from the store, re-ranks, generates three tokens with drafts, and may fall back everywhere. -/
def grand : Contract :=
  { deal with rcd := { rcd with
    refs := { rcd.refs with rerankModel := 11, draftModel := 13 }
    lim := { rcd.lim with passageSrc := 1, rerankDepth := 2, genMax := 3, draftLen := 2, fbMask := 15, t3Budget := 100 }
    tpl := { rcd.tpl with slotCount := 2, rrBatch := 1, storeBase := 0x10000, storeBuckets := 4, dataBase := 0x20000
                          dataLen := 0x10000, probeMax := 2 }
    stp := { rcd.stp with stopToks := [7] } } }

/-- `grand` without a fetch form but the store. -/
def storeOnly : Contract := { grand with rcd := { grand.rcd with lim := { grand.rcd.lim with fbMask := 0 } } }

def certain (ids : List Nat) : CandList :=
  { cands := ids.map fun i => { id := i, lo := 0#32, hi := 0#32, list := 0, shard := 0, scree := false, pos := 0, seq := 0 }
    exact := true, short := false, u := 0#32, lOut := 0#32, slack := 0#32, gen := 1, screeSeq := 1 }

def found (i : Nat) : Passage :=
  { id := i, family := 0, score := fpNaN, candRank := 0, src := .store, toks := [50, 51], storeTokens := 2, chosen := false
    packed := false, truncated := false, familyDup := false, noBudget := false, ptok := 2 }

def qvec : QueryVec := { q := List.replicate 256 1, scale := fpOfInt 1 }

theorem witness_CaseIsTakenInAndEncoded :
    (let c := fresh deal
     let s := working deal c (.cases [1])
     Works deal c ∧ c.stage = .intake ∧ (∀ e ∈ c.desc.sg, caseGranted s c false e.addr e.len = true) ∧ c.desc.sg.length = 1 ∧
     joinPieces c.desc.sg [.data (zeros 4)] = .data (zeros 4) ∧ joinPieces c.desc.sg [.ur] = .ur ∧
     caseGranted s c true (c.hd.resultAddr + c.hd.tokAt) 4 = true ∧
     modelOf s deal.rcd.refs.encModel = some (mdl 10 .encoder)) ∧
    (∀ g ∈ [Stage.embedding, .encoding], Works deal { fresh deal with stage := g }) ∧
    (∀ n ∈ [0, 1], let c := { fresh deal with
       stage := .encoding
       desc := { (fresh deal).desc with caseType := 2 }
       enc := { (fresh deal).enc with summaries := (List.range n).map fun i => (i, []) } }
     let k := { deal with rcd := { rcd with feat := { rcd.feat with chunkLen := 16 } } }
     Works k c ∧ chunkCount k c = 1 ∧ c.enc.summaries.length = n) := by decide +kernel

/-- The intake stage's commit leaves one journal entry, which names its command and its case (R337). -/
theorem test_a_commit_is_journaled :
    (match execIntakeCommit 1 [.data (zeros 4)] [] busy with
     | .next t => t.safety.journal.map fun e => (e.cmds, e.cases, e.pages)
     | _ => []) = [([1], [1], [])] := by decide +kernel

theorem witness_CasesAreSearched :
    (let c := { fresh deal with stage := .coarse, enc := { (fresh deal).enc with query := some qvec } }
     Works deal c ∧ indexOf (working deal c (.cases [1])) deal.rcd.refs.index = some idx ∧
     ((working deal c (.cases [1])).sched.cmds.map Cmd.stage) = [4]) ∧
    (∀ e ∈ [([1], []), ([], []), ([], [1])],
      let c := { fresh deal with
        stage := .listScan
        enc := { (fresh deal).enc with query := some qvec }
        srch := { (fresh deal).srch with gen := 1, seq := 1, waitLists := e.1, shardsLeft := e.2 } }
      let s := working deal c (.pass 20 1 (some 0) [1])
      ∃ m ∈ s.sched.cmds, cmdOf s 1 = some m ∧ mayCommit s m = true ∧ m.preemptTs = none ∧ caseOf s 1 = some c ∧
        (∀ n ∈ s.sched.cmds, n.id ≠ m.id → 1 ∉ cmdKeys n)) := by decide +kernel

theorem witness_PassagesAreFetched :
    (∀ k ∈ [grand, storeOnly],
      let c := { fresh k with stage := .fetch, srch := { (fresh k).srch with cand := some (certain [100, 300]) } }
      let s := working k c (.cases [1])
      Works k c ∧ 100 ∈ readsLeft s k.rcd c ∧ c.pass.stale = [] ∧ waitsT3 s k c = true ∧
      caseGranted s c false (nextRead k.rcd (lookupOf c 100)).1 (nextRead k.rcd (lookupOf c 100)).2 = true ∧
      ((chainLeft k c .fetch).drop 1 = [] ↔ k = storeOnly) ∧
      (monitorForm s k c .fetch (chainLeft k c .fetch) { forms := [] } = c.forms.fetch ↔ k = storeOnly)) ∧
    (let c := { fresh grand with stage := .fetch, pass := { (fresh grand).pass with stale := [100] } }
     Works grand c ∧ 100 ∈ c.pass.stale) ∧
    (let c := { fresh deal with stage := .fetch, srch := { (fresh deal).srch with cand := some (certain [100, 300]) } }
     Works deal c ∧ readsLeft (working deal c (.cases [1])) deal.rcd c = []) := by decide +kernel

theorem witness_CacheFill :
    let s := background (.cacheFill 20 [found 100]) 0
    ∃ b ∈ s.bg, ∃ n ∈ s.sched.cmds, s.bg.find? (fun o => o.id == b.id) = some b ∧ bgCmd s b.id = some n ∧
      mayCommit s n = true ∧ n.preemptTs = none ∧ indexOf s 20 = some idx ∧ fills idx (found 100) = true ∧
      hitBlocks s idx = [] := by decide +kernel

theorem witness_PassagesAreRankedAndPacked :
    (∀ n ∈ [1, 2], let k := grand
      let c := { fresh k with stage := .rerank, pass := { (fresh k).pass with committed := (List.range n).map found } }
      Works k c ∧ rerankIdle c = false ∧ (pairPlaces c.pass.committed).length = n ∧
      modelOf (working k c (.cases [1])) k.rcd.refs.rerankModel = some (mdl 11 .reranker) ∧
      (c.pass.nextPair + ((pairPlaces c.pass.committed).take (max 1 k.rcd.tpl.rrBatch)).length) = 1 ∧
      monitorForm (working k c (.cases [1])) k c .rerank (chainLeft k c .rerank) { forms := [] } ≠ c.forms.rerank) ∧
    (let k := storeOnly
     let c := { fresh k with stage := .rerank, pass := { (fresh k).pass with committed := [found 1, found 2] } }
     Works k c ∧ rerankIdle c = false ∧
     monitorForm (working k c (.cases [1])) k c .rerank (chainLeft k c .rerank) { forms := [] } = c.forms.rerank) := by
  decide +kernel

theorem witness_PassagesAreRankedAndPacked_rest :
    (Works deal { fresh deal with stage := .rerank } ∧ rerankIdle { fresh deal with stage := .rerank } = true) ∧
    Works grand { fresh grand with stage := .packing, pass := { (fresh grand).pass with ranked := [found 1] } } := by
  decide +kernel

/-- The logits that prefer a token. -/
def prefer (t : Nat) : List Word := (List.range 60).map fun i => if i = t then fpOfInt 5 else fpOfInt 1

/-- A contract like `grand` whose prompt takes the file. -/
def fileBound : Contract :=
  { grand with rcd := { grand.rcd with
    smp := { grand.rcd.smp with fileContext := 2 }
    feat := { grand.rcd.feat with chunkLen := 16 } } }

/-- A case that generates, its prompt of eight tokens packed and `toks` generated. -/
def speaking (k : Contract) (toks : List Nat) : Case :=
  { fresh k with
    stage := .generation
    pass := { (fresh k).pass with promptLen := 8 }
    gen := { (fresh k).gen with toks := toks } }

theorem witness_FileChunks :
    let c := speaking fileBound []
    Works fileBound c ∧ c.gen.fileChunks < fileChunks fileBound c := by decide +kernel

theorem witness_Prefill :
    ∀ k ∈ [deal, grand, storeOnly], let c := speaking k []
      let s := working k c (.cases [1])
      Works k c ∧ decoding c = false ∧ c.gen.fileChunks = fileChunks k c ∧
      modelOf s (genModelOf k.rcd c) = some (mdl 12 .generator) ∧
      caseGranted s c true (c.hd.resultAddr + (c.hd.tokAt + 64)) 4 = true ∧
      caseGranted s c true (c.hd.resultAddr + c.hd.tokAt) 4 = true ∧ (genLimit k.rcd c = 0 ↔ k = deal) ∧ budgetGone s k c = false ∧
      (k = storeOnly → monitorForm s k c .generation (decodeChain k c) { forms := [] } ≠ .scoreHead) := by decide +kernel

/-- A token that stops the case, and one that does not. -/
theorem witness_Prefill_tokens :
    ∀ t ∈ [7, 9], drawToken storeOnly.rcd 0 4242 8 [] (prefer t) = t ∧ (stopCause storeOnly.rcd.stp 3 [t] = none ↔ t = 9) := by
  decide +kernel

theorem witness_Decode :
    (∀ ps ∈ [[], [9]], let c := { speaking grand [9] with gen := { (speaking grand [9]).gen with proposals := ps } }
     let s := working grand c (.cases [1])
     Works grand c ∧ decoding c = true ∧ s.sched.cmds.map Cmd.stage = [9] ∧ mostProposals grand.rcd c = 1 ∧
     modelOf s grand.rcd.refs.draftModel = some (mdl 13 .generator) ∧
     modelOf s (genModelOf grand.rcd c) = some (mdl 12 .generator) ∧
     (drafting grand.rcd c = true ↔ ps = []) ∧ (readyToVerify s 1 = true ↔ ps = [9])) ∧
    (let k := { grand with rcd := { grand.rcd with lim := { grand.rcd.lim with genMax := 4 } } }
     let c := speaking k [9]
     Works k c ∧ drafting k.rcd c = true ∧ c.gen.proposals.length + 1 < mostProposals k.rcd c) := by decide +kernel

theorem witness_ResultsAreIssued :
    let c := { fresh deal with stage := .result }
    let s := working deal c (.cases [1])
    Works deal c ∧ (∃ o ∈ s.msgs, s.msgs.find? (fun m => m.id == c.hd.msg) = some o ∧ o.src = .inl) ∧ s.waits = [] ∧
    caseGranted s c true c.hd.resultAddr c.hd.resultLen = true ∧
    (∀ st ∈ [Status.faultFenced, .caseCancelled], caseOf (working deal { c with ending := some st } (.cases [1])) 1 =
      some { c with ending := some st }) := by decide +kernel

/-! ## Safety, power and memory -/

theorem witness_HubFaultsEnterSafeHold :
    runState live.boot.state = true ∧ pairRuns live true = true ∧ pairRuns live false = true ∧ rootUp live = true ∧
    (tripped [[1760]]).isSome = true ∧ live.safety.haltQual = true ∧ live.safety.rearm = false ∧
    (let s := { live with safety := { live.safety with haltQual := false, rearm := true } }
     runState s.boot.state = true ∧ s.safety.haltActed = true) := by decide +kernel

theorem witness_SweepAndPinsAreFollowed :
    (∀ i ∈ [0, 475], let s := { live with safety := { live.safety with sweepPos := i } }
      runState s.boot.state = true ∧ pairRuns s true = true ∧ sweepAge s ≤ 64000 ∧
      (s.safety.points[i]?).any (fun p => pointLive s p && ((unitOfCode p.unit).isNone == (i == 475))) = true) ∧
    (let s := { live with safety := { live.safety with fences := [{ kind := 3, idx := 0 }] } }
     sweepAge s ≤ 64000 ∧
     (s.safety.points[0]?).any (fun p => (unitOfCode p.unit).any fun u => isFenced s u) = true) ∧
    (let s := { live with power := { live.power with dies := live.power.dies.map fun d =>
       { d with cores := List.replicate 4 .off } } }
     sweepAge s ≤ 64000 ∧
     (s.safety.points[0]?).any (fun p => (unitOfCode p.unit).any fun u => !isFenced s u && isGated s u) = true) ∧
    live.safety.haltQual ≠ false ∧ live.power.throtLevel ≠ false ∧
    (let s := { live with
       safety := { live.safety with rearm := true }
       pins := { live.pins with pulse := some 7, syncOut := true }
       boot := { live.boot with locked := false, backup := true } }
     s.safety.haltQual = s.safety.haltActed ∧ s.pins.syncOut = true ∧ rootUp s = true ∧ s.boot.locked = false) := by
  decide +kernel

/-- `live` with a change to Garnet 0. -/
def withDie (f : Die → Die) : State := updDie live 0 f

theorem witness_DieFaultsRerunOrFence :
    (∀ c ∈ cmdsOnDie busy 0, c.reruns < 3) ∧ cmdsOnDie busy 0 ≠ [] ∧ (dieOf live 0).underv = false ∧
    (dieOf (withDie fun d => { d with underv := true }) 0).underv = true ∧
    (let s := { busy with sched := { busy.sched with cmds := busy.sched.cmds.map fun c => { c with preemptTs := some 0 } } }
     isEngine { kind := 3, idx := 0 } = true ∧
     ((holders s [{ kind := 3, idx := 0 }]).find? (fun x => x.preemptTs.isSome)).isSome = true) ∧
    isWaking (coreState (withDie fun d => { d with cores := List.replicate 4 (.waking 1) }) 3) = true ∧
    (let s := withDie fun d => { d with cores := List.replicate 4 (.waking 1) }
     ({ s with boot := { s.boot with state := .booting } } : State).boot.state = .booting) ∧
    coreState live 15 = .ready := by decide +kernel

theorem witness_DividersMoveOneStep :
    (∀ e ∈ [(4, 5), (8, 6)], let s := withDie fun d => { d with div := e.1, vset := 576 }
      let s := if e.1 = 4 then { s with power := { s.power with throtLevel := false } } else s
      let a := updDie s 0 fun d => { d with dwell := false, loadMa := 1000 }
      let d := dieOf a 0
      (if e.1 = 4 then d.div < targetDiv a 0 ∧ slower d.div = e.2 else targetDiv a 0 < d.div ∧ faster d.div = e.2) ∧
      d.req = none ∧ d.pend = none ∧ d.aclkOn = true ∧ runningArrays a 0 = []) ∧
    (let s := withDie fun d => { d with div := 8, vset := 576 }
     let d := dieOf (updDie s 0 fun d => { d with dwell := false, loadMa := 0 }) 0
     needMv d 6 = 585 ∧ d.vset < needMv d 6) ∧
    (let s := withDie fun d => { d with div := 8, vset := 600 }
     let d := dieOf (updDie s 0 fun d => { d with dwell := false, loadMa := 0 }) 0
     needMv d (faster d.div) ≤ d.vset) ∧
    (let p : PendStep := { target := 640, prev := 576, divider := some 6 }
     let s := withDie fun d => { d with div := 8, pend := some p, stepFails := 2 }
     (dieOf s 0).pend = some p ∧ 2 ≤ (dieOf s 0).stepFails ∧
     (let a := updDie s 0 fun d => { d with vset := 640, pend := none, stepFails := 0 }
      targetDiv a 0 ≤ 6 ∧ needMv (dieOf a 0) 6 ≤ 640) ∧
     (let a := updDie { s with power := { s.power with throtLevel := false } } 0 fun d =>
        { d with vset := 640, pend := none, stepFails := 0 }
      6 < targetDiv a 0)) ∧
    (dieOf live 0).pend = none := by decide +kernel

theorem witness_SensorsDriveTheRail :
    (let s := withDie fun d => { d with div := 8, vset := 560 }
     let d := dieOf s 0
     (∀ r ∈ d.regions, r.overSince = none) ∧ d.loadline = false ∧ d.aclkOn = true ∧ d.pend = none ∧ 500 ≤ d.vset ∧
     d.vset ≤ vceilOf s 0 ∧ needMv { d with loadMa := 1000 } d.div ≤ vceilOf s 0 ∧
     (∀ e ∈ [(510, 0), (515, 1), (530, 2)],
       let rd : LoopReading := { regions := List.replicate 16 { ts := 0, lo := e.1, hi := e.1, bad := false }, vsense := 560, avsErrors := 0 }
       loopFault rd = none ∧
       (lowestOf rd < minTargetMv d.div + d.raisedBy ↔ e.2 = 0) ∧ (lowestOf rd = minTargetMv d.div + d.raisedBy ↔ e.2 = 1))) ∧
    loopFault { regions := [], vsense := 560, avsErrors := 3 } ≠ none ∧
    (∀ n ∈ [0, 2], let s := withDie fun d => { d with regions := List.replicate 16 { Region.reset with falls := List.replicate n 0 } }
      ((dieOf s 0).regions[15]?).any (fun r =>
        !r.derated && ((r.falls ++ [s.tclk]).filter fun x => decide (s.tclk < x + 120000000)).length == n + 1) = true) ∧
    (dieOf live 0).stretching = false ∧ (dieOf live 0).raisedBy = 0 ∧
    (dieOf (withDie fun d => { d with stretching := true, raisedBy := 10 }) 0).raisedBy ≠ 0 := by decide +kernel

theorem witness_CapAndThermalRequestsMove :
    (let p := live.power
     let base := standingMw p.policy.vceil + p.calib
     let tooMuch (e : Nat) : Prop := p.policy.capW * 1000 < e + base * 6 / 10 + 400 * pMaxW (fastestDiv live)
     ¬ tooMuch 0 ∧ tooMuch 80000 ∧ 0 + base + 5000 ≤ p.policy.capW * 1000 ∧ ¬ 74000 + base + 5000 ≤ p.policy.capW * 1000) ∧
    (∃ d ∈ live.power.dies, d.capReq < live.power.policy.minDiv) ∧
    (let s := { live with power := { live.power with dies := live.power.dies.map fun (d : Die) => { d with capReq := 8 } } }
     ∀ d ∈ s.power.dies, s.power.policy.minDiv ≤ d.capReq) ∧
    tripped [[1759]] = none ∧
    (dieOf (withDie fun d => { d with hot := true }) 0).hot = true ∧
    (let s := { (withDie fun d => { d with coolSince := some 0, thermReq := 6 }) with tclk := 1200000 }
     (dieOf s 0).hot = false ∧ (dieOf s 0).coolSince = some 0 ∧ max 0 (dieOf s 0).thermTs + 1200000 ≤ s.tclk) := by
  decide +kernel

theorem witness_DozeGatesTheGarnets :
    (live.boot.state = .ready ∧ live.cases = [] ∧ live.bg = [] ∧ live.msgs = []) ∧ serving.boot.state ≠ .ready ∧
    (let s := { (withDie fun d => { d with woken := true }) with boot := { live.boot with state := .doze } }
     s.boot.state = .doze ∧ (dieOf s 0).woken = true ∧ cmdsOnDie s 0 = []) := by decide +kernel

/-- The syndrome of one wrong symbol. -/
def oneSymbol : Syndrome := { s0 := 1, s1 := 1 }

/-- A number for each result of a read. -/
def resultCode : EccResult → Nat
  | .clean => 0
  | .corrected _ => 1
  | .poisoned => 2
  | .uncorrectable => 3

theorem witness_MemoryIsScrubbedAndFails :
    live.mem.armed = [] ∧ (fresh deal).desc.sg ≠ [] ∧ (fresh deal).pass.stale = [] ∧ scrubRuns live .t1 = true ∧
    scrubRuns busy .t2 = true ∧ scrubRuns State.reset .t1 = false ∧
    (let s := updTier live .t2 fun m => { m with scrubbing := true }
     (tierOf s .t2).scrubbing = true ∧ (tierOf s .t2).queues = [] ∧ (tierOf s .t2).scrubPos + 1 < passLength s .t2 ∧
     (∀ e ∈ [(oneSymbol, 1), (poisonMask, 2), (⟨1, 3⟩, 3)],
       let d : DramRead := { tier := .t2, frame := 7, granule := 3, syn := e.1, use := .none }
       resultCode (readResult s d) = e.2)) ∧
    (let s := updTier live .t2 fun m => { m with scrubbing := true, scrubPos := passLength live .t2 - 1 }
     passLength s .t2 ≤ (tierOf s .t2).scrubPos + 1) ∧
    (tierOf live .t1).scrubbing = false ∧
    (∀ n ∈ [1, 2], let s := updTier live .t1 fun m => { m with retrains := List.replicate n (31, 0) }
      (tierOf s .t1).retraining = none ∧ 31 ∉ (tierOf s .t1).chFailed ∧
      ((tierOf s .t1).retrains.filter fun e => e.1 == 31 && decide (s.tclk < e.2 + 120000000)).length = n) ∧
    (∀ n ∈ [0, 1], let s := updTier live .t1 fun m => { m with retraining := some 31, retrainFails := [(31, n)] }
      (tierOf s .t1).retraining = some 31 ∧ failsInRow (tierOf s .t1) 31 = n) ∧
    (let s := { updMb ringed 0 fun mb => { mb with sqFetch := [(0, 0)] } with tclk := 6000000 }
     (mbOf s 0).sqFetch.find? (fun x => x.1 == 0) = some (0, 0) ∧ mbServes s 0 = true ∧ canReserve s 0 = true ∧
     s.pcie.ctoDisable = false ∧ 0 + completionTimeout s.pcie.ctoValue ≤ s.tclk) ∧
    (∀ g ∈ [Stage.intake, .fetch],
      let c := { fresh storeOnly with stage := g, srch := { (fresh storeOnly).srch with cand := some (certain [100, 300]) } }
      let s := { working storeOnly c (.cases [1]) with tclk := 6000000 }
      ∃ m ∈ s.sched.cmds, caseCmd s 1 = some m ∧ caseOf s 1 = some c ∧ contractOf s c.hd.contract = some storeOnly ∧
        caseRuns c = true ∧ mayCommit s m = true ∧ m.preemptTs = none ∧ s.pcie.ctoDisable = false ∧
        m.grantTs + completionTimeout s.pcie.ctoValue ≤ s.tclk) := by
  decide +kernel

/-! ## Strata -/

/-- A port in a state, its cable in, its peer at position 1. -/
def portIn (st : Nat) : Port :=
  { Port.reset with st := st, present := true, cable := 1, peerPos := 1, peerPort := 0, peerId := 2 }

/-- A live module at position `pos` of a ring of two, with a port up, a port that trains, one down and one empty. -/
def stacked (pos : Nat) : State :=
  { stocked with strata := { stocked.strata with
    ports := [portIn 2, { portIn 1 with step := 4 }, portIn 3, Port.reset]
    stack := { stocked.strata.stack with pos := pos, shape := 1, members := [1, 2], epoch := 1 } } }

/-- A message of a type from the other module, on VC 1. -/
def word (type pos : Nat) (data : List Byte) : StrataMsg :=
  { type := type, src := 1 - pos, dst := pos, hops := 0, id := 5, vc := 1, data := data }

/-- The message arrives at port 0. -/
abbrev Comes (s : State) (type : Nat) (m : StrataMsg) : Prop :=
  basaltRuns s = true ∧ portCarries (portOf s 0) type = true ∧ m.type = type ∧ m.dst = myPos s ∧ m.dst ≠ 0xFF ∧
  deliveredId s m.src m.vc = none

theorem arrives_of_comes (s : State) (t : Nat) (m : StrataMsg) (h : Comes s t m) : Arrives s 0 t m := by
  obtain ⟨a, b, c, d, e, f⟩ := h
  exact ⟨by decide, a, b, c, .inl ⟨d, e⟩, fun _ i hi => by simp [f] at hi⟩

/-- A flit of a type with one whole message of a byte. -/
def flitOf (ftype seq ackSeq : Nat) : Flit :=
  sealFlit { seq := seq, ackSeq := ackSeq, ftype := ftype, vc := 0, som := true, eom := true, credVc := 0, credit := 0, bytes := 1
             payload := [1], crc := 0 }

/-- That flit with a wrong CRC. -/
def torn (f : Flit) : Flit := { f with crc := f.crc + 1 }

theorem flitHead_crc (f : Flit) (x : Word) : flitHead { f with crc := x } = flitHead f := rfl

theorem flitOk_seal (f : Flit) : flitOk (sealFlit f) = true := by
  simp only [flitOk, sealFlit, flitHead_crc, decide_true]

theorem flitOk_torn (f : Flit) : flitOk (torn (sealFlit f)) = false := by
  simp only [flitOk, torn, sealFlit, flitHead_crc]
  exact decide_eq_false (neq _)
where
  neq (x : Word) : ¬ x = x + 1 := by bv_omega

theorem witness_LinksTrainAndFail :
    let s := stacked 0
    s.strata.ports.length = 4 ∧ basaltRuns s = true ∧ (portOf s 3).present = false ∧
    ((portOf s 2).present = true ∧ (portOf s 2).cable ≠ 0 ∧ (portOf s 2).st = 3 ∧ (portOf s 2).waiting = false) ∧
    ((portOf s 1).st = 1 ∧ (portOf s 1).waiting = false ∧ (portOf s 1).step ≠ 0) ∧
    byteAt (flitOf 3 0 0).payload 0 = 1 ∧
    (portOf (updPort s 1 fun p => { p with waiting := true }) 1).waiting = true ∧ (portOf s 0).st = 2 ∧
    (myPos s, 0) ∉ s.strata.stack.down ∧ (neighbour s 0 0).map Prod.fst = some 1 := by decide +kernel

theorem witness_FlitsAreRetried :
    let s := stacked 0
    (portOf s 0).st = 2 ∧ (flitOf 1 1 0).seq = ((portOf s 0).retry.rxSeq + 1) % 65536 ∧
    (∀ q ∈ [512, 513], (q + 65536 - (portOf s 0).retry.rxSeq) % 65536 = q) ∧ (portOf s 0).retry.crcTimes = [] ∧
    (∀ n ∈ [14, 15], let u := updPort s 0 fun p => { p with retry := { p.retry with unacked := [flitOf 1 1 0], resends := n } }
      (portOf u 0).retry.unacked ≠ [] ∧ (flitOf 2 0 0).ackSeq = (portOf u 0).retry.ackSeq ∧ (portOf u 0).retry.resends = n) ∧
    ((1 + 65536 - (portOf s 0).retry.ackSeq) % 65536 = 1) := by decide +kernel

/-- `stacked` before any epoch. -/
def strangers : State :=
  let s := stacked 0
  { s with strata := { s.strata with stack := { s.strata.stack with epoch := 0, members := [1] } } }

theorem witness_StacksForm :
    (portCarries (portOf strangers 0) 0x01 = true ∧ strangers.strata.stack.epoch = 0 ∧ (stacked 0).strata.stack.epoch ≠ 0 ∧
     2 ∈ (stacked 0).strata.stack.members ∧ 9 ∉ (stacked 0).strata.stack.members) ∧
    (stackBusy strangers = false ∧ [1, 2].head? = some strangers.ident.moduleId ∧ cablingFits strangers 1 [1, 2] = true ∧
     cablingFits strangers 3 [1, 2] = false) ∧
    (let m := word 0x02 0 (leBytes 8 3 ++ leBytes 1 1 ++ leBytes 8 1 ++ leBytes 8 2 ++ leBytes 4 100)
     Comes (stacked 0) 0x02 m ∧ (stacked 0).ident.moduleId ∈ formMembers m.data ∧
     (stacked 0).strata.stack.epoch < le m.data 0 8) ∧
    (∀ up ∈ [0, 1], Comes (stacked 0) 0x03 (word 0x03 0 (leBytes 1 0 ++ leBytes 1 1 ++ leBytes 1 up))) ∧
    (∀ t ∈ [0x04, 0x70, 0x50], Comes (stacked 0) t (word t 0 (zeros 10))) ∧
    (word 0x7F 0 []).dst = myPos (stacked 0) := by decide +kernel

/-- The cabling of chapter 12: port 0 of position 0 leads to port 1 of position 1 in a ring of four, and to no other place. -/
theorem test_a_ring_fits_its_cables :
    (let s := updPort strangers 0 fun p => { p with st := 2, peerPort := 1 }
     let s := updStack s fun t => { t with hellos := [{ port := 0, id := 5, epoch := 0, pos := 0xFF, ts := 0 }] }
     cablingFits s 1 [1, 5, 7, 6] = true ∧ cablingFits s 1 [1, 7, 5, 6] = false ∧ cablingFits s 0 [1, 5, 6, 7] = true ∧
     cablingFits s 0 [1, 6, 5, 7] = false) := by decide

theorem witness_StackTimeIsAligned :
    (myPos (stacked 1) ≠ 0 ∧ nextHop (stacked 1) 0 = some 0 ∧ (stacked 1).strata.time.locked = true) ∧
    (let s := updPort (updPort (stacked 1) 0 fun _ => portIn 3) 1 fun _ => portIn 3
     hops s (myPos s) 0 = none) ∧
    Comes (stacked 1) 0x60 (word 0x60 1 (zeros 12)) ∧
    (let s := { stacked 1 with strata := { (stacked 1).strata with time := { (stacked 1).strata.time with t1 := some 256 } } }
     let m := word 0x61 1 (leBytes 4 0 ++ leBytes 8 256 ++ leBytes 8 1024 ++ leBytes 8 1024)
     Comes s 0x61 m ∧ s.strata.time.t1 = some (le m.data 4 8) ∧ s.strata.time.seq = le m.data 0 4 ∧ s.cases = [] ∧
     0 < syncOffset 256 1024 1024 512) := by decide +kernel

/-- A RESERVE of the home module for the one shard of the layout of `idx`, which asks for `slots` of T2. -/
def demand (slots : Nat) : List Byte :=
  leBytes 4 50 ++ leBytes 1 0 ++ leBytes 1 1 ++ leBytes 2 slots ++ leBytes 4 0 ++ leBytes 2 16 ++ leBytes 8 5 ++ leBytes 4 2 ++
  leBytes 1 32 ++ leBytes 1 0 ++ leBytes 1 1 ++ leBytes 1 1 ++ leBytes 2 0 ++ leBytes 4 6000000 ++ leBytes 4 1 ++ leBytes 2 2 ++
  leBytes 2 1 ++ leBytes 4 6000000 ++ leBytes 1 1 ++ leBytes 1 1

/-- `stacked` as home of an open that waits for position 1 (or for it and position 2), and as shard of another's contract 50. -/
def reserving (shards : List Nat) : State :=
  let s := updPart (stacked 0) 0 fun p => { p with cfg := { p.cfg with t2Bw := 500 } }
  let r := { rcd with terms := { rcd.terms with topology := 1 } }
  { s with
    msgs := [{ id := 1, f := 0, src := .inl, origin := 0, opcode := 0x0501, tag := 5, cookie := 77, respAddr := 0 }], nextMsg := 2
    cairns := [{ num := 8, st := .stage, val := 0, copy := 0, run := 1 }]
    indexes := s.indexes ++ [{ idx with handle := 21, cfg := { idx.cfg with shardCount := 2 } }]
    strata := { s.strata with
      opens := [{ msg := 1, f := 0, dry := false, rcd := { r with refs := { r.refs with index := 21 } }, scheds := plan, handle := 60
                  waking := false, shards := shards, acks := [] }]
      rsvs := [{ home := 1, contract := 50, owner := 0, shard := 0, index := 20, t2Slots := 1, t2Pages := 1, cairns := [8]
                 candC := 16, level := 1, holdUs := 0, deadline := 1440000, burst := 1, interval := 1000000, demand := 1000 }] } }

theorem witness_ShardsReserve :
    (∀ slots ∈ [0, 40], let m := word 0x10 0 (demand slots)
     Comes (reserving []) 0x10 m ∧ (reserveStatus (reserving []) plan m.src m.data = .ok ↔ slots = 40)) ∧
    (∀ e ∈ [[1], [1, 2]], let m := word 0x11 0 (leBytes 4 60 ++ zeros 20)
      Comes (reserving e) 0x11 m ∧
      ((reserving e).strata.opens.find? (fun o => o.handle == le m.data 0 4 && o.shards.contains m.src)).isSome = true) ∧
    ((reserving [1]).strata.opens.find? (fun x => x.handle == 60 && !x.shards.isEmpty)).any (fun o =>
      !shardsCover (reserving [1]) o.rcd (reserved o.acks)) = true ∧
    Comes (reserving [1]) 0x12 (word 0x12 0 (leBytes 4 50)) := by decide +kernel

/-- A contract of the whole stack whose case scans its lists and waits for the shard 1. -/
def scanning (left : List Nat) (lists : List Nat) : State :=
  let k := { deal with rcd := { rcd with terms := { rcd.terms with topology := 1 } } }
  let c := { fresh k with
    stage := .listScan
    srch := { (fresh k).srch with shardsLeft := left, waitLists := lists } }
  { stacked 0 with contracts := [k], cases := [c], cairns := serving.cairns }

/-- The reference of its case. -/
def caseRefBytes : List Byte := leBytes 4 50 ++ leBytes 4 (fresh deal).hd.cairn ++ leBytes 8 1

theorem witness_ShardsScan :
    (let n := (fresh deal).hd.cairn
     Comes (scanning [1] []) 0x20 (word 0x20 0 (leBytes 4 n ++ leBytes 4 1)) ∧ takesSignal (scanning [1] []) n = true ∧
     takesSignal (scanning [1] []) (n + 7777) = false) ∧
    (let s := { stacked 0 with strata := { (stacked 0).strata with ml := { (stacked 0).strata.ml with delivered := [(1, 1, 5)] } } }
     deliveredId s 1 1 = some 5 ∧ (word 0x20 0 []).id ≤ 5) ∧
    (let m := word 0x40 0 (caseRefBytes ++ zeros 256)
     Comes (reserving []) 0x40 m ∧ Comes (stacked 0) 0x40 m ∧ indexOf (reserving []) 20 = some idx ∧
     ((reserving []).strata.rsvs.find? (fun r => r.home == m.src && r.contract == le m.data 0 4)).any (fun r => r.index == 20) = true ∧
     (stacked 0).strata.rsvs = []) ∧
    (∀ e ∈ [([1], []), ([1, 2], []), ([1], [0])], let s := scanning e.1 e.2
      let m := word 0x41 0 (caseRefBytes ++ leBytes 1 1 ++ zeros 40)
      Comes s 0x41 m ∧ (s.cases.find? (refNames m.data)).any (fun c =>
        decide (caseOf s c.hd.key = some c) && caseRuns c && c.srch.shardsLeft.contains (byteAt m.data 16) &&
        (contractOf s c.hd.contract).isSome && (cmdsOfCase s c.hd.key).isEmpty && decide (c.stage = .listScan)) = true) ∧
    (let m := word 0x43 0 (caseRefBytes ++ leBytes 2 0x5005)
     Comes (scanning [1] []) 0x43 m ∧ (scanning [1] []).strata.jobs = [] ∧
     ((scanning [1] []).cases.find? (refNames m.data)).isSome = true) := by decide +kernel

theorem witness_Kill_ends_a_scan :
    let j : ShardJob :=
      { key := 1, home := 1, caseKey := 1, cairn := (fresh deal).hd.cairn, contract := 50, index := 20, gen := 1, seq := 1, startTs := 0
        recvTs := 0, holdExpired := false, visited := [], waitLists := [], waitScree := true, query := { q := [], scale := 0#32 }
        found := [] }
    let s := { stacked 0 with strata := { (stacked 0).strata with jobs := [j] } }
    let m := word 0x43 0 (caseRefBytes ++ leBytes 2 0x5005)
    Comes s 0x43 m ∧ s.strata.jobs.find? (fun j => j.home == m.src && j.contract == le m.data 0 4 && j.cairn == le m.data 4 4 &&
      j.caseKey == le m.data 8 8) = some j := by decide +kernel

/-- The collective 9 at a position, with a coordinator. -/
def collecting (pos coord : Nat) (voted : Bool) (d : Option Bool) : State :=
  let s := stacked pos
  { s with strata := { s.strata with colls :=
    [{ txn := 9, cmd := 0, coord := coord, parts := [0, 1], partials := [], votes := if voted then [(pos, true, 0)] else []
       voted := voted, decision := d }] } }

theorem witness_CollectivesAreDecidedOnce :
    (∀ pos ∈ [0, 1], let s := collecting pos 0 false none
      Comes s 0x42 (word 0x42 pos (leBytes 8 9 ++ leBytes 2 0 ++ [7])) ∧
      (collOf s 9).any (fun c => c.partials.isEmpty && c.parts.all fun q => q == myPos s || q == 1 - pos) = true) ∧
    (let s := { stacked 0 with strata := { (stacked 0).strata with colls :=
       [{ txn := 9, cmd := 0, coord := 0, parts := [0, 1, 2], partials := [], votes := [], voted := false, decision := none }] } }
     Comes s 0x42 (word 0x42 0 (leBytes 8 9 ++ leBytes 2 0 ++ [7]))) ∧
    (∀ ok ∈ [0, 1], let s := collecting 0 0 true none
      Comes s 0x30 (word 0x30 0 (leBytes 8 9 ++ leBytes 1 ok ++ leBytes 4 0)) ∧
      (collOf s 9).any (fun c => c.votes.all fun w => w.1 != 1) = true) ∧
    ((collOf (collecting 0 0 true none) 9).any (fun c => c.voted && c.decision.isNone && c.coord == 0) = true) ∧
    (let s := collecting 1 0 true none
     Comes s 0x31 (word 0x31 1 (leBytes 8 9 ++ leBytes 1 1)) ∧ (nextHop s 0).isSome = true) ∧
    (let s := updPort (updPort (collecting 1 0 true none) 0 fun _ => portIn 3) 1 fun _ => portIn 3
     nextHop s 0 = none) ∧
    (let s := collecting 0 0 true (some true)
     Comes s 0x32 (word 0x32 0 (leBytes 8 9)) ∧ (collOf s 9).any (fun c => c.decision == some true) = true) := by decide +kernel

/-- What CommandsComplete asks for beside the statements whose witnesses stand above: a command of one case, a list pass of a case that waits for
a shard, a port and its flits, and an exchange of time. -/
theorem witness_CommandsComplete :
    (let c := { fresh deal with stage := .coarse, enc := { (fresh deal).enc with query := some qvec } }
     let s := working deal c (.cases [1])
     (cmdOf s 1).any (fun m => decide (m.serves = .cases [1] ∧ m.stage = 4) && mayCommit s m && m.preemptTs.isNone) = true ∧
     caseOf s 1 = some c ∧ contractOf s 50 = some deal) ∧
    (let c := { fresh deal with
       stage := .listScan
       enc := { (fresh deal).enc with query := some qvec }
       srch := { (fresh deal).srch with shardsLeft := [1] } }
     let s := working deal c (.pass 20 1 (some 0) [1])
     (cmdOf s 1).any (fun m => decide (m.serves = .pass 20 1 (some 0) [1]) && mayCommit s m && m.preemptTs.isNone) = true ∧
     caseOf s 1 = some c) ∧
    (let s := updPort (stacked 0) 0 fun p => { p with retry := { p.retry with unacked := [flitOf 1 1 0] } }
     (portOf s 0).st = 2 ∧ (portOf s 0).retry.unacked ≠ [] ∧ (portOf s 0).retry.resends < 15 ∧
     (flitOf 1 1 0).seq = ((portOf s 0).retry.rxSeq + 1) % 65536 ∧ (flitOf 2 0 0).ackSeq = (portOf s 0).retry.ackSeq ∧
     (flitOf 0 0 0).ftype = 0) ∧
    (let s := { stacked 1 with strata := { (stacked 1).strata with time := { (stacked 1).strata.time with t1 := some 256 } } }
     Comes s 0x60 (word 0x60 1 (zeros 12)) ∧ Comes s 0x61 (word 0x61 1 (leBytes 4 0 ++ leBytes 8 256)) ∧
     nextHop s 0 = some 0) := by decide +kernel

/-! ## Boot, resets, the recorder and the sideband -/

/-- `State.reset` with its sequencer in a state and a phase. -/
def powering (m : ModState) (p : BootPhase) : State :=
  { State.reset with boot := { State.reset.boot with state := m, phase := p, aux := true, main := true, attempt := 4 } }

theorem witness_TheSequencerPowersUp :
    State.reset.power.dies.length = 4 ∧ State.reset.boot.state = .off ∧ State.reset.boot.main = false ∧
    (∀ r ∈ [0, 7, 10], (powering .booting (.rail r)).boot.phase = .rail r) ∧ (powering .booting .oscillator).boot.attempt = 4 ∧
    (let s := powering .aoOnly .idle
     ({ s with boot := { s.boot with main := false, attempt := 3 } } : State).boot.state = .aoOnly) ∧
    basaltRuns live = true ∧ live.power.dies.length = 4 ∧ live.boot.perst = false ∧
    (let s := powering .lockout .idle
     ({ s with boot := { s.boot with perst := true } } : State).boot.perst = true) := by decide +kernel

theorem witness_TheModuleBoots :
    (∀ ok ∈ [true, false], let s := powering .booting .verify
      let s := { s with boot := { s.boot with norOk := ok } }
      s.boot.phase = .verify ∧ s.boot.norOk = ok) ∧
    (let s := powering .booting .verify
     slotOrder (bcbInUse s.boot) = [] ++ 0 :: (slotOrder (bcbInUse s.boot)).drop 1 ∧ slotFails s.boot 0 = none ∧
     (s.boot.slots[0]?).any (fun x => (slotImage x x.imageLen).parses) = true) ∧
    (let s := powering .booting .verify
     let s := { s with boot := { s.boot with slots := s.boot.slots.map fun (x : FwSlot) => { x with valid := false } } }
     ∀ b ∈ slotOrder (bcbInUse s.boot), slotFails s.boot b ≠ none) ∧
    (∀ level ∈ [true, false], let s := powering .booting .memInit
      let s := { s with safety := { s.safety with haltQual := level } }
      s.boot.state = .booting ∧ s.safety.causes = [] ∧ s.safety.rearm = false ∧ s.mail.length = 33 ∧ s.safety.haltActed = true) ∧
    (let s := powering .booting .training
     let s := { s with boot := { s.boot with bcb := s.boot.bcb.map fun (x : BootCtl) => { x with trial := true, trialSlot := 1 } } }
     basaltRuns s = true ∧ (bcbInUse s.boot).trial = true ∧ s.boot.bcb.length = 2 ∧ s.boot.meas = none) := by decide +kernel

theorem witness_FunctionsAreReset :
    (withVf.pcie.linkUp = true ∧ funcExists withVf 1 = true ∧ firmwareRuns withVf = true ∧ withVf.pcie.vfEnable = true ∧
     (partOf withPart 1).isSome = true) ∧
    (let s := { withVf with safety := { withVf.safety with pairA := true, pairB := true } }
     funcExists s 1 = true ∧ firmwareRuns s = false) ∧
    funcExists live 32 = false ∧ live.pcie.vfEnable = false ∧ State.reset.pcie.linkUp = false ∧ 0 < live.mail.length := by
  decide +kernel

/-- A record, of the safety class or not. -/
def entry (flags : Nat) : AmberRec :=
  { seq := 0, ts := 0, code := 0x1101, source := 0, func := 0xFF, rflags := flags, payload := zeros 32, damaged := none }

theorem witness_RecordsAreWritten :
    (∀ e ∈ [(0, 0), (1, 0), (1, 3)], let s := { live with amber := { live.amber with intake := [entry e.1], lost := e.2 } }
      basaltRuns s = true ∧ s.amber.intake = [entry e.1] ∧ s.amber.lost = e.2) ∧
    (let s := { live with amber := { live.amber with queue := [entry 1] } }
     s.boot.state ≠ .off ∧ s.amber.full = false ∧ s.amber.queue = [entry 1] ∧ s.amber.slots.length + 1 < 65536) := by
  decide +kernel

/-- The persistent region with one slot left. -/
theorem witness_RecordsAreWritten_last :
    let s := { live with amber := { live.amber with queue := [entry 1], slots := List.replicate 65535 (entry 1) } }
    s.amber.queue = [entry 1] ∧ 65536 ≤ s.amber.slots.length + 1 := by
  refine ⟨rfl, ?_⟩
  show 65536 ≤ (List.replicate 65535 (entry 1)).length + 1
  rw [List.length_replicate]

theorem witness_TheSidebandAnswers :
    live.boot.state ≠ .off ∧ (leBytes 1 1 ++ zeros 8).length = 9 ∧ byteAt (leBytes 1 1 ++ zeros 8) 0 ≤ 1 ∧ nextRecord live = none ∧
    (nextRecord { live with amber := { live.amber with ring := [{ entry 0 with seq := 1 }] } }).isSome = true ∧
    (leBytes 4 0xA5C30001).length = 4 ∧ le (leBytes 4 0xA5C30001) 0 4 = 0xA5C30001 ∧
    (powering .lockout .idle).boot.state = .lockout ∧ (powering .lockout .idle).boot.main = true := by decide +kernel

theorem witness_TheProtocolsAnswer :
    live.boot.state ≠ .off ∧ live.boot.pfUpdate = false ∧ live.boot.sbUpdate = false ∧ served live = true ∧
    (let b := leBytes 1 0 ++ leBytes 1 1 ++ leBytes 1 0 ++ leBytes 1 0x1D
     byteAt b 1 = 1 ∧ byteAt b 2 ≤ 1 ∧ 8 ≤ byteAt b 3 ∧ byteAt b 3 ≤ 254) ∧
    (let s := { live with boot := { live.boot with
       sbUpdate := true
       slots := live.boot.slots.map fun x => { x with image := some FwImage.shipped, valid := true } } }
     s.boot.sbUpdate = true ∧ s.boot.bcb.length = 2 ∧
     (s.boot.slots[inactiveSlot s]?).any (fun x => (imageChecks s (inactiveSlot s) (stagedImage s x.imageLen)).isNone) = true) ∧
    spdmUp live = false ∧
    spdmUp { live with boot := { live.boot with meas := some { slot := 0, trial := false, image := FwImage.shipped,
                                                               content := [], floor := 0, part := .c4512, moduleId := 1 } } } = true := by
  decide +kernel

/-! ## The queue and every step -/

/-- A message that fails step 1: its length is not the opcode's. -/
theorem witness_OnlyHeadMessagesStart :
    (let m := msg 0x0B02 40 []
     let s := put live m
     opcodeCommand (.powerPolicyGet 0 .inl) = some (0, .inl, 0x0B02) ∧ Fresh s ∧ headOf s 0 .inl = some m ∧
     opcodeOf m = 0x0B02 ∧ mayStart s 0 .inl m = true ∧ heldBack (.powerPolicyGet 0 .inl) s m.bytes = false ∧
     (commonCheck s 0 m.bytes).isSome = true) ∧
    headOf live 0 .inl = none := by decide +kernel

theorem witness_the_invariants :
    (Fresh State.reset ∧ PinsOk State.reset ∧ DegOk State.reset) ∧ (Fresh busy ∧ PinsOk busy ∧ DegOk busy) := by decide +kernel

/-- A command at the front of the queue runs; a TCLK passes on an empty one. -/
theorem test_step_runs_the_front :
    (match step { live with pending := [.powerPolicyGet 0 .inl, .minRearm] } with
     | .next t => t.pending == [.minRearm]
     | _ => false) = true ∧
    (match step live with
     | .next t => t.tclk == 1
     | _ => false) = true := by decide +kernel

/-! ## Worked examples of the spec -/

/-- Chapter 02: an advance of 30 with 1,014 free is valid, one of 2,038 with 994 free is not; slots 6 to 35. -/
theorem test_ring_indices :
    validPi 1024 1030 1020 1060 = true ∧ validPi 1024 1060 1030 1050 = false ∧
    ((indicesFrom 1024 1030 1060).head?, (indicesFrom 1024 1030 1060).getLast?) = (some 1030, some 1059) := by decide +kernel

/-- Chapter 06: INTERVAL 12,000,000, E 1,000,000, an edge at 30,000,000 that takes effect at 37,000,000. -/
theorem test_periodic_windows :
    let k := { deal with
      rcd := { rcd with terms := { rcd.terms with arrivalKind := 2, interval := 12000000, phase := 0 } }
      arrival := { tokens := [], epoch := 30000000, pendingEpoch := none, used := [], openFrom := 37000000 } }
    windowStart k 1000000 36999999 = 25000000 ∧ windowStart k 1000000 37000000 = 37000000 ∧ arrivalOk k 38200000 = false ∧
    arrivalOk k 42000000 = true := by decide +kernel

/-- Chapter 06: the pages of hv-port and hv-sni. -/
theorem test_table_pages :
    let t (n : Nat) : Table := { handle := 1, owner := 1, shared := false, nrows := n, dim := 64, format := 0, kind := 0, hashKey := 0
                                 partA := 0, partB := 0, rows := [], unavailable := false }
    tablePages (t 65536) = 68 ∧ tablePages (t 4194304) = 4352 := by decide +kernel

/-- fp32 of a decimal fraction `n` ÷ 100. -/
def cents (n : Nat) : Word := fpDiv .nearest (fpOfInt n) (fpOfInt 100)

/-- Chapter 07: C is 4, the committed list is a, b, c, d, U is 1.40, L_OUT 1.32 and SLACK 0.08, rounded once. -/
theorem test_certified_candidates :
    let e (i lo hi : Nat) : Candidate :=
      { id := i, lo := cents lo, hi := cents hi, list := 0, shard := 0, scree := false, pos := 0, seq := 0 }
    let l := certify [e 6 135 150, e 3 95 130, e 1 100 120, e 7 160 170, e 4 128 140, e 2 110 125, e 5 132 145] 4 (fpInf false) 1 0
    l.cands.map Candidate.id = [1, 2, 3, 4] ∧ l.u = cents 140 ∧ l.lOut = cents 132 ∧ l.exact = false ∧ l.short = false ∧
    l.slack = fpSub .nearest (cents 140) (cents 132) := by decide +kernel

/-- Chapter 08: the walk over 15 found passages and a missing one uses 800 positions: places 1 to 3 and 5 to 13 whole, 4 a family
duplicate, 14 truncated to 30, 15 without budget, 16 an identifier. -/
theorem test_packing_walk :
    let t : Template := { rcd.tpl with slotCount := 16, slotTok := 64, passBudget := 800, familyMax := 2, slotOpen := 3, slotClose := 4 }
    let p (i fam n : Nat) : Passage :=
      { id := i, family := fam, score := 0#32, candRank := i, src := .store, toks := List.replicate n 50, storeTokens := n
        chosen := false, packed := false, truncated := false, familyDup := false, noBudget := false, ptok := 0 }
    let w := walk t ([p 1 1 62, p 2 1 62, p 3 2 62, p 4 1 62] ++ (List.range 11).map (fun i => p (5 + i) (10 + i) 62) ++ [p 16 99 0])
    w.used = 800 ∧ w.chosen = 15 ∧ (w.done.filter Passage.familyDup).map Passage.id = [4] ∧
    (w.done.filter Passage.truncated).map (fun q => (q.id, q.ptok)) = [(14, 30)] ∧
    (w.done.filter Passage.noBudget).map Passage.id = [15] ∧ (w.done.filter Passage.packed).length = 13 := by decide +kernel

/-- Chapter 09: gen-1b2's groups and the pages of its 384-token prefix under KV4, and RESULT_NEED and TOK_OFF of hv-flow. -/
theorem test_generation_figures :
    headGroup ⟨24, 32, 16, 64⟩ 2 = some 4 ∧ kvPages ⟨24, 32, 16, 64⟩ 2 384 = 192 ∧
    (let l := { rcd.lim with candC := 256, genMax := 32, fbGenMax := 0 }
     tokOff l = 16384 ∧ resultNeed l = 20480) := by decide +kernel

/-- Chapter 10: the KV4 step of max 1.75 is 0.25, 0.625 is stored as 2, −1.1 as −4 and 1.75 as 7; ε(88) is 2^−5 and ε(96) 2^−4. -/
theorem test_numerics :
    let x := fpDiv .nearest (fpOfInt 7) (fpOfInt 4)
    let step := kvStep 7 [x, fpOfInt 1]
    step = 0x3E800000#32 ∧ (quantize 7 step 0x3F200000#32).val = 2 ∧
    (quantize 7 step (fpDiv .nearest (fpOfInt (-11)) (fpOfInt 10))).val = -4 ∧ (quantize 7 step x).val = 7 ∧
    pqEps 88 = 0x3D000000#32 ∧ pqEps 96 = 0x3D800000#32 := by decide +kernel

/-- Chapter 10: a row of zeros has scale 0 and no saturation, and an element that is not finite saturates. -/
theorem test_quantized_rows :
    quantizeRow [0#32, 0#32] = { scale := 0#32, elems := [0, 0], sats := 0 } ∧
    quantizeRow [fpNaN, 0#32] = { scale := 0#32, elems := [0, 0], sats := 1 } := by decide +kernel

/-- Chapter 14: array 37 is UNIT 0x3025, of Garnet 2; and the 476 points of R343. -/
theorem test_units :
    unitCode { kind := 3, idx := 37 } = 0x3025 ∧ unitOfCode 0x3025 = some { kind := 3, idx := 37 } ∧
    unitGarnet { kind := 3, idx := 37 } = some 2 ∧ unitOfCode 0x3040 = none ∧ unitOfCode 0 = none ∧ allPoints.length = 476 := by
  decide +kernel

/-- R237 and R242: cells over two steps, an int8 sum, a squared difference, and an int8 sum that overflows int32. -/
def cells : List Cell :=
  [cellRun .mac8 ⟨0, false⟩ [3, -2] [5, 7], cellRun .sqdiff ⟨1, false⟩ [3, 0] [5, 7], cellRun .mac8 ⟨2147483647, false⟩ [1] [1]]

theorem test_cells : cells = [⟨1, false⟩, ⟨54, false⟩, ⟨2147483648#32, true⟩] := by decide +kernel

/-- R244: the checksum compare sees one wrong output and names its row and column. -/
theorem test_checksum :
    let d : TileArea := { freshArea 1 0 0 0 with
      out := [[1#32, 2#32], [3#32, 4#32]], csRow := [4#32, 6#32], csCol := [3#32, 7#32], corner := 10#32 }
    checksumOk d = true ∧ (let e := { d with out := [[1#32, 2#32], [3#32, 5#32]] }
    checksumOk e = false ∧ badRow e = some 1 ∧ badCol e = some 1) := by decide +kernel

/-- R275 and R276: one wrong symbol is found wherever it stands, a check symbol too, and the mask reads as poison. -/
theorem test_ecc :
    (∀ p ∈ [0, 13, 31], eccDecode (eccSyndrome ((List.range 32).map fun i => if i = p then 0x1234#16 else 0#16) 0#16 0#16) =
      .corrected p) ∧
    eccDecode ⟨5#16, 0#16⟩ = .corrected 32 ∧ eccDecode ⟨0#16, 5#16⟩ = .corrected 33 ∧ eccDecode poisonMask = .poisoned ∧
    eccDecode ⟨0#16, 0#16⟩ = .clean := by decide +kernel

/-- R294: the CRC-32 of the nine digits is the check value of its catalogue entry, and so is that of CRC-32C. -/
theorem test_crc :
    let d : List Byte := (List.range 9).map fun i => BitVec.ofNat 8 (0x31 + i)
    crc32 d = 0xCBF43926#32 ∧ crc32c d = 0xE3069283#32 := by decide +kernel

end Sys2Proof.Tests
end

section
/-! PROOFS. The registers with behaviour of their own: the event register, written with ones to clear (R3, R4), the
counters that a read clears (R5), and MIN_REARM (R328). -/

namespace Sys2Proof.Machine

/-! ## Commands that name a function of the module -/

theorem guardUnit_of_lt {f n : Nat} (h : f < n) (r : Res) : guardUnit (decide (f < n)) r = r := by
  simp [guardUnit, h]

/-! ## The event register -/

/-- The event register as a numeral in base 2: bit 0 is reserved and the four events follow it. -/
theorem eventReg_eq_bits (ev : MbEvents) :
    eventReg ev = Nat.bit false (Nat.bit ev.contractEvt (Nat.bit ev.faultEvt (Nat.bit ev.adminEvt (Nat.bit ev.evtOverflow 0)))) := by
  simp only [eventReg, Nat.bit_val, bit, Bool.toNat, Bool.cond_eq_ite, Bool.false_eq_true, if_false]
  omega

@[simp] theorem testBit_eventReg_one (ev : MbEvents) : (eventReg ev).testBit 1 = ev.contractEvt := by
  simp only [eventReg_eq_bits, Nat.testBit_bit_succ, Nat.testBit_bit_zero]

@[simp] theorem testBit_eventReg_two (ev : MbEvents) : (eventReg ev).testBit 2 = ev.faultEvt := by
  simp only [eventReg_eq_bits, Nat.testBit_bit_succ, Nat.testBit_bit_zero]

@[simp] theorem testBit_eventReg_three (ev : MbEvents) : (eventReg ev).testBit 3 = ev.adminEvt := by
  simp only [eventReg_eq_bits, Nat.testBit_bit_succ, Nat.testBit_bit_zero]

@[simp] theorem testBit_eventReg_four (ev : MbEvents) : (eventReg ev).testBit 4 = ev.evtOverflow := by
  simp only [eventReg_eq_bits, Nat.testBit_bit_succ, Nat.testBit_bit_zero]

/-- R4 bit by bit: the device's own bit wins over the host's 1. -/
theorem testBit_eventReg_clearEvents (ev : MbEvents) (mask same : Nat) {i : Nat} (hi : i = 1 ∨ i = 2 ∨ i = 3 ∨ i = 4) :
    (eventReg (clearEvents ev mask same)).testBit i = (((eventReg ev).testBit i && !mask.testBit i) || same.testBit i) := by
  obtain rfl | rfl | rfl | rfl := hi
  · simp only [testBit_eventReg_one, clearEvents]
  · simp only [testBit_eventReg_two, clearEvents]
  · simp only [testBit_eventReg_three, clearEvents]
  · simp only [testBit_eventReg_four, clearEvents]

theorem exec_eventPendingClear_of_open {s : State} {f : Nat} (hf : f < 33) (hw : windowOpen s f = true) (mask same : Nat) :
    exec (.eventPendingClear f mask same) s =
      .next (updMb s f fun mb => { mb with ev := clearEvents mb.ev mask same }) := by
  rw [exec_eventPendingClear, execEventPendingClear, guardUnit_of_lt hf, if_pos hw]

/-! ## The counters that a read clears -/

/-- A change of one mailbox with one value answered: what it writes, and that it writes nothing else. -/
theorem emit_updMb_effect (s : State) {f : Nat} (u : Mailbox → Mailbox) (o : Out) (hf : f < s.mail.length) :
    (emit (updMb s f u) o).out = s.out ++ [o] ∧
    mbOf (emit (updMb s f u) o) f = u (mbOf s f) ∧
    emit (updMb s f u) o = { s with mail := (emit (updMb s f u) o).mail, out := (emit (updMb s f u) o).out } ∧
    (∀ g, g ≠ f → mbOf (emit (updMb s f u) o) g = mbOf s g) :=
  ⟨rfl, mbOf_updMb s f u hf, rfl, fun g hg => mbOf_updMb_ne s f g u hg⟩

theorem exec_evtLostRead_of_readable {s : State} {f same : Nat} (hf : f < 33) (hw : windowReadable s f = true)
    (hs : same < 2 ^ 32) :
    exec (.evtLostRead f same) s =
      .next (emit (updMb s f fun mb => { mb with ev := { mb.ev with evtLost := same } }) (.readValue (mbOf s f).ev.evtLost)) := by
  rw [exec_evtLostRead, execEvtLostRead, guardUnit_of_lt hf, Nat.mod_eq_of_lt hs, if_neg (by simp [hw])]

theorem exec_complDroppedRead_of_readable {s : State} {f same : Nat} (hf : f < 33) (hw : windowReadable s f = true)
    (hs : same < 2 ^ 32) :
    exec (.complDroppedRead f same) s =
      .next (emit (updMb s f fun mb => { mb with ev := { mb.ev with complDropped := same } })
        (.readValue (mbOf s f).ev.complDropped)) := by
  rw [exec_complDroppedRead, execComplDroppedRead, guardUnit_of_lt hf, Nat.mod_eq_of_lt hs, if_neg (by simp [hw])]

theorem exec_conflictsRead_of_lt (s : State) {same : Nat} (hs : same < 2 ^ 32) :
    exec (.conflictsRead same) s =
      .next { s with power := { s.power with conflicts := same }, out := s.out ++ [.readValue s.power.conflicts] } := by
  rw [exec_conflictsRead, execConflictsRead, Nat.mod_eq_of_lt hs]
  rfl

theorem exec_throtChangesRead_of_lt (s : State) {same : Nat} (hs : same < 2 ^ 32) :
    exec (.throtChangesRead same) s =
      .next { s with power := { s.power with throtChanges := same }, out := s.out ++ [.readValue s.power.throtChanges] } := by
  rw [exec_throtChangesRead, execThrotChangesRead, Nat.mod_eq_of_lt hs]
  rfl

theorem exec_stretchFaultsRead_of_lt (s : State) {same : Nat} (hs : same < 2 ^ 32) :
    exec (.stretchFaultsRead same) s =
      .next { s with power := { s.power with stretchFaults := same }, out := s.out ++ [.readValue s.power.stretchFaults] } := by
  rw [exec_stretchFaultsRead, execStretchFaultsRead, Nat.mod_eq_of_lt hs]
  rfl

/-! ## The obligations -/

/-- Settles O21: the write changes the events of one mailbox alone, and bit by bit as R4 says. -/
theorem eventClearNeverLosesAnEvent : Obligations.EventClearNeverLosesAnEvent := by
  intro s f mask same hf hw hlen
  have hmb := mbOf_updMb s f (fun mb => { mb with ev := clearEvents mb.ev mask same }) hlen
  refine ⟨_, exec_eventPendingClear_of_open hf hw mask same, rfl, fun g hg => mbOf_updMb_ne s f g _ hg, ?_, ?_⟩
  · rw [hmb]
  · intro i hi
    rw [hmb, testBit_eventReg_clearEvents _ _ _ hi]
    simp [or_comm]

/-- Settles O22: a counter of a mailbox by `emit_updMb_effect`, one of the power window by its command's equation; MIN_REARM
writes the dies alone. -/
theorem readToClearCounters : Obligations.ReadToClearCounters := by
  refine ⟨fun s same hs => ⟨fun f hf hw hlen => ⟨?_, ?_⟩, exec_conflictsRead_of_lt s hs, exec_throtChangesRead_of_lt s hs,
    exec_stretchFaultsRead_of_lt s hs⟩, fun s => ⟨_, exec_minRearm s, rfl, rfl⟩⟩
  · exact ⟨_, exec_evtLostRead_of_readable hf hw hs, emit_updMb_effect s _ _ hlen⟩
  · exact ⟨_, exec_complDroppedRead_of_readable hf hw hs, emit_updMb_effect s _ _ hlen⟩

end Sys2Proof.Machine
end

section
/-! PROOFS. The invariant of the machine: what every operation leaves of the message ids, the pins, the module state and the
fences (R13, R342, R398, R399). -/

namespace Sys2Proof.Machine

/-! ## What the invariant speaks of -/

/-- The parts of the state that the invariant speaks of: the open messages and the next id, the pins, the module state and the fences. -/
structure Watched where
  msgs : List OpenMsg
  nextMsg : Nat
  pins : Pins
  state : ModState
  fences : List UnitId

/-- The watched parts of a state. -/
def watched (s : State) : Watched := ⟨s.msgs, s.nextMsg, s.pins, s.boot.state, s.safety.fences⟩

/-- The invariant over the watched parts: ids (R28), pins (R13, R398, R399) and, where `deg` asks for it, DEGRADED (R342). -/
def Watched.Sound (deg : Bool) (w : Watched) : Prop :=
  (∀ o ∈ w.msgs, o.id < w.nextMsg) ∧
  (w.pins.faultN = faultState w.state ∧ (w.pins.syncOut = true → syncState w.state = true) ∧
    (w.pins.pulse.isSome = true → syncState w.state = true)) ∧
  (deg = true → runState w.state = true → (w.state = .degraded ↔ w.fences ≠ []))

theorem sound_watched_iff (s : State) : (watched s).Sound true ↔ Fresh s ∧ PinsOk s ∧ DegOk s := by
  simp [Watched.Sound, watched]

@[simp] theorem watched_eta (s : State) : (⟨s.msgs, s.nextMsg, s.pins, s.boot.state, s.safety.fences⟩ : Watched) = watched s := by rw [watched]

/-- A state written out field by field. -/
@[simp] theorem watched_mk (pending ident tclk free mail msgs nextMsg parts models tables indexes pfxs contracts nextHandle cases nextCase
    cairns nextRun waits
    nextWait bg nextBg sched nextCmd mem power safety amber boot pins pcie sideband strata telem out) :
    watched ⟨pending, ident, tclk, free, mail, msgs, nextMsg, parts, models, tables, indexes, pfxs, contracts, nextHandle, cases, nextCase, cairns,
      nextRun, waits, nextWait, bg, nextBg, sched, nextCmd, mem, power, safety, amber, boot, pins, pcie, sideband, strata, telem, out⟩ =
      ⟨msgs, nextMsg, pins, boot.state, safety.fences⟩ := by rw [watched]

@[simp] theorem watched_ite (c : Prop) [Decidable c] (s t : State) : watched (if c then s else t) = if c then watched s else watched t :=
  apply_ite watched c s t

@[simp] theorem watched_updSafety (s : State) (g : Safety → Safety) :
    watched (updSafety s g) = ⟨s.msgs, s.nextMsg, s.pins, s.boot.state, (g s.safety).fences⟩ := by rw [updSafety, watched_mk]

@[simp] theorem watched_updBoot (s : State) (g : Boot → Boot) :
    watched (updBoot s g) = ⟨s.msgs, s.nextMsg, s.pins, (g s.boot).state, s.safety.fences⟩ := by rw [updBoot, watched_mk]

theorem watched_of_posts {s t : State} (h : Posts s t) : watched t = watched s := by
  rw [h.1]
  rfl

/-- A fold of steps that leave the watched parts. -/
@[simp] theorem watched_foldl {α : Type} (g : State → α → State) (hg : ∀ s a, watched (g s a) = watched s) (l : List α) (s : State) :
    watched (l.foldl g s) = watched s := by
  induction l generalizing s with
  | nil => rfl
  | cons a l ih => rw [List.foldl_cons, ih, hg]

/-! ## Operations that leave the watched parts -/

/-! ### The state's operations -/

@[simp] theorem watched_updMb (s : State) (f : Nat) (g : Mailbox → Mailbox) :
    watched (updMb s f g) = watched s := watched_of_posts (posts_updMb _ _ _)

@[simp] theorem watched_emit (s : State) (o : Out) :
    watched (emit s o) = watched s := watched_of_posts (posts_emit _ _)

@[simp] theorem watched_bumpFree (s : State) :
    watched (bumpFree s) = watched s := by simp [bumpFree]

@[simp] theorem watched_updPart (s : State) (i : Nat) (g : Partition → Partition) :
    watched (updPart s i g) = watched s := by simp [updPart]

@[simp] theorem watched_updStats (s : State) (i : Nat) (g : PartStats → PartStats) :
    watched (updStats s i g) = watched s := by simp [updStats]

@[simp] theorem watched_updContract (s : State) (h : Nat) (g : Contract → Contract) :
    watched (updContract s h g) = watched s := by simp [updContract]

@[simp] theorem watched_updCase (s : State) (key : Nat) (g : Case → Case) :
    watched (updCase s key g) = watched s := by simp [updCase]

@[simp] theorem watched_updIndex (s : State) (h : Nat) (g : Index → Index) :
    watched (updIndex s h g) = watched s := by simp [updIndex]

@[simp] theorem watched_updTelem (s : State) (g : Telem → Telem) :
    watched (updTelem s g) = watched s := by simp [updTelem]

@[simp] theorem watched_updPower (s : State) (g : Power → Power) :
    watched (updPower s g) = watched s := by simp [updPower]

@[simp] theorem watched_updDie (s : State) (g : Nat) (u : Die → Die) :
    watched (updDie s g u) = watched s := by simp [updDie]

@[simp] theorem watched_updTier (s : State) (t : Tier) (g : TierState → TierState) :
    watched (updTier s t g) = watched s := by
  unfold updTier
  split <;> simp

@[simp] theorem watched_updSched (s : State) (g : Sched → Sched) :
    watched (updSched s g) = watched s := by simp [updSched]

@[simp] theorem watched_updCmd (s : State) (i : Nat) (g : Cmd → Cmd) :
    watched (updCmd s i g) = watched s := by simp [updCmd]

@[simp] theorem watched_recordAs (s : State) (cls injected : Bool) (code source func : Nat) (payload : List Byte) :
    watched (recordAs s cls injected code source func payload) = watched s := watched_of_posts (posts_recordAs _ _ _ _ _ _ _)

@[simp] theorem watched_record (s : State) (code : Nat) (payload : List Byte) :
    watched (record s code payload) = watched s := watched_of_posts (posts_record _ _ _)

@[simp] theorem watched_recordFunc (s : State) (f code : Nat) (payload : List Byte) :
    watched (recordFunc s f code payload) = watched s := watched_of_posts (posts_recordFunc _ _ _ _)

@[simp] theorem watched_recordUnit (s : State) (u : UnitId) (injected : Bool) (code : Nat) (payload : List Byte) :
    watched (recordUnit s u injected code payload) = watched s := watched_of_posts (posts_recordUnit _ _ _ _ _)

@[simp] theorem watched_fireVector (s : State) (f v : Nat) :
    watched (fireVector s f v) = watched s := watched_of_posts (posts_fireVector _ _ _)

@[simp] theorem watched_signalCompletion (s : State) (f : Nat) :
    watched (signalCompletion s f) = watched s := watched_of_posts (posts_signalCompletion _ _)

@[simp] theorem watched_haltMailbox (s : State) (f cause index : Nat) :
    watched (haltMailbox s f cause index) = watched s := watched_of_posts (posts_haltMailbox _ _ _ _)

@[simp] theorem watched_learnGrants (s : State) (f : Nat) (h : HostView) :
    watched (learnGrants s f h) = watched s := by simp [learnGrants]

@[simp] theorem watched_advanceCq (s : State) (f : Nat) :
    watched (advanceCq s f) = watched s := by simp [advanceCq]

@[simp] theorem watched_writeCompletion (s : State) (m : OpenMsg) (st : Status) (errOff respBytes : Nat) (result : List Byte) :
    watched (writeCompletion s m st errOff respBytes result) = watched s := watched_of_posts (posts_writeCompletion _ _ _ _ _ _)

@[simp] theorem watched_postEvent (s : State) (f : Nat) (c : EventCode) (result : List Byte) :
    watched (postEvent s f c result) = watched s := watched_of_posts (posts_postEvent _ _ _ _)

@[simp] theorem watched_postAll (s : State) (c : EventCode) (result : List Byte) :
    watched (postAll s c result) = watched s := watched_of_posts (posts_postAll _ _ _)

@[simp] theorem watched_postPartition (s : State) (part tiers action : Nat) :
    watched (postPartition s part tiers action) = watched s := watched_of_posts (posts_postPartition _ _ _ _)

@[simp] theorem watched_postFault (s : State) (cls : Nat) (injected : Bool) (det unit : Nat) :
    watched (postFault s cls injected det unit) = watched s := watched_of_posts (posts_postFault _ _ _ _ _)

@[simp] theorem watched_hostWrite (s : State) (f addr : Nat) (b : List Byte) :
    watched (hostWrite s f addr b) = watched s := watched_of_posts (posts_hostWrite _ _ _ _)

@[simp] theorem watched_hostRead (s : State) (f addr len : Nat) :
    watched (hostRead s f addr len) = watched s := by simp [hostRead]

@[simp] theorem watched_newHandle (s : State) :
    watched (newHandle s) = watched s := by simp [newHandle]

@[simp] theorem watched_setVTime (s : State) (owner level : Nat) (q : Nat × Nat) :
    watched (setVTime s owner level q) = watched s := by simp [setVTime]

@[simp] theorem watched_raiseAmong (s : State) (owner level : Nat) (os : List Nat) :
    watched (raiseAmong s owner level os) = watched s := by
  unfold raiseAmong
  (repeat' split) <;> simp

@[simp] theorem watched_raiseVTime (s : State) (owner level : Nat) :
    watched (raiseVTime s owner level) = watched s := by simp [raiseVTime]

@[simp] theorem watched_addCmd (s : State) (serves : Serves) (owner level stage deadline startTs : Nat) (kill : Bool) (units : List UnitId) :
    watched (addCmd s serves owner level stage deadline startTs kill units) = watched s := by simp [addCmd]

@[simp] theorem watched_addBg (s : State) (owner : Nat) (msg : Option Nat) (kind : BgKind) (t1 t2 : Nat) :
    watched (addBg s owner msg kind t1 t2) = watched s := by simp [addBg]

/-! ### Strata ports and links -/

@[simp] theorem watched_updPort (s : State) (p : Nat) (g : Port → Port) :
    watched (updPort s p g) = watched s := by simp [updPort]

@[simp] theorem watched_updStack (s : State) (g : Stack → Stack) :
    watched (updStack s g) = watched s := by simp [updStack]

@[simp] theorem watched_updMl (s : State) (g : MsgLayer → MsgLayer) :
    watched (updMl s g) = watched s := by simp [updMl]

@[simp] theorem watched_updTime (s : State) (g : StackTime → StackTime) :
    watched (updTime s g) = watched s := by simp [updTime]

@[simp] theorem watched_sendOne (s : State) (n : Nat) :
    watched (sendOne s n) = watched s := by
  unfold sendOne
  dsimp only
  (repeat' split) <;> simp

@[simp] theorem watched_pump (s : State) (n k : Nat) : watched (pump s n k) = watched s := by
  induction k generalizing s with
  | zero => rfl
  | succ k ih => rw [pump, ih, watched_sendOne]

@[simp] theorem watched_pumpPort (s : State) (n : Nat) :
    watched (pumpPort s n) = watched s := by simp [pumpPort]

@[simp] theorem watched_transmit (s : State) (n : Nat) (m : StrataMsg) :
    watched (transmit s n m) = watched s := by
  rw [transmit, watched_pumpPort, watched_updPort, watched_emit]

@[simp] theorem watched_sendMsg (s : State) (t dst : Nat) (data : List Byte) :
    watched (sendMsg s t dst data) = watched s := by
  unfold sendMsg
  dsimp only
  split
  · simp
  · split <;> simp

@[simp] theorem watched_sendOn (s : State) (p t : Nat) (data : List Byte) :
    watched (sendOn s p t data) = watched s := by simp [sendOn]

@[simp] theorem watched_resendAll (s : State) :
    watched (resendAll s) = watched s := by
  refine watched_foldl _ (fun s m => ?_) _ s
  split
  · simp
  · split <;> simp

@[simp] theorem watched_forward (s : State) (m : StrataMsg) :
    watched (forward s m) = watched s := by
  unfold forward
  (repeat' split) <;> simp

@[simp] theorem watched_reflood (s : State) (p : Nat) (m : StrataMsg) :
    watched (reflood s p m) = watched s := by simp [reflood]

@[simp] theorem watched_sendAck (s : State) (m : StrataMsg) :
    watched (sendAck s m) = watched s := by simp [sendAck]

@[simp] theorem watched_noteDelivered (s : State) (m : StrataMsg) :
    watched (noteDelivered s m) = watched s := by simp [noteDelivered]

@[simp] theorem watched_takeInbox (s : State) (p : Nat) (m : StrataMsg) :
    watched (takeInbox s p m) = watched s := by simp [takeInbox]

@[simp] theorem watched_killPeers (s : State) (st : Status) (c : Case) :
    watched (killPeers s st c) = watched s := by simp [killPeers]

@[simp] theorem watched_sendRelease (s : State) (handle : Nat) (qs : List Nat) :
    watched (sendRelease s handle qs) = watched s := by simp [sendRelease]

@[simp] theorem watched_releaseShards (s : State) (k : Contract) :
    watched (releaseShards s k) = watched s := by simp [releaseShards]

/-! ### Recovery -/

@[simp] theorem watched_addVTime (s : State) (owner level n : Nat) :
    watched (addVTime s owner level n) = watched s := by simp [addVTime]

@[simp] theorem watched_addHeld (s : State) (owner level : Nat) (h : List (UnitId × Nat)) :
    watched (addHeld s owner level h) = watched s := by simp [addHeld]

@[simp] theorem watched_chargeCmd (s : State) (c : Cmd) :
    watched (chargeCmd s c) = watched s := by
  unfold chargeCmd
  split <;> simp

@[simp] theorem watched_chargeLoad (s : State) :
    watched (chargeLoad s) = watched s := by
  unfold chargeLoad
  split <;> simp

@[simp] theorem watched_chargeAll (s : State) :
    watched (chargeAll s) = watched s := by simp [chargeAll]

@[simp] theorem watched_inForce (s : State) (g : Nat) :
    watched (inForce s g) = watched s := by
  unfold inForce
  dsimp only
  (repeat' split) <;> simp

@[simp] theorem watched_adoptIdle (s : State) :
    watched (adoptIdle s) = watched s := by simp [adoptIdle]

@[simp] theorem watched_noteBlock (s : State) (c : Cmd) :
    watched (noteBlock s c) = watched s := by
  rw [noteBlock_frame]
  rfl

@[simp] theorem watched_dropAreas (s : State) (ids : List Nat) :
    watched (dropAreas s ids) = watched s := by simp [dropAreas]

@[simp] theorem watched_dropCmds (s : State) (ids : List Nat) :
    watched (dropCmds s ids) = watched s := by simp [dropCmds]

@[simp] theorem watched_readyAgain (s : State) (c : Cmd) (g : Cmd → Cmd) :
    watched (readyAgain s c g) = watched s := by simp [readyAgain]

@[simp] theorem watched_dropCase (s : State) (key : Nat) :
    watched (dropCase s key) = watched s := by simp [dropCase]

@[simp] theorem watched_reapGens (s : State) :
    watched (reapGens s) = watched s := by simp [reapGens]

@[simp] theorem watched_unplace (s : State) :
    watched (unplace s) = watched s := by simp [unplace]

@[simp] theorem watched_removeContract (s : State) (h : Nat) :
    watched (removeContract s h) = watched s := by
  unfold removeContract
  split <;> simp

@[simp] theorem watched_clearBusy (s : State) (k : BgKind) : watched (clearBusy s k) = watched s := by
  unfold clearBusy
  split <;> simp

@[simp] theorem watched_endCase (s : State) (key : Nat) (st : Status) (stage : Nat) :
    watched (endCase s key st stage) = watched s := by simp [endCase]

@[simp] theorem watched_endCases (s : State) (p : Case → Bool) (st : Status) :
    watched (endCases s p st) = watched s := by simp [endCases]

@[simp] theorem watched_endJob (s : State) (key : Nat) (st : Status) :
    watched (endJob s key st) = watched s := by
  unfold endJob
  split <;> simp

@[simp] theorem watched_endQuery (s : State) (key : Nat) (st : Status) (stage : Nat) :
    watched (endQuery s key st stage) = watched s := by simp [endQuery]

@[simp] theorem watched_countRerun (s : State) (c : Cmd) :
    watched (countRerun s c) = watched s := by
  unfold countRerun
  refine (watched_foldl _ (fun s key => ?_) _ _).trans (by simp)
  split <;> simp

@[simp] theorem watched_revoke (s : State) (cause caseSt : Status) (h : Nat) :
    watched (revoke s cause caseSt h) = watched s := by
  unfold revoke
  split <;> simp

@[simp] theorem watched_revokeAll (s : State) (p : Contract → Bool) (cause caseSt : Status) :
    watched (revokeAll s p cause caseSt) = watched s := by simp [revokeAll]

@[simp] theorem watched_revokeNaming (s : State) (h : Nat) :
    watched (revokeNaming s h) = watched s := by simp [revokeNaming]

@[simp] theorem watched_gateAll (s : State) :
    watched (gateAll s) = watched s := by simp [gateAll]

@[simp] theorem watched_noteCause (s : State) (cause unit : Nat) :
    watched (noteCause s cause unit) = watched s := by simp [noteCause]

@[simp] theorem watched_loseObjects (s : State) (t : Tier) :
    watched (loseObjects s t) = watched s := by simp [loseObjects]

@[simp] theorem watched_revokeLost (s : State) :
    watched (revokeLost s) = watched s := by simp [revokeLost]

@[simp] theorem watched_issueStep (s : State) (g target : Nat) (div : Option Nat) :
    watched (issueStep s g target div) = watched s := by
  unfold issueStep
  dsimp only
  (repeat' split) <;> simp

@[simp] theorem watched_startCores (s : State) (g : Nat) :
    watched (startCores s g) = watched s := by simp [startCores]

@[simp] theorem watched_wakeDie (s : State) (g : Nat) :
    watched (wakeDie s g) = watched s := by simp [wakeDie]

@[simp] theorem watched_wakeDies (s : State) :
    watched (wakeDies s) = watched s := by simp [wakeDies]

@[simp] theorem watched_gateFenced (s : State) (u : UnitId) :
    watched (gateFenced s u) = watched s := by
  unfold gateFenced
  split <;> simp

@[simp] theorem watched_killOnUnit (s : State) (u : UnitId) :
    watched (killOnUnit s u) = watched s := by simp [killOnUnit]

@[simp] theorem watched_detectorRecord (s : State) (det unit : Nat) (injected posted : Bool) (payload : List Byte) :
    watched (detectorRecord s det unit injected posted payload) = watched s := by simp [detectorRecord]

@[simp] theorem watched_poisonOwner (s : State) (u : FrameUse) : watched (poisonOwner s u) = watched s := by
  unfold poisonOwner
  (repeat' split) <;> simp

/-! ### The power unit -/

@[simp] theorem watched_requestDivider (s : State) (g v : Nat) :
    watched (requestDivider s g v) = watched s := by simp [requestDivider]

@[simp] theorem watched_adopt (s : State) (u : UnitId) :
    watched (adopt s u) = watched s := by
  unfold adopt
  split <;> simp

@[simp] theorem watched_pursue (s : State) (g : Nat) :
    watched (pursue s g) = watched s := by simp [pursue]

@[simp] theorem watched_pursueAll (s : State) :
    watched (pursueAll s) = watched s := by simp [pursueAll]

@[simp] theorem watched_revertDie (s : State) (g : Nat) :
    watched (revertDie s g) = watched s := by simp [revertDie]

@[simp] theorem watched_derate (s : State) (g r sign : Nat) :
    watched (derate s g r sign) = watched s := by simp [derate]

@[simp] theorem watched_forceStep (s : State) (g : Nat) :
    watched (forceStep s g) = watched s := by simp [forceStep]

@[simp] theorem watched_loopMove (s : State) (g lowest : Nat) :
    watched (loopMove s g lowest) = watched s := by simp [loopMove]

@[simp] theorem watched_raiseSetpoint (s : State) (g : Nat) :
    watched (raiseSetpoint s g) = watched s := by simp [raiseSetpoint]

/-! ### The safety unit -/

@[simp] theorem watched_holdPair (s : State) (pairB : Bool) :
    watched (holdPair s pairB) = watched s := by
  unfold holdPair
  split <;> simp

@[simp] theorem watched_setPoint (s : State) (i outcome : Nat) :
    watched (setPoint s i outcome) = watched s := by simp [setPoint]

@[simp] theorem watched_exerciseAll (s : State) (p : PointRec → Bool) :
    watched (exerciseAll s p) = watched s := by simp [exerciseAll]

@[simp] theorem watched_advanceSweep (s : State) :
    watched (advanceSweep s) = watched s := by
  unfold advanceSweep
  rw [watched_updSafety]
  split <;> rfl

/-! ### Amber -/

@[simp] theorem watched_settleFull (s : State) :
    watched (settleFull s) = watched s := by simp [settleFull]

@[simp] theorem watched_appendSlot (s : State) (r : AmberRec) (queue : List AmberRec) :
    watched (appendSlot s r queue) = watched s := by simp [appendSlot]

/-! ### Boot -/

@[simp] theorem watched_cutStages (s : State) :
    watched (cutStages s) = watched s := by simp [cutStages]

@[simp] theorem watched_railsOff (s : State) :
    watched (railsOff s) = watched s := by simp [railsOff]

@[simp] theorem watched_releaseBasalt (s : State) :
    watched (releaseBasalt s) = watched s := by simp [releaseBasalt]

@[simp] theorem watched_toStep7 (s : State) :
    watched (toStep7 s) = watched s := by simp [toStep7]

@[simp] theorem watched_cutAppend (s : State) :
    watched (cutAppend s) = watched s := by
  unfold cutAppend
  split <;> simp

@[simp] theorem watched_slotRecord (s : State) (slot : Nat) :
    watched (slotRecord s slot) = watched s := by
  unfold slotRecord
  split <;> simp

@[simp] theorem watched_trimVlog (s : State) :
    watched (trimVlog s) = watched s := by simp [trimVlog]

@[simp] theorem watched_recordBaselines (s : State) :
    watched (recordBaselines s) = watched s := by simp [recordBaselines]

@[simp] theorem watched_coresReady (s : State) :
    watched (coresReady s) = watched s := watched_foldl _ (fun s g => watched_updDie s g _) _ s

@[simp] theorem watched_promote (s : State) :
    watched (promote s) = watched s := by
  unfold promote
  dsimp only
  split
  · split <;> rfl
  · rfl

@[simp] theorem watched_serveMailboxes (s : State) :
    watched (serveMailboxes s) = watched s := by simp [serveMailboxes]

@[simp] theorem watched_startScrubs (s : State) :
    watched (startScrubs s) = watched s := by simp [startScrubs]

/-! ### Mailboxes and messages -/

@[simp] theorem watched_countRefused (s : State) (x : MsgCtx) (st : Status) :
    watched (countRefused s x st) = watched s := by simp [countRefused]

@[simp] theorem watched_hostDmaRecord {α : Type} (s : State) (x : MsgCtx) (r : HostRead α) :
    watched (hostDmaRecord s x r) = watched s := by
  simp [hostDmaRecord]

@[simp] theorem watched_dropFetch (s : State) (f i : Nat) :
    watched (dropFetch s f i) = watched s := by simp [dropFetch]

@[simp] theorem watched_fetchRead (s : State) (f i len : Nat) :
    watched (fetchRead s f i len) = watched s := by simp [fetchRead]

@[simp] theorem watched_unmaskVector (s : State) (f i : Nat) :
    watched (unmaskVector s f i) = watched s := by simp [unmaskVector]

@[simp] theorem watched_msixWrite (s : State) (f off v : Nat) :
    watched (msixWrite s f off v) = watched s := by simp [msixWrite]

@[simp] theorem watched_configWrite (s : State) (f off v : Nat) :
    watched (configWrite s f off v) = watched s := by simp [configWrite]

@[simp] theorem watched_mailboxWrite (s : State) (f off v : Nat) :
    watched (mailboxWrite s f off v) = watched s := by simp [mailboxWrite]

/-! ### Partitions -/

@[simp] theorem watched_dropDeadBg (s : State) :
    watched (dropDeadBg s) = watched s := by simp [dropDeadBg]

@[simp] theorem watched_freeCairns (s : State) (p : Partition) :
    watched (freeCairns s p) = watched s := by simp [freeCairns]

@[simp] theorem watched_cancelCase (s : State) (c : Case) :
    watched (cancelCase s c) = watched s := by simp [cancelCase]

@[simp] theorem watched_clearAccounts (s : State) (i : Nat) :
    watched (clearAccounts s i) = watched s := by simp [clearAccounts]

@[simp] theorem watched_createPartition (s : State) (i : Nat) (c : PartCfg) :
    watched (createPartition s i c) = watched s := by simp [createPartition]

/-! ### Cairns -/

@[simp] theorem watched_setCairn (s : State) (n v : Nat) :
    watched (setCairn s n v) = watched s := by simp [setCairn]

@[simp] theorem watched_deviceSignal (s : State) (n add : Nat) (remote : Bool) :
    watched (deviceSignal s n add remote) = watched s := by
  unfold deviceSignal
  dsimp only
  (repeat' split) <;> simp

/-! ### Models, tables and prefixes -/

@[simp] theorem watched_startBg (s : State) (x : MsgCtx) (kind : BgKind) (t1 t2 : Nat) :
    watched (startBg s x kind t1 t2) = watched s := by simp [startBg]

@[simp] theorem watched_updModel (s : State) (h : Nat) (g : Model → Model) :
    watched (updModel s h g) = watched s := by simp [updModel]

@[simp] theorem watched_reapPfxs (s : State) :
    watched (reapPfxs s) = watched s := by simp [reapPfxs]

/-! ### The journal -/

@[simp] theorem watched_journaled (s : State) (cmds : List Cmd) (t : State) : watched (journaled s cmds t) = watched t := rfl

/-! ### The memory unit -/

@[simp] theorem watched_setSyn (s : State) (t : Tier) (frame granule : Nat) (y : Syndrome) :
    watched (setSyn s t frame granule y) = watched s := by simp [setSyn]

@[simp] theorem watched_queueCorrection (s : State) (t : Tier) (ch frame granule : Nat) :
    watched (queueCorrection s t ch frame granule) = watched s := by simp [queueCorrection]

@[simp] theorem watched_dramRecord (s : State) (d : DramRead) (sym outcome : Nat) (injected : Bool) :
    watched (dramRecord s d sym outcome injected) = watched s := by simp [dramRecord]

@[simp] theorem watched_disarm (s : State) (t : Tier) (ch : Nat) :
    watched (disarm s t ch) = watched s := by simp [disarm]

@[simp] theorem watched_drainQueue (s : State) (t : Tier) :
    watched (drainQueue s t) = watched s := by
  unfold drainQueue
  rw [watched_updTier]
  refine watched_foldl _ (fun s e => ?_) _ s
  split <;> simp

@[simp] theorem watched_startPass (s : State) (t : Tier) :
    watched (startPass s t) = watched s := by simp [startPass]

@[simp] theorem watched_advanceScrub (s : State) (t : Tier) :
    watched (advanceScrub s t) = watched s := by simp [advanceScrub]

@[simp] theorem watched_noteRetrain (s : State) :
    watched (noteRetrain s) = watched s := by simp [noteRetrain]

/-! ### The Strata unit -/

@[simp] theorem watched_trainFail (s : State) (p step : Nat) :
    watched (trainFail s p step) = watched s := by simp [trainFail]

@[simp] theorem watched_bringUp (s : State) (p : Nat) (credits echoes : List Nat) :
    watched (bringUp s p credits echoes) = watched s := by simp [bringUp]

@[simp] theorem watched_rebound (s : State) :
    watched (rebound s) = watched s := by
  unfold rebound
  (repeat' split) <;> simp

@[simp] theorem watched_checkLock (s : State) :
    watched (checkLock s) = watched s := by simp [checkLock]

@[simp] theorem watched_revokeLink (s : State) (h : Nat) :
    watched (revokeLink s h) = watched s := by simp [revokeLink]

@[simp] theorem watched_floodLinkState (s : State) (p : Nat) (up : Bool) :
    watched (floodLinkState s p up) = watched s := by simp [floodLinkState]

@[simp] theorem watched_takeAck (s : State) (n : Nat) (f : Flit) :
    watched (takeAck s n f) = watched s := by simp [takeAck]

@[simp] theorem watched_sendNak (s : State) (n : Nat) :
    watched (sendNak s n) = watched s := by simp [sendNak]

@[simp] theorem watched_assemble (s : State) (n : Nat) (f : Flit) :
    watched (assemble s n f) = watched s := by simp [assemble]

@[simp] theorem watched_reply (s : State) (n vc : Nat) :
    watched (reply s n vc) = watched s := by simp [reply]

@[simp] theorem watched_enterEpoch (s : State) (epoch shape gen : Nat) (members : List Nat) :
    watched (enterEpoch s epoch shape gen members) = watched s := by simp [enterEpoch]

@[simp] theorem watched_updColl (s : State) (txn : Nat) (g : Coll → Coll) :
    watched (updColl s txn g) = watched s := by simp [updColl]

@[simp] theorem watched_sendDecide (s : State) (c : Coll) (commit : Bool) :
    watched (sendDecide s c commit) = watched s := by simp [sendDecide]

/-! ### Detections, fences and the hold -/

@[simp] theorem watched_countRecovered (s : State) :
    watched (countRecovered s) = watched s := by simp [countRecovered]

@[simp] theorem watched_injectDram (s : State) (u : UnitId) (v : Nat) :
    watched (injectDram s u v) = watched s := by simp [injectDram]

@[simp] theorem watched_injectStrata (s : State) (p : Nat) :
    watched (injectStrata s p) = watched s := by simp [injectStrata]

@[simp] theorem watched_notePoint (s : State) (det unit : Nat) :
    watched (notePoint s det unit) = watched s := by simp [notePoint]

@[simp] theorem watched_wakeCores (s : State) (g : Nat) :
    watched (wakeCores s g) = watched s := by simp [wakeCores]

@[simp] theorem watched_unfenceMemory (s : State) (u : UnitId) :
    watched (unfenceMemory s u) = watched s := by
  unfold unfenceMemory
  split <;> simp

@[simp] theorem watched_releaseDies (s : State) :
    watched (releaseDies s) = watched s := by simp [releaseDies]

/-! ### The host's services -/

@[simp] theorem watched_applyPolicy (s : State) (p : Policy) :
    watched (applyPolicy s p) = watched s := by simp [applyPolicy]

@[simp] theorem watched_writeSlot (s : State) (slot off : Nat) (data : List Byte) (first flashOk : Bool) :
    watched (writeSlot s slot off data first flashOk) = watched s := by simp [writeSlot]

@[simp] theorem watched_flashFailed (s : State) (slot off len : Nat) (first : Bool) :
    watched (flashFailed s slot off len first) = watched s := by simp [flashFailed]

@[simp] theorem watched_activateImage (s : State) (len : Nat) (img : FwImage) :
    watched (activateImage s len img) = watched s := rfl

/-! ### The cost model -/

@[simp] theorem watched_allLinksUp (s : State) :
    watched (allLinksUp s) = watched s := by simp [allLinksUp]

@[simp] theorem watched_placeModel (s : State) (h : Nat) :
    watched (placeModel s h) = watched s := by simp [placeModel]

/-! ### Contracts -/

@[simp] theorem watched_extendCairns (s : State) (h : Nat) :
    watched (extendCairns s h) = watched s := by
  unfold extendCairns
  split <;> simp

@[simp] theorem watched_applyReproofs (s : State) (level : Nat) (l : Load) :
    watched (applyReproofs s level l) = watched s := by simp [applyReproofs]

@[simp] theorem watched_abortCase (s : State) (c : Case) :
    watched (abortCase s c) = watched s := by simp [abortCase]

@[simp] theorem watched_reproveAll (s : State) :
    watched (reproveAll s) = watched s := by
  refine watched_foldl _ (fun s k => ?_) _ s
  split <;> simp

/-! ### Cases -/

@[simp] theorem watched_addCaseCmd (s : State) (c : Case) (k : Contract) (stage : Nat) :
    watched (addCaseCmd s c k stage) = watched s := by simp [addCaseCmd]

@[simp] theorem watched_acceptCase (s : State) (x : MsgCtx) (k : Contract) (d : CaseDesc) :
    watched (acceptCase s x k d) = watched s := by
  unfold acceptCase
  split <;> simp

/-! ### Stages -/

@[simp] theorem watched_dropLayers (s : State) (h : Option Nat) :
    watched (dropLayers s h) = watched s := by
  unfold dropLayers
  split <;> simp

@[simp] theorem watched_fallbackRecord (s : State) (c : Case) (g : Stage) (f : Form) :
    watched (fallbackRecord s c g f) = watched s := by simp [fallbackRecord]

@[simp] theorem watched_switchForm (s : State) (c : Case) (g : Stage) (f : Form) :
    watched (switchForm s c g f) = watched s := by simp [switchForm]

@[simp] theorem watched_chooseNext (s : State) (k : Contract) (key : Nat) (g : Stage) (p : Prediction) :
    watched (chooseNext s k key g p) = watched s := by
  unfold chooseNext
  split <;> simp

@[simp] theorem watched_endStage (s : State) (key : Nat) (p : Prediction) :
    watched (endStage s key p) = watched s := by
  unfold endStage
  (repeat' split) <;> simp

@[simp] theorem watched_nextCmdOf (s : State) (key : Nat) :
    watched (nextCmdOf s key) = watched s := by
  unfold nextCmdOf
  (repeat' split) <;> simp

@[simp] theorem watched_addSats (s : State) (key n : Nat) :
    watched (addSats s key n) = watched s := by simp [addSats]

@[simp] theorem watched_updGen (s : State) (key : Nat) (g : GenState → GenState) :
    watched (updGen s key g) = watched s := by simp [updGen]

@[simp] theorem watched_dropPfx (s : State) (c : Case) (whole : Bool) :
    watched (dropPfx s c whole) = watched s := by simp [dropPfx]

@[simp] theorem watched_startPrefill (s : State) (key : Nat) :
    watched (startPrefill s key) = watched s := by
  unfold startPrefill
  (repeat' split) <;> simp

/-! ### Scheduling -/

@[simp] theorem watched_commitModel (s : State) (b : BgOp) (img : ModelImage) (home : Tier) (pin shared : Bool) :
    watched (commitModel s b img home pin shared).1 = watched s := rfl

@[simp] theorem watched_commitSettle (s : State) (h p : Nat) : watched (commitSettle s h p).1 = watched s := by
  unfold commitSettle
  split <;> simp

@[simp] theorem watched_commitSnapshot (s : State) (b : BgOp) (h dst g q bytes : Nat) :
    watched (commitSnapshot s b h dst g q bytes).1 = watched s := by
  unfold commitSnapshot
  dsimp only
  split <;> simp

@[simp] theorem watched_bgEffect (s : State) (b : BgOp) : watched (bgEffect s b).1 = watched s := by
  unfold bgEffect
  dsimp only
  (repeat' split) <;> simp

@[simp] theorem watched_endSwitch (s : State) :
    watched (endSwitch s) = watched s := by
  unfold endSwitch
  dsimp only
  (repeat' split) <;> simp

@[simp] theorem watched_beginSwitch (s : State) (c : Cmd) (m mover : Nat) :
    watched (beginSwitch s c m mover) = watched s := by simp [beginSwitch]

@[simp] theorem watched_takeWaiters (s : State) (list : Option Nat) (keys : List Nat) :
    watched (takeWaiters s list keys) = watched s := by simp [takeWaiters]

@[simp] theorem watched_setModes (s : State) (c : Cmd) (us : List UnitId) :
    watched (setModes s c us) = watched s := by simp [setModes]

@[simp] theorem watched_grantCmd (s : State) (c : Cmd) (us : List UnitId) :
    watched (grantCmd s c us) = watched s := by simp [grantCmd]

@[simp] theorem watched_grantPass (s : State) (c : Cmd) (us : List UnitId) :
    watched (grantPass s c us) = watched s := by
  unfold grantPass
  split <;> simp

@[simp] theorem watched_killHolder (s : State) (c : Cmd) :
    watched (killHolder s c) = watched s := by simp [killHolder]

@[simp] theorem watched_askHolder (s : State) (owner : Nat) (h : Cmd) :
    watched (askHolder s owner h) = watched s := by simp [askHolder]

@[simp] theorem watched_startSwitch (s : State) (c : Cmd) (m : Nat) :
    watched (startSwitch s c m) = watched s := by
  unfold startSwitch
  dsimp only
  (repeat' split) <;> simp

@[simp] theorem watched_grant (s : State) (c : Cmd) (us : List UnitId) :
    watched (grant s c us) = watched s := by
  unfold grant
  split <;> simp

@[simp] theorem watched_selectFor (s : State) (u : UnitId) :
    watched (selectFor s u) = watched s := by
  unfold selectFor
  split <;> simp

@[simp] theorem watched_switchRunning (s : State) (k : Contract) (c : Case) (f : Form) :
    watched (switchRunning s k c f) = watched s := by
  unfold switchRunning
  dsimp only
  (repeat' split) <;> simp

/-! ### Search -/

@[simp] theorem watched_updSrch (s : State) (key : Nat) (g : SearchState → SearchState) :
    watched (updSrch s key g) = watched s := by simp [updSrch]

@[simp] theorem watched_endScan (s : State) (key : Nat) (p : Prediction) :
    watched (endScan s key p) = watched s := by
  unfold endScan
  (repeat' split) <;> simp

@[simp] theorem watched_endShard (s : State) (key : Nat) :
    watched (endShard s key) = watched s := by
  unfold endShard
  split <;> simp

@[simp] theorem watched_raiseForPass (before s : State) (key : Nat) : watched (raiseForPass before s key) = watched s := by
  unfold raiseForPass
  split <;> simp

@[simp] theorem watched_dispatchShards (s : State) (k : Contract) (c : Case) (qv : QueryVec) (lists : List Nat) :
    watched (dispatchShards s k c qv lists) = watched s := by simp [dispatchShards]

@[simp] theorem watched_commitCoarse (s : State) (key : Nat) :
    watched (commitCoarse s key) = watched s := by
  unfold commitCoarse
  (repeat' split) <;> simp

@[simp] theorem watched_commitPass (s : State) (index : Nat) (list : Option Nat) (ps : List (Nat × Prediction)) (key : Nat) :
    watched (commitPass s index list ps key) = watched s := by
  unfold commitPass
  split <;> simp

/-! ### Intake and encoding -/

@[simp] theorem watched_caseDmaFails (s : State) (c : Case) (aer : Nat) :
    watched (caseDmaFails s c aer) = watched s := by simp [caseDmaFails]

@[simp] theorem watched_caseWrite (s : State) (c : Case) (off : Nat) (b : List Byte) :
    watched (caseWrite s c off b) = watched s := by simp [caseWrite]

@[simp] theorem watched_readPieces (s : State) (c : Case) :
    watched (readPieces s c) = watched s := by
  rw [readPieces_eq]
  rfl

@[simp] theorem watched_commitEmbedding (s : State) (c : Case) (k : Contract) (p : Prediction) :
    watched (commitEmbedding s c k p) = watched s := by simp [commitEmbedding]

@[simp] theorem watched_commitQuery (s : State) (c : Case) (k : Contract) (ps : List Position) (p : Prediction) :
    watched (commitQuery s c k ps p) = watched s := by
  unfold commitQuery
  split <;> simp

/-! ### Passages -/

@[simp] theorem watched_setLookup (s : State) (key : Nat) (l : Lookup) :
    watched (setLookup s key l) = watched s := by simp [setLookup]

@[simp] theorem watched_noteMalformed (s : State) (c : Case) (l : Lookup) :
    watched (noteMalformed s c l) = watched s := by simp [noteMalformed]

@[simp] theorem watched_endStoreRead (s : State) (key id : Nat) (r : HostRead (List Byte)) :
    watched (endStoreRead s key id r) = watched s := by
  unfold endStoreRead
  (repeat' split) <;> simp

@[simp] theorem watched_switchFetch (s : State) (k : Contract) (c : Case) (f : Form) :
    watched (switchFetch s k c f) = watched s := by simp [switchFetch]

@[simp] theorem watched_expireT3 (s : State) (k : Contract) (c : Case) (p : Prediction) :
    watched (expireT3 s k c p) = watched s := by
  unfold expireT3
  split <;> simp

@[simp] theorem watched_startFills (s : State) (k : Contract) (ps : List Passage) :
    watched (startFills s k ps) = watched s := by
  unfold startFills
  split <;> simp

@[simp] theorem watched_holdPfx (s : State) (k : Contract) (key : Nat) :
    watched (holdPfx s k key) = watched s := by
  unfold holdPfx
  split <;> simp

/-! ### Generation -/

@[simp] theorem watched_runCache (s : State) (k : Contract) (key : Nat) (m : Model) (ctx : List Seen) (lo hi n : Nat) :
    watched (runCache s k key m ctx lo hi n) = watched s := by
  unfold runCache
  split <;> simp

@[simp] theorem watched_prefillTo (s : State) (k : Contract) (key h n : Nat) :
    watched (prefillTo s k key h n) = watched s := by
  unfold prefillTo
  split <;> simp

@[simp] theorem watched_deliverFrom (s : State) (key n : Nat) :
    watched (deliverFrom s key n) = watched s := by
  unfold deliverFrom
  split <;> simp

@[simp] theorem watched_endGeneration (s : State) (key cause : Nat) :
    watched (endGeneration s key cause) = watched s := by simp [endGeneration]

@[simp] theorem watched_stopDecode (s : State) (key : Nat) :
    watched (stopDecode s key) = watched s := by
  unfold stopDecode
  split <;> simp

@[simp] theorem watched_goOn (s : State) (k : Contract) (key : Nat) (stop : Option Nat) (p : Prediction) :
    watched (goOn s k key stop p) = watched s := by
  unfold goOn
  (repeat' split) <;> simp

@[simp] theorem watched_commitVerify (s : State) (ps : List (Nat × Prediction)) (key : Nat) :
    watched (commitVerify s ps key) = watched s := by
  unfold commitVerify
  dsimp only
  (repeat' split) <;> simp

@[simp] theorem watched_lateWeights (s : State) (cause : Nat) (c : Case) :
    watched (lateWeights s cause c) = watched s := by
  unfold lateWeights
  (repeat' split) <;> simp

/-! ### Results -/

@[simp] theorem watched_writeResult (s : State) (c : Case) (st : Status) (late ok : Bool) :
    watched (writeResult s c st late ok) = watched s := by simp [writeResult]

@[simp] theorem watched_countCase (s : State) (c : Case) (st : Status) :
    watched (countCase s c st) = watched s := by simp [countCase]

@[simp] theorem watched_countDrained (s : State) (c : Case) :
    watched (countDrained s c) = watched s := by simp [countDrained]

@[simp] theorem watched_endResultStage (s : State) (c : Case) :
    watched (endResultStage s c) = watched s := by simp [endResultStage]

/-! ### Work of a stack -/

@[simp] theorem watched_holdReserve (s : State) (w : Schedules) (home : Nat) (b : List Byte) :
    watched (holdReserve s w home b) = watched s := by
  unfold holdReserve
  split <;> simp

@[simp] theorem watched_dropJobs (s : State) (home contract : Nat) :
    watched (dropJobs s home contract) = watched s := by simp [dropJobs]

@[simp] theorem watched_startShard (s : State) (r : ShardRsv) (b : List Byte) :
    watched (startShard s r b) = watched s := by
  unfold startShard
  split <;> simp

/-! ### PCIe -/

@[simp] theorem watched_eraseCase (s : State) (c : Case) :
    watched (eraseCase s c) = watched s := by simp [eraseCase]

@[simp] theorem watched_eraseOpens (s : State) (f : Nat) :
    watched (eraseOpens s f) = watched s := by simp [eraseOpens]

@[simp] theorem watched_resetWindow (s : State) (f : Nat) (run : Bool) :
    watched (resetWindow s f run) = watched s := by simp [resetWindow]

/-! ### The sideband -/

@[simp] theorem watched_answer (s : State) (b : List Byte) :
    watched (answer s b) = watched s := by simp [answer]

@[simp] theorem watched_pldmAnswer (s : State) (code : Nat) (b : List Byte) :
    watched (pldmAnswer s code b) = watched s := by simp [pldmAnswer]

@[simp] theorem watched_pldmWrite (s : State) (off : Nat) (data : List Byte) (flashOk : Bool) :
    watched (pldmWrite s off data flashOk) = watched s := by simp [pldmWrite]

end Sys2Proof.Machine

end

section
/-! PROOFS. Every step keeps the invariant of the machine (O58). -/

namespace Sys2Proof.Machine

/-! ## Operations that the invariant watches -/

variable {deg : Bool} {s : State}

theorem Watched.Sound.mono {w : Watched} (h : w.Sound deg) : w.Sound false :=
  ⟨h.1, h.2.1, nofun⟩

/-- A change of the safety unit, its fences included, leaves the ids and the pins sound. -/
theorem sound_updSafety_of_loose (g : Safety → Safety) (h : (watched s).Sound deg) : (watched (updSafety s g)).Sound false :=
  ⟨h.1, h.2.1, nofun⟩

/-- Fewer open messages. -/
@[simp] theorem sound_filter (p : OpenMsg → Bool) (h : (watched s).Sound deg) :
    Watched.Sound deg ⟨s.msgs.filter p, s.nextMsg, s.pins, s.boot.state, s.safety.fences⟩ := by
  obtain ⟨hid, hrest⟩ := h
  exact ⟨fun o ho => hid o (List.mem_of_mem_filter ho), hrest⟩

theorem sound_foldl {α : Type} {g : State → α → State} (hg : ∀ s a, (watched s).Sound deg → (watched (g s a)).Sound deg)
    (l : List α) (h : (watched s).Sound deg) : (watched (l.foldl g s)).Sound deg := by
  induction l generalizing s with
  | nil => exact h
  | cons a l ih => exact ih (hg s a h)

@[simp] theorem sound_complete (id : Nat) (st : Status) (o : Nat) (r : List Byte) (b : Nat) (h : (watched s).Sound deg) :
    (watched (complete s id st o r b)).Sound deg := by
  unfold complete
  split
  · exact h
  · simp [h]

theorem watched_setState_of_ne (s : State) {m : ModState} (hm : s.boot.state ≠ m) :
    watched (setState s m) = ⟨s.msgs, s.nextMsg,
      { s.pins with faultN := faultState m, syncOut := s.pins.syncOut && syncState m, pulse := if syncState m then s.pins.pulse else none },
      m, s.safety.fences⟩ :=
  watched_of_posts (setState_changes s m hm)

/-- A change of state keeps the pins in step (R13, R398, R399); whether DEGRADED agrees with the fences is the caller's to say. -/
theorem sound_setState (m : ModState) (h : (watched s).Sound false)
    (hm : deg = true → runState m = true → (m = .degraded ↔ s.safety.fences ≠ [])) : (watched (setState s m)).Sound deg := by
  obtain ⟨hid, hpins, -⟩ := h
  by_cases e : s.boot.state = m
  · subst e
    rw [setState_same]
    exact ⟨hid, hpins, hm⟩
  · rw [watched_setState_of_ne s e]
    refine ⟨hid, ⟨rfl, ?_, ?_⟩, hm⟩
    · simp
    · dsimp only
      split <;> simp [*]

/-- R342 says nothing of a state in which the firmware does not run. -/
theorem sound_setState_of_not_run {m : ModState} (hm : runState m = false) (h : (watched s).Sound false) :
    (watched (setState s m)).Sound deg :=
  sound_setState m h fun _ hr => by simp [hm] at hr

theorem sound_setState_properState (h : (watched s).Sound false) : (watched (setState s (properState s))).Sound deg := by
  refine sound_setState _ h fun _ _ => ?_
  unfold properState
  split
  · simp [*]
  · (repeat' split) <;> simp_all

/-- Taking the proper state establishes R342, whatever the state was. -/
theorem sound_settleState_of_loose (h : (watched s).Sound false) : (watched (settleState s)).Sound deg := by
  unfold settleState
  split
  · exact sound_setState_properState h
  · rename_i hr
    exact ⟨h.1, h.2.1, fun _ hrun => absurd hrun hr⟩

@[simp] theorem sound_settleState (h : (watched s).Sound deg) : (watched (settleState s)).Sound deg :=
  sound_settleState_of_loose h.mono

@[simp] theorem sound_ite (c : Prop) [Decidable c] (a b : Watched) :
    (if c then a else b).Sound deg ↔ if c then a.Sound deg else b.Sound deg := by
  split <;> rfl

/-- A command whose next state, if it answers one, keeps the invariant. -/
def SoundRes (r : Res) : Prop := ∀ t, r = .next t → (watched t).Sound true

@[simp] theorem soundRes_next {t : State} : SoundRes (.next t) ↔ (watched t).Sound true :=
  ⟨fun h => h t rfl, fun h _ e => by injection e with e; exact e ▸ h⟩

@[simp] theorem soundRes_guardUnit (ok : Bool) {r : Res} (h : SoundRes r) : SoundRes (guardUnit ok r) := by
  unfold guardUnit
  split
  · exact h
  · intro t e
    cases e

/-! ## What each operation and each command keeps -/

/-! ### Recovery -/

@[simp] theorem sound_undoBg (b : BgOp) (hs : (watched s).Sound deg) :
    (watched (undoBg s b)).Sound deg := by
  unfold undoBg
  split <;> simp [hs]

@[simp] theorem sound_abandonBg (p : BgOp → Bool) (hs : (watched s).Sound deg) :
    (watched (abandonBg s p)).Sound deg := by
  simpa [abandonBg] using sound_foldl (fun _ b => sound_undoBg b) _ hs

@[simp] theorem sound_endBg (op cmd : Nat) (st : Status) (hs : (watched s).Sound deg) :
    (watched (endBg s op cmd st)).Sound deg := by
  unfold endBg
  dsimp only
  (repeat' split) <;> simp [hs]

@[simp] theorem sound_endServed (c : Cmd) (det : Nat) (hs : (watched s).Sound deg) :
    (watched (endServed s c det)).Sound deg := by
  unfold endServed
  split <;> simp [hs]

@[simp] theorem sound_rerunCmd (det : Nat) (c : Cmd) (hs : (watched s).Sound deg) :
    (watched (rerunCmd s det c)).Sound deg := by simp [rerunCmd, hs]

@[simp] theorem sound_failMessages (hs : (watched s).Sound deg) :
    (watched (failMessages s)).Sound deg := by
  unfold failMessages
  refine sound_foldl (fun _ i => sound_complete i _ _ _ _) _ ?_
  simp [hs]

@[simp] theorem sound_takeHold (cause unit : Nat) (injected : Bool) (hs : (watched s).Sound deg) :
    (watched (takeHold s cause unit injected)).Sound deg := by
  unfold takeHold
  refine sound_failMessages ?_
  simp [sound_setState_of_not_run (m := .safeHold) rfl, hs.mono]

@[simp] theorem sound_enterHold (cause unit : Nat) (injected : Bool) (hs : (watched s).Sound deg) :
    (watched (enterHold s cause unit injected)).Sound deg := by
  unfold enterHold
  split <;> simp [hs]

@[simp] theorem sound_failChannel (t : Tier) (ch cause : Nat) (hs : (watched s).Sound deg) :
    (watched (failChannel s t ch cause)).Sound deg := by
  unfold failChannel
  split <;> simp [hs]

@[simp] theorem sound_fenceMemory (u : UnitId) (cause : Nat) (hs : (watched s).Sound deg) :
    (watched (fenceMemory s u cause)).Sound deg := by
  unfold fenceMemory
  split
  · exact sound_foldl (fun _ i => sound_failChannel _ _ _) _ hs
  · exact sound_failChannel _ _ _ hs
  · exact sound_failChannel _ _ _ hs
  · exact hs

/-- A fence breaks R342 until the module takes the state it now should have. -/
@[simp] theorem sound_fenceUnit (u : UnitId) (cause det chan : Nat) (injected : Bool) (hs : (watched s).Sound deg) :
    (watched (fenceUnit s u cause det chan injected)).Sound deg := by
  unfold fenceUnit
  split
  · exact hs
  · have hfenced := sound_updSafety_of_loose (fun y => { y with fences := y.fences ++ [u] }) hs
    dsimp only
    rw [watched_ite, watched_wakeDies, ite_self]
    refine sound_settleState_of_loose (sound_fenceMemory _ _ ?_)
    simpa using hfenced

@[simp] theorem sound_fence (u : UnitId) (cause det : Nat) (injected : Bool) (hs : (watched s).Sound deg) :
    (watched (fence s u cause det injected)).Sound deg := by simp [fence, hs]

@[simp] theorem sound_escalate (u : UnitId) (det : Nat) (hs : (watched s).Sound deg) :
    (watched (escalate s u det)).Sound deg := by
  have hcount := watched_updSafety s fun y =>
    { y with killed := (s.safety.killed ++ [(u, s.tclk)]).filter fun e => decide (s.tclk < e.2 + 120000000) }
  unfold escalate
  dsimp only
  split
  · exact sound_fence _ _ _ _ (hcount ▸ hs)
  · exact hcount ▸ hs

@[simp] theorem sound_dataPath (d : Detection) (cmds : List Cmd) (hs : (watched s).Sound deg) :
    (watched (dataPath s d cmds)).Sound deg := by
  unfold dataPath
  have hrun := sound_foldl (fun _ c => sound_rerunCmd d.det c) cmds
    (s := detectorRecord s d.det (unitCode d.unit) d.injected false d.payload) (by simpa using hs)
  dsimp only
  split
  · exact hrun
  · exact sound_escalate _ _ hrun

@[simp] theorem sound_retireFrame (t : Tier) (frame : Nat) (hs : (watched s).Sound deg) :
    (watched (retireFrame s t frame)).Sound deg := by simp [retireFrame, hs]

/-! ### The power unit -/

theorem sound_execDividerDwellEnd (g ma : Nat) (hs : (watched s).Sound true) :
    SoundRes (execDividerDwellEnd g ma s) := by simp [execDividerDwellEnd, hs]

theorem sound_execVoltageStepAck (rail : Nat) (hs : (watched s).Sound true) :
    SoundRes (execVoltageStepAck rail s) := by
  unfold execVoltageStepAck
  dsimp only
  (repeat' split) <;> simp [hs]

/-- A Strata message that takes effect here. -/
theorem sound_deliver {act : State → State} (ha : ∀ s, (watched s).Sound deg → (watched (act s)).Sound deg) (m : StrataMsg)
    (hs : (watched s).Sound deg) : (watched (deliver s m act)).Sound deg := by
  unfold deliver
  (repeat' split) <;> simp [ha s hs, hs]

theorem sound_receive {act : State → State} (ha : ∀ s, (watched s).Sound deg → (watched (act s)).Sound deg) (p t : Nat) (m : StrataMsg)
    (hs : (watched s).Sound deg) : (watched (receive s p t m act)).Sound deg := by
  unfold receive
  dsimp only
  (repeat' split) <;> simp [sound_deliver ha, hs]

theorem sound_strataMsg {act : State → State} (ha : ∀ s, (watched s).Sound true → (watched (act s)).Sound true) (p t : Nat) (m : StrataMsg)
    (hs : (watched s).Sound true) : SoundRes (strataMsg s p t m act) := by
  simp [strataMsg, sound_receive ha, hs]

theorem sound_blockWrite {act : State → State} (ha : ∀ s, (watched s).Sound deg → (watched (act s)).Sound deg)
    (n : Nat) (b : List Byte) (pec fits : Bool)
    (hs : (watched s).Sound deg) : (watched (blockWrite s n b pec fits act)).Sound deg := by
  simp [blockWrite, ha s hs, hs]

@[simp] theorem sound_railFault (rail word : Nat) (hs : (watched s).Sound deg) :
    (watched (railFault s rail word)).Sound deg := by
  simp [railFault, hs]

theorem sound_execVoltageStepTimeout (rail : Nat) (hs : (watched s).Sound true) :
    SoundRes (execVoltageStepTimeout rail s) := by
  unfold execVoltageStepTimeout
  dsimp only
  (repeat' split) <;> simp [hs]

theorem sound_execRailMon (rail word : Nat) (hs : (watched s).Sound true) :
    SoundRes (execRailMon rail word s) := by simp [execRailMon, hs]

theorem sound_execMinSenseLoopPeriod (g ma : Nat) (rd : LoopReading) (hs : (watched s).Sound true) :
    SoundRes (execMinSenseLoopPeriod g ma rd s) := by
  unfold execMinSenseLoopPeriod
  split <;> simp [hs]

theorem sound_execUnmatchedFall (g region mv : Nat) (hs : (watched s).Sound true) :
    SoundRes (execUnmatchedFall g region mv s) := by simp [execUnmatchedFall, hs]

theorem sound_execClockStretchStart (g region : Nat) (hs : (watched s).Sound true) :
    SoundRes (execClockStretchStart g region s) := by simp [execClockStretchStart, hs]

theorem sound_execClockStretchEnd (g : Nat) (hs : (watched s).Sound true) :
    SoundRes (execClockStretchEnd g s) := by simp [execClockStretchEnd, hs]

@[simp] theorem sound_stretchFault (g : Nat) (injected : Bool) (payload : List Byte) (hs : (watched s).Sound deg) :
    (watched (stretchFault s g injected payload)).Sound deg := by simp [stretchFault, hs]

theorem sound_execStretchBudgetFault (g region : Nat) (hs : (watched s).Sound true) :
    SoundRes (execStretchBudgetFault g region s) := by simp [execStretchBudgetFault, hs]

theorem sound_execSetpointRaiseExpiry (g : Nat) (hs : (watched s).Sound true) :
    SoundRes (execSetpointRaiseExpiry g s) := by simp [execSetpointRaiseExpiry, hs]

@[simp] theorem sound_undervolt (g mv : Nat) (injected : Bool) (hs : (watched s).Sound deg) :
    (watched (undervolt s g mv injected)).Sound deg := by
  unfold undervolt
  dsimp only
  rw [watched_raiseSetpoint, watched_updDie]
  exact sound_foldl (fun _ c => sound_rerunCmd _ c) _ (by simpa using hs)

theorem sound_execVoltMon (g mv : Nat) (high : Bool) (hs : (watched s).Sound true) :
    SoundRes (execVoltMon g mv high s) := by simp [execVoltMon, hs]

theorem sound_execUndervoltagePersistence (g : Nat) (hs : (watched s).Sound true) :
    SoundRes (execUndervoltagePersistence g s) := by simp [execUndervoltagePersistence, hs]

theorem sound_execThrotNChange (level : Bool) (hs : (watched s).Sound true) :
    SoundRes (execThrotNChange level s) := by simp [execThrotNChange, hs]

theorem sound_execPowerCapEvaluation (energyUj avgMw maxMw : Nat) (hs : (watched s).Sound true) :
    SoundRes (execPowerCapEvaluation energyUj avgMw maxMw s) := by simp [execPowerCapEvaluation, hs]

theorem sound_execCapCalibration (actMw teleMw : Nat) (hs : (watched s).Sound true) :
    SoundRes (execCapCalibration actMw teleMw s) := by simp [execCapCalibration, hs]

theorem sound_execThermalSensorRead (temps : List (List Int)) (hs : (watched s).Sound true) :
    SoundRes (execThermalSensorRead temps s) := by
  unfold execThermalSensorRead
  split <;> simp [hs]

theorem sound_execThermalThrottleStep (g : Nat) (hs : (watched s).Sound true) :
    SoundRes (execThermalThrottleStep g s) := by simp [execThermalThrottleStep, hs]

theorem sound_execDozeEntry (hs : (watched s).Sound true) :
    SoundRes (execDozeEntry s) := by
  unfold execDozeEntry
  refine soundRes_next.2 ?_
  split
  · rename_i hready
    have hfences : s.safety.fences = [] := by
      by_contra hne
      exact absurd (((hs.2.2 rfl (by rw [watched, hready.1]; rfl)).2 hne).symm.trans hready.1) nofun
    have hsteps (s : State) : watched ((List.range 4).foldl (fun s g => issueStep s g 500 none) s) = watched s := by simp
    dsimp only
    refine sound_setState _ (by simpa using hs.mono) fun _ _ => ⟨nofun, fun hne => absurd ?_ hne⟩
    exact (congrArg Watched.fences (hsteps _)).trans hfences
  · exact hs

theorem sound_execDieRegate (g : Nat) (hs : (watched s).Sound true) :
    SoundRes (execDieRegate g s) := by simp [execDieRegate, hs]

theorem sound_execConflictsRead (same : Nat) (hs : (watched s).Sound true) :
    SoundRes (execConflictsRead same s) := by simp [execConflictsRead, hs]

theorem sound_execThrotChangesRead (same : Nat) (hs : (watched s).Sound true) :
    SoundRes (execThrotChangesRead same s) := by simp [execThrotChangesRead, hs]

theorem sound_execStretchFaultsRead (same : Nat) (hs : (watched s).Sound true) :
    SoundRes (execStretchFaultsRead same s) := by simp [execStretchFaultsRead, hs]

theorem sound_execMinRearm (hs : (watched s).Sound true) :
    SoundRes (execMinRearm s) := by simp [execMinRearm, hs]

/-! ### The safety unit -/

@[simp] theorem sound_hubHold (det : Nat) (injected : Bool) (payload : List Byte) (hs : (watched s).Sound deg) :
    (watched (hubHold s det injected payload)).Sound deg := by simp [hubHold, hs]

theorem sound_execLockstepMismatch (pairB : Bool) (pos pc : Nat) (hs : (watched s).Sound true) :
    SoundRes (execLockstepMismatch pairB pos pc s) := by simp [execLockstepMismatch, hs]

@[simp] theorem sound_watchdog (pairB : Bool) (task : Nat) (hs : (watched s).Sound deg) :
    (watched (watchdog s pairB task)).Sound deg := by simp [watchdog, hs]

theorem sound_execFwWdog (pairB : Bool) (task : Nat) (hs : (watched s).Sound true) :
    SoundRes (execFwWdog pairB task s) := by simp [execFwWdog, hs]

theorem sound_execClockMon (domain : Nat) (dev : Int) (hs : (watched s).Sound true) :
    SoundRes (execClockMon domain dev s) := by simp [execClockMon, hs]

theorem sound_execClockRelockAttempt (ok : Bool) (hs : (watched s).Sound true) :
    SoundRes (execClockRelockAttempt ok s) := by simp [execClockRelockAttempt, hs]

@[simp] theorem sound_latentFault (p : PointRec) (hs : (watched s).Sound deg) :
    (watched (latentFault s p)).Sound deg := by
  unfold latentFault
  split <;> simp [hs]

@[simp] theorem sound_exercisePoint (i : Nat) (flagged : Bool) (hs : (watched s).Sound deg) :
    (watched (exercisePoint s i flagged)).Sound deg := by
  unfold exercisePoint
  split <;> simp [hs]

theorem sound_execDiagnosticSweepTick (flagged : Bool) (hs : (watched s).Sound true) :
    SoundRes (execDiagnosticSweepTick flagged s) := by
  unfold execDiagnosticSweepTick
  dsimp only
  (repeat' split) <;> simp [hs]

@[simp] theorem sound_actHalt (level : Bool) (hs : (watched s).Sound deg) :
    (watched (actHalt s level)).Sound deg := by simp [actHalt, hs]

theorem sound_execHaltReqNChange (level : Bool) (hs : (watched s).Sound true) :
    SoundRes (execHaltReqNChange level s) := by simp [execHaltReqNChange, hs]

theorem sound_execHaltReqNRearmExpiry (hs : (watched s).Sound true) :
    SoundRes (execHaltReqNRearmExpiry s) := by
  unfold execHaltReqNRearmExpiry
  dsimp only
  (repeat' split) <;> simp [hs]

theorem sound_execSyncInEdge (ts : Nat) (hs : (watched s).Sound true) :
    SoundRes (execSyncInEdge ts s) := by
  unfold execSyncInEdge
  refine soundRes_next.2 ?_
  split
  · exact hs
  · obtain ⟨hid, ⟨hfault, hout, hpulse⟩, hdeg⟩ := hs
    refine ⟨hid, ⟨hfault, hout, fun hp => ?_⟩, hdeg⟩
    change (if syncState s.boot.state then some ts else s.pins.pulse).isSome = true at hp
    by_cases hsync : syncState s.boot.state = true
    · exact hsync
    · rw [if_neg hsync] at hp
      exact hpulse hp

theorem sound_execSyncOutPulseStart (hs : (watched s).Sound true) :
    SoundRes (execSyncOutPulseStart s) := by
  unfold execSyncOutPulseStart
  refine soundRes_next.2 ?_
  split
  · rename_i hp
    have hpulse : (watched s).pins.pulse = some _ := hp
    obtain ⟨hid, ⟨hfault, -, hp2⟩, hdeg⟩ := hs
    exact ⟨hid, ⟨hfault, fun _ => hp2 (hpulse ▸ rfl), hp2⟩, hdeg⟩
  · exact hs

theorem sound_execSyncOutPulseEnd (hs : (watched s).Sound true) :
    SoundRes (execSyncOutPulseEnd s) := by
  unfold execSyncOutPulseEnd
  refine soundRes_next.2 ?_
  split
  · exact ⟨hs.1, ⟨hs.2.1.1, nofun, nofun⟩, hs.2.2⟩
  · exact hs

/-! ### Amber -/

theorem sound_execAmberRingWrite (hs : (watched s).Sound true) :
    SoundRes (execAmberRingWrite s) := by
  unfold execAmberRingWrite
  (repeat' split) <;> simp [hs]

theorem sound_execAmberPersistentAppend (ok : Bool) (hs : (watched s).Sound true) :
    SoundRes (execAmberPersistentAppend ok s) := by
  unfold execAmberPersistentAppend
  (repeat' split) <;> simp [hs]

/-! ### Boot -/

/-- A reset clears the fences, and so leaves R342 to the state that follows. -/
theorem sound_clearModule_of_loose (hs : (watched s).Sound deg) : (watched (clearModule s)).Sound false := by
  have hkeep : watched (clearModule s) =
      ⟨[], (cutStages s).nextMsg, { (cutStages s).pins with syncOut := false, pulse := none, lastEdge := 0 }, (cutStages s).boot.state, []⟩ := rfl
  have hcut : (watched (cutStages s)).Sound deg := by simpa using hs
  obtain ⟨-, ⟨hfault, -⟩, -⟩ := hcut
  rw [hkeep]
  exact ⟨nofun, ⟨hfault, nofun, nofun⟩, nofun⟩

@[simp] theorem sound_startAttempt (n : Nat) (hs : (watched s).Sound deg) :
    (watched (startAttempt s n)).Sound deg := sound_setState_of_not_run rfl (by simpa using hs.mono)

@[simp] theorem sound_lockout (code detail : Nat) (hs : (watched s).Sound deg) :
    (watched (lockout s code detail)).Sound deg := sound_setState_of_not_run rfl (by simpa using hs.mono)

@[simp] theorem sound_failAttempt (code detail : Nat) (hs : (watched s).Sound deg) :
    (watched (failAttempt s code detail)).Sound deg := by simp [failAttempt, hs]

theorem sound_execRailPowerGood (rail : Nat) (hs : (watched s).Sound true) :
    SoundRes (execRailPowerGood rail s) := by simp [execRailPowerGood, hs]

theorem sound_execPowerGoodTimeout (rail : Nat) (hs : (watched s).Sound true) :
    SoundRes (execPowerGoodTimeout rail s) := by simp [execPowerGoodTimeout, hs]

theorem sound_execOscillatorStable (hs : (watched s).Sound true) :
    SoundRes (execOscillatorStable s) := by simp [execOscillatorStable, hs]

theorem sound_execPllLock (hs : (watched s).Sound true) :
    SoundRes (execPllLock s) := by simp [execPllLock, hs]

theorem sound_execRefclkTimeout (pll : Bool) (hs : (watched s).Sound true) :
    SoundRes (execRefclkTimeout pll s) := by simp [execRefclkTimeout, hs]

theorem sound_execAttemptRetryWaitExpiry (hs : (watched s).Sound true) :
    SoundRes (execAttemptRetryWaitExpiry s) := by simp [execAttemptRetryWaitExpiry, hs]

@[simp] theorem sound_tryPowerUp (hs : (watched s).Sound deg) :
    (watched (tryPowerUp s)).Sound deg := by simp [tryPowerUp, hs]

/-- OFF is sound whatever was before. -/
@[simp] theorem sound_powerOff (s : State) : (watched (powerOff s)).Sound deg :=
  ⟨nofun, ⟨rfl, nofun, nofun⟩, fun _ h => nomatch h⟩

theorem sound_execAuxPowerOn (epochOk : Bool) (hs : (watched s).Sound true) :
    SoundRes (execAuxPowerOn epochOk s) := by
  unfold execAuxPowerOn
  refine soundRes_next.2 ?_
  split
  · exact hs
  · refine sound_tryPowerUp (sound_setState_of_not_run rfl ?_)
    simp

theorem sound_execAuxPowerLost (hs : (watched s).Sound true) :
    SoundRes (execAuxPowerLost s) := by simp [execAuxPowerLost, hs]

theorem sound_execMainPowerPresent (hs : (watched s).Sound true) :
    SoundRes (execMainPowerPresent s) := by simp [execMainPowerPresent, hs]

theorem sound_execMainPowerLost (hs : (watched s).Sound true) :
    SoundRes (execMainPowerLost s) := by
  unfold execMainPowerLost
  refine soundRes_next.2 ?_
  dsimp only
  split
  · simpa using hs
  · simpa using hs
  · refine sound_setState_of_not_run rfl ?_
    rw [watched_railsOff]
    exact sound_clearModule_of_loose (deg := true) (by simpa using hs)

@[simp] theorem sound_warmReset (hs : (watched s).Sound deg) :
    (watched (warmReset s)).Sound deg := by
  refine sound_setState_of_not_run rfl ?_
  simpa using sound_clearModule_of_loose hs

theorem sound_execPerstAssert (hs : (watched s).Sound true) :
    SoundRes (execPerstAssert s) := by simp [execPerstAssert, hs]

theorem sound_execPerstDeassert (hs : (watched s).Sound true) :
    SoundRes (execPerstDeassert s) := by
  unfold execPerstDeassert
  dsimp only
  (repeat' split) <;> simp [hs]

theorem sound_bootSlots (c : BootCtl) (l : List Nat) (hs : (watched s).Sound deg) :
    (watched (bootSlots s c l)).Sound deg := by
  induction l generalizing s with
  | nil => exact sound_lockout _ _ hs
  | cons slot rest ih =>
    unfold bootSlots
    split
    · simp [hs]
    · exact ih (by simp [hs])

theorem sound_execBootVerifyComplete (hs : (watched s).Sound true) :
    SoundRes (execBootVerifyComplete s) := by
  unfold execBootVerifyComplete
  refine soundRes_next.2 ?_
  split
  · exact hs
  · split
    · simp [hs]
    · refine sound_bootSlots _ _ ?_
      split <;> simp [hs]

theorem sound_execMemoryTrainingComplete (failed : List (Tier × Nat)) (hs : (watched s).Sound true) :
    SoundRes (execMemoryTrainingComplete failed s) := by
  unfold execMemoryTrainingComplete
  refine soundRes_guardUnit _ (soundRes_next.2 ?_)
  split
  · exact hs
  · simpa using sound_foldl (fun _ e => sound_fenceUnit _ _ _ _ _) failed hs

@[simp] theorem sound_endBooting (hs : (watched s).Sound deg) :
    (watched (endBooting s)).Sound deg := by
  unfold endBooting
  dsimp only
  split
  · refine sound_takeHold _ _ _ ?_
    (repeat' split) <;> simp [hs]
  · refine sound_setState _ ?_ fun _ _ => ?_
    · (repeat' split) <;> simp [hs.mono]
    · (repeat' split) <;> simp_all

theorem sound_execMemoryInitComplete (bad : List (Tier × Nat)) (failed : List Nat) (hs : (watched s).Sound true) :
    SoundRes (execMemoryInitComplete bad failed s) := by
  unfold execMemoryInitComplete
  refine soundRes_next.2 ?_
  split
  · exact hs
  · refine sound_endBooting (sound_foldl (fun _ i => sound_exercisePoint _ _) _ ?_)
    rw [watched_exerciseAll]
    exact sound_foldl (fun _ e => sound_retireFrame _ _) _ (by simpa using hs)

@[simp] theorem writeBcb_state (b : Boot) (active : Nat) (trial : Bool) (slot : Nat) : (writeBcb b active trial slot).state = b.state := by
  rw [writeBcb]

theorem sound_execTrialBootTimeout (hs : (watched s).Sound true) : SoundRes (execTrialBootTimeout s) := by
  unfold execTrialBootTimeout
  refine soundRes_next.2 ?_
  dsimp only
  split
  all_goals (repeat' split) <;> simp [hs]

/-! ### Mailboxes and messages -/

@[simp] theorem sound_reject (x : MsgCtx) (r : Refuse) (hs : (watched s).Sound deg) :
    (watched (reject s x r)).Sound deg := by
  simp [reject, hs]

/-- A message that starts takes the next id. -/
theorem sound_startMsg {x : MsgCtx} (hx : x.id = s.nextMsg) (hs : (watched s).Sound deg) : (watched (startMsg s x)).Sound deg := by
  obtain ⟨hid, hrest⟩ := hs
  refine ⟨fun o ho => ?_, hrest⟩
  change o ∈ (startMsg s x).msgs at ho
  rw [startMsg_msgs, List.mem_append, List.mem_singleton] at ho
  change o.id < s.nextMsg + 1
  obtain ho | rfl := ho
  · exact Nat.lt_succ_of_lt (hid o ho)
  · exact hx ▸ Nat.lt_succ_self _

/-- A message is refused, or its command's effect follows. -/
@[simp] theorem sound_settle {apply : State → State} (x : MsgCtx) (c : Check) (hs : (watched s).Sound deg)
    (ha : (watched (apply s)).Sound deg) : (watched (settle s x c apply)).Sound deg := by
  unfold settle
  split
  · exact sound_reject x _ hs
  · exact ha

@[simp] theorem sound_settleRead {α : Type} {apply : State → State} (x : MsgCtx) (addr len : Nat) (r : HostRead α) (c : Check)
    (hs : (watched s).Sound deg) (ha : (watched (apply (hostRead s x.f addr len))).Sound deg) :
    (watched (settleRead s x addr len r c apply)).Sound deg := by
  unfold settleRead
  split
  · exact sound_reject x _ (by simp [hs])
  · exact ha

theorem sound_serveStrays (f : Nat) (src : Src) (n : Nat) (hs : (watched s).Sound deg) :
    (watched (serveStrays f src n s)).Sound deg := by
  induction n generalizing s with
  | zero => exact hs
  | succ n ih =>
    unfold serveStrays
    split
    · exact hs
    · rename_i m _
      split
      · have hstart := sound_startMsg (x := ctxOf s f src m) rfl hs
        exact ih (sound_settle _ _ hstart hstart)
      · exact hs

@[simp] theorem sound_sweepStrays (f : Nat) (src : Src) (hs : (watched s).Sound deg) :
    (watched (sweepStrays s f src)).Sound deg := sound_serveStrays f src _ hs

/-- An opcode's command keeps the invariant when what it does with its message does. -/
theorem sound_onMessage {f : Nat} {src : Src} {op : Nat} {held : List Byte → Bool} {k : State → MsgCtx → State}
    (hk : ∀ s x, (watched s).Sound true → (watched (k s x)).Sound true) (hs : (watched s).Sound true) :
    SoundRes (onMessage s f src op held k) := by
  refine soundRes_guardUnit _ (soundRes_next.2 ?_)
  split
  · exact hs
  · rename_i m _
    split
    · have hstart := sound_startMsg (x := ctxOf s f src m) rfl hs
      exact sound_sweepStrays f src (sound_settle _ _ hstart (hk _ _ hstart))
    · exact hs

@[simp] theorem sound_respond (x : MsgCtx) (b result : List Byte) (hs : (watched s).Sound deg) :
    (watched (respond s x b result)).Sound deg := by
  simp [respond, hs]

theorem sound_execInlPiObserved (f : Nat) (hs : (watched s).Sound true) :
    SoundRes (execInlPiObserved f s) := by simp [execInlPiObserved, hs]

theorem sound_execSqPiObserved (f : Nat) (hs : (watched s).Sound true) :
    SoundRes (execSqPiObserved f s) := by simp [execSqPiObserved, hs]

theorem sound_execCqCiObserved (f : Nat) (hs : (watched s).Sound true) :
    SoundRes (execCqCiObserved f s) := by simp [execCqCiObserved, hs]

@[simp] theorem sound_endFetch (f i : Nat) (r : HostRead (List Byte)) (hs : (watched s).Sound deg) :
    (watched (endFetch s f i r)).Sound deg := by
  unfold endFetch
  (repeat' split) <;> simp [hs]

theorem sound_execSqEntryFetchComplete (f index : Nat) (r : HostRead (List Byte)) (hs : (watched s).Sound true) :
    SoundRes (execSqEntryFetchComplete f index r s) := by simp [execSqEntryFetchComplete, hs]

@[simp] theorem sound_resetMailbox (f : Nat) (hs : (watched s).Sound deg) :
    (watched (resetMailbox s f)).Sound deg := by simp [resetMailbox, hs]

theorem sound_execMbReset (f : Nat) (hs : (watched s).Sound true) :
    SoundRes (execMbReset f s) := by simp [execMbReset, hs]

theorem sound_execSqEnable (f : Nat) (withCq : Bool) (h : HostView) (hs : (watched s).Sound true) :
    SoundRes (execSqEnable f withCq h s) := by simp [execSqEnable, hs]

theorem sound_execCqEnable (f : Nat) (h : HostView) (hs : (watched s).Sound true) :
    SoundRes (execCqEnable f h s) := by simp [execCqEnable, hs]

theorem sound_execEventPendingClear (f mask same : Nat) (hs : (watched s).Sound true) :
    SoundRes (execEventPendingClear f mask same s) := by simp [execEventPendingClear, hs]

theorem sound_execEvtLostRead (f same : Nat) (hs : (watched s).Sound true) :
    SoundRes (execEvtLostRead f same s) := by simp [execEvtLostRead, hs]

theorem sound_execComplDroppedRead (f same : Nat) (hs : (watched s).Sound true) :
    SoundRes (execComplDroppedRead f same s) := by simp [execComplDroppedRead, hs]

theorem sound_execModTimeExpiry (f : Nat) (hs : (watched s).Sound true) :
    SoundRes (execModTimeExpiry f s) := by simp [execModTimeExpiry, hs]

theorem sound_execRegisterWrite (f : Nat) (win : Window) (off val : Nat) (hs : (watched s).Sound true) :
    SoundRes (execRegisterWrite f win off val s) := by
  unfold execRegisterWrite
  split <;> simp [hs]

/-! ### Partitions -/

@[simp] theorem sound_freeObjects (i : Nat) (hs : (watched s).Sound deg) :
    (watched (freeObjects s i)).Sound deg := by simp [freeObjects, hs]

@[simp] theorem sound_endWaits (i : Nat) (st : Status) (hs : (watched s).Sound deg) :
    (watched (endWaits s i st)).Sound deg := sound_foldl (fun _ _ => sound_complete _ _ _ _ _) _ hs

theorem sound_execPartitionCreate (f : Nat) (src : Src) (hs : (watched s).Sound true) :
    SoundRes (execPartitionCreate f src s) := by
  refine sound_onMessage (fun s x hs => ?_) hs
  simp [hs]

theorem sound_execPartitionSetQuota (f : Nat) (src : Src) (hs : (watched s).Sound true) :
    SoundRes (execPartitionSetQuota f src s) := by
  refine sound_onMessage (fun s x hs => ?_) hs
  simp [hs]

theorem sound_execPartitionQuery (f : Nat) (src : Src) (h : HostView) (hs : (watched s).Sound true) :
    SoundRes (execPartitionQuery f src h s) := by
  refine sound_onMessage (fun s x hs => ?_) hs
  refine sound_settle _ _ hs ?_
  (repeat' split) <;> simp [hs]

/-! ### Cairns -/

@[simp] theorem sound_waitExpires (w : WaitRec) (hs : (watched s).Sound deg) :
    (watched (waitExpires s w)).Sound deg := by simp [waitExpires, hs]

@[simp] theorem sound_resolveWaits (hs : (watched s).Sound deg) :
    (watched (resolveWaits s)).Sound deg := by
  refine sound_foldl (fun t w ht => ?_) _ hs
  split
  · exact sound_complete _ _ _ _ _ ht
  · exact sound_waitExpires _ ht

theorem sound_execCairnAlloc (f : Nat) (src : Src) (hs : (watched s).Sound true) :
    SoundRes (execCairnAlloc f src s) := by
  refine sound_onMessage (fun s x hs => ?_) hs
  simp [hs]

theorem sound_execCairnFree (f : Nat) (src : Src) (hs : (watched s).Sound true) :
    SoundRes (execCairnFree f src s) := by
  refine sound_onMessage (fun s x hs => ?_) hs
  simp [hs]

theorem sound_execCairnSignal (f : Nat) (src : Src) (hs : (watched s).Sound true) :
    SoundRes (execCairnSignal f src s) := by
  refine sound_onMessage (fun s x hs => ?_) hs
  refine sound_settle _ _ hs ?_
  (repeat' split) <;> simp [hs]

theorem sound_execCairnWaitArm (f : Nat) (src : Src) (hs : (watched s).Sound true) :
    SoundRes (execCairnWaitArm f src s) := by
  refine sound_onMessage (fun s x hs => ?_) hs
  simp [hs]

theorem sound_execCairnQuery (f : Nat) (src : Src) (hs : (watched s).Sound true) :
    SoundRes (execCairnQuery f src s) := by
  refine sound_onMessage (fun s x hs => ?_) hs
  simp [hs]

theorem sound_execCairnWaitTimeout (w : Nat) (hs : (watched s).Sound true) :
    SoundRes (execCairnWaitTimeout w s) := by
  unfold execCairnWaitTimeout
  split <;> simp [hs]

/-! ### Models, tables and prefixes -/

@[simp] theorem sound_zeroThen (f id handle pages addr : Nat) (st : Status) (resp result : List Byte) (hs : (watched s).Sound deg) :
    (watched (zeroThen s f id handle pages addr st resp result)).Sound deg := by simp [zeroThen, hs]

theorem sound_execModelLoad (f : Nat) (src : Src) (h : HostView) (r : HostRead ModelImage) (hs : (watched s).Sound true) :
    SoundRes (execModelLoad f src h r s) := by
  refine sound_onMessage (fun s x hs => ?_) hs
  (repeat' split) <;> simp [hs]

theorem sound_execModelPin (f : Nat) (src : Src) (hs : (watched s).Sound true) :
    SoundRes (execModelPin f src s) := by
  refine sound_onMessage (fun s x hs => ?_) hs
  dsimp only
  (repeat' split) <;> simp [hs]

theorem sound_execModelEvict (f : Nat) (src : Src) (hs : (watched s).Sound true) :
    SoundRes (execModelEvict f src s) := by
  refine sound_onMessage (fun s x hs => ?_) hs
  simp [hs]

theorem sound_execTableCreate (f : Nat) (src : Src) (hs : (watched s).Sound true) :
    SoundRes (execTableCreate f src s) := by
  refine sound_onMessage (fun s x hs => ?_) hs
  simp [hs]

theorem sound_execTableLoad (f : Nat) (src : Src) (h : HostView) (r : HostRead (List Byte)) (hs : (watched s).Sound true) :
    SoundRes (execTableLoad f src h r s) := by
  refine sound_onMessage (fun s x hs => ?_) hs
  refine sound_settleRead _ _ _ _ _ hs ?_
  split
  · exact sound_settle _ _ (by simp [hs]) (by simp [hs])
  · simp [hs]

theorem sound_execTableDestroy (f : Nat) (src : Src) (hs : (watched s).Sound true) :
    SoundRes (execTableDestroy f src s) := by
  refine sound_onMessage (fun s x hs => ?_) hs
  simp [hs]

theorem sound_execPrefixRegister (f : Nat) (src : Src) (h : HostView) (r : HostRead (List Byte)) (hs : (watched s).Sound true) :
    SoundRes (execPrefixRegister f src h r s) := by
  refine sound_onMessage (fun s x hs => ?_) hs
  refine sound_settleRead _ _ _ _ _ hs ?_
  split
  · exact sound_settle _ _ (by simp [hs]) (by simp [hs])
  · simp [hs]

theorem sound_execPrefixRelease (f : Nat) (src : Src) (hs : (watched s).Sound true) :
    SoundRes (execPrefixRelease f src s) := by
  refine sound_onMessage (fun s x hs => ?_) hs
  simp [hs]

/-! ### The memory unit -/

@[simp] theorem sound_channelFails (t : Tier) (ch chan : Nat) (hs : (watched s).Sound deg) :
    (watched (channelFails s t ch chan)).Sound deg := by simp [channelFails, hs]

@[simp] theorem sound_countChUe (t : Tier) (ch : Nat) (hs : (watched s).Sound deg) :
    (watched (countChUe s t ch)).Sound deg := by simp [countChUe, hs]

@[simp] theorem sound_poisonRead (d : DramRead) (hs : (watched s).Sound deg) :
    (watched (poisonRead s d)).Sound deg := by simp [poisonRead, hs]

@[simp] theorem sound_dramRead (d : DramRead) (injected : Bool) (hs : (watched s).Sound deg) :
    (watched (dramRead s d injected)).Sound deg := by
  unfold dramRead
  dsimp only
  (repeat' split) <;> simp [hs]

@[simp] theorem sound_dramWrite (w : DramWrite) (hs : (watched s).Sound deg) :
    (watched (dramWrite s w)).Sound deg := by
  unfold dramWrite
  dsimp only
  (repeat' split) <;> simp [hs]

@[simp] theorem sound_dramWrites (ws : List DramWrite) (hs : (watched s).Sound deg) :
    (watched (dramWrites s ws)).Sound deg := sound_foldl (fun _ w => sound_dramWrite w) _ hs

@[simp] theorem sound_scrubArmed (t : Tier) (hs : (watched s).Sound deg) :
    (watched (scrubArmed s t)).Sound deg := sound_foldl (fun _ _ => sound_dramRead _ _) _ hs

theorem sound_execPatrolScrubTick (t : Tier) (reads : List DramRead) (hs : (watched s).Sound true) :
    SoundRes (execPatrolScrubTick t reads s) := by
  unfold execPatrolScrubTick
  refine soundRes_next.2 ?_
  split
  · exact hs
  · have hq : (watched (addHeld (drainQueue s t) 0 3 [({ kind := 13, idx := 0 }, 15 * Config.scrubCycles s.tclk)])).Sound true := by
      simpa using hs
    dsimp only
    rw [watched_advanceScrub]
    split
    · exact sound_scrubArmed t (sound_foldl (fun _ d => sound_dramRead d false) _ hq)
    · exact hq

theorem sound_execScrubPassStart (t : Tier) (hs : (watched s).Sound true) :
    SoundRes (execScrubPassStart t s) := by simp [execScrubPassStart, hs]

theorem sound_execChannelReadTimeout (t : Tier) (ch : Nat) (hs : (watched s).Sound true) :
    SoundRes (execChannelReadTimeout t ch s) := by simp [execChannelReadTimeout, hs]

theorem sound_execRetrainEnd (t : Tier) (ch : Nat) (ok : Bool) (hs : (watched s).Sound true) :
    SoundRes (execRetrainEnd t ch ok s) := by simp [execRetrainEnd, hs]

theorem sound_execAtsInvalidation (f lo hi : Nat) (hs : (watched s).Sound true) :
    SoundRes (execAtsInvalidation f lo hi s) := by simp [execAtsInvalidation, hs]

/-! ### The Strata unit -/

theorem sound_execCableInsertion (p : Nat) (eeprom : Option (List Byte)) (hs : (watched s).Sound true) :
    SoundRes (execCableInsertion p eeprom s) := by simp [execCableInsertion, hs]

theorem sound_execLinkTrainingAttempt (p : Nat) (hs : (watched s).Sound true) :
    SoundRes (execLinkTrainingAttempt p s) := by simp [execLinkTrainingAttempt, hs]

theorem sound_execTrainingStepTimeout (p step : Nat) (hs : (watched s).Sound true) :
    SoundRes (execTrainingStepTimeout p step s) := by simp [execTrainingStepTimeout, hs]

theorem sound_execTrainingRetryTimer (p : Nat) (hs : (watched s).Sound true) :
    SoundRes (execTrainingRetryTimer p s) := by simp [execTrainingRetryTimer, hs]

theorem sound_execLinkFlit (p : Nat) (fl : Flit) (hs : (watched s).Sound true) :
    SoundRes (execLinkFlit p fl s) := by simp [execLinkFlit, hs]

@[simp] theorem sound_rerunCollectives (hs : (watched s).Sound deg) :
    (watched (rerunCollectives s)).Sound deg := by
  refine sound_foldl (fun s c hs => ?_) _ (by simpa using hs)
  split <;> simp [hs]

@[simp] theorem sound_contractLoses (h : Nat) (hs : (watched s).Sound deg) :
    (watched (contractLoses s h)).Sound deg := by
  unfold contractLoses
  split <;> simp [hs]

@[simp] theorem sound_loseLink (pos port : Nat) (hs : (watched s).Sound deg) :
    (watched (loseLink s pos port)).Sound deg := by
  unfold loseLink
  dsimp only
  split
  all_goals
    split
    · exact hs
    · rw [watched_resendAll, watched_checkLock, watched_rebound]
      exact sound_foldl (fun _ h => sound_contractLoses h) _ (by simpa using hs)

@[simp] theorem sound_takeDown (p cause : Nat) (hs : (watched s).Sound deg) :
    (watched (takeDown s p cause)).Sound deg := by simp [takeDown, hs]

@[simp] theorem sound_lossAt (p cause : Nat) (hs : (watched s).Sound deg) :
    (watched (lossAt s p cause)).Sound deg := by simp [lossAt, hs]

theorem sound_execLossOfSignal (p : Nat) (hs : (watched s).Sound true) :
    SoundRes (execLossOfSignal p s) := by simp [execLossOfSignal, hs]

theorem sound_execCblIntN (p : Nat) (hs : (watched s).Sound true) :
    SoundRes (execCblIntN p s) := by simp [execCblIntN, hs]

theorem sound_execCableRemoval (p : Nat) (hs : (watched s).Sound true) :
    SoundRes (execCableRemoval p s) := by simp [execCableRemoval, hs]

theorem sound_execMemberSilentTimeout (pos : Nat) (hs : (watched s).Sound true) :
    SoundRes (execMemberSilentTimeout pos s) := by
  unfold execMemberSilentTimeout
  refine soundRes_next.2 ?_
  split
  · exact hs
  · refine sound_foldl (fun s r hs => ?_) _ (sound_foldl (fun _ p => sound_takeDown p 5) _ (by simpa using hs))
    split <;> simp [hs]

@[simp] theorem sound_crcFailure (n : Nat) (hs : (watched s).Sound deg) :
    (watched (crcFailure s n)).Sound deg := by simp [crcFailure, hs]

theorem sound_execDataFlit (n : Nat) (f : Flit) (hs : (watched s).Sound true) :
    SoundRes (execDataFlit n f s) := by simp [execDataFlit, hs]

theorem sound_execIdleFlit (n : Nat) (f : Flit) (hs : (watched s).Sound true) :
    SoundRes (execIdleFlit n f s) := by simp [execIdleFlit, hs]

theorem sound_execNakFlit (n : Nat) (f : Flit) (hs : (watched s).Sound true) :
    SoundRes (execNakFlit n f s) := by simp [execNakFlit, hs]

theorem sound_execHello (p : Nat) (m : StrataMsg) (hs : (watched s).Sound true) :
    SoundRes (execHello p m s) := by simp [execHello, hs]

theorem sound_execFormationQuietTimeout (shape : Nat) (members : List Nat) (hs : (watched s).Sound true) :
    SoundRes (execFormationQuietTimeout shape members s) := by simp [execFormationQuietTimeout, hs]

theorem sound_execForm (p : Nat) (m : StrataMsg) (hs : (watched s).Sound true) :
    SoundRes (execForm p m s) := sound_strataMsg (fun s hs => by 
    dsimp only
    (repeat' split) <;> simp [hs]) _ _ _ hs

theorem sound_execLinkState (p : Nat) (m : StrataMsg) (hs : (watched s).Sound true) :
    SoundRes (execLinkState p m s) := sound_strataMsg (fun s hs => by 
    dsimp only
    (repeat' split) <;> simp [hs]) _ _ _ hs

theorem sound_execAck (p : Nat) (m : StrataMsg) (hs : (watched s).Sound true) :
    SoundRes (execAck p m s) := sound_strataMsg (fun s hs => by simp [hs]) _ _ _ hs

theorem sound_execBulk (p : Nat) (m : StrataMsg) (hs : (watched s).Sound true) :
    SoundRes (execBulk p m s) := sound_strataMsg (fun _ hs => hs) _ _ _ hs

theorem sound_execUnknownMessageType (p : Nat) (m : StrataMsg) (hs : (watched s).Sound true) :
    SoundRes (execUnknownMessageType p m s) := by simp [execUnknownMessageType, hs]

theorem sound_execThrottleAdvise (p : Nat) (m : StrataMsg) (hs : (watched s).Sound true) :
    SoundRes (execThrottleAdvise p m s) := sound_strataMsg (fun _ hs => hs) _ _ _ hs

theorem sound_execSyncExchangeTimer (hs : (watched s).Sound true) :
    SoundRes (execSyncExchangeTimer s) := by
  unfold execSyncExchangeTimer
  dsimp only
  (repeat' split) <;> simp [hs]

theorem sound_execSyncReq (p : Nat) (m : StrataMsg) (t2 t3 : Nat) (hs : (watched s).Sound true) :
    SoundRes (execSyncReq p m t2 t3 s) := sound_strataMsg (fun s hs => by simp [hs]) _ _ _ hs

theorem sound_execSyncResp (p : Nat) (m : StrataMsg) (t4 : Nat) (hs : (watched s).Sound true) :
    SoundRes (execSyncResp p m t4 s) := sound_strataMsg (fun s hs => by 
    dsimp only
    (repeat' split) <;> simp [hs]) _ _ _ hs

@[simp] theorem sound_endColl (c : Coll) (commit : Bool) (hs : (watched s).Sound deg) :
    (watched (endColl s c commit)).Sound deg := by
  unfold endColl
  dsimp only
  (repeat' split) <;> simp [hs]

@[simp] theorem sound_decideColl (c : Coll) (commit : Bool) (cause : Nat) (hs : (watched s).Sound deg) :
    (watched (decideColl s c commit cause)).Sound deg := by simp [decideColl, hs]

@[simp] theorem sound_countVotes (txn : Nat) (hs : (watched s).Sound deg) :
    (watched (countVotes s txn)).Sound deg := by
  unfold countVotes
  (repeat' split) <;> simp [hs]

@[simp] theorem sound_castVote (c : Coll) (hs : (watched s).Sound deg) :
    (watched (castVote s c)).Sound deg := by simp [castVote, hs]

theorem sound_execPartialMsg (p : Nat) (m : StrataMsg) (hs : (watched s).Sound true) :
    SoundRes (execPartialMsg p m s) := sound_strataMsg (fun s hs => by 
    dsimp only
    (repeat' split) <;> simp [hs]) _ _ _ hs

theorem sound_execVote (p : Nat) (m : StrataMsg) (hs : (watched s).Sound true) :
    SoundRes (execVote p m s) := sound_strataMsg (fun s hs => by simp [hs]) _ _ _ hs

theorem sound_execVoteTimeout (txn : Nat) (hs : (watched s).Sound true) :
    SoundRes (execVoteTimeout txn s) := by
  unfold execVoteTimeout
  split <;> simp [hs]

theorem sound_execDecide (p : Nat) (m : StrataMsg) (hs : (watched s).Sound true) :
    SoundRes (execDecide p m s) := by
  refine sound_strataMsg (fun s hs => ?_) _ _ _ hs
  (repeat' split) <;> simp [hs]

theorem sound_execDecisionWaitTimeout (txn : Nat) (hs : (watched s).Sound true) :
    SoundRes (execDecisionWaitTimeout txn s) := by
  unfold execDecisionWaitTimeout
  split <;> simp [hs]

theorem sound_execDecisionQuery (p : Nat) (m : StrataMsg) (hs : (watched s).Sound true) :
    SoundRes (execDecisionQuery p m s) := by
  refine sound_strataMsg (fun s hs => ?_) _ _ _ hs
  (repeat' split) <;> simp [hs]

/-! ### Detections, fences and the hold -/

@[simp] theorem sound_poisonConsumer (c : Cmd) (hs : (watched s).Sound deg) :
    (watched (poisonConsumer s c)).Sound deg := by
  unfold poisonConsumer
  split <;> simp [hs]

@[simp] theorem sound_sramDetection (d : Detection) (cmds : List Cmd) (hs : (watched s).Sound deg) :
    (watched (sramDetection s d cmds)).Sound deg := by simp [sramDetection, hs]

@[simp] theorem sound_d2dDetection (d : Detection) (hs : (watched s).Sound deg) :
    (watched (d2dDetection s d)).Sound deg := by simp [d2dDetection, hs]

@[simp] theorem sound_preemptDetection (d : Detection) (hs : (watched s).Sound deg) :
    (watched (preemptDetection s d)).Sound deg := by simp [preemptDetection, hs]

@[simp] theorem sound_rerunCmds (det : Nat) (cmds : List Cmd) (hs : (watched s).Sound deg) :
    (watched (cmds.foldl (fun s c => rerunCmd s det c) s)).Sound deg :=
  sound_foldl (fun _ c => sound_rerunCmd det c) cmds hs

@[simp] theorem sound_poisonConsumers (cmds : List Cmd) (hs : (watched s).Sound deg) :
    (watched (cmds.foldl poisonConsumer s)).Sound deg :=
  sound_foldl (fun _ c => sound_poisonConsumer c) cmds hs

@[simp] theorem sound_detect (d : Detection) (cmds : List Cmd) (hs : (watched s).Sound deg) :
    (watched (detect s d cmds)).Sound deg := by
  unfold detect
  dsimp only
  split
  all_goals (repeat' split) <;> simp [hs]

/-- A commit, and the detection that may fall before it. -/
theorem sound_commitUnder {k : State → State} (det : Option Detection) (cmds : List Cmd)
    (hk : ∀ s, (watched s).Sound deg → (watched (k s)).Sound deg) (hs : (watched s).Sound deg) :
    (watched (commitUnder s det cmds k)).Sound deg := by
  unfold commitUnder
  split
  · exact hk s hs
  · have hdet := sound_detect ‹_› cmds hs
    dsimp only
    split
    · exact hk _ hdet
    · exact hdet

@[simp] theorem sound_injectLive (det : Nat) (u : UnitId) (hs : (watched s).Sound deg) :
    (watched (injectLive s det u)).Sound deg := by
  unfold injectLive
  split <;> simp [hs]

theorem sound_execSafetyInject (f : Nat) (src : Src) (hs : (watched s).Sound true) :
    SoundRes (execSafetyInject f src s) := by
  refine sound_onMessage (fun s x hs => ?_) hs
  dsimp only
  split
  · exact hs
  · exact sound_settle _ _ hs (sound_complete _ _ _ _ _ (by split <;> simp [hs]))

@[simp] theorem sound_unfence (u : UnitId) (hs : (watched s).Sound deg) :
    (watched (unfence s u)).Sound deg := by
  have hopen := sound_updSafety_of_loose (s := exerciseAll s (pointOfUnit u))
    (fun y => { y with fences := y.fences.filter fun v => decide (v ≠ u) }) (by simpa using hs)
  unfold unfence
  dsimp only
  refine sound_settleState_of_loose ?_
  (repeat' split) <;> simpa using hopen

theorem sound_execSafetyFence (f : Nat) (src : Src) (testOk : Bool) (hs : (watched s).Sound true) :
    SoundRes (execSafetyFence f src testOk s) := by
  refine sound_onMessage (fun s x hs => ?_) hs
  dsimp only
  split
  · exact hs
  · split
    · exact sound_complete _ _ _ _ _ hs
    · split
      · exact sound_complete _ _ _ _ _ (sound_fence _ _ _ _ hs)
      · exact sound_settle _ _ hs (sound_complete _ _ _ _ _ (sound_unfence _ hs))

@[simp] theorem sound_leaveHold (hs : (watched s).Sound deg) :
    (watched (leaveHold s)).Sound deg := sound_setState_properState (by simpa using hs.mono)

@[simp] theorem sound_endRelease (x : MsgCtx) (st : Status) (hs : (watched s).Sound deg) :
    (watched (endRelease s x st)).Sound deg := by simp [endRelease, hs]

@[simp] theorem sound_releaseHold (x : MsgCtx) (failed : List Nat) (hs : (watched s).Sound deg) :
    (watched (releaseHold s x failed)).Sound deg := by
  have hex := sound_foldl (fun _ i => sound_exercisePoint i false)
    (failingPoints (releaseDies { s with mem := { s.mem with selfRefresh := false } }) failed)
    (s := exerciseAll (releaseDies { s with mem := { s.mem with selfRefresh := false } })
      (pointLive (releaseDies { s with mem := { s.mem with selfRefresh := false } }))) (by simpa using hs)
  unfold releaseHold
  dsimp only
  split
  · exact sound_endRelease _ _ (by simpa using hex)
  · exact sound_endRelease _ _ (sound_leaveHold hex)

theorem sound_execSafetyHoldRelease (f : Nat) (src : Src) (failed : List Nat) (hs : (watched s).Sound true) :
    SoundRes (execSafetyHoldRelease f src failed s) := by
  refine sound_onMessage (fun s x hs => ?_) hs
  simp [hs]

/-! ### Indexes -/

theorem sound_execIndexCreate (f : Nat) (src : Src) (hs : (watched s).Sound true) :
    SoundRes (execIndexCreate f src s) := by
  refine sound_onMessage (fun s x hs => ?_) hs
  simp [hs]

theorem sound_execIndexBulkLoad (f : Nat) (src : Src) (h : HostView) (r : HostRead (List Byte)) (hs : (watched s).Sound true) :
    SoundRes (execIndexBulkLoad f src h r s) := by
  refine sound_onMessage (fun s x hs => ?_) hs
  refine sound_settleRead _ _ _ _ _ hs ?_
  split
  · exact sound_settle _ _ (by simp [hs]) (by simp [hs])
  · simp [hs]

theorem sound_execIndexInsert (f : Nat) (src : Src) (h : HostView) (r : HostRead (List Byte)) (hs : (watched s).Sound true) :
    SoundRes (execIndexInsert f src h r s) := by
  refine sound_onMessage (fun s x hs => ?_) hs
  refine sound_settleRead _ _ _ _ _ hs ?_
  split
  · exact sound_settle _ _ (by simp [hs]) (by simp [hs])
  · simp [hs]

theorem sound_execIndexDelete (f : Nat) (src : Src) (h : HostView) (r : HostRead (List Byte)) (hs : (watched s).Sound true) :
    SoundRes (execIndexDelete f src h r s) := by
  refine sound_onMessage (fun s x hs => ?_) hs
  refine sound_settleRead _ _ _ _ _ hs ?_
  split
  · exact sound_settle _ _ (by simp [hs]) (by simp [hs])
  · simp [hs]

theorem sound_execIndexSettle (f : Nat) (src : Src) (hs : (watched s).Sound true) :
    SoundRes (execIndexSettle f src s) := by
  refine sound_onMessage (fun s x hs => ?_) hs
  refine sound_settle _ _ hs ?_
  (repeat' split) <;> simp [hs]

theorem sound_execIndexSnapshot (f : Nat) (src : Src) (h : HostView) (hs : (watched s).Sound true) :
    SoundRes (execIndexSnapshot f src h s) := by
  refine sound_onMessage (fun s x hs => ?_) hs
  refine sound_settle _ _ hs ?_
  (repeat' split) <;> simp [hs]

theorem sound_execIndexDestroy (f : Nat) (src : Src) (hs : (watched s).Sound true) :
    SoundRes (execIndexDestroy f src s) := by
  refine sound_onMessage (fun s x hs => ?_) hs
  simp [hs]

theorem sound_execIndexQuery (f : Nat) (src : Src) (hs : (watched s).Sound true) :
    SoundRes (execIndexQuery f src s) := by
  refine sound_onMessage (fun s x hs => ?_) hs
  (repeat' split) <;> simp [hs]

/-! ### The host's services -/

theorem sound_execTelemetryRead (f : Nat) (src : Src) (h : HostView) (hs : (watched s).Sound true) :
    SoundRes (execTelemetryRead f src h s) := by
  refine sound_onMessage (fun s x hs => ?_) hs
  refine sound_settle _ _ hs ?_
  (repeat' split) <;> simp [hs]

theorem sound_execAccountRead (f : Nat) (src : Src) (h : HostView) (hs : (watched s).Sound true) :
    SoundRes (execAccountRead f src h s) := by
  refine sound_onMessage (fun s x hs => ?_) hs
  simp [hs]

theorem sound_execSafetySelftestRead (f : Nat) (src : Src) (h : HostView) (hs : (watched s).Sound true) :
    SoundRes (execSafetySelftestRead f src h s) := by
  refine sound_onMessage (fun s x hs => ?_) hs
  simp [hs]

theorem sound_execPowerPolicySet (f : Nat) (src : Src) (hs : (watched s).Sound true) :
    SoundRes (execPowerPolicySet f src s) := by
  refine sound_onMessage (fun s x hs => ?_) hs
  simp [hs]

theorem sound_execPowerPolicyGet (f : Nat) (src : Src) (hs : (watched s).Sound true) :
    SoundRes (execPowerPolicyGet f src s) := by
  refine sound_onMessage (fun s x hs => ?_) hs
  simp [hs]

theorem sound_execAmberRead (f : Nat) (src : Src) (h : HostView) (hs : (watched s).Sound true) :
    SoundRes (execAmberRead f src h s) := by
  refine sound_onMessage (fun s x hs => ?_) hs
  simp [hs]

theorem sound_execFwStage (f : Nat) (src : Src) (h : HostView) (r : HostRead (List Byte)) (flashOk : Bool) (hs : (watched s).Sound true) :
    SoundRes (execFwStage f src h r flashOk s) := by
  refine sound_onMessage (fun s x hs => ?_) hs
  (repeat' split) <;> simp [hs]

theorem sound_execFwActivate (f : Nat) (src : Src) (hs : (watched s).Sound true) :
    SoundRes (execFwActivate f src s) := by
  refine sound_onMessage (fun s x hs => ?_) hs
  dsimp only
  (repeat' split) <;> simp [hs]

theorem sound_execAttestMeasurements (f : Nat) (src : Src) (h : HostView) (hs : (watched s).Sound true) :
    SoundRes (execAttestMeasurements f src h s) := by
  refine sound_onMessage (fun s x hs => ?_) hs
  simp [hs]

/-! ### Contracts -/

@[simp] theorem sound_admitContract (f h : Nat) (r : ContractRec) (w : Schedules) (pf : ProofFigures) (shards : List ShardAck)
    (hs : (watched s).Sound deg) :
    (watched (admitContract s f h r w pf shards)).Sound deg := by simp [admitContract, hs]

@[simp] theorem sound_answerOpen (id f addr handle : Nat) (st : Status) (r : ContractRec) (pf : ProofFigures) (p : Proof) (q : Nat × Nat)
    (hs : (watched s).Sound deg) :
    (watched (answerOpen s id f addr handle st r pf p q)).Sound deg := by simp [answerOpen, hs]

@[simp] theorem sound_concludeOpen (po : PendOpen) (hs : (watched s).Sound deg) :
    (watched (concludeOpen s po)).Sound deg := by
  unfold concludeOpen
  dsimp only
  (repeat' split) <;> simp [hs]

@[simp] theorem sound_startOpen (x : MsgCtx) (r : ContractRec) (w : Schedules) (hs : (watched s).Sound deg) :
    (watched (startOpen s x r w)).Sound deg := by simp [startOpen, hs]

theorem sound_execContractOpen (f : Nat) (src : Src) (h : HostView) (r : HostRead (List Byte)) (w : Schedules) (hs : (watched s).Sound true) :
    SoundRes (execContractOpen f src h r w s) := by
  refine sound_onMessage (fun s x hs => ?_) hs
  refine sound_settleRead _ _ _ _ _ hs ?_
  split
  · exact sound_settle _ _ (by simp [hs]) (by simp [hs])
  · simp [hs]

theorem sound_execContractQueryProof (f : Nat) (src : Src) (h : HostView) (hs : (watched s).Sound true) :
    SoundRes (execContractQueryProof f src h s) := by
  refine sound_onMessage (fun s x hs => ?_) hs
  refine sound_settle _ _ hs ?_
  (repeat' split) <;> simp [hs]

@[simp] theorem sound_finishClose (h : Nat) (hs : (watched s).Sound deg) :
    (watched (finishClose s h)).Sound deg := by
  unfold finishClose
  split
  · exact hs
  · split
    · exact hs
    · exact sound_foldl (fun _ w => sound_complete _ _ _ _ _) _ (by simp [hs])

theorem sound_execContractClose (f : Nat) (src : Src) (hs : (watched s).Sound true) :
    SoundRes (execContractClose f src s) := by
  refine sound_onMessage (fun s x hs => ?_) hs
  dsimp only
  refine sound_settle _ _ hs ?_
  simp [hs]

theorem sound_execArrivalTokenAccrual (k : Nat) (hs : (watched s).Sound true) :
    SoundRes (execArrivalTokenAccrual k s) := by simp [execArrivalTokenAccrual, hs]

theorem sound_execPeriodWindowEnd (k : Nat) (hs : (watched s).Sound true) :
    SoundRes (execPeriodWindowEnd k s) := by simp [execPeriodWindowEnd, hs]

theorem sound_execLinkRateFall (rate width : Nat) (hs : (watched s).Sound true) :
    SoundRes (execLinkRateFall rate width s) := by simp [execLinkRateFall, hs]

/-! ### Cases -/

theorem sound_execCaseSubmit (f : Nat) (src : Src) (h : HostView) (r : HostRead (List Byte)) (hs : (watched s).Sound true) :
    SoundRes (execCaseSubmit f src h r s) := by
  refine sound_onMessage (fun s x hs => ?_) hs
  refine sound_settleRead _ _ _ _ _ hs ?_
  split
  · exact sound_settle _ _ (by simp [hs]) (by simp [hs])
  · simp [hs]

theorem sound_execCaseCancel (f : Nat) (src : Src) (hs : (watched s).Sound true) :
    SoundRes (execCaseCancel f src s) := by
  refine sound_onMessage (fun s x hs => ?_) hs
  dsimp only
  refine sound_settle _ _ hs ?_
  simp [hs]

theorem sound_execCaseQuery (f : Nat) (src : Src) (h : HostView) (hs : (watched s).Sound true) :
    SoundRes (execCaseQuery f src h s) := by
  refine sound_onMessage (fun s x hs => ?_) hs
  simp [hs]

/-! ### Stages -/

@[simp] theorem sound_overrunReport (u : UnitId) (w outcome : Nat) (hs : (watched s).Sound deg) :
    (watched (overrunReport s u w outcome)).Sound deg := by simp [overrunReport, hs]

@[simp] theorem sound_noteWait (c : Cmd) (hs : (watched s).Sound deg) :
    (watched (noteWait s c)).Sound deg := by
  unfold noteWait
  split <;> simp [hs]

@[simp] theorem sound_retireCmd (c : Cmd) (hs : (watched s).Sound deg) :
    (watched (retireCmd s c)).Sound deg := by simp [retireCmd, hs]

theorem sound_stageCommit {k : State → Case → Contract → Cmd → State} (key : Nat) (g : Stage) (det : Option Detection)
    (hk : ∀ s c x m, (watched s).Sound deg → (watched (k s c x m)).Sound deg) (hs : (watched s).Sound deg) :
    (watched (stageCommit s key g det k)).Sound deg := by
  unfold stageCommit
  split
  · split
    · split
      · refine sound_commitUnder det _ (fun s hs => ?_) hs
        split
        · exact hk _ _ _ _ hs
        · exact hs
      · exact hs
    · exact hs
  · exact hs

/-! ### Scheduling -/

@[simp] theorem sound_finishBg (b : BgOp) (st : Status) (result : List Byte) (hs : (watched s).Sound deg) :
    (watched (finishBg s b st result)).Sound deg := by
  unfold finishBg
  (repeat' split) <;> simp [hs]

@[simp] theorem sound_commitBg (b : BgOp) (hs : (watched s).Sound deg) :
    (watched (commitBg s b)).Sound deg := by simp [commitBg, hs]

theorem sound_execBackgroundOpCommit (op : Nat) (wr : List DramWrite) (hs : (watched s).Sound true) :
    SoundRes (execBackgroundOpCommit op wr s) := by
  unfold execBackgroundOpCommit
  split <;> simp [hs]

@[simp] theorem sound_yieldCmd (c : Cmd) (hs : (watched s).Sound deg) :
    (watched (yieldCmd s c)).Sound deg := by simp [yieldCmd, hs]

@[simp] theorem sound_yieldAtPoint (c : Cmd) (hs : (watched s).Sound deg) :
    (watched (yieldAtPoint s c)).Sound deg := by
  unfold yieldAtPoint
  split <;> simp [hs]

@[simp] theorem sound_yieldPoints (hs : (watched s).Sound deg) :
    (watched (yieldPoints s)).Sound deg := sound_foldl (fun _ c => sound_yieldAtPoint c) _ hs

theorem sound_execCommandSelection (u : UnitId) (hs : (watched s).Sound true) :
    SoundRes (execCommandSelection u s) := by simp [execCommandSelection, hs]

@[simp] theorem sound_failTile (c : Cmd) (ds : List Detection) (hs : (watched s).Sound deg) :
    (watched (failTile s c ds)).Sound deg := by
  unfold failTile
  split
  · exact hs
  · exact sound_foldl (fun _ d hs => sound_escalate _ _ (by simpa using hs)) _ (sound_dataPath _ _ (sound_noteWait _ hs))

@[simp] theorem sound_passTile (c : Cmd) (u : UnitId) (t : TileRun) (d : TileArea) (hs : (watched s).Sound deg) :
    (watched (passTile s c u t d)).Sound deg := by simp [passTile, hs]

@[simp] theorem sound_endTile (c : Cmd) (u : UnitId) (t : TileRun) (hs : (watched s).Sound deg) :
    (watched (endTile s c u t)).Sound deg := by
  unfold endTile
  dsimp only
  (repeat' split) <;> simp [hs]

theorem sound_execTileEnd (cmd : Nat) (u : UnitId) (t : TileRun) (hs : (watched s).Sound true) :
    SoundRes (execTileEnd cmd u t s) := by
  unfold execTileEnd
  split <;> simp [hs]

theorem sound_execPreemptWdogTimeout (u : UnitId) (hs : (watched s).Sound true) :
    SoundRes (execPreemptWdogTimeout u s) := by
  unfold execPreemptWdogTimeout
  split <;> simp [hs]

theorem sound_execModelSwitchLoadDone (m : Nat) (hs : (watched s).Sound true) :
    SoundRes (execModelSwitchLoadDone m s) := by
  unfold execModelSwitchLoadDone
  split <;> simp [hs]

/-! ### Search -/

theorem sound_execCoarseSearchCommit (cmd : Nat) (det : Option Detection) (hs : (watched s).Sound true) :
    SoundRes (execCoarseSearchCommit cmd det s) := by
  unfold execCoarseSearchCommit
  refine soundRes_next.2 ?_
  split
  · exact hs
  · split
    · exact sound_commitUnder _ _ (fun s hs => by simp [hs]) hs
    · exact hs

theorem sound_execHoldExpiry (c : Nat) (hs : (watched s).Sound true) :
    SoundRes (execHoldExpiry c s) := by simp [execHoldExpiry, hs]

theorem sound_execListPassCommit (cmd : Nat) (ps : List (Nat × Prediction)) (det : Option Detection) (hs : (watched s).Sound true) :
    SoundRes (execListPassCommit cmd ps det s) := by
  unfold execListPassCommit
  refine soundRes_next.2 ?_
  split
  · exact hs
  · split
    · split
      · exact sound_commitUnder _ _ (fun s hs => by simp [hs]) hs
      · exact hs
    · exact hs

/-! ### Intake and encoding -/

@[simp] theorem sound_commitIntake (c : Case) (m : Cmd) (b : List Byte) (wr : List DramWrite) (hs : (watched s).Sound deg) :
    (watched (commitIntake s c m b wr)).Sound deg := by simp [commitIntake, hs]

@[simp] theorem sound_endIntake (key : Nat) (rs : List (HostRead (List Byte))) (wr : List DramWrite) (hs : (watched s).Sound deg) :
    (watched (endIntake s key rs wr)).Sound deg := by
  refine sound_stageCommit _ _ _ (fun s c k m hs => ?_) hs
  dsimp only
  (repeat' split) <;> simp [hs]

theorem sound_execIntakeCommit (c : Nat) (rs : List (HostRead (List Byte))) (wr : List DramWrite) (hs : (watched s).Sound true) :
    SoundRes (execIntakeCommit c rs wr s) := by simp [execIntakeCommit, hs]

@[simp] theorem sound_commitChunk (c : Case) (k : Contract) (m : Cmd) (i : Nat) (hs : (watched s).Sound deg) :
    (watched (commitChunk s c k m i)).Sound deg := by
  unfold commitChunk
  split <;> simp [hs]

theorem sound_execChunkEncodeCommit (c i : Nat) (det : Option Detection) (hs : (watched s).Sound true) :
    SoundRes (execChunkEncodeCommit c i det s) := soundRes_next.2 (sound_stageCommit _ _ _ (fun s c k m hs => by split <;> simp [hs]) hs)

theorem sound_execSummaryPassCommit (c : Nat) (det : Option Detection) (hs : (watched s).Sound true) :
    SoundRes (execSummaryPassCommit c det s) := soundRes_next.2 (sound_stageCommit _ _ _ (fun s c k m hs => by split <;> simp [hs]) hs)

@[simp] theorem sound_commitStage (c : Case) (k : Contract) (m : Cmd) (p : Prediction) (hs : (watched s).Sound deg) :
    (watched (commitStage s c k m p)).Sound deg := by
  unfold commitStage
  split <;> simp [hs]

theorem sound_execCommandCommit (cmd : Nat) (p : Prediction) (wr : List DramWrite) (det : Option Detection) (hs : (watched s).Sound true) :
    SoundRes (execCommandCommit cmd p wr det s) := by
  unfold execCommandCommit
  refine soundRes_next.2 ?_
  split
  · exact hs
  · split
    · exact hs
    · refine sound_stageCommit _ _ _ (fun s c k m hs => ?_) hs
      split <;> simp [hs]

/-! ### Passages -/

theorem sound_execPassageStoreReadComplete (c id : Nat) (r : HostRead (List Byte)) (hs : (watched s).Sound true) :
    SoundRes (execPassageStoreReadComplete c id r s) := by simp [execPassageStoreReadComplete, hs]

theorem sound_execT3BudgetExpiry (c : Nat) (p : Prediction) (hs : (watched s).Sound true) :
    SoundRes (execT3BudgetExpiry c p s) := by
  unfold execT3BudgetExpiry
  (repeat' split) <;> simp [hs]

theorem sound_execT3LatestSwitchPoint (c : Nat) (p : Prediction) (hs : (watched s).Sound true) :
    SoundRes (execT3LatestSwitchPoint c p s) := by
  unfold execT3LatestSwitchPoint
  (repeat' split) <;> simp [hs]

theorem sound_execPassageFetchCommit (c : Nat) (p : Prediction) (hs : (watched s).Sound true) :
    SoundRes (execPassageFetchCommit c p s) := soundRes_next.2 (sound_stageCommit _ _ _ (fun s c k m hs => by split <;> simp [hs]) hs)

@[simp] theorem sound_commitFill (b : BgOp) (x : Index) (p : Passage) (hs : (watched s).Sound deg) :
    (watched (commitFill s b x p)).Sound deg := by simp [commitFill, hs]

theorem sound_execCacheFillCommit (op : Nat) (hs : (watched s).Sound true) :
    SoundRes (execCacheFillCommit op s) := by
  unfold execCacheFillCommit
  (repeat' split) <;> simp [hs]

@[simp] theorem sound_commitBatch (c : Case) (k : Contract) (m : Cmd) (img : ModelImage) (p : Prediction) (hs : (watched s).Sound deg) :
    (watched (commitBatch s c k m img p)).Sound deg := by simp [commitBatch, hs]

theorem sound_execRerankBatchCommit (c : Nat) (p : Prediction) (det : Option Detection) (hs : (watched s).Sound true) :
    SoundRes (execRerankBatchCommit c p det s) := soundRes_next.2 (sound_stageCommit _ _ _ (fun s c k m hs => by (repeat' split) <;> simp [hs]) hs)

@[simp] theorem sound_commitPacking (c : Case) (k : Contract) (m : Cmd) (p : Prediction) (hs : (watched s).Sound deg) :
    (watched (commitPacking s c k m p)).Sound deg := by simp [commitPacking, hs]

theorem sound_execPackingCommit (c : Nat) (p : Prediction) (hs : (watched s).Sound true) :
    SoundRes (execPackingCommit c p s) := soundRes_next.2 (sound_stageCommit _ _ _ (fun s c k m hs => by simp [hs]) hs)

/-! ### Generation -/

@[simp] theorem sound_commitPrefill (c : Case) (k : Contract) (cmd : Cmd) (m : Model) (p : Prediction) (hs : (watched s).Sound deg) :
    (watched (commitPrefill s c k cmd m p)).Sound deg := by simp [commitPrefill, hs]

theorem sound_execPrefillCommit (c : Nat) (p : Prediction) (det : Option Detection) (hs : (watched s).Sound true) :
    SoundRes (execPrefillCommit c p det s) := soundRes_next.2 (sound_stageCommit _ _ _ (fun s c k m hs => by (repeat' split) <;> simp [hs]) hs)

theorem sound_execFileChunkPrefillCommit (c i : Nat) (det : Option Detection) (hs : (watched s).Sound true) :
    SoundRes (execFileChunkPrefillCommit c i det s) := soundRes_next.2 (sound_stageCommit _ _ _ (fun s c k m hs => by split <;> simp [hs]) hs)

@[simp] theorem sound_propose (k : Contract) (c : Case) (cmd : Cmd) (m : Model) (hs : (watched s).Sound deg) :
    (watched (propose s k c cmd m)).Sound deg := by simp [propose, hs]

theorem sound_execDraftStep (c : Nat) (hs : (watched s).Sound true) :
    SoundRes (execDraftStep c s) := by
  unfold execDraftStep
  (repeat' split) <;> simp [hs]

theorem sound_execVerifyPassCommit (cmd : Nat) (ps : List (Nat × Prediction)) (det : Option Detection) (hs : (watched s).Sound true) :
    SoundRes (execVerifyPassCommit cmd ps det s) := by
  unfold execVerifyPassCommit
  refine soundRes_next.2 ?_
  split
  · exact hs
  · split
    · exact sound_commitUnder _ _ (fun s hs => by simp [hs]) hs
    · exact hs

theorem sound_execLayerMoveDone (m layer late : Nat) (hs : (watched s).Sound true) :
    SoundRes (execLayerMoveDone m layer late s) := by
  unfold execLayerMoveDone
  split <;> simp [hs]

/-! ### Results -/

@[simp] theorem sound_freeCase (c : Case) (st : Status) (late : Bool) (hs : (watched s).Sound deg) :
    (watched (freeCase s c st late)).Sound deg := by
  unfold freeCase
  dsimp only
  (repeat' split) <;> simp [hs]

@[simp] theorem sound_issueResult (c : Case) (st : Status) (late ok : Bool) (hs : (watched s).Sound deg) :
    (watched (issueResult s c st late ok)).Sound deg := by simp [issueResult, hs]

theorem sound_execResultRecordIssue (c : Nat) (hs : (watched s).Sound true) :
    SoundRes (execResultRecordIssue c s) := by
  unfold execResultRecordIssue
  (repeat' split) <;> simp [hs]

/-! ### The end of a partition -/

@[simp] theorem sound_cancelNow (c : Case) (hs : (watched s).Sound deg) :
    (watched (cancelNow s c)).Sound deg := by
  unfold cancelNow
  dsimp only
  (repeat' split) <;> simp [hs]

@[simp] theorem sound_destroyPartition (p : Partition) (hs : (watched s).Sound deg) :
    (watched (destroyPartition s p)).Sound deg := by
  have hend := sound_foldl (fun _ c => sound_cancelNow c) (s.cases.filter fun c => c.hd.owner == p.id) hs
  refine sound_settleState ?_
  rw [watched_postPartition, watched_clearAccounts]
  simp [hend]

theorem sound_execPartitionControl (f : Nat) (src : Src) (hs : (watched s).Sound true) :
    SoundRes (execPartitionControl f src s) := by
  refine sound_onMessage (fun s x hs => ?_) hs
  dsimp only
  (repeat' split) <;> simp [hs]

/-! ### Work of a stack -/

@[simp] theorem sound_openAwake (hs : (watched s).Sound deg) :
    (watched (openAwake s)).Sound deg := by
  unfold openAwake
  split
  · exact sound_foldl (fun _ po => sound_concludeOpen po) _ hs
  · exact hs

theorem sound_execCoreReady (core : Nat) (hs : (watched s).Sound true) :
    SoundRes (execCoreReady core s) := by simp [execCoreReady, hs]

@[simp] theorem sound_failOpens (hs : (watched s).Sound deg) :
    (watched (failOpens s)).Sound deg := sound_foldl (fun _ o hs => sound_complete _ _ _ _ _ (by simpa using hs)) _ hs

@[simp] theorem sound_failBgWake (hs : (watched s).Sound deg) :
    (watched (failBgWake s)).Sound deg := by
  unfold failBgWake
  dsimp only
  split
  · refine sound_foldl (fun s b hs => ?_) _ (by simpa using hs)
    split <;> simp [hs]
  · exact hs

@[simp] theorem sound_fenceWake (core : Nat) (hs : (watched s).Sound deg) :
    (watched (fenceWake s core)).Sound deg := by simp [fenceWake, hs]

theorem sound_execHdrSwitchTimeout (core stage : Nat) (hs : (watched s).Sound true) :
    SoundRes (execHdrSwitchTimeout core stage s) := by
  unfold execHdrSwitchTimeout
  refine soundRes_guardUnit _ (soundRes_next.2 ?_)
  split
  · exact sound_failBgWake (sound_failOpens (by simp [hs]))
  · exact hs

theorem sound_execHeaderSwitchReadyLost (core : Nat) (hs : (watched s).Sound true) :
    SoundRes (execHeaderSwitchReadyLost core s) := by simp [execHeaderSwitchReadyLost, hs]

theorem sound_execReserve (p : Nat) (m : StrataMsg) (w : Schedules) (hs : (watched s).Sound true) :
    SoundRes (execReserve p m w s) := sound_strataMsg (fun s hs => by 
    dsimp only
    (repeat' split) <;> simp [hs]) _ _ _ hs

theorem sound_execReserveAck (p : Nat) (m : StrataMsg) (hs : (watched s).Sound true) :
    SoundRes (execReserveAck p m s) := sound_strataMsg (fun s hs => by 
    dsimp only
    (repeat' split) <;> simp [hs]) _ _ _ hs

theorem sound_execReserveTimeout (k : Nat) (hs : (watched s).Sound true) :
    SoundRes (execReserveTimeout k s) := by
  unfold execReserveTimeout
  split <;> simp [hs]

theorem sound_execRelease (p : Nat) (m : StrataMsg) (hs : (watched s).Sound true) :
    SoundRes (execRelease p m s) := sound_strataMsg (fun s hs => by simp [hs]) _ _ _ hs

theorem sound_execSignal (p : Nat) (m : StrataMsg) (hs : (watched s).Sound true) :
    SoundRes (execSignal p m s) := sound_strataMsg (fun s hs => by 
    dsimp only
    (repeat' split) <;> simp [hs]) _ _ _ hs

theorem sound_execDispatch (p : Nat) (m : StrataMsg) (hs : (watched s).Sound true) :
    SoundRes (execDispatch p m s) := by
  refine sound_strataMsg (fun s hs => ?_) _ _ _ hs
  (repeat' split) <;> simp [hs]

theorem sound_execShardResult (p : Nat) (m : StrataMsg) (q : Prediction) (hs : (watched s).Sound true) :
    SoundRes (execShardResult p m q s) := sound_strataMsg (fun s hs => by 
    dsimp only
    (repeat' split) <;> simp [hs]) _ _ _ hs

theorem sound_execKill (p : Nat) (m : StrataMsg) (hs : (watched s).Sound true) :
    SoundRes (execKill p m s) := sound_strataMsg (fun s hs => by 
    dsimp only
    (repeat' split) <;> simp [hs]) _ _ _ hs

/-! ### PCIe -/

/-- The erasure of an owner's messages and waits. -/
theorem sound_eraseMessages (f : Nat) (hs : (watched s).Sound deg) :
    (watched { s with msgs := s.msgs.filter fun m => m.f != f, waits := s.waits.filter fun w => w.owner != f }).Sound deg :=
  sound_filter _ hs

@[simp] theorem sound_eraseWork (f : Nat) (hs : (watched s).Sound deg) : (watched (eraseWork s f)).Sound deg := by
  have hcases : watched (eraseOpens ((s.cases.filter fun c => c.hd.owner == f).foldl eraseCase s) f) = watched s := by simp
  have hfreed := sound_freeObjects f (sound_eraseMessages f (hcases ▸ hs))
  unfold eraseWork
  dsimp only
  split <;> simpa using hfreed

theorem sound_execFlrVf (f : Nat) (hs : (watched s).Sound true) :
    SoundRes (execFlrVf f s) := by
  unfold execFlrVf
  refine soundRes_guardUnit _ (soundRes_next.2 ?_)
  dsimp only
  (repeat' split) <;> simp [hs]

@[simp] theorem sound_eraseParts (hs : (watched s).Sound deg) :
    (watched (eraseParts s)).Sound deg := sound_foldl (fun _ p hs => by simp [hs]) _ hs

@[simp] theorem sound_clearVfs (hs : (watched s).Sound deg) :
    (watched (clearVfs s)).Sound deg := by
  have hreset : (watched ((List.range 33).foldl (fun s f => if f = 0 then s else resetWindow s f false) s)).Sound deg := by
    simpa using hs
  have hkept := sound_filter (fun m => m.f == 0) hreset
  unfold clearVfs
  dsimp only
  split
  · exact sound_eraseParts hkept
  · exact hkept

theorem sound_execVfEnableClear (hs : (watched s).Sound true) :
    SoundRes (execVfEnableClear s) := by simp [execVfEnableClear, hs]

theorem sound_execFlrPf (hs : (watched s).Sound true) :
    SoundRes (execFlrPf s) := by
  unfold execFlrPf
  refine soundRes_next.2 ?_
  split
  · exact hs
  · rw [watched_updMb]
    refine sound_settleState ?_
    rw [watched_updPart]
    exact sound_eraseWork _ (sound_clearVfs (by simpa using hs))

theorem sound_execVfEnableSet (n : Nat) (hs : (watched s).Sound true) :
    SoundRes (execVfEnableSet n s) := by simp [execVfEnableSet, hs]

theorem sound_execD3hotTransition (enter : Bool) (hs : (watched s).Sound true) :
    SoundRes (execD3hotTransition enter s) := by simp [execD3hotTransition, hs]

@[simp] theorem sound_timeOut (d : DmaRef) (hs : (watched s).Sound deg) : (watched (timeOut s d)).Sound deg := by
  unfold timeOut
  (repeat' split) <;> simp [hs]

theorem sound_execDmaCompletionTimeout (d : DmaRef) (hs : (watched s).Sound true) :
    SoundRes (execDmaCompletionTimeout d s) := by simp [execDmaCompletionTimeout, hs]

/-! ### The sideband -/

theorem sound_execId (hs : (watched s).Sound true) :
    SoundRes (execId s) := by simp [execId, hs]

theorem sound_execStatus (hs : (watched s).Sound true) :
    SoundRes (execStatus s) := by simp [execStatus, hs]

theorem sound_execRecorder (hs : (watched s).Sound true) :
    SoundRes (execRecorder s) := by simp [execRecorder, hs]

theorem sound_execAmberSelect (b : List Byte) (pec : Bool) (hs : (watched s).Sound true) :
    SoundRes (execAmberSelect b pec s) := soundRes_next.2 (sound_blockWrite (fun s hs => by simpa using hs) _ _ _ _ hs)

theorem sound_execAmberNext (hs : (watched s).Sound true) :
    SoundRes (execAmberNext s) := by
  unfold execAmberNext
  (repeat' split) <;> simp [hs]

theorem sound_execRetry (b : List Byte) (pec : Bool) (hs : (watched s).Sound true) :
    SoundRes (execRetry b pec s) := soundRes_next.2 (sound_blockWrite (fun s hs => by split <;> simp [hs]) _ _ _ _ hs)

theorem sound_execMctpControl (b : List Byte) (pec : Bool) (hs : (watched s).Sound true) :
    SoundRes (execMctpControl b pec s) := by simp [execMctpControl, hs]

theorem sound_execPldmFirmwareUpdate (q : PldmReq) (hs : (watched s).Sound true) :
    SoundRes (execPldmFirmwareUpdate q s) := by
  unfold execPldmFirmwareUpdate
  (repeat' split) <;> simp [hs]

theorem sound_execPldmPlatformMonitoring (sensor : Nat) (hs : (watched s).Sound true) :
    SoundRes (execPldmPlatformMonitoring sensor s) := by simp [execPldmPlatformMonitoring, hs]

theorem sound_execSpdmRequest (q : SpdmReq) (hs : (watched s).Sound true) :
    SoundRes (execSpdmRequest q s) := by simp [execSpdmRequest, hs]

/-! ## Every step -/

/-- A tick with nothing to do. -/
theorem sound_idleTick (hs : (watched s).Sound deg) : (watched (idleTick s)).Sound deg := by
  unfold idleTick
  split
  · exact hs
  · exact sound_yieldPoints (sound_resolveWaits hs)

theorem sound_exec (c : Instr) (hs : (watched s).Sound true) : SoundRes (exec c s) := by
  cases c with
  | inlPiObserved f => rw [exec_inlPiObserved]; exact sound_execInlPiObserved f hs
  | sqPiObserved f => rw [exec_sqPiObserved]; exact sound_execSqPiObserved f hs
  | cqCiObserved f => rw [exec_cqCiObserved]; exact sound_execCqCiObserved f hs
  | sqEntryFetchComplete f index r => rw [exec_sqEntryFetchComplete]; exact sound_execSqEntryFetchComplete f index r hs
  | mbReset f => rw [exec_mbReset]; exact sound_execMbReset f hs
  | sqEnable f withCq h => rw [exec_sqEnable]; exact sound_execSqEnable f withCq h hs
  | cqEnable f h => rw [exec_cqEnable]; exact sound_execCqEnable f h hs
  | eventPendingClear f mask same => rw [exec_eventPendingClear]; exact sound_execEventPendingClear f mask same hs
  | evtLostRead f same => rw [exec_evtLostRead]; exact sound_execEvtLostRead f same hs
  | complDroppedRead f same => rw [exec_complDroppedRead]; exact sound_execComplDroppedRead f same hs
  | conflictsRead same => rw [exec_conflictsRead]; exact sound_execConflictsRead same hs
  | throtChangesRead same => rw [exec_throtChangesRead]; exact sound_execThrotChangesRead same hs
  | stretchFaultsRead same => rw [exec_stretchFaultsRead]; exact sound_execStretchFaultsRead same hs
  | minRearm => rw [exec_minRearm]; exact sound_execMinRearm hs
  | registerWrite f win off val => rw [exec_registerWrite]; exact sound_execRegisterWrite f win off val hs
  | modTimeExpiry f => rw [exec_modTimeExpiry]; exact sound_execModTimeExpiry f hs
  | partitionCreate f src => rw [exec_partitionCreate]; exact sound_execPartitionCreate f src hs
  | partitionSetQuota f src => rw [exec_partitionSetQuota]; exact sound_execPartitionSetQuota f src hs
  | partitionControl f src => rw [exec_partitionControl]; exact sound_execPartitionControl f src hs
  | partitionQuery f src h => rw [exec_partitionQuery]; exact sound_execPartitionQuery f src h hs
  | modelLoad f src h r => rw [exec_modelLoad]; exact sound_execModelLoad f src h r hs
  | modelPin f src => rw [exec_modelPin]; exact sound_execModelPin f src hs
  | modelEvict f src => rw [exec_modelEvict]; exact sound_execModelEvict f src hs
  | tableCreate f src => rw [exec_tableCreate]; exact sound_execTableCreate f src hs
  | tableLoad f src h r => rw [exec_tableLoad]; exact sound_execTableLoad f src h r hs
  | tableDestroy f src => rw [exec_tableDestroy]; exact sound_execTableDestroy f src hs
  | indexCreate f src => rw [exec_indexCreate]; exact sound_execIndexCreate f src hs
  | indexBulkLoad f src h r => rw [exec_indexBulkLoad]; exact sound_execIndexBulkLoad f src h r hs
  | indexInsert f src h r => rw [exec_indexInsert]; exact sound_execIndexInsert f src h r hs
  | indexDelete f src h r => rw [exec_indexDelete]; exact sound_execIndexDelete f src h r hs
  | indexSettle f src => rw [exec_indexSettle]; exact sound_execIndexSettle f src hs
  | indexSnapshot f src h => rw [exec_indexSnapshot]; exact sound_execIndexSnapshot f src h hs
  | indexDestroy f src => rw [exec_indexDestroy]; exact sound_execIndexDestroy f src hs
  | indexQuery f src => rw [exec_indexQuery]; exact sound_execIndexQuery f src hs
  | prefixRegister f src h r => rw [exec_prefixRegister]; exact sound_execPrefixRegister f src h r hs
  | prefixRelease f src => rw [exec_prefixRelease]; exact sound_execPrefixRelease f src hs
  | contractOpen f src h r w => rw [exec_contractOpen]; exact sound_execContractOpen f src h r w hs
  | contractQueryProof f src h => rw [exec_contractQueryProof]; exact sound_execContractQueryProof f src h hs
  | contractClose f src => rw [exec_contractClose]; exact sound_execContractClose f src hs
  | caseSubmit f src h r => rw [exec_caseSubmit]; exact sound_execCaseSubmit f src h r hs
  | caseCancel f src => rw [exec_caseCancel]; exact sound_execCaseCancel f src hs
  | caseQuery f src h => rw [exec_caseQuery]; exact sound_execCaseQuery f src h hs
  | cairnAlloc f src => rw [exec_cairnAlloc]; exact sound_execCairnAlloc f src hs
  | cairnFree f src => rw [exec_cairnFree]; exact sound_execCairnFree f src hs
  | cairnSignal f src => rw [exec_cairnSignal]; exact sound_execCairnSignal f src hs
  | cairnWaitArm f src => rw [exec_cairnWaitArm]; exact sound_execCairnWaitArm f src hs
  | cairnQuery f src => rw [exec_cairnQuery]; exact sound_execCairnQuery f src hs
  | telemetryRead f src h => rw [exec_telemetryRead]; exact sound_execTelemetryRead f src h hs
  | accountRead f src h => rw [exec_accountRead]; exact sound_execAccountRead f src h hs
  | safetySelftestRead f src h => rw [exec_safetySelftestRead]; exact sound_execSafetySelftestRead f src h hs
  | safetyInject f src => rw [exec_safetyInject]; exact sound_execSafetyInject f src hs
  | safetyFence f src testOk => rw [exec_safetyFence]; exact sound_execSafetyFence f src testOk hs
  | safetyHoldRelease f src failed => rw [exec_safetyHoldRelease]; exact sound_execSafetyHoldRelease f src failed hs
  | powerPolicySet f src => rw [exec_powerPolicySet]; exact sound_execPowerPolicySet f src hs
  | powerPolicyGet f src => rw [exec_powerPolicyGet]; exact sound_execPowerPolicyGet f src hs
  | amberRead f src h => rw [exec_amberRead]; exact sound_execAmberRead f src h hs
  | fwStage f src h r flashOk => rw [exec_fwStage]; exact sound_execFwStage f src h r flashOk hs
  | fwActivate f src => rw [exec_fwActivate]; exact sound_execFwActivate f src hs
  | attestMeasurements f src h => rw [exec_attestMeasurements]; exact sound_execAttestMeasurements f src h hs
  | backgroundOpCommit op wr => rw [exec_backgroundOpCommit]; exact sound_execBackgroundOpCommit op wr hs
  | commandSelection u => rw [exec_commandSelection]; exact sound_execCommandSelection u hs
  | tileEnd cmd u t => rw [exec_tileEnd]; exact sound_execTileEnd cmd u t hs
  | commandCommit cmd p wr det => rw [exec_commandCommit]; exact sound_execCommandCommit cmd p wr det hs
  | preemptWdogTimeout u => rw [exec_preemptWdogTimeout]; exact sound_execPreemptWdogTimeout u hs
  | modelSwitchLoadDone m => rw [exec_modelSwitchLoadDone]; exact sound_execModelSwitchLoadDone m hs
  | layerMoveDone m layer late => rw [exec_layerMoveDone]; exact sound_execLayerMoveDone m layer late hs
  | intakeCommit c rs wr => rw [exec_intakeCommit]; exact sound_execIntakeCommit c rs wr hs
  | chunkEncodeCommit c chunk det => rw [exec_chunkEncodeCommit]; exact sound_execChunkEncodeCommit c chunk det hs
  | summaryPassCommit c det => rw [exec_summaryPassCommit]; exact sound_execSummaryPassCommit c det hs
  | coarseSearchCommit cmd det => rw [exec_coarseSearchCommit]; exact sound_execCoarseSearchCommit cmd det hs
  | holdExpiry c => rw [exec_holdExpiry]; exact sound_execHoldExpiry c hs
  | listPassCommit cmd ps det => rw [exec_listPassCommit]; exact sound_execListPassCommit cmd ps det hs
  | passageStoreReadComplete c id r => rw [exec_passageStoreReadComplete]; exact sound_execPassageStoreReadComplete c id r hs
  | t3BudgetExpiry c p => rw [exec_t3BudgetExpiry]; exact sound_execT3BudgetExpiry c p hs
  | t3LatestSwitchPoint c p => rw [exec_t3LatestSwitchPoint]; exact sound_execT3LatestSwitchPoint c p hs
  | passageFetchCommit c p => rw [exec_passageFetchCommit]; exact sound_execPassageFetchCommit c p hs
  | cacheFillCommit op => rw [exec_cacheFillCommit]; exact sound_execCacheFillCommit op hs
  | rerankBatchCommit c p det => rw [exec_rerankBatchCommit]; exact sound_execRerankBatchCommit c p det hs
  | packingCommit c p => rw [exec_packingCommit]; exact sound_execPackingCommit c p hs
  | prefillCommit c p det => rw [exec_prefillCommit]; exact sound_execPrefillCommit c p det hs
  | fileChunkPrefillCommit c chunk det => rw [exec_fileChunkPrefillCommit]; exact sound_execFileChunkPrefillCommit c chunk det hs
  | draftStep c => rw [exec_draftStep]; exact sound_execDraftStep c hs
  | verifyPassCommit cmd ps det => rw [exec_verifyPassCommit]; exact sound_execVerifyPassCommit cmd ps det hs
  | resultRecordIssue c => rw [exec_resultRecordIssue]; exact sound_execResultRecordIssue c hs
  | arrivalTokenAccrual k => rw [exec_arrivalTokenAccrual]; exact sound_execArrivalTokenAccrual k hs
  | periodWindowEnd k => rw [exec_periodWindowEnd]; exact sound_execPeriodWindowEnd k hs
  | cairnWaitTimeout w => rw [exec_cairnWaitTimeout]; exact sound_execCairnWaitTimeout w hs
  | linkRateFall rate width => rw [exec_linkRateFall]; exact sound_execLinkRateFall rate width hs
  | voltMon g mv high => rw [exec_voltMon]; exact sound_execVoltMon g mv high hs
  | stretchBudgetFault g region => rw [exec_stretchBudgetFault]; exact sound_execStretchBudgetFault g region hs
  | railMon rail word => rw [exec_railMon]; exact sound_execRailMon rail word hs
  | lockstepMismatch pairB pos pc => rw [exec_lockstepMismatch]; exact sound_execLockstepMismatch pairB pos pc hs
  | fwWdog pairB task => rw [exec_fwWdog]; exact sound_execFwWdog pairB task hs
  | clockMon domain dev => rw [exec_clockMon]; exact sound_execClockMon domain dev hs
  | clockRelockAttempt ok => rw [exec_clockRelockAttempt]; exact sound_execClockRelockAttempt ok hs
  | diagnosticSweepTick flagged => rw [exec_diagnosticSweepTick]; exact sound_execDiagnosticSweepTick flagged hs
  | haltReqNChange level => rw [exec_haltReqNChange]; exact sound_execHaltReqNChange level hs
  | haltReqNRearmExpiry => rw [exec_haltReqNRearmExpiry]; exact sound_execHaltReqNRearmExpiry hs
  | throtNChange level => rw [exec_throtNChange]; exact sound_execThrotNChange level hs
  | syncInEdge ts => rw [exec_syncInEdge]; exact sound_execSyncInEdge ts hs
  | syncOutPulseStart => rw [exec_syncOutPulseStart]; exact sound_execSyncOutPulseStart hs
  | syncOutPulseEnd => rw [exec_syncOutPulseEnd]; exact sound_execSyncOutPulseEnd hs
  | dividerDwellEnd g ma => rw [exec_dividerDwellEnd]; exact sound_execDividerDwellEnd g ma hs
  | voltageStepAck rail => rw [exec_voltageStepAck]; exact sound_execVoltageStepAck rail hs
  | voltageStepTimeout rail => rw [exec_voltageStepTimeout]; exact sound_execVoltageStepTimeout rail hs
  | minSenseLoopPeriod g ma rd => rw [exec_minSenseLoopPeriod]; exact sound_execMinSenseLoopPeriod g ma rd hs
  | unmatchedFall g region mv => rw [exec_unmatchedFall]; exact sound_execUnmatchedFall g region mv hs
  | powerCapEvaluation energyUj avgMw maxMw => rw [exec_powerCapEvaluation]; exact sound_execPowerCapEvaluation energyUj avgMw maxMw hs
  | capCalibration estMw teleMw => rw [exec_capCalibration]; exact sound_execCapCalibration estMw teleMw hs
  | thermalSensorRead temps => rw [exec_thermalSensorRead]; exact sound_execThermalSensorRead temps hs
  | thermalThrottleStep g => rw [exec_thermalThrottleStep]; exact sound_execThermalThrottleStep g hs
  | coreReady core => rw [exec_coreReady]; exact sound_execCoreReady core hs
  | hdrSwitchTimeout core stage => rw [exec_hdrSwitchTimeout]; exact sound_execHdrSwitchTimeout core stage hs
  | headerSwitchReadyLost core => rw [exec_headerSwitchReadyLost]; exact sound_execHeaderSwitchReadyLost core hs
  | dozeEntry => rw [exec_dozeEntry]; exact sound_execDozeEntry hs
  | dieRegate g => rw [exec_dieRegate]; exact sound_execDieRegate g hs
  | patrolScrubTick t reads => rw [exec_patrolScrubTick]; exact sound_execPatrolScrubTick t reads hs
  | scrubPassStart t => rw [exec_scrubPassStart]; exact sound_execScrubPassStart t hs
  | channelReadTimeout t ch => rw [exec_channelReadTimeout]; exact sound_execChannelReadTimeout t ch hs
  | retrainEnd t ch ok => rw [exec_retrainEnd]; exact sound_execRetrainEnd t ch ok hs
  | atsInvalidation f lo hi => rw [exec_atsInvalidation]; exact sound_execAtsInvalidation f lo hi hs
  | dmaCompletionTimeout d => rw [exec_dmaCompletionTimeout]; exact sound_execDmaCompletionTimeout d hs
  | cableInsertion p eeprom => rw [exec_cableInsertion]; exact sound_execCableInsertion p eeprom hs
  | linkTrainingAttempt p => rw [exec_linkTrainingAttempt]; exact sound_execLinkTrainingAttempt p hs
  | trainingStepTimeout p step => rw [exec_trainingStepTimeout]; exact sound_execTrainingStepTimeout p step hs
  | trainingRetryTimer p => rw [exec_trainingRetryTimer]; exact sound_execTrainingRetryTimer p hs
  | linkFlit p fl => rw [exec_linkFlit]; exact sound_execLinkFlit p fl hs
  | dataFlit p fl => rw [exec_dataFlit]; exact sound_execDataFlit p fl hs
  | idleFlit p fl => rw [exec_idleFlit]; exact sound_execIdleFlit p fl hs
  | nakFlit p fl => rw [exec_nakFlit]; exact sound_execNakFlit p fl hs
  | lossOfSignal p => rw [exec_lossOfSignal]; exact sound_execLossOfSignal p hs
  | cblIntN p => rw [exec_cblIntN]; exact sound_execCblIntN p hs
  | memberSilentTimeout pos => rw [exec_memberSilentTimeout]; exact sound_execMemberSilentTimeout pos hs
  | formationQuietTimeout shape members => rw [exec_formationQuietTimeout]; exact sound_execFormationQuietTimeout shape members hs
  | hello p m => rw [exec_hello]; exact sound_execHello p m hs
  | form p m => rw [exec_form]; exact sound_execForm p m hs
  | linkState p m => rw [exec_linkState]; exact sound_execLinkState p m hs
  | ack p m => rw [exec_ack]; exact sound_execAck p m hs
  | reserve p m w => rw [exec_reserve]; exact sound_execReserve p m w hs
  | reserveAck p m => rw [exec_reserveAck]; exact sound_execReserveAck p m hs
  | reserveTimeout k => rw [exec_reserveTimeout]; exact sound_execReserveTimeout k hs
  | release p m => rw [exec_release]; exact sound_execRelease p m hs
  | signal p m => rw [exec_signal]; exact sound_execSignal p m hs
  | vote p m => rw [exec_vote]; exact sound_execVote p m hs
  | voteTimeout txn => rw [exec_voteTimeout]; exact sound_execVoteTimeout txn hs
  | decide p m => rw [exec_decide]; exact sound_execDecide p m hs
  | decisionWaitTimeout txn => rw [exec_decisionWaitTimeout]; exact sound_execDecisionWaitTimeout txn hs
  | decisionQuery p m => rw [exec_decisionQuery]; exact sound_execDecisionQuery p m hs
  | dispatch p m => rw [exec_dispatch]; exact sound_execDispatch p m hs
  | shardResult p m q => rw [exec_shardResult]; exact sound_execShardResult p m q hs
  | partialMsg p m => rw [exec_partialMsg]; exact sound_execPartialMsg p m hs
  | kill p m => rw [exec_kill]; exact sound_execKill p m hs
  | throttleAdvise p m => rw [exec_throttleAdvise]; exact sound_execThrottleAdvise p m hs
  | syncExchangeTimer => rw [exec_syncExchangeTimer]; exact sound_execSyncExchangeTimer hs
  | syncReq p m t2 t3 => rw [exec_syncReq]; exact sound_execSyncReq p m t2 t3 hs
  | syncResp p m t4 => rw [exec_syncResp]; exact sound_execSyncResp p m t4 hs
  | bulk p m => rw [exec_bulk]; exact sound_execBulk p m hs
  | unknownMessageType p m => rw [exec_unknownMessageType]; exact sound_execUnknownMessageType p m hs
  | auxPowerOn epochOk => rw [exec_auxPowerOn]; exact sound_execAuxPowerOn epochOk hs
  | auxPowerLost => rw [exec_auxPowerLost]; exact sound_execAuxPowerLost hs
  | mainPowerPresent => rw [exec_mainPowerPresent]; exact sound_execMainPowerPresent hs
  | mainPowerLost => rw [exec_mainPowerLost]; exact sound_execMainPowerLost hs
  | railPowerGood rail => rw [exec_railPowerGood]; exact sound_execRailPowerGood rail hs
  | powerGoodTimeout rail => rw [exec_powerGoodTimeout]; exact sound_execPowerGoodTimeout rail hs
  | oscillatorStable => rw [exec_oscillatorStable]; exact sound_execOscillatorStable hs
  | pllLock => rw [exec_pllLock]; exact sound_execPllLock hs
  | refclkTimeout pll => rw [exec_refclkTimeout]; exact sound_execRefclkTimeout pll hs
  | attemptRetryWaitExpiry => rw [exec_attemptRetryWaitExpiry]; exact sound_execAttemptRetryWaitExpiry hs
  | perstAssert => rw [exec_perstAssert]; exact sound_execPerstAssert hs
  | perstDeassert => rw [exec_perstDeassert]; exact sound_execPerstDeassert hs
  | bootVerifyComplete => rw [exec_bootVerifyComplete]; exact sound_execBootVerifyComplete hs
  | memoryTrainingComplete failed => rw [exec_memoryTrainingComplete]; exact sound_execMemoryTrainingComplete failed hs
  | memoryInitComplete bad failed => rw [exec_memoryInitComplete]; exact sound_execMemoryInitComplete bad failed hs
  | trialBootTimeout => rw [exec_trialBootTimeout]; exact sound_execTrialBootTimeout hs
  | flrVf f => rw [exec_flrVf]; exact sound_execFlrVf f hs
  | flrPf => rw [exec_flrPf]; exact sound_execFlrPf hs
  | vfEnableClear => rw [exec_vfEnableClear]; exact sound_execVfEnableClear hs
  | vfEnableSet n => rw [exec_vfEnableSet]; exact sound_execVfEnableSet n hs
  | d3hotTransition enter => rw [exec_d3hotTransition]; exact sound_execD3hotTransition enter hs
  | amberRingWrite => rw [exec_amberRingWrite]; exact sound_execAmberRingWrite hs
  | amberPersistentAppend ok => rw [exec_amberPersistentAppend]; exact sound_execAmberPersistentAppend ok hs
  | id => rw [exec_id]; exact sound_execId hs
  | status => rw [exec_status]; exact sound_execStatus hs
  | recorder => rw [exec_recorder]; exact sound_execRecorder hs
  | amberSelect b pec => rw [exec_amberSelect]; exact sound_execAmberSelect b pec hs
  | amberNext => rw [exec_amberNext]; exact sound_execAmberNext hs
  | retry b pec => rw [exec_retry]; exact sound_execRetry b pec hs
  | mctpControl b pec => rw [exec_mctpControl]; exact sound_execMctpControl b pec hs
  | pldmFirmwareUpdate q => rw [exec_pldmFirmwareUpdate]; exact sound_execPldmFirmwareUpdate q hs
  | pldmPlatformMonitoring sensor => rw [exec_pldmPlatformMonitoring]; exact sound_execPldmPlatformMonitoring sensor hs
  | spdmRequest q => rw [exec_spdmRequest]; exact sound_execSpdmRequest q hs
  | clockStretchStart g region => rw [exec_clockStretchStart]; exact sound_execClockStretchStart g region hs
  | clockStretchEnd g => rw [exec_clockStretchEnd]; exact sound_execClockStretchEnd g hs
  | setpointRaiseExpiry g => rw [exec_setpointRaiseExpiry]; exact sound_execSetpointRaiseExpiry g hs
  | undervoltagePersistence g => rw [exec_undervoltagePersistence]; exact sound_execUndervoltagePersistence g hs
  | cableRemoval p => rw [exec_cableRemoval]; exact sound_execCableRemoval p hs

theorem sound_step (hs : (watched s).Sound true) : SoundRes (step s) := by
  unfold step
  split
  · exact soundRes_next.2 (sound_idleTick hs)
  · exact sound_exec _ hs

/-- Settles O58: the invariant speaks of the watched parts alone, and every command keeps it. -/
theorem everyStepKeepsTheInvariant : Obligations.EveryStepKeepsTheInvariant := by
  unfold Obligations.EveryStepKeepsTheInvariant
  intro s t hfresh hpins hdeg hstep
  exact (sound_watched_iff t).1 (sound_step ((sound_watched_iff s).2 ⟨hfresh, hpins, hdeg⟩) t hstep)

end Sys2Proof.Machine

end

section
/-! PROOFS. The commit of a stage: what a retired command leaves, and what the end of a stage does to its case (R10, R121, R145,
R147). -/

namespace Sys2Proof.Machine

/-! ## One record of a list -/

/-- A change of some records, seen through a search that cannot tell them from the changed ones. -/
theorem find?_modifyWhere {α : Type} (l : List α) (p q : α → Bool) (g : α → α) (hq : ∀ x, p x = true → q (g x) = q x) :
    (modifyWhere l p g).find? q = (l.find? q).map fun x => if p x then g x else x := by
  have hsame : (q ∘ fun x => if p x then g x else x) = q := by
    funext x
    dsimp only [Function.comp]
    split
    · exact hq x ‹_›
    · rfl
  rw [modifyWhere, List.find?_map, hsame]

theorem key_of_caseOf {s : State} {key : Nat} {c : Case} (h : caseOf s key = some c) : c.hd.key = key := by
  simpa using List.find?_some h

/-- A change of a case that keeps its head is seen under its own key. -/
theorem caseOf_updCase_self (s : State) (key : Nat) {g : Case → Case} (hg : ∀ c, (g c).hd = c.hd) :
    caseOf (updCase s key g) key = (caseOf s key).map g := by
  rw [caseOf, updCase, find?_modifyWhere _ _ _ _ fun c _ => by rw [hg]]
  refine Option.map_congr fun c hc => ?_
  rw [if_pos (List.find?_some hc)]

/-- It is seen under no other key. -/
theorem caseOf_updCase_of_ne (s : State) {key j : Nat} {g : Case → Case} (hg : ∀ c, (g c).hd = c.hd) (h : j ≠ key) :
    caseOf (updCase s key g) j = caseOf s j := by
  rw [caseOf, updCase, find?_modifyWhere _ _ _ _ fun c _ => by rw [hg]]
  refine (Option.map_congr fun c hc => ?_).trans Option.map_id'
  have hj := List.find?_some hc
  rw [if_neg fun hk => h ((beq_iff_eq.1 hj).symm.trans (beq_iff_eq.1 hk))]

/-! ## What a retired command leaves -/

/-- Only what the scheduler, the power unit and the partitions' telemetry hold has changed. -/
def Retires (s t : State) : Prop :=
  t = { s with parts := t.parts, sched := t.sched, power := t.power } ∧ ∀ f, partPasid t f = partPasid s f

theorem Retires.refl (s : State) : Retires s s := ⟨rfl, fun _ => rfl⟩

theorem Retires.trans {a b c : State} (h : Retires a b) (k : Retires b c) : Retires a c := by
  obtain ⟨hab, hpab⟩ := h
  obtain ⟨hbc, hpbc⟩ := k
  exact ⟨by rw [hbc, hab], fun f => (hpbc f).trans (hpab f)⟩

theorem retires_updSched (s : State) (g : Sched → Sched) : Retires s (updSched s g) := ⟨rfl, fun _ => rfl⟩

theorem retires_updPower (s : State) (g : Power → Power) : Retires s (updPower s g) := ⟨rfl, fun _ => rfl⟩

theorem retires_updDie (s : State) (i : Nat) (g : Die → Die) : Retires s (updDie s i g) := ⟨rfl, fun _ => rfl⟩

theorem retires_updCmd (s : State) (i : Nat) (g : Cmd → Cmd) : Retires s (updCmd s i g) := ⟨rfl, fun _ => rfl⟩

/-- A partition's telemetry is no part of its configuration. -/
theorem retires_updStats (s : State) (i : Nat) (g : PartStats → PartStats) : Retires s (updStats s i g) := by
  refine ⟨rfl, fun f => ?_⟩
  have hpart : partOf (updStats s i g) f =
      (partOf s f).map fun p => if p.id == i then { p with stats := g p.stats } else p :=
    find?_modifyWhere _ _ _ _ fun _ _ => rfl
  rw [partPasid, partPasid, hpart]
  cases partOf s f with
  | none => rfl
  | some p =>
    rw [Option.map_some]
    dsimp only
    split <;> rfl

theorem retires_foldl {α : Type} {g : State → α → State} (hg : ∀ s a, Retires s (g s a)) (l : List α) (s : State) :
    Retires s (l.foldl g s) := by
  induction l generalizing s with
  | nil => exact Retires.refl s
  | cons a l ih => exact (hg s a).trans (ih _)

theorem retires_noteBlock (s : State) (c : Cmd) : Retires s (noteBlock s c) :=
  retires_foldl (fun s _ => retires_updStats s _ _) _ s

theorem retires_setVTime (s : State) (owner level : Nat) (q : Nat × Nat) : Retires s (setVTime s owner level q) := ⟨rfl, fun _ => rfl⟩

theorem retires_raiseVTime (s : State) (owner level : Nat) : Retires s (raiseVTime s owner level) := by
  unfold raiseVTime raiseAmong
  split
  · exact Retires.refl s
  · split
    · exact Retires.refl s
    · dsimp only
      split
      · exact retires_setVTime s _ _ _
      · exact Retires.refl s

theorem retires_addVTime (s : State) (owner level n : Nat) : Retires s (addVTime s owner level n) := by
  unfold addVTime
  dsimp only
  split
  · exact Retires.refl s
  · exact retires_setVTime s _ _ _

theorem retires_chargeCmd (s : State) (c : Cmd) : Retires s (chargeCmd s c) := by
  unfold chargeCmd
  split
  · exact Retires.refl s
  · exact ((retires_updSched s _).trans (retires_addVTime _ _ _ _)).trans (retires_updCmd _ _ _)

theorem retires_chargeLoad (s : State) : Retires s (chargeLoad s) := by
  unfold chargeLoad
  split
  · exact Retires.refl s
  · exact ((retires_updSched s _).trans (retires_addVTime _ _ _ _)).trans (retires_updSched _ _)

theorem retires_inForce (s : State) (g : Nat) : Retires s (inForce s g) := by
  unfold inForce
  dsimp only
  split
  · split
    · exact ((retires_foldl retires_chargeCmd _ s).trans (retires_chargeLoad _)).trans (retires_updDie _ _ _)
    · exact Retires.refl s
  · exact Retires.refl s

theorem retires_adoptIdle (s : State) : Retires s (adoptIdle s) :=
  retires_foldl (fun s g => (retires_updDie s g _).trans (retires_inForce _ g)) _ s

theorem retires_dropCmds (s : State) (ids : List Nat) : Retires s (dropCmds s ids) :=
  ((retires_foldl (fun s c => (retires_chargeCmd s c).trans (retires_noteBlock _ c)) _ s).trans
    ((retires_updSched _ _).trans (retires_updSched _ _))).trans (retires_adoptIdle _)

theorem retires_dropLayers (s : State) (h : Option Nat) : Retires s (dropLayers s h) := by
  unfold dropLayers
  split
  · exact retires_updSched s _
  · exact Retires.refl s

/-- The wait of a command whose engines came free in time is noted, and nothing is reported. -/
theorem retires_noteWait {s : State} {m : Cmd} (h : OnTime s m) : Retires s (noteWait s m) := by
  unfold noteWait
  dsimp only
  split
  · exact retires_noteBlock s m
  · rename_i t ht
    have hclk : (noteBlock s m).tclk = s.tclk := by rw [(retires_noteBlock s m).1]
    rw [hclk, if_neg (Nat.not_lt.2 (h t ht))]
    exact retires_noteBlock s m

theorem retires_retireCmd {s : State} {m : Cmd} (h : OnTime s m) : Retires s (retireCmd s m) :=
  ((retires_noteWait h).trans (retires_dropLayers _ _)).trans (retires_dropCmds _ _)

theorem retires_readyAgain (s : State) (c : Cmd) (g : Cmd → Cmd) : Retires s (readyAgain s c g) := by
  have hcharged := (((retires_chargeCmd s c).trans (retires_noteBlock _ c)).trans
    (retires_raiseVTime _ c.owner c.level)).trans (retires_updCmd _ c.id g)
  refine (hcharged.trans ?_).trans (retires_adoptIdle _)
  split
  · exact retires_updSched _ _
  · exact Retires.refl _

theorem retires_dropCase (s : State) (key : Nat) : Retires s (dropCase s key) :=
  (retires_dropCmds s _).trans (retires_foldl (fun s c => retires_readyAgain s c _) _ _)

end Sys2Proof.Machine
end

section
/-! PROOFS. The state in which a stage commits, and the end of the stage (R10, R121 to R123, R145, R147). -/

namespace Sys2Proof.Machine

/-! ## Full writes -/

/-- A full write decodes nothing: it changes memory alone. -/
theorem dramWrite_of_full (s : State) {w : DramWrite} (hw : w.full = true) : dramWrite s w = { s with mem := (dramWrite s w).mem } := by
  unfold dramWrite
  dsimp only
  rw [if_pos hw]
  split <;> rfl

theorem dramWrite_mem_congr {s t : State} {w : DramWrite} (hw : w.full = true) (h : t.mem = s.mem) :
    (dramWrite t w).mem = (dramWrite s w).mem := by
  have hsyn : granuleSyn t w.tier w.frame w.granule = granuleSyn s w.tier w.frame w.granule := by rw [granuleSyn, granuleSyn, h]
  unfold dramWrite
  dsimp only
  rw [if_pos hw, if_pos hw, hsyn]
  split <;> simp only [setSyn, h]

theorem dramWrites_of_full (s : State) {ws : List DramWrite} (hw : ∀ w ∈ ws, w.full = true) :
    dramWrites s ws = { s with mem := (dramWrites s ws).mem } := by
  induction ws generalizing s with
  | nil => rfl
  | cons w ws ih =>
    obtain ⟨hfirst, hrest⟩ := List.forall_mem_cons.1 hw
    change dramWrites (dramWrite s w) ws = { s with mem := (dramWrites (dramWrite s w) ws).mem }
    rw [ih _ hrest, dramWrite_of_full s hfirst]

theorem dramWrites_mem_congr {s t : State} {ws : List DramWrite} (hw : ∀ w ∈ ws, w.full = true) (h : t.mem = s.mem) :
    (dramWrites t ws).mem = (dramWrites s ws).mem := by
  induction ws generalizing s t with
  | nil => exact h
  | cons w ws ih =>
    obtain ⟨hfirst, hrest⟩ := List.forall_mem_cons.1 hw
    exact ih hrest (dramWrite_mem_congr hfirst h)

/-! ## The state in which a stage of a case commits -/

/-- On the way from `s` to the end of the case's stage: the command is retired, the results so far stand in the case, now `y`, and in
memory; no other case has changed. -/
structure CommitState (s u : State) (c y : Case) : Prop where
  frame : u = { s with parts := u.parts, sched := u.sched, power := u.power, mem := u.mem, out := u.out, cases := u.cases }
  pasid : ∀ f, partPasid u f = partPasid s f
  self : caseOf u c.hd.key = some y
  other : ∀ j, j ≠ c.hd.key → caseOf u j = caseOf s j
  kept : y = { c with enc := y.enc, srch := y.srch, pass := y.pass, gen := y.gen, sats := y.sats }

namespace CommitState

variable {s u v : State} {c y : Case} {m : Cmd}

theorem refl (h : caseOf s c.hd.key = some c) : CommitState s s c c := ⟨rfl, fun _ => rfl, h, fun _ _ => rfl, rfl⟩

theorem tclk_eq (h : CommitState s u c y) : u.tclk = s.tclk := by rw [h.frame]

theorem cairns_eq (h : CommitState s u c y) : u.cairns = s.cairns := by rw [h.frame]

theorem contracts_eq (h : CommitState s u c y) : u.contracts = s.contracts := by rw [h.frame]

theorem hd_eq (h : CommitState s u c y) : y.hd = c.hd := by rw [h.kept]

theorem stage_eq (h : CommitState s u c y) : y.stage = c.stage := by rw [h.kept]

theorem onTime (h : CommitState s u c y) (ht : OnTime s m) : OnTime u m := by
  intro t hpre
  rw [h.tclk_eq]
  exact ht t hpre

theorem retires (h : CommitState s u c y) (hr : Retires u v) : CommitState s v c y := by
  obtain ⟨hframe, hpasid⟩ := hr
  have hcases : v.cases = u.cases := by rw [hframe]
  refine ⟨by rw [hframe, h.frame], fun f => (hpasid f).trans (h.pasid f), ?_, fun j hj => ?_, h.kept⟩
  · rw [caseOf, hcases]
    exact h.self
  · rw [caseOf, hcases]
    exact h.other j hj

theorem retireCmd (h : CommitState s u c y) (ht : OnTime s m) : CommitState s (retireCmd u m) c y :=
  h.retires (retires_retireCmd (h.onTime ht))

/-- What leaves the module and what memory holds are not the case's. -/
theorem mem_out (h : CommitState s u c y) (hv : v = { u with mem := v.mem, out := v.out }) : CommitState s v c y := by
  refine ⟨by rw [hv, h.frame], fun f => ?_, ?_, fun j hj => ?_, h.kept⟩
  · rw [hv]
    exact h.pasid f
  · rw [hv]
    exact h.self
  · rw [hv]
    exact h.other j hj

theorem updCase {g : Case → Case} (h : CommitState s u c y)
    (hg : ∀ z, g z = { z with enc := (g z).enc, srch := (g z).srch, pass := (g z).pass, gen := (g z).gen, sats := (g z).sats }) :
    CommitState s (updCase u c.hd.key g) c (g y) := by
  have hhd (z : Case) : (g z).hd = z.hd := by rw [hg z]
  refine ⟨by rw [Machine.updCase, h.frame], fun f => h.pasid f, ?_, fun j hj => ?_, ?_⟩
  · rw [caseOf_updCase_self u _ hhd, h.self, Option.map_some]
  · rw [caseOf_updCase_of_ne u hhd hj, h.other j hj]
  · rw [hg y, h.kept]

theorem addSats (h : CommitState s u c y) (n : Nat) : CommitState s (addSats u c.hd.key n) c { y with sats := y.sats + n } :=
  h.updCase fun _ => rfl

theorem contractOf_eq (h : CommitState s u c y) (i : Nat) : contractOf u i = contractOf s i := by
  rw [contractOf, contractOf, h.contracts_eq]

theorem modelOf_eq (h : CommitState s u c y) (i : Nat) : modelOf u i = modelOf s i := by rw [h.frame]; rfl

theorem caseGranted_eq (h : CommitState s u c y) (write : Bool) (addr len : Nat) :
    caseGranted u c write addr len = caseGranted s c write addr len := by
  rw [caseGranted, caseGranted, h.pasid, h.frame]
  rfl

end CommitState

/-! ## The end of a stage -/

theorem noteRan_eq (c : Case) (g : Stage) (f : Form) :
    noteRan c g f = { c with forms := { c.forms with ran := (noteRan c g f).forms.ran } } := by
  unfold noteRan
  split <;> rfl

theorem noteRan_hd (c : Case) (g : Stage) (f : Form) : (noteRan c g f).hd = c.hd := by rw [noteRan_eq]

theorem formOf_noteRan (c : Case) (g g' : Stage) (f : Form) : formOf (noteRan c g f) g' = formOf c g' := by
  rw [noteRan_eq]
  rfl

theorem withForm_eq (c : Case) (g : Stage) (f : Form) : withForm c g f = { c with forms := (withForm c g f).forms } := by
  cases g <;> rfl

/-- A stage that has a choice of forms left keeps the one it is given. -/
theorem formOf_withForm {k : Contract} {c : Case} {g : Stage} (h : ¬ (chainLeft k c g).length ≤ 1) (f : Form) :
    formOf (withForm c g f) g = f := by
  cases g with
  | fetch | rerank | generation => rfl
  | intake | embedding | encoding | coarse | listScan | packing | result => exact absurd (Nat.le_refl 1) h

theorem withForm_hd (c : Case) (g : Stage) (f : Form) : (withForm c g f).hd = c.hd := by rw [withForm_eq]

/-- Only the forms of the case have changed, and the recorder: the stage `g` now has the form `f`. -/
def TakesForm (s t : State) (c : Case) (g : Stage) (f : Form) : Prop :=
  (∃ x, caseOf t c.hd.key = some x ∧ x = { c with forms := x.forms } ∧ formOf x g = f) ∧
  (∀ j, j ≠ c.hd.key → caseOf t j = caseOf s j) ∧ t = { s with cases := t.cases, amber := t.amber }

/-- A case that has the form already is left as it is. -/
theorem takesForm_self {s : State} {c : Case} {g : Stage} (hc : caseOf s c.hd.key = some c) : TakesForm s s c g (formOf c g) :=
  ⟨⟨c, hc, rfl, rfl⟩, fun _ _ => rfl, rfl⟩

/-- A switch of form, which is recorded (R123). -/
theorem takesForm_switchForm {s : State} {c : Case} {g : Stage} {f : Form} (hc : caseOf s c.hd.key = some c)
    (hf : formOf (withForm c g f) g = f) : TakesForm s (switchForm s c g f) c g f := by
  unfold switchForm
  split
  · rename_i hsame
    exact hsame ▸ takesForm_self hc
  · have hhd (z : Case) : (noteRan (withForm z g f) g f).hd = z.hd := (noteRan_hd _ _ _).trans (withForm_hd z g f)
    refine ⟨⟨noteRan (withForm c g f) g f, ?_, ?_, (formOf_noteRan _ _ _ _).trans hf⟩, fun j hj => ?_, rfl⟩
    · exact (caseOf_updCase_self s _ hhd).trans (by rw [hc]; rfl)
    · rw [noteRan_eq, withForm_eq]
    · exact caseOf_updCase_of_ne s hhd hj

/-- The form of the stage that a case has entered is the one R121 to R123 choose. -/
theorem takesForm_chooseNext {s : State} {c : Case} (hc : caseOf s c.hd.key = some c) (k : Contract) (p : Prediction) :
    TakesForm s (chooseNext s k c.hd.key c.stage p) c c.stage (chosenForm s k c c p) := by
  unfold chooseNext
  rw [hc]
  dsimp only
  simp only [Bool.and_eq_true, decide_eq_true_eq]
  by_cases hone : (chainLeft k c c.stage).length ≤ 1 ∨ (c.stage = .rerank ∧ c.pass.committed.all (fun q => q.toks.isEmpty) = true)
  · rw [if_pos hone, chosenForm, if_pos hone]
    exact takesForm_self hc
  · rw [if_neg hone, chosenForm, if_neg hone]
    exact takesForm_switchForm hc (formOf_withForm (fun h => hone (.inl h)) _)

/-- A signal of the module counts one on its cairn (R145, R146), and leaves records and telemetry. -/
theorem cairnOf_deviceSignal (s : State) (n : Nat) (remote : Bool) :
    cairnOf (deviceSignal s n 1 remote) n = (cairnOf s n).map fun r =>
      { r with val := (r.val + 1) % 2 ^ 32, copy := (r.val + 1) % 2 ^ 32 } := by
  unfold deviceSignal
  cases hn : cairnOf s n with
  | none => exact hn
  | some r =>
    have hset : cairnOf (setCairn s n ((r.val + 1) % 2 ^ 32)) n =
        some { r with val := (r.val + 1) % 2 ^ 32, copy := (r.val + 1) % 2 ^ 32 } := by
      have hfind := find?_modifyWhere s.cairns (fun c => c.num == n) (fun c => c.num == n)
        (fun c => { c with val := (r.val + 1) % 2 ^ 32, copy := (r.val + 1) % 2 ^ 32 }) fun _ _ => rfl
      rw [show s.cairns.find? (fun c => c.num == n) = some r from hn, Option.map_some, if_pos (List.find?_some hn)] at hfind
      exact hfind
    dsimp only
    (repeat' split) <;> exact hset

theorem deviceSignal_frame (s : State) (n add : Nat) (remote : Bool) :
    deviceSignal s n add remote = { s with
      cairns := (deviceSignal s n add remote).cairns, amber := (deviceSignal s n add remote).amber
      parts := (deviceSignal s n add remote).parts } := by
  unfold deviceSignal
  split
  · rfl
  · dsimp only
    (repeat' split) <;> rfl

/-- A case's command is ready at the end of the scheduler's list. -/
theorem addCaseCmd_ready (s : State) (c : Case) (k : Contract) (stage : Nat) :
    ∃ n ∈ (addCaseCmd s c k stage).sched.cmds, n.serves = .cases [c.hd.key] ∧ n.stage = stage ∧ n.phase = .ready :=
  ⟨_, List.mem_append_right _ (List.mem_singleton_self _), rfl, rfl, rfl⟩

theorem addCaseCmd_frame (s : State) (c : Case) (k : Contract) (stage : Nat) :
    addCaseCmd s c k stage = { s with sched := (addCaseCmd s c k stage).sched, nextCmd := s.nextCmd + 1 } :=
  addCmd_frame s _ _ _ _ _ _ _ _

/-- The case in a stage from an instant on. -/
def inStage (g : Stage) (ts : Nat) (c : Case) : Case := { c with stage := g, stageTs := ts }

theorem inStage_hd (g : Stage) (ts : Nat) (c : Case) : (inStage g ts c).hd = c.hd := rfl

/-- The case has entered a stage and its cairn is signalled; its form there is still to be chosen. -/
def entered (s : State) (c : Case) (g : Stage) : State :=
  updCase (deviceSignal (updTelem s fun t =>
      { t with stageTimeMax := modifyAt t.stageTimeMax (stageNum c.stage - 1) (max (s.tclk - c.stageTs)) }) c.hd.cairn 1 false)
    c.hd.key (inStage g s.tclk)

/-- The form of the case in the stage is chosen and noted. -/
def formed (s : State) (c : Case) (k : Contract) (g : Stage) (p : Prediction) : State :=
  updCase (chooseNext (entered s c g) k c.hd.key g p) c.hd.key fun y => noteRan y g (formOf y g)

theorem endStage_eq {s : State} {c : Case} {k : Contract} (hc : caseOf s c.hd.key = some c)
    (hk : contractOf s c.hd.contract = some k) (p : Prediction) :
    endStage s c.hd.key p = if stageAfter k.rcd c.stage = .listScan then formed s c k (stageAfter k.rcd c.stage) p
      else addCaseCmd (formed s c k (stageAfter k.rcd c.stage) p) c k (stageNum (stageAfter k.rcd c.stage)) := by
  have hclk (n : Nat) (t : State) : (deviceSignal t n 1 false).tclk = t.tclk := by rw [deviceSignal_frame]
  unfold endStage
  rw [hc]
  dsimp only
  rw [hk]
  dsimp only
  rw [hclk]
  rfl

theorem entered_frame (s : State) (c : Case) (g : Stage) :
    entered s c g = { s with
      telem := (entered s c g).telem, cairns := (entered s c g).cairns, amber := (entered s c g).amber
      parts := (entered s c g).parts, cases := (entered s c g).cases } := by
  unfold entered
  rw [deviceSignal_frame]
  rfl

theorem caseOf_entered {s : State} {c : Case} (hc : caseOf s c.hd.key = some c) (g : Stage) :
    caseOf (entered s c g) c.hd.key = some (inStage g s.tclk c) := by
  unfold entered
  rw [caseOf_updCase_self _ _ (inStage_hd g s.tclk), deviceSignal_frame]
  exact congrArg (Option.map _) hc

theorem caseOf_entered_of_ne (s : State) (c : Case) (g : Stage) {j : Nat} (hj : j ≠ c.hd.key) :
    caseOf (entered s c g) j = caseOf s j := by
  unfold entered
  rw [caseOf_updCase_of_ne _ (inStage_hd g s.tclk) hj, deviceSignal_frame]
  rfl

/-- The choice of a form reads the case's stage and its passages. -/
theorem chosenForm_case_congr {s : State} {c x y : Case} (k : Contract) (p : Prediction) (hstage : x.stage = y.stage)
    (hpass : x.pass = y.pass) : chosenForm s k c x p = chosenForm s k c y p := by
  rw [chosenForm, chosenForm, hstage, hpass]

/-- The choice of a form reads the clock alone of the state. -/
theorem chosenForm_congr {s t : State} {c c' x : Case} (k : Contract) (p : Prediction) (hclk : t.tclk = s.tclk) (hhd : c'.hd = c.hd)
    (hforms : c'.forms = c.forms) : chosenForm t k c' x p = chosenForm s k c x p := by
  have hform (g : Stage) : formOf c' g = formOf c g := by cases g <;> simp only [formOf, hforms]
  have hchain (g : Stage) : chainLeft k c' g = chainLeft k c g := by rw [chainLeft, chainLeft, hform]
  simp only [chosenForm, hchain, hform, monitorForm, hclk, hhd]

theorem takesForm_entered {s : State} {c : Case} (hc : caseOf s c.hd.key = some c) (k : Contract) (g : Stage) (p : Prediction) :
    TakesForm (entered s c g) (chooseNext (entered s c g) k c.hd.key g p) (inStage g s.tclk c) g
      (chosenForm s k c (inStage g s.tclk c) p) := by
  have hclk : (entered s c g).tclk = s.tclk := by rw [entered_frame]
  have hform := takesForm_chooseNext (c := inStage g s.tclk c) (caseOf_entered hc g) k p
  rwa [chosenForm_congr (c := c) (c' := inStage g s.tclk c) k p hclk rfl rfl] at hform

/-- What the end of a stage leaves of its case. -/
theorem caseOf_formed {s : State} {c : Case} (hc : caseOf s c.hd.key = some c) (k : Contract) (g : Stage) (p : Prediction) :
    ∃ x, caseOf (formed s c k g p) c.hd.key = some x ∧ x = { inStage g s.tclk c with forms := x.forms } ∧
      formOf x g = chosenForm s k c x p := by
  obtain ⟨⟨y, hy, hkept, hform⟩, -, -⟩ := takesForm_entered hc k g p
  have hnote : caseOf (formed s c k g p) c.hd.key = some (noteRan y g (formOf y g)) :=
    (caseOf_updCase_self _ _ fun y => noteRan_hd y g (formOf y g)).trans (congrArg (Option.map _) hy)
  have hx : noteRan y g (formOf y g) = { inStage g s.tclk c with forms := (noteRan y g (formOf y g)).forms } := by
    rw [noteRan_eq, hkept]
  refine ⟨_, hnote, hx, ?_⟩
  exact (formOf_noteRan _ _ _ _).trans (hform.trans (chosenForm_case_congr k p (by rw [hx]) (by rw [hx])))

theorem caseOf_formed_of_ne {s : State} {c : Case} (hc : caseOf s c.hd.key = some c) (k : Contract) (g : Stage) (p : Prediction)
    {j : Nat} (hj : j ≠ c.hd.key) : caseOf (formed s c k g p) j = caseOf s j := by
  obtain ⟨-, hother, -⟩ := takesForm_entered hc k g p
  unfold formed
  rw [caseOf_updCase_of_ne _ (fun y => noteRan_hd y g (formOf y g)) hj, hother j hj, caseOf_entered_of_ne s c g hj]

theorem formed_frame {s : State} {c : Case} (hc : caseOf s c.hd.key = some c) (k : Contract) (g : Stage) (p : Prediction) :
    formed s c k g p = { s with
      telem := (formed s c k g p).telem, cairns := (entered s c g).cairns, amber := (formed s c k g p).amber
      parts := (formed s c k g p).parts, cases := (formed s c k g p).cases } := by
  obtain ⟨-, -, hframe⟩ := takesForm_entered hc k g p
  unfold formed
  rw [hframe, entered_frame]
  rfl

theorem cairnOf_entered (s : State) (c : Case) (g : Stage) :
    cairnOf (entered s c g) c.hd.cairn = (cairnOf s c.hd.cairn).map fun r =>
      { r with val := (r.val + 1) % 2 ^ 32, copy := (r.val + 1) % 2 ^ 32 } :=
  cairnOf_deviceSignal _ _ _

/-- What the end of a stage leaves alone. -/
theorem endStage_frame {s : State} {c : Case} {k : Contract} (hc : caseOf s c.hd.key = some c)
    (hk : contractOf s c.hd.contract = some k) (p : Prediction) : endStage s c.hd.key p = { s with
      telem := (endStage s c.hd.key p).telem, cairns := (endStage s c.hd.key p).cairns, amber := (endStage s c.hd.key p).amber
      parts := (endStage s c.hd.key p).parts, cases := (endStage s c.hd.key p).cases
      sched := (endStage s c.hd.key p).sched, nextCmd := (endStage s c.hd.key p).nextCmd } := by
  rw [endStage_eq hc hk]
  split
  · rw [formed_frame hc]
  · rw [addCaseCmd_frame, formed_frame hc]

/-- The end of a stage takes its case on. -/
theorem advances_endStage {s : State} {c : Case} {k : Contract} (hc : caseOf s c.hd.key = some c)
    (hk : contractOf s c.hd.contract = some k) (hlive : c.ending = none) (p : Prediction) :
    ∃ x, Advances s (endStage s c.hd.key p) c x k p ∧ x = { inStage x.stage s.tclk c with forms := x.forms } := by
  obtain ⟨x, hx, hkept, hform⟩ := caseOf_formed hc k (stageAfter k.rcd c.stage) p
  have hstage : x.stage = stageAfter k.rcd c.stage := by rw [hkept]; rfl
  have hcases : (endStage s c.hd.key p).cases = (formed s c k (stageAfter k.rcd c.stage) p).cases := by
    rw [endStage_eq hc hk]
    split
    · rfl
    · rw [addCaseCmd_frame]
  have hcairns : (endStage s c.hd.key p).cairns = (entered s c (stageAfter k.rcd c.stage)).cairns := by
    rw [endStage_eq hc hk]
    split
    · rw [formed_frame hc]
    · rw [addCaseCmd_frame, formed_frame hc]
  refine ⟨x, ⟨?_, ?_, ?_, ?_, hstage, ?_, hstage ▸ hform, ?_, fun hlist => ?_, fun j hj => ?_, ?_⟩, ?_⟩
  · rw [caseOf, hcases]
    exact hx
  · rw [hkept]; rfl
  · rw [hkept]; rfl
  · rw [hkept]; exact hlive
  · rw [hkept]; rfl
  · rw [cairnOf, hcairns]
    exact cairnOf_entered s c _
  · rw [endStage_eq hc hk, if_neg (hstage ▸ hlist), hstage]
    exact addCaseCmd_ready _ c k _
  · rw [caseOf, hcases]
    exact caseOf_formed_of_ne hc k _ p hj
  · rw [endStage_frame hc hk]
  · rw [hstage]; exact hkept

namespace CommitState

variable {s u : State} {c y : Case} {k : Contract}

theorem self_key (h : CommitState s u c y) : caseOf u y.hd.key = some y := by
  rw [h.hd_eq]
  exact h.self

theorem contract (h : CommitState s u c y) (hk : contractOf s c.hd.contract = some k) : contractOf u y.hd.contract = some k := by
  rw [h.contractOf_eq, h.hd_eq, hk]

theorem ending_eq (h : CommitState s u c y) : y.ending = c.ending := by rw [h.kept]

/-- A stage that ends on the way to its commit takes the case on from where it was, with the results it now has. -/
theorem advances (h : CommitState s u c y) (hk : contractOf s c.hd.contract = some k) (hlive : c.ending = none) (p : Prediction) :
    ∃ x, Advances s (endStage u c.hd.key p) c x k p ∧ x.enc = y.enc ∧ x.srch = y.srch ∧ x.pass = y.pass ∧ x.gen = y.gen ∧
      x.sats = y.sats := by
  obtain ⟨x, ⟨hx, hhd, hdesc, hend, hstage, hts, hform, hcairn, hcmd, hother, hcontracts⟩, hkept⟩ :=
    advances_endStage h.self_key (h.contract hk) (h.ending_eq.trans hlive) p
  rw [h.hd_eq] at hx hhd hcairn hcmd hother hcontracts
  refine ⟨x, ⟨hx, hhd, ?_, hend, ?_, hts.trans h.tclk_eq, ?_, ?_, hcmd, fun j hj => (hother j hj).trans (h.other j hj), ?_⟩, ?_⟩
  · rw [hdesc, h.kept]
  · rw [hstage, h.stage_eq]
  · rw [hform, chosenForm_congr k p h.tclk_eq h.hd_eq (by rw [h.kept])]
  · rw [hcairn, cairnOf, cairnOf, h.cairns_eq]
  · rw [hcontracts, h.contracts_eq]
  · rw [hkept]
    exact ⟨rfl, rfl, rfl, rfl, rfl⟩

/-- The end of a stage writes nothing to memory, and nothing leaves the module. -/
theorem endStage_mem_out (h : CommitState s u c y) (hk : contractOf s c.hd.contract = some k) (p : Prediction) :
    (endStage u c.hd.key p).mem = u.mem ∧ (endStage u c.hd.key p).out = u.out := by
  have hframe := endStage_frame h.self_key (h.contract hk) p
  rw [h.hd_eq] at hframe
  have hmem := congrArg State.mem hframe
  have hout := congrArg State.out hframe
  exact ⟨hmem, hout⟩

/-- The stage goes on with a command that is ready. -/
theorem goesOn (h : CommitState s u c y) (hk : contractOf s c.hd.contract = some k) (hlive : c.ending = none) :
    GoesOn (nextCmdOf u c.hd.key) c y := by
  have hnext : nextCmdOf u c.hd.key = addCaseCmd u y k (stageNum y.stage) := by
    unfold nextCmdOf
    rw [h.self]
    dsimp only
    rw [h.contract hk]
  obtain ⟨n, hn, hserves, hstage, hphase⟩ := addCaseCmd_ready u y k (stageNum y.stage)
  rw [hnext]
  refine ⟨?_, h.hd_eq, h.stage_eq, h.ending_eq.trans hlive, n, hn, h.hd_eq ▸ hserves, h.stage_eq ▸ hstage, hphase⟩
  rw [addCaseCmd_frame]
  exact h.self

end CommitState

end Sys2Proof.Machine
end

section
/-! PROOFS. Intake, embedding and encoding (O27). -/

namespace Sys2Proof.Machine

/-! ## A commit -/

/-- A commit of a stage in which the case is live, under no detection. -/
theorem stageCommit_of_running {s : State} {key : Nat} {g : Stage} {c : Case} {m : Cmd} {k : Contract} (h : Running s key g c m k)
    (act : State → Case → Contract → Cmd → State) : stageCommit s key g none act = journaled s [m] (act s c k m) := by
  obtain ⟨hc, hm, hk, hg, hruns, hmay, -⟩ := h
  unfold stageCommit
  rw [hc, hm]
  dsimp only
  rw [hk]
  dsimp only
  rw [if_pos ⟨hg, hruns, hmay⟩, commitUnder]
  simp only [hc]

/-- A command's commit, where the command is that of the case's stage. -/
theorem execCommandCommit_of_running {s : State} {key : Nat} {g : Stage} {c : Case} {m : Cmd} {k : Contract} (h : Running s key g c m k)
    (hcmd : cmdOf s m.id = some m) (hkey : (cmdKeys m).head? = some key) (hone : oneCommand c = true) (p : Prediction)
    (wr : List DramWrite) :
    exec (.commandCommit m.id p wr none) s = .next (journaled s [m] (commitStage (dramWrites s wr) c k m p)) := by
  obtain ⟨hc, -, -, hg, -⟩ := id h
  rw [exec_commandCommit, execCommandCommit, hcmd, Option.bind_some, hkey]
  dsimp only
  rw [hc]
  dsimp only
  rw [hg, stageCommit_of_running h]
  exact congrArg (fun u => Host.Outcome.next (journaled s [m] u)) (if_pos ⟨rfl, hone⟩)

section
variable {s u : State} {c y : Case} {m : Cmd} {k : Contract}

/-- Full writes are on the way to a commit. -/
theorem CommitState.dramWrites (h : CommitState s u c y) {wr : List DramWrite} (hw : ∀ w ∈ wr, DramWrite.full w = true) :
    CommitState s (dramWrites u wr) c y :=
  h.mem_out (by rw [dramWrites_of_full u hw])

/-- The reads of the payload are on the way to a commit. -/
theorem CommitState.readPieces (h : CommitState s u c y) : CommitState s (readPieces u c) c y :=
  h.mem_out (by rw [readPieces_eq])

theorem CommitState.hostWrite (h : CommitState s u c y) (f addr : Nat) (b : List Byte) : CommitState s (hostWrite u f addr b) c y :=
  h.mem_out rfl

/-- The journal's entry is no part of what a commit does to its case (R337). -/
theorem advances_journaled {s t : State} {c x : Case} {k : Contract} {p : Prediction} (ms : List Cmd) (h : Advances s t c x k p) :
    Advances s (journaled s ms t) c x k p := h

theorem goesOn_journaled {t : State} {c x : Case} (s : State) (ms : List Cmd) (h : GoesOn t c x) : GoesOn (journaled s ms t) c x := h

/-! ## Results of a stage, put in the case -/

def withEnc (e : EncState) (c : Case) : Case := { c with enc := e }

def withPayload (b : List Byte) (c : Case) : Case := { c with enc := { c.enc with payload := b } }

def withQuery (q : QueryVec) (c : Case) : Case := { c with enc := { c.enc with query := some q } }

def withSummary (e : Nat × List Word) (c : Case) : Case := { c with enc := { c.enc with summaries := c.enc.summaries ++ [e] } }

/-! ## Intake -/

/-- The case with its payload in and its command retired, before the token count is written. -/
def takenIn (s : State) (c : Case) (m : Cmd) (b : List Byte) (wr : List DramWrite) : State :=
  updCase (retireCmd (dramWrites s wr) m) c.hd.key (withPayload b)

theorem commitIntake_eq (s : State) (c : Case) (m : Cmd) (b : List Byte) (wr : List DramWrite) :
    commitIntake s c m b wr =
      if (caseOf (caseWrite (takenIn s c m b wr) c c.hd.tokAt (zeros 4)) c.hd.key).all caseRuns then
        endStage (caseWrite (takenIn s c m b wr) c c.hd.tokAt (zeros 4)) c.hd.key { forms := [] }
      else caseWrite (takenIn s c m b wr) c c.hd.tokAt (zeros 4) := rfl

theorem CommitState.takenIn (h : CommitState s u c c) (htime : OnTime s m) {wr : List DramWrite}
    (hw : ∀ w ∈ wr, DramWrite.full w = true) (b : List Byte) : CommitState s (takenIn u c m b wr) c (withPayload b c) :=
  ((h.dramWrites hw).retireCmd htime).updCase fun _ => rfl

/-- Of memory and of what leaves the module, taking a payload in changes what its writes change. -/
theorem takenIn_mem_out {u : State} {m : Cmd} (htime : OnTime u m) {wr : List DramWrite} (hw : ∀ w ∈ wr, DramWrite.full w = true)
    (c : Case) (b : List Byte) : (takenIn u c m b wr).mem = (dramWrites u wr).mem ∧ (takenIn u c m b wr).out = u.out := by
  have htime' : OnTime (dramWrites u wr) m := by
    rw [dramWrites_of_full u hw]
    exact htime
  obtain ⟨hretired, -⟩ := retires_retireCmd htime'
  have hout : (dramWrites u wr).out = u.out := by rw [dramWrites_of_full u hw]
  rw [takenIn, updCase_mem, updCase_out, hretired]
  exact ⟨rfl, hout⟩

theorem caseWrite_of_granted {s : State} {c : Case} {off : Nat} {b : List Byte}
    (h : caseGranted s c true (c.hd.resultAddr + off) b.length = true) :
    caseWrite s c off b = hostWrite s c.hd.owner (c.hd.resultAddr + off) b := if_pos h

/-- A payload that is in is committed whole, with the write of the token count. -/
theorem commitIntake_advances (h : CommitState s u c c) (htime : OnTime s m) (hk : contractOf s c.hd.contract = some k)
    (hlive : c.ending = none) {wr : List DramWrite} (hw : ∀ w ∈ wr, DramWrite.full w = true)
    (hgrant : caseGranted s c true (c.hd.resultAddr + c.hd.tokAt) 4 = true) (b : List Byte) :
    ∃ x, Advances s (commitIntake u c m b wr) c x k { forms := [] } ∧ x.enc = { c.enc with payload := b } ∧
      (commitIntake u c m b wr).mem = (dramWrites u wr).mem ∧
      (commitIntake u c m b wr).out =
        u.out ++ [.hostWrite c.hd.owner (partPasid s c.hd.owner) (c.hd.resultAddr + c.hd.tokAt) (zeros 4)] := by
  have htaken := h.takenIn htime hw b
  have hcounted := htaken.hostWrite c.hd.owner (c.hd.resultAddr + c.hd.tokAt) (zeros 4)
  have hwrite := caseWrite_of_granted (b := zeros 4) ((htaken.caseGranted_eq true (c.hd.resultAddr + c.hd.tokAt) 4).trans hgrant)
  have hruns : caseRuns (withPayload b c) = true := Option.isNone_iff_eq_none.2 hlive
  obtain ⟨x, hx, henc, -⟩ := hcounted.advances hk hlive { forms := [] }
  obtain ⟨hmemEnd, houtEnd⟩ := hcounted.endStage_mem_out hk { forms := [] }
  obtain ⟨hmem, hout⟩ := takenIn_mem_out (h.onTime htime) hw c b
  rw [commitIntake_eq, hwrite, hcounted.self, Option.all_some, if_pos hruns]
  refine ⟨x, hx, henc, ?_, ?_⟩
  · rw [hmemEnd, hostWrite, emit_mem, hmem]
  · rw [houtEnd, hostWrite, emit_out, hout, htaken.pasid]

/-- A case that ends does so with a status and the number of its stage, once. -/
def endedWith (st : Status) (stage : Nat) (c : Case) : Case :=
  match c.ending with
  | some _ => c
  | none => { c with ending := some st, failedStage := stage }

theorem endedWith_hd (st : Status) (stage : Nat) (c : Case) : (endedWith st stage c).hd = c.hd := by
  unfold endedWith
  split <;> rfl

theorem endedWith_of_live {c : Case} (h : c.ending = none) (st : Status) (stage : Nat) :
    endedWith st stage c = { c with ending := some st, failedStage := stage } := by rw [endedWith, h]

theorem caseOf_endCase (s : State) (key : Nat) (st : Status) (stage : Nat) :
    caseOf (endCase s key st stage) key = (caseOf s key).map (endedWith st stage) := by
  obtain ⟨hdrop, -⟩ := retires_dropCase s key
  have hcases : caseOf (dropCase s key) key = caseOf s key := by rw [hdrop]; rfl
  rw [← hcases, ← caseOf_updCase_self _ key (endedWith_hd st stage)]
  rfl

theorem endCase_cairns (s : State) (key : Nat) (st : Status) (stage : Nat) : (endCase s key st stage).cairns = s.cairns := by
  obtain ⟨hdrop, -⟩ := retires_dropCase s key
  rw [endCase, reapGens, updCase_cairns, hdrop]

/-- A read of the payload that fails ends the case. -/
theorem caseDmaFails_ends (h : CommitState s u c c) (hlive : c.ending = none) (aer : Nat) :
    caseOf (caseDmaFails u c aer) c.hd.key = some { c with ending := some .faultHostDma, failedStage := stageNum c.stage } ∧
      (caseDmaFails u c aer).cairns = s.cairns := by
  constructor
  · rw [caseDmaFails, caseOf_endCase, ← endedWith_of_live hlive]
    exact congrArg (Option.map _) h.self
  · rw [caseDmaFails, endCase_cairns]
    exact h.cairns_eq

/-! ## Embedding and encoding -/

theorem embed_eq (h : CommitState s u c y) (k : Contract) (d : Case) : embed u k d = embed s k d := by
  rw [h.frame]
  rfl

theorem queryRow_eq (h : CommitState s u c y) (k : Contract) (e : Model) (ps : List Position) :
    queryRow u k e ps = queryRow s k e ps := by
  rw [h.frame]
  rfl

theorem queryRow_length (s : State) (k : Contract) (e : Model) (ps : List Position) : (queryRow s k e ps).elems.length = 256 := by
  unfold queryRow
  dsimp only
  split <;> simp [normalized]

theorem commitEmbedding_advances (h : CommitState s u c c) (hk : contractOf s c.hd.contract = some k) (hlive : c.ending = none)
    (p : Prediction) :
    ∃ x, Advances s (commitEmbedding u c k p) c x k p ∧ x.enc = embed s k c ∧
      x.sats = c.sats + sumNat ((embed s k c).bags.map QuantRow.sats) := by
  have hend := (h.updCase (g := withEnc (embed s k c)) fun _ => rfl).addSats (sumNat ((embed s k c).bags.map QuantRow.sats))
  obtain ⟨x, hx, henc, -, -, -, hsats⟩ := hend.advances hk hlive p
  refine ⟨x, ?_, henc, hsats⟩
  unfold commitEmbedding
  rw [embed_eq h]
  exact hx

theorem commitQuery_advances (h : CommitState s u c c) (hk : contractOf s c.hd.contract = some k) (hlive : c.ending = none)
    {e : Model} (he : modelOf s k.rcd.refs.encModel = some e) (ps : List Position) (p : Prediction) :
    ∃ x, Advances s (commitQuery u c k ps p) c x k p ∧
      x.enc = { c.enc with query := some { q := (queryRow s k e ps).elems, scale := (queryRow s k e ps).scale } } ∧
      x.sats = c.sats + (ctxSats e.img 0 (plainCtx ps) 0 + (queryRow s k e ps).sats) := by
  have hend := (h.updCase (g := withQuery { q := (queryRow s k e ps).elems, scale := (queryRow s k e ps).scale }) fun _ => rfl).addSats
    (ctxSats e.img 0 (plainCtx ps) 0 + (queryRow s k e ps).sats)
  obtain ⟨x, hx, henc, -, -, -, hsats⟩ := hend.advances hk hlive p
  refine ⟨x, ?_, henc, hsats⟩
  unfold commitQuery
  rw [h.modelOf_eq, he]
  dsimp only
  rw [queryRow_eq h]
  exact hx

theorem commitChunk_goesOn (h : CommitState s u c c) (htime : OnTime s m) (hk : contractOf s c.hd.contract = some k)
    (hlive : c.ending = none) {e : Model} (he : modelOf s k.rcd.refs.encModel = some e) (i : Nat) :
    ∃ x, GoesOn (commitChunk u c k m i) c x ∧
      x.enc = { c.enc with summaries := c.enc.summaries ++
        [(i, headValues e.img 0 .summary (plainCtx (chunkInput k.rcd c i)) (Config.summaryWidth e.img))] } ∧
      x.sats = c.sats + ctxSats e.img 0 (plainCtx (chunkInput k.rcd c i)) 0 := by
  have hend := ((h.retireCmd htime).updCase (g := withSummary
      (i, headValues e.img 0 .summary (plainCtx (chunkInput k.rcd c i)) (Config.summaryWidth e.img))) fun _ => rfl).addSats
    (ctxSats e.img 0 (plainCtx (chunkInput k.rcd c i)) 0)
  have hcommit : commitChunk u c k m i = nextCmdOf (addSats (updCase (retireCmd u m) c.hd.key (withSummary
      (i, headValues e.img 0 .summary (plainCtx (chunkInput k.rcd c i)) (Config.summaryWidth e.img)))) c.hd.key
      (ctxSats e.img 0 (plainCtx (chunkInput k.rcd c i)) 0)) c.hd.key := by
    unfold commitChunk
    rw [h.modelOf_eq, he]
    rfl
  rw [hcommit]
  generalize headValues e.img 0 .summary (plainCtx (chunkInput k.rcd c i)) (Config.summaryWidth e.img) = sum at hend ⊢
  generalize ctxSats e.img 0 (plainCtx (chunkInput k.rcd c i)) 0 = sats at hend ⊢
  exact ⟨_, hend.goesOn hk hlive, rfl, rfl⟩

end

/-! ## The case through its first stages -/

section
variable {s : State} {key : Nat} {c : Case} {m : Cmd} {k : Contract}

theorem Running.commitState {g : Stage} (h : Running s key g c m k) : CommitState s s c c := by
  obtain ⟨hc, -⟩ := h
  exact .refl (key_of_caseOf hc ▸ hc)

theorem endIntake_of_running (h : Running s key .intake c m k) (rs : List (HostRead (List Byte))) (wr : List DramWrite) :
    endIntake s key rs wr = journaled s [m] (
      if c.desc.sg.all fun e => caseGranted s c false e.addr e.len then
        match joinPieces c.desc.sg rs with
        | .data b => commitIntake (readPieces s c) c m ((List.range c.desc.payloadBytes).map fun i => b.getD i 0) wr
        | e => caseDmaFails (readPieces s c) c (aerBit e)
      else caseDmaFails s c 0) :=
  stageCommit_of_running h _

/-- What has left the module since, where its log has only been added to. -/
theorem newOut_of_append {s t : State} {os : List Out} (h : t.out = s.out ++ os) : newOut s t = os := by
  rw [newOut, h, List.drop_left]

/-- Intake with its payload read whole. -/
theorem intake_advances (h : Running s key .intake c m k) {rs : List (HostRead (List Byte))} {b : List Byte} {wr : List DramWrite}
    (hread : joinPieces c.desc.sg rs = .data b) (hw : ∀ w ∈ wr, DramWrite.full w = true)
    (hsg : ∀ e ∈ c.desc.sg, caseGranted s c false e.addr e.len = true)
    (hgrant : caseGranted s c true (c.hd.resultAddr + c.hd.tokAt) 4 = true) :
    ∃ t x, exec (.intakeCommit key rs wr) s = .next t ∧ Advances s t c x k { forms := [] } ∧
      x.enc = { c.enc with payload := (List.range c.desc.payloadBytes).map fun i => b.getD i 0 } ∧
      t.mem = (dramWrites s wr).mem ∧
      (∀ e ∈ c.desc.sg, Out.hostRead c.hd.owner (partPasid s c.hd.owner) e.addr e.len ∈ newOut s t) ∧
      Out.hostWrite c.hd.owner (partPasid s c.hd.owner) (c.hd.resultAddr + c.hd.tokAt) (zeros 4) ∈ newOut s t := by
  have hstart := h.commitState
  obtain ⟨-, -, hk, -, hruns, -, htime⟩ := id h
  generalize hpay : (List.range c.desc.payloadBytes).map (fun i => b.getD i 0) = pay
  obtain ⟨x, hx, henc, hmem, hout⟩ :=
    commitIntake_advances hstart.readPieces htime hk (Option.isNone_iff_eq_none.1 hruns) hw hgrant pay
  have hnew : newOut s (journaled s [m] (commitIntake (readPieces s c) c m pay wr)) =
      (c.desc.sg.map fun e => .hostRead c.hd.owner (partPasid s c.hd.owner) e.addr e.len) ++
        [.hostWrite c.hd.owner (partPasid s c.hd.owner) (c.hd.resultAddr + c.hd.tokAt) (zeros 4)] :=
    newOut_of_append (by rw [journaled_out, hout, readPieces_eq, List.append_assoc])
  refine ⟨journaled s [m] (commitIntake (readPieces s c) c m pay wr), x, ?_, advances_journaled [m] hx, henc, ?_, ?_, ?_⟩
  · rw [exec_intakeCommit, execIntakeCommit, endIntake_of_running h, if_pos (List.all_eq_true.2 hsg), hread, ← hpay]
  · rw [journaled_mem, hmem]
    exact dramWrites_mem_congr hw (by rw [readPieces_eq])
  · intro e he
    rw [hnew]
    exact List.mem_append_left _ (List.mem_map_of_mem he)
  · rw [hnew]
    exact List.mem_append_right _ (List.mem_singleton_self _)

/-- Intake with a read that fails, granted or not. -/
theorem endIntake_of_bad (h : Running s key .intake c m k) {rs : List (HostRead (List Byte))} {r : HostRead (List Byte)}
    (hread : joinPieces c.desc.sg rs = r) (hbad : r = .ur ∨ r = .ca ∨ r = .poison ∨ r = .timeout) (wr : List DramWrite) :
    ∃ u aer, CommitState s u c c ∧ endIntake s key rs wr = journaled s [m] (caseDmaFails u c aer) := by
  rw [endIntake_of_running h, hread]
  split
  · refine ⟨readPieces s c, aerBit r, h.commitState.readPieces, ?_⟩
    obtain rfl | rfl | rfl | rfl := hbad <;> rfl
  · exact ⟨s, 0, h.commitState, rfl⟩

theorem intake_fails (h : Running s key .intake c m k) {rs : List (HostRead (List Byte))} {r : HostRead (List Byte)}
    (hread : joinPieces c.desc.sg rs = r) (hbad : r = .ur ∨ r = .ca ∨ r = .poison ∨ r = .timeout) :
    ∃ t x, exec (.intakeCommit key rs []) s = .next t ∧ caseOf t key = some x ∧ x.hd = c.hd ∧ x.stage = .intake ∧
      x.enc = c.enc ∧ x.ending = some .faultHostDma ∧ x.failedStage = 1 ∧ t.cairns = s.cairns := by
  obtain ⟨u, aer, hu, hend⟩ := endIntake_of_bad h hread hbad []
  obtain ⟨hc, -, -, hstage, hruns, -, -⟩ := h
  obtain ⟨hx, hcairns⟩ := caseDmaFails_ends hu (Option.isNone_iff_eq_none.1 hruns) aer
  rw [key_of_caseOf hc] at hx
  refine ⟨journaled s [m] (caseDmaFails u c aer), _, ?_, hx, rfl, hstage, rfl, rfl, ?_, hcairns⟩
  · rw [exec_intakeCommit, execIntakeCommit, hend]
  · rw [hstage]
    rfl

/-- The embedding of a case. -/
theorem embedding_advances (h : Running s key .embedding c m k) (hcmd : cmdOf s m.id = some m) (hkey : (cmdKeys m).head? = some key)
    {wr : List DramWrite} (hw : ∀ w ∈ wr, DramWrite.full w = true) (p : Prediction) :
    ∃ t x, exec (.commandCommit m.id p wr none) s = .next t ∧ Advances s t c x k p ∧ x.enc = embed s k c ∧
      x.sats = c.sats + sumNat ((embed s k c).bags.map QuantRow.sats) := by
  have hstart := h.commitState
  obtain ⟨-, -, hk, hstage, hruns, -, htime⟩ := id h
  obtain ⟨x, hx, henc, hsats⟩ :=
    commitEmbedding_advances ((hstart.dramWrites hw).retireCmd htime) hk (Option.isNone_iff_eq_none.1 hruns) p
  have hone : oneCommand c = true := by rw [oneCommand, hstage]
  refine ⟨journaled s [m] (commitEmbedding (retireCmd (dramWrites s wr) m) c k p), x, ?_,
    advances_journaled [m] hx, henc, hsats⟩
  rw [execCommandCommit_of_running h hcmd hkey hone, commitStage, hstage]

/-- The encoding of a case that is no document, in one command. -/
theorem encoding_advances (h : Running s key .encoding c m k) (hcmd : cmdOf s m.id = some m) (hkey : (cmdKeys m).head? = some key)
    {wr : List DramWrite} (hw : ∀ w ∈ wr, DramWrite.full w = true) (htype : c.desc.caseType ≠ 2) {e : Model}
    (he : modelOf s k.rcd.refs.encModel = some e) (p : Prediction) :
    let r := queryRow s k e (encoderInput k.rcd c)
    ∃ t x, exec (.commandCommit m.id p wr none) s = .next t ∧ Advances s t c x k p ∧
      x.enc = { c.enc with query := some { q := r.elems, scale := r.scale } } ∧
      x.sats = c.sats + (ctxSats e.img 0 (plainCtx (encoderInput k.rcd c)) 0 + r.sats) := by
  have hstart := h.commitState
  obtain ⟨-, -, hk, hstage, hruns, -, htime⟩ := id h
  obtain ⟨x, hx, henc, hsats⟩ := commitQuery_advances ((hstart.dramWrites hw).retireCmd htime) hk (Option.isNone_iff_eq_none.1 hruns)
    he (encoderInput k.rcd c) p
  have hone : oneCommand c = true := by
    rw [oneCommand, hstage]
    exact bne_iff_ne.2 htype
  refine ⟨journaled s [m] (commitQuery (retireCmd (dramWrites s wr) m) c k (encoderInput k.rcd c) p), x, ?_,
    advances_journaled [m] hx, henc, hsats⟩
  rw [execCommandCommit_of_running h hcmd hkey hone, commitStage, hstage]

/-- A chunk of a document. -/
theorem chunk_goesOn (h : Running s key .encoding c m k) (htype : c.desc.caseType = 2) {e : Model}
    (he : modelOf s k.rcd.refs.encModel = some e) {i : Nat} (hi : i < chunkCount k c) (hnew : ∀ e ∈ c.enc.summaries, e.1 ≠ i) :
    ∃ t x, exec (.chunkEncodeCommit key i none) s = .next t ∧ GoesOn t c x ∧
      x.enc = { c.enc with summaries := c.enc.summaries ++
        [(i, headValues e.img 0 .summary (plainCtx (chunkInput k.rcd c i)) (Config.summaryWidth e.img))] } ∧
      x.sats = c.sats + ctxSats e.img 0 (plainCtx (chunkInput k.rcd c i)) 0 := by
  have hstart := h.commitState
  obtain ⟨-, -, hk, -, hruns, -, htime⟩ := id h
  obtain ⟨x, hx, henc, hsats⟩ := commitChunk_goesOn hstart htime hk (Option.isNone_iff_eq_none.1 hruns) he i
  refine ⟨journaled s [m] (commitChunk s c k m i), x, ?_, goesOn_journaled s [m] hx, henc, hsats⟩
  rw [exec_chunkEncodeCommit, execChunkEncodeCommit, stageCommit_of_running h, if_pos]
  exact ⟨htype, hi, List.all_eq_true.2 fun e he => decide_eq_true (hnew e he)⟩

/-- The pass over a document's summaries. -/
theorem summaryPass_advances (h : Running s key .encoding c m k) (htype : c.desc.caseType = 2) {e : Model}
    (he : modelOf s k.rcd.refs.encModel = some e) (hall : c.enc.summaries.length = chunkCount k c) :
    let r := queryRow s k e (summaryInput k c)
    ∃ t x, exec (.summaryPassCommit key none) s = .next t ∧ Advances s t c x k { forms := [] } ∧
      x.enc = { c.enc with query := some { q := r.elems, scale := r.scale } } := by
  have hstart := h.commitState
  obtain ⟨-, -, hk, -, hruns, -, htime⟩ := id h
  obtain ⟨x, hx, henc, -⟩ := commitQuery_advances (hstart.retireCmd htime) hk (Option.isNone_iff_eq_none.1 hruns) he
    (summaryInput k c) { forms := [] }
  refine ⟨journaled s [m] (commitQuery (retireCmd s m) c k (summaryInput k c) { forms := [] }), x, ?_, advances_journaled [m] hx, henc⟩
  rw [exec_summaryPassCommit, execSummaryPassCommit, stageCommit_of_running h, if_pos ⟨htype, hall⟩]

end

/-- Settles O27: each commit retires its command, puts its result in the case and ends or continues the stage. -/
theorem caseIsTakenInAndEncoded : Obligations.CaseIsTakenInAndEncoded := by
  unfold Obligations.CaseIsTakenInAndEncoded
  intro s key c m k
  refine ⟨fun h => ⟨fun rs b wr hread hw hsg hgrant => intake_advances h hread hw hsg hgrant,
    fun rs r hread hbad => intake_fails h hread hbad⟩, fun hcmd hkey p wr hw => ⟨fun h => ?_, fun h htype e he => ?_⟩,
    fun h htype e he => ⟨fun i hi hnew => ?_, fun hall => ?_⟩⟩
  · exact embedding_advances h hcmd hkey hw p
  · obtain ⟨t, x, hexec, hx, henc, hsats⟩ := encoding_advances h hcmd hkey hw htype he p
    exact ⟨t, x, hexec, hx, henc, queryRow_length s k e _, hsats⟩
  · exact chunk_goesOn h htype he hi hnew
  · exact summaryPass_advances h htype he hall

end Sys2Proof.Machine
end

section
/-! PROOFS. The module at reset (O55). -/

namespace Sys2Proof.Machine

/-- Every point of the diagnostic sweep has its record. -/
theorem allPoints_length : allPoints.length = 476 := by decide +kernel

theorem reset_pinsOk : PinsOk State.reset := ⟨rfl, nofun, nofun⟩

/-- Settles O55: the reset state is one closed value, and each part of it is read off. -/
theorem resetIsOffAndEmpty : Obligations.ResetIsOffAndEmpty := by
  unfold Obligations.ResetIsOffAndEmpty
  refine ⟨rfl, rfl, rfl, rfl, rfl, rfl, rfl, rfl, rfl, rfl, rfl, rfl, allPoints_length, rfl, rfl, rfl, ?_, rfl, ?_, ?_,
    reset_pinsOk, ?_⟩
  · show ∀ d ∈ Power.reset.dies, d.div = 8
    decide
  · show ∀ p ∈ (Strata.reset 1).ports, p.st = 0
    decide
  · exact nofun
  · exact nofun

end Sys2Proof.Machine
end

section
/-! PROOFS. The mailboxes: observation of the index registers, fetches of ring entries and MOD_TIME (R20 to R26, R33, R44). -/

namespace Sys2Proof.Machine

/-! ## Interrupts and halts -/

/-- An interrupt changes at most the pending bits of a mailbox. -/
theorem mbOf_fireVector (s : State) (f v g : Nat) :
    mbOf (fireVector s f v) g =
      { mbOf s g with ev := { (mbOf s g).ev with pba := (mbOf (fireVector s f v) g).ev.pba } } := by
  unfold fireVector
  split
  · rfl
  split
  · rcases eq_or_ne g f with rfl | hg
    · rcases Nat.lt_or_ge g s.mail.length with hl | hl
      · rw [mbOf_updMb _ _ _ hl]
      · have hsame : mbOf (updMb s g fun mb => { mb with ev := { mb.ev with pba := setBit mb.ev.pba v true } }) g = mbOf s g :=
          modifyAt_getD_of_ge _ _ _ _ _ hl
        rw [hsame]
    · rw [mbOf_updMb_ne _ _ _ _ hg]
  · rfl

theorem mbOf_fireVector_ne (s : State) (v : Nat) {f g : Nat} (h : g ≠ f) : mbOf (fireVector s f v) g = mbOf s g := by
  obtain ⟨-, -, hothers, -⟩ := rest_fireVector s f v
  exact hothers g h

theorem fireVector_frame (s : State) (f v : Nat) :
    fireVector s f v = { s with mail := (fireVector s f v).mail, out := (fireVector s f v).out } := by
  unfold fireVector
  split
  · rfl
  · split <;> rfl

/-- What a vector does, as MSI-X is disabled, masks it or lets it through (R33). -/
theorem fireVector_effect (s : State) {f : Nat} (v : Nat) (hf : f < s.mail.length) :
    if (fnOf s f).msixEnable = false then (mbOf (fireVector s f v) f).ev.pba = (mbOf s f).ev.pba ∧ (fireVector s f v).out = s.out
    else if vectorMasked s f v = true then
      (mbOf (fireVector s f v) f).ev.pba = setBit (mbOf s f).ev.pba v true ∧ (fireVector s f v).out = s.out
    else (mbOf (fireVector s f v) f).ev.pba = (mbOf s f).ev.pba ∧ (fireVector s f v).out = s.out ++ [.msix f v] := by
  unfold fireVector
  cases hon : (fnOf s f).msixEnable with
  | false => exact ⟨rfl, rfl⟩
  | true =>
    cases hmask : vectorMasked s f v with
    | false => exact ⟨rfl, rfl⟩
    | true =>
      show (mbOf (updMb s f _) f).ev.pba = _ ∧ _
      rw [mbOf_updMb _ _ _ hf]
      exact ⟨rfl, rfl⟩

/-- A mailbox that halts changes its status and at most its pending bits (R44). -/
theorem mbOf_haltMailbox (s : State) {f : Nat} (c i : Nat) (hf : f < s.mail.length) (hh : (mbOf s f).st.halted = false) :
    mbOf (haltMailbox s f c i) f =
      { mbOf s f with
        st := { (mbOf s f).st with halted := true, haltCause := c, haltIndex := i }
        ev := { (mbOf s f).ev with pba := (mbOf (haltMailbox s f c i) f).ev.pba } } := by
  have hhalt : mbOf (haltMailbox s f c i) f = mbOf (fireVector (updMb s f fun mb =>
      { mb with st := { mb.st with halted := true, haltCause := c, haltIndex := i } }) f 3) f := by
    unfold haltMailbox
    dsimp only
    rw [if_neg (by simp [hh])]
    rfl
  rw [hhalt]
  conv_lhs => rw [mbOf_fireVector]
  rw [mbOf_updMb _ _ _ hf]

theorem haltMailbox_of_halted {s : State} {f : Nat} (c i : Nat) (hh : (mbOf s f).st.halted = true) :
    haltMailbox s f c i = recordFunc s f 0x0101 (leBytes 1 c ++ leBytes 4 i) := by
  unfold haltMailbox
  dsimp only
  rw [if_pos hh]

/-! ## Which mailboxes are served -/

theorem running_of_mbRuns {s : State} {f : Nat} (h : mbRuns s f = true) : (mbOf s f).st.running = true := by
  simp only [mbRuns, Bool.and_eq_true] at h
  exact h.1.2

theorem mbServes_iff (s : State) (f : Nat) : mbServes s f = true ↔ mbRuns s f = true ∧ (mbOf s f).st.halted = false := by
  simp only [mbServes, mbRuns, Bool.and_eq_true, Bool.not_eq_true']
  tauto

theorem mail_of_serves {s : State} {f : Nat} (h : mbServes s f = true) : f < s.mail.length :=
  mail_of_running (running_of_mbRuns ((mbServes_iff s f).1 h).1)

theorem serves_of_observes {s : State} {f : Nat} (h : observes s f = true) : mbServes s f = true := by
  simp only [observes, Bool.and_eq_true] at h
  exact h.1

/-! ## Observation (R22 to R24, R26) -/

/-- Slots are copied, and nothing of the channel's registers but their ownership changes. -/
theorem inl_foldl_takeSlot (ts : Nat) (l : List Nat) (mb : Mailbox) :
    (l.foldl (takeSlot ts) mb).inl = { mb.inl with slotOwn := (l.foldl (takeSlot ts) mb).inl.slotOwn } := by
  induction l generalizing mb with
  | nil => rfl
  | cons i l ih => exact ih (takeSlot ts mb i)

/-- A change of one mailbox leaves the open messages' ids alone. -/
theorem fresh_updMb {s : State} (hs : Fresh s) (f : Nat) (u : Mailbox → Mailbox) : Fresh (updMb s f u) := hs

section
variable {s : State} {f : Nat} (hf : f < 33) (ho : observes s f = true)
include hf ho

theorem exec_inlPiObserved_valid (hnew : (mbOf s f).inl.pi ≠ (mbOf s f).inl.seen)
    (hv : validPi 8 (mbOf s f).inl.seen (mbOf s f).inl.ci (mbOf s f).inl.pi = true) :
    exec (.inlPiObserved f) s = .next (sweepStrays (updMb s f fun mb =>
      (indicesFrom 8 (mbOf s f).inl.seen (mbOf s f).inl.pi).foldl (takeSlot s.tclk)
        { mb with inl := { mb.inl with seen := (mbOf s f).inl.pi } }) f .inl) := by
  rw [exec_inlPiObserved, execInlPiObserved, guardUnit_of_lt hf]
  dsimp only
  rw [if_neg (by simp [ho, hnew]), if_pos hv]

theorem exec_inlPiObserved_invalid (hnew : (mbOf s f).inl.pi ≠ (mbOf s f).inl.seen)
    (hv : validPi 8 (mbOf s f).inl.seen (mbOf s f).inl.ci (mbOf s f).inl.pi = false) :
    exec (.inlPiObserved f) s = .next (haltMailbox s f 1 (mbOf s f).inl.pi) := by
  rw [exec_inlPiObserved, execInlPiObserved, guardUnit_of_lt hf]
  dsimp only
  rw [if_neg (by simp [ho, hnew]), if_neg (by simp [hv])]

theorem exec_sqPiObserved_valid (ha : (mbOf s f).sq.active = true) (hnew : (mbOf s f).sq.hostIdx ≠ (mbOf s f).sq.seen)
    (hv : validPi (ringSize (mbOf s f).sq) (mbOf s f).sq.seen (mbOf s f).sq.devIdx (mbOf s f).sq.hostIdx = true) :
    exec (.sqPiObserved f) s = .next (updMb s f fun mb =>
      { mb with
        sq := { mb.sq with seen := (mbOf s f).sq.hostIdx }
        sqFetch := mb.sqFetch ++
          (indicesFrom (ringSize (mbOf s f).sq) (mbOf s f).sq.seen (mbOf s f).sq.hostIdx).map fun i => (i, s.tclk) }) := by
  rw [exec_sqPiObserved, execSqPiObserved, guardUnit_of_lt hf]
  dsimp only
  rw [if_neg (by simp [ho, hnew, ha]), if_pos hv]

theorem exec_sqPiObserved_invalid (ha : (mbOf s f).sq.active = true) (hnew : (mbOf s f).sq.hostIdx ≠ (mbOf s f).sq.seen)
    (hv : validPi (ringSize (mbOf s f).sq) (mbOf s f).sq.seen (mbOf s f).sq.devIdx (mbOf s f).sq.hostIdx = false) :
    exec (.sqPiObserved f) s = .next (haltMailbox s f 2 (mbOf s f).sq.hostIdx) := by
  rw [exec_sqPiObserved, execSqPiObserved, guardUnit_of_lt hf]
  dsimp only
  rw [if_neg (by simp [ho, hnew, ha]), if_neg (by simp [hv])]

theorem exec_cqCiObserved_eq (ha : (mbOf s f).cq.active = true) (hnew : (mbOf s f).cq.hostIdx ≠ (mbOf s f).cq.seen) :
    exec (.cqCiObserved f) s = .next
      (if (mbOf s f).cq.hostIdx ≤ 2 * ringSize (mbOf s f).cq - 1 ∧
          ((mbOf s f).cq.hostIdx + 2 * ringSize (mbOf s f).cq - (mbOf s f).cq.seen) % (2 * ringSize (mbOf s f).cq) ≤
            ((mbOf s f).cq.devIdx + 2 * ringSize (mbOf s f).cq - (mbOf s f).cq.seen) % (2 * ringSize (mbOf s f).cq) then
        sweepStrays (updMb s f fun mb => { mb with cq := { mb.cq with seen := (mbOf s f).cq.hostIdx } }) f .ring
      else haltMailbox s f 3 (mbOf s f).cq.hostIdx) := by
  rw [exec_cqCiObserved, execCqCiObserved, guardUnit_of_lt hf]
  dsimp only
  rw [if_neg (by simp [ho, hnew, ha])]

omit hf

/-- A served mailbox that halts tells the cause and the index, and keeps the rest of its registers and queues (R44). -/
theorem halts_of_observes (c i : Nat) :
    ∃ pba, mbOf (haltMailbox s f c i) f = { mbOf s f with
      st := { (mbOf s f).st with halted := true, haltCause := c, haltIndex := i }, ev := { (mbOf s f).ev with pba := pba } } := by
  have hs := serves_of_observes ho
  exact ⟨_, mbOf_haltMailbox s c i (mail_of_serves hs) ((mbServes_iff s f).1 hs).2⟩

end

/-- Settles O18: a valid index is taken in one change of the mailbox, after which the message path leaves what `Rest` says; one that is
not valid halts the mailbox. -/
theorem indexRegistersAreObserved : Obligations.IndexRegistersAreObserved := by
  unfold Obligations.IndexRegistersAreObserved
  refine ⟨fun s f fr hf ho hnew => ⟨fun hv => ?_, fun hv => ?_⟩, fun s f hf ho ha hnew => ⟨fun hv => ?_, fun hv => ?_⟩,
    fun s f fr hf ho ha hnew => ⟨fun hv => ?_, fun hv => ?_⟩⟩
  · have hexec := exec_inlPiObserved_valid hf ho hnew hv
    have hmail := mail_of_serves (serves_of_observes ho)
    refine ⟨_, hexec, hexec, ?_⟩
    obtain ⟨⟨-, ⟨-, -, hseen, hslots, -⟩, hothers, -⟩, -⟩ := sweepStrays_rest (updMb s f fun mb =>
      (indicesFrom 8 (mbOf s f).inl.seen (mbOf s f).inl.pi).foldl (takeSlot s.tclk)
        { mb with inl := { mb.inl with seen := (mbOf s f).inl.pi } }) f .inl (fresh_updMb fr f _)
    rw [mbOf_updMb _ _ _ hmail, inl_foldl_takeSlot] at hseen hslots
    exact ⟨hseen, hslots, fun g hg => (hothers g hg).trans (mbOf_updMb_ne s f g _ hg)⟩
  · obtain ⟨pba, hmb⟩ := halts_of_observes ho 1 (mbOf s f).inl.pi
    refine ⟨_, exec_inlPiObserved_invalid hf ho hnew hv, ?_⟩
    rw [hmb]
    exact ⟨rfl, rfl, rfl, rfl, rfl⟩
  · exact exec_sqPiObserved_valid hf ho ha hnew hv
  · obtain ⟨pba, hmb⟩ := halts_of_observes ho 2 (mbOf s f).sq.hostIdx
    refine ⟨_, exec_sqPiObserved_invalid hf ho ha hnew hv, ?_⟩
    rw [hmb]
    exact ⟨rfl, rfl, rfl, rfl, rfl⟩
  · refine ⟨_, (exec_cqCiObserved_eq hf ho ha hnew).trans (by rw [if_pos hv]), ?_⟩
    obtain ⟨⟨-, ⟨-, -, -, -, hsq, hcq, -⟩, hothers, -⟩, -⟩ := sweepStrays_rest (updMb s f fun mb =>
      { mb with cq := { mb.cq with seen := (mbOf s f).cq.hostIdx } }) f .ring (fresh_updMb fr f _)
    rw [mbOf_updMb _ _ _ (mail_of_serves (serves_of_observes ho))] at hsq hcq
    exact ⟨by rw [hcq], by rw [hsq], fun g hg => (hothers g hg).trans (mbOf_updMb_ne s f g _ hg)⟩
  · obtain ⟨pba, hmb⟩ := halts_of_observes ho 3 (mbOf s f).cq.hostIdx
    refine ⟨_, (exec_cqCiObserved_eq hf ho ha hnew).trans (by rw [if_neg hv]), ?_⟩
    rw [hmb]
    exact ⟨rfl, rfl, rfl, rfl⟩

/-! ## Fetches of ring entries (R20, R26, R31, R44) -/

theorem mem_insertBy {α : Type} {ahead : α → α → Bool} {x y : α} {l : List α} (h : y ∈ insertBy ahead x l) : y = x ∨ y ∈ l := by
  induction l with
  | nil => exact .inl (List.mem_singleton.1 h)
  | cons a l ih =>
    unfold insertBy at h
    split at h
    · exact List.mem_cons.1 h
    · rcases List.mem_cons.1 h with rfl | h
      · exact .inr List.mem_cons_self
      · exact (ih h).imp_right fun h => List.mem_cons_of_mem _ h

/-- A channel whose head is a message of a known opcode, or that has none, has no strays to serve. -/
theorem sweepStrays_of_known {s : State} {f : Nat} {src : Src}
    (h : ∀ m, headOf s f src = some m → (opInfo (opcodeOf m)).isSome = true) : sweepStrays s f src = s := by
  unfold sweepStrays
  cases (mbOf s f).inlQ.length + (mbOf s f).sqQ.length with
  | zero => rfl
  | succ n =>
    unfold serveStrays
    split
    · rfl
    · rename_i m hm
      rw [if_neg]
      simp [Option.isSome_iff_ne_none.1 (h m hm)]

theorem mem_sqQ_of_headOf {s : State} {f : Nat} {m : MsgIn} (h : headOf s f .ring = some m) : m ∈ (mbOf s f).sqQ := by
  unfold headOf at h
  dsimp only at h
  split at h
  · rename_i a l hq
    split at h
    · rw [← Option.some.inj h, hq]
      exact List.mem_cons_self
    · cases h
  · cases h

/-- The messages of a channel of `n` entries in the order of its indices, from the consumer index on. -/
def aheadOf (n ci : Nat) (a c : MsgIn) : Bool := decide (orderKey n ci a.index < orderKey n ci c.index)

/-- The message that the bytes of a fetched entry bring. -/
def entryMsg (e : Nat × Nat) (i : Nat) (b : List Byte) : MsgIn := { index := i, bytes := messageOf b, obsTs := e.2 }

/-- The state in which the entry of index `i` has joined the submitted messages, before strays are served. -/
def joined (s : State) (f i : Nat) (e : Nat × Nat) (b : List Byte) : State :=
  updMb (emit (dropFetch s f i)
      (.hostRead f (activePasid s f (mbOf s f).sq) (entryAddr (mbOf s f).sq 256 i) (messageOf b).length)) f fun mb =>
    { mb with sqQ := insertBy (aheadOf (ringSize (mbOf s f).sq) (mbOf s f).sq.devIdx) (entryMsg e i b) mb.sqQ }

theorem mbOf_dropFetch (s : State) {f : Nat} (i : Nat) (hf : f < s.mail.length) :
    mbOf (dropFetch s f i) f = { mbOf s f with sqFetch := (mbOf s f).sqFetch.filter fun x => x.1 != i } :=
  mbOf_updMb s f _ hf

theorem mbOf_joined (s : State) {f : Nat} (i : Nat) (e : Nat × Nat) (b : List Byte) (hf : f < s.mail.length) :
    mbOf (joined s f i e b) f = { mbOf s f with
      sqFetch := (mbOf s f).sqFetch.filter fun x => x.1 != i
      sqQ := insertBy (aheadOf (ringSize (mbOf s f).sq) (mbOf s f).sq.devIdx) (entryMsg e i b) (mbOf s f).sqQ } := by
  have hlen : f < (dropFetch s f i).mail.length := by rw [dropFetch, updMb, modifyAt_length]; exact hf
  have hmb : mbOf (joined s f i e b) f = { mbOf (dropFetch s f i) f with
      sqQ := insertBy (aheadOf (ringSize (mbOf s f).sq) (mbOf s f).sq.devIdx) (entryMsg e i b) (mbOf (dropFetch s f i) f).sqQ } :=
    mbOf_updMb _ f _ hlen
  rw [hmb, mbOf_dropFetch s i hf]

theorem mbOf_joined_ne (s : State) {f g : Nat} (i : Nat) (e : Nat × Nat) (b : List Byte) (h : g ≠ f) :
    mbOf (joined s f i e b) g = mbOf s g :=
  (mbOf_updMb_ne _ f g _ h).trans (mbOf_updMb_ne s f g _ h)

theorem joined_out (s : State) (f i : Nat) (e : Nat × Nat) (b : List Byte) :
    (joined s f i e b).out = s.out ++
      [.hostRead f (activePasid s f (mbOf s f).sq) (entryAddr (mbOf s f).sq 256 i) (messageOf b).length] := rfl

section
variable {s : State} {f i : Nat} {e : Nat × Nat} (hf : f < 33)
include hf

theorem exec_sqEntryFetchComplete_of_none (hnone : (mbOf s f).sqFetch.find? (fun x => x.1 == i) = none) (r : HostRead (List Byte)) :
    exec (.sqEntryFetchComplete f i r) s = .next s := by
  rw [exec_sqEntryFetchComplete, execSqEntryFetchComplete, guardUnit_of_lt hf, endFetch, hnone]

variable (he : (mbOf s f).sqFetch.find? (fun x => x.1 == i) = some e)
include he

theorem exec_sqEntryFetchComplete_of_served (b : List Byte) (hs : mbServes s f = true) (hc : canReserve s f = true) :
    exec (.sqEntryFetchComplete f i (.data b)) s = .next (sweepStrays (joined s f i e b) f .ring) := by
  have hmb : mbOf (fetchRead (dropFetch s f i) f i (messageOf b).length) f = _ := mbOf_dropFetch s i (mail_of_serves hs)
  have hread : fetchRead (dropFetch s f i) f i (messageOf b).length = emit (dropFetch s f i)
      (.hostRead f (activePasid s f (mbOf s f).sq) (entryAddr (mbOf s f).sq 256 i) (messageOf b).length) := by
    rw [fetchRead, mbOf_dropFetch s i (mail_of_serves hs)]
    rfl
  rw [exec_sqEntryFetchComplete, execSqEntryFetchComplete, guardUnit_of_lt hf, endFetch, he]
  dsimp only
  rw [if_neg (by simp [hs, hc]), hmb, hread]
  rfl

theorem exec_sqEntryFetchComplete_of_not_served (b : List Byte) (hs : mbServes s f = false ∨ canReserve s f = false) :
    exec (.sqEntryFetchComplete f i (.data b)) s = .next s := by
  rw [exec_sqEntryFetchComplete, execSqEntryFetchComplete, guardUnit_of_lt hf, endFetch, he]
  dsimp only
  rw [if_pos (by simpa using hs)]

/-- A fetch that fails ends the same way whatever the link says of it. -/
theorem exec_sqEntryFetchComplete_of_failed {r : HostRead (List Byte)} (hr : r = .ur ∨ r = .ca ∨ r = .poison ∨ r = .timeout) :
    exec (.sqEntryFetchComplete f i r) s =
      .next (if mbRuns s f = true then haltMailbox (fetchRead (dropFetch s f i) f i 32) f 4 0 else s) := by
  rw [exec_sqEntryFetchComplete, execSqEntryFetchComplete, guardUnit_of_lt hf, endFetch, he]
  obtain rfl | rfl | rfl | rfl := hr <;> cases mbRuns s f <;> rfl

/-- The whole effect of a fetch that brings its entry. -/
theorem fetch_joins (fr : Fresh s) (b : List Byte) (hs : mbServes s f = true) (hc : canReserve s f = true) :
    ∃ t, exec (.sqEntryFetchComplete f i (.data b)) s = .next t ∧
      (mbOf t f).sqFetch = (mbOf s f).sqFetch.filter (fun x => x.1 != i) ∧ (∀ g, g ≠ f → mbOf t g = mbOf s g) ∧
      .hostRead f (activePasid s f (mbOf s f).sq) ((mbOf s f).sq.cfg.base + 256 * (i % ringSize (mbOf s f).sq))
        (messageOf b).length ∈ newOut s t ∧
      ((opInfo (opcodeOf (entryMsg e i b))).isSome = true → (∀ x ∈ (mbOf s f).sqQ, (opInfo (opcodeOf x)).isSome = true) →
        (mbOf t f).sqQ = insertBy (aheadOf (ringSize (mbOf s f).sq) (mbOf s f).sq.devIdx) (entryMsg e i b) (mbOf s f).sqQ ∧
        t = { s with mail := t.mail, out := t.out }) := by
  have hmb := mbOf_joined s i e b (mail_of_serves hs)
  obtain ⟨⟨-, ⟨-, -, -, -, -, -, -, hfetch⟩, hothers, -, hout⟩, -⟩ := sweepStrays_rest (joined s f i e b) f .ring fr
  refine ⟨_, exec_sqEntryFetchComplete_of_served hf he b hs hc, ?_, fun g hg => (hothers g hg).trans (mbOf_joined_ne s i e b hg),
    ?_, fun hnew hold => ?_⟩
  · rw [hfetch, hmb]
  · exact mem_newOut (List.prefix_refl _) (joined_out s f i e b ▸ hout)
  · have hsweep : sweepStrays (joined s f i e b) f .ring = joined s f i e b := sweepStrays_of_known fun m hm => by
      have hmem := mem_sqQ_of_headOf hm
      rw [hmb] at hmem
      rcases mem_insertBy hmem with rfl | hmem
      · exact hnew
      · exact hold m hmem
    rw [hsweep, hmb]
    exact ⟨rfl, rfl⟩

/-- A fetch that fails halts a mailbox that runs, and leaves the submitted messages. -/
theorem failed_fetch_halts {r : HostRead (List Byte)} (hr : r = .ur ∨ r = .ca ∨ r = .poison ∨ r = .timeout)
    (hrun : mbRuns s f = true) (hh : (mbOf s f).st.halted = false) :
    ∃ t, exec (.sqEntryFetchComplete f i r) s = .next t ∧ (mbOf t f).st.halted = true ∧ (mbOf t f).st.haltCause = 4 ∧
      (mbOf t f).sqQ = (mbOf s f).sqQ ∧ (mbOf t f).sqFetch = (mbOf s f).sqFetch.filter (fun x => x.1 != i) := by
  have hmail := mail_of_running (running_of_mbRuns hrun)
  have hmb : mbOf (fetchRead (dropFetch s f i) f i 32) f = _ := mbOf_dropFetch s i hmail
  have hlen : f < (fetchRead (dropFetch s f i) f i 32).mail.length := by
    show f < (modifyAt s.mail f _).length
    rw [modifyAt_length]
    exact hmail
  refine ⟨_, (exec_sqEntryFetchComplete_of_failed hf he hr).trans (by rw [if_pos hrun]), ?_⟩
  rw [mbOf_haltMailbox _ 4 0 hlen (by rw [hmb]; exact hh), hmb]
  exact ⟨rfl, rfl, rfl, rfl⟩

/-- In a halted mailbox it leaves a record of the further cause (R44). -/
theorem failed_fetch_records {r : HostRead (List Byte)} (hr : r = .ur ∨ r = .ca ∨ r = .poison ∨ r = .timeout)
    (hrun : mbRuns s f = true) (hh : (mbOf s f).st.halted = true) :
    ∃ t, exec (.sqEntryFetchComplete f i r) s = .next t ∧
      mbOf t f = { mbOf s f with sqFetch := (mbOf s f).sqFetch.filter fun x => x.1 != i } ∧
      t.amber = (recordFunc s f 0x0101 (leBytes 1 4 ++ leBytes 4 0)).amber := by
  have hmb : mbOf (fetchRead (dropFetch s f i) f i 32) f = _ := mbOf_dropFetch s i (mail_of_running (running_of_mbRuns hrun))
  refine ⟨_, (exec_sqEntryFetchComplete_of_failed hf he hr).trans (by rw [if_pos hrun]), ?_⟩
  rw [haltMailbox_of_halted 4 0 (by rw [hmb]; exact hh)]
  exact ⟨hmb, rfl⟩

end

/-! ## MOD_TIME (R33) -/

theorem exec_modTimeExpiry_of_none {s : State} {f : Nat} (hf : f < 33) (h : (mbOf s f).ev.unsignalled = 0) :
    exec (.modTimeExpiry f) s = .next s := by
  rw [exec_modTimeExpiry, execModTimeExpiry, guardUnit_of_lt hf, if_pos h]

theorem exec_modTimeExpiry_of_some {s : State} {f : Nat} (hf : f < 33) (h : (mbOf s f).ev.unsignalled ≠ 0) :
    exec (.modTimeExpiry f) s = .next (fireVector (updMb s f fun mb => { mb with ev := { mb.ev with unsignalled := 0 } }) f 0) := by
  rw [exec_modTimeExpiry, execModTimeExpiry, guardUnit_of_lt hf, if_neg h]

/-- The end of MOD_TIME restarts the count and fires the completion vector. -/
theorem modTime_fires {s : State} {f : Nat} (hf : f < 33) (hmail : f < s.mail.length) (h : (mbOf s f).ev.unsignalled ≠ 0) :
    ∃ t, exec (.modTimeExpiry f) s = .next t ∧ (mbOf t f).ev.unsignalled = 0 ∧
      (if (fnOf s f).msixEnable = false then (mbOf t f).ev.pba = (mbOf s f).ev.pba ∧ t.out = s.out
       else if vectorMasked s f 0 = true then (mbOf t f).ev.pba = setBit (mbOf s f).ev.pba 0 true ∧ t.out = s.out
       else (mbOf t f).ev.pba = (mbOf s f).ev.pba ∧ t.out = s.out ++ [.msix f 0]) ∧
      t = { s with mail := t.mail, out := t.out } ∧ (∀ g, g ≠ f → mbOf t g = mbOf s g) := by
  have hmb := mbOf_updMb s f (fun mb => { mb with ev := { mb.ev with unsignalled := 0 } }) hmail
  have hlen : f < (updMb s f fun mb => { mb with ev := { mb.ev with unsignalled := 0 } }).mail.length := by
    rw [updMb, modifyAt_length]
    exact hmail
  have hfires := fireVector_effect (updMb s f fun mb => { mb with ev := { mb.ev with unsignalled := 0 } }) 0 hlen
  rw [hmb] at hfires
  have hmasked : vectorMasked (updMb s f fun mb => { mb with ev := { mb.ev with unsignalled := 0 } }) f 0 = vectorMasked s f 0 := by
    rw [vectorMasked, hmb]
    rfl
  rw [hmasked] at hfires
  refine ⟨_, exec_modTimeExpiry_of_some hf h, ?_, hfires, ?_, fun g hg => ?_⟩
  · rw [mbOf_fireVector, hmb]
  · exact fireVector_frame _ f 0
  · exact (mbOf_fireVector_ne _ 0 hg).trans (mbOf_updMb_ne s f g _ hg)

/-- Settles O19: a fetch that is awaited joins its entry, is held back or halts the mailbox; MOD_TIME fires the completion vector. -/
theorem fetchesAndModTimesEnd : Obligations.FetchesAndModTimesEnd := by
  unfold Obligations.FetchesAndModTimesEnd
  refine ⟨fun s f i fr hf => ⟨fun e he => ⟨fun b hs hc => fetch_joins hf he fr b hs hc,
    fun b hs => exec_sqEntryFetchComplete_of_not_served hf he b hs, fun r hr => ⟨failed_fetch_halts hf he hr,
      failed_fetch_records hf he hr, fun hrun => ?_⟩⟩, exec_sqEntryFetchComplete_of_none hf⟩,
    fun s f hf => ⟨exec_modTimeExpiry_of_none hf, modTime_fires hf⟩⟩
  rw [exec_sqEntryFetchComplete_of_failed hf he hr, if_neg (by simp [hrun])]

end Sys2Proof.Machine
end

section
/-! PROOFS. Mailbox reset and ring enables (R18 to R21, R45, R46), and one step (R42, R362). -/

namespace Sys2Proof.Machine

/-! ## Mailbox reset (R45, R46) -/

/-- The state without the open messages and the waits of a function (R45, R149). -/
def withoutMessages (s : State) (f : Nat) : State :=
  { s with msgs := s.msgs.filter fun m => m.f != f, waits := s.waits.filter fun w => w.owner != f }

/-- The state in which a mailbox has been reset, before the admin vector tells the host. -/
def mailboxCleared (s : State) (f : Nat) : State :=
  updMb (withoutMessages s f) f fun mb => resetRegs mb (s.msgs.filter fun m => m.f == f).length

theorem exec_mbReset_of_open {s : State} {f : Nat} (hf : f < 33) (hw : windowOpen s f = true)
    (hp : (s.safety.pairA && s.safety.pairB) = false) :
    exec (.mbReset f) s = .next (fireVector (mailboxCleared s f) f 3) := by
  rw [exec_mbReset, execMbReset, guardUnit_of_lt hf, if_pos hw, resetMailbox]
  dsimp only
  rw [if_neg (by simp [hp])]
  rfl

/-- The mailbox after its reset and the admin vector, which may set a pending bit. -/
theorem mbOf_mbReset (s : State) {f : Nat} (hmail : f < s.mail.length) :
    ∃ pba, mbOf (fireVector (mailboxCleared s f) f 3) f =
      { resetRegs (mbOf s f) (s.msgs.filter fun m => m.f == f).length with
        ev := { (resetRegs (mbOf s f) (s.msgs.filter fun m => m.f == f).length).ev with pba := pba } } := by
  have hmb : mbOf (mailboxCleared s f) f = resetRegs (mbOf s f) (s.msgs.filter fun m => m.f == f).length := mbOf_updMb _ f _ hmail
  have hfired := mbOf_fireVector (mailboxCleared s f) f 3 f
  rw [hmb] at hfired
  exact ⟨_, hfired⟩

/-- What the host finds in the registers after a reset: `pba` is what the admin vector may have set in it. -/
theorem mbStatus_resetRegs (mb : Mailbox) (n pba : Nat) :
    mbStatus { resetRegs mb n with ev := { (resetRegs mb n).ev with pba := pba } } = 1 := rfl

/-! ## Ring enables (R18, R19, R21) -/

/-- CFG_ERR of an enable of the submission ring. -/
def sqError (s : State) (f : Nat) (h : HostView) : Nat :=
  enableError (!decide (4 ≤ (mbOf s f).sq.log2 ∧ (mbOf s f).sq.log2 ≤ 12)) (ringDenied s f h (mbOf s f).sq false 256)
    (!(mbOf s f).cq.active) (mbOf s f).sq.active ((mbOf s f).sq.hostIdx != 0)

/-- CFG_ERR of an enable of the completion ring. -/
def cqError (s : State) (f : Nat) (h : HostView) : Nat :=
  enableError (!decide (6 ≤ (mbOf s f).cq.log2 ∧ (mbOf s f).cq.log2 ≤ 16)) (ringDenied s f h (mbOf s f).cq true 64) false
    (mbOf s f).cq.active ((mbOf s f).cq.hostIdx != 0)

/-- The mailbox after an enable whose CFG_ERR is `e`: `ok` of it when there is none. -/
def afterEnable (e : Nat) (ok : Mailbox → Mailbox) (mb : Mailbox) : Mailbox :=
  if e = 0 then ok mb else { mb with st := { mb.st with cfgErr := e } }

/-- The mailbox with its submission ring enabled. -/
def withSq (both : Bool) (mb : Mailbox) : Mailbox :=
  { mb with sq := enabled mb.sq, st := { mb.st with cfgErr := if both then mb.st.cfgErr else 0 } }

/-- The mailbox with its completion ring enabled. -/
def withCq (mb : Mailbox) : Mailbox := { mb with cq := enabled mb.cq, st := { mb.st with cfgErr := 0 } }

/-- An enable changes its mailbox, and on a success the grants that the module holds for the function. -/
theorem afterEnable_effect (s : State) {f : Nat} (h : HostView) (e : Nat) (ok : Mailbox → Mailbox) (hmail : f < s.mail.length) :
    ∃ t, (if e = 0 then learnGrants (updMb s f ok) f h
          else updMb s f fun mb => { mb with st := { mb.st with cfgErr := e } }) = t ∧
      mbOf t f = afterEnable e ok (mbOf s f) ∧ t = { s with mail := t.mail, pcie := t.pcie } ∧
      (∀ g, g ≠ f → mbOf t g = mbOf s g) := by
  refine ⟨_, rfl, ?_⟩
  unfold afterEnable
  split
  · exact ⟨mbOf_updMb s f _ hmail, rfl, fun g hg => mbOf_updMb_ne s f g _ hg⟩
  · exact ⟨mbOf_updMb s f _ hmail, rfl, fun g hg => mbOf_updMb_ne s f g _ hg⟩

section
variable {s : State} {f : Nat} (hf : f < 33) (hw : windowOpen s f = true) (hr : (mbOf s f).st.running = true)
include hf hw hr

theorem exec_sqEnable_of_open (both : Bool) (h : HostView) :
    exec (.sqEnable f both h) s = .next
      (if sqError s f h = 0 then learnGrants (updMb s f (withSq both)) f h
       else updMb s f fun mb => { mb with st := { mb.st with cfgErr := sqError s f h } }) := by
  rw [exec_sqEnable, execSqEnable, guardUnit_of_lt hf]
  dsimp only
  rw [if_neg (by simp [hw, hr])]
  rfl

theorem exec_cqEnable_of_open (h : HostView) :
    exec (.cqEnable f h) s = .next
      (if cqError s f h = 0 then learnGrants (updMb s f withCq) f h
       else updMb s f fun mb => { mb with st := { mb.st with cfgErr := cqError s f h } }) := by
  rw [exec_cqEnable, execCqEnable, guardUnit_of_lt hf]
  dsimp only
  rw [if_neg (by simp [hw, hr])]
  rfl

end

/-- Settles O20: a reset writes its mailbox, the open messages and the waits; an enable writes its mailbox as its CFG_ERR says, and at
most the grants besides. -/
theorem mailboxesAreResetAndRingsEnabled : Obligations.MailboxesAreResetAndRingsEnabled := by
  unfold Obligations.MailboxesAreResetAndRingsEnabled
  refine ⟨fun s f hf hw hp hmail => ?_, fun s f h hf hw hr hmail => ⟨fun both => ?_, ?_⟩⟩
  · have hframe := fireVector_frame (mailboxCleared s f) f 3
    have hothers : ∀ g, g ≠ f → mbOf (fireVector (mailboxCleared s f) f 3) g = mbOf s g := fun g hg =>
      (mbOf_fireVector_ne _ 3 hg).trans (mbOf_updMb_ne (withoutMessages s f) f g _ hg)
    obtain ⟨pba, hmb⟩ := mbOf_mbReset s hmail
    refine ⟨_, exec_mbReset_of_open hf hw hp, ?_⟩
    rw [hmb]
    refine ⟨?_, ?_, mbStatus_resetRegs _ _ _, rfl, rfl, rfl, rfl, rfl, rfl, rfl, rfl, rfl, rfl, rfl, rfl, rfl, hothers, ?_, ?_, ?_⟩
    all_goals rw [hframe]; rfl
  · obtain ⟨t, ht, heffect⟩ := afterEnable_effect s h (sqError s f h) (withSq both) hmail
    exact ⟨t, (exec_sqEnable_of_open hf hw hr both h).trans (congrArg _ ht), heffect⟩
  · obtain ⟨t, ht, heffect⟩ := afterEnable_effect s h (cqError s f h) withCq hmail
    exact ⟨t, (exec_cqEnable_of_open hf hw hr h).trans (congrArg _ ht), heffect⟩

/-! ## One step -/

theorem step_of_cons {s : State} {c : Instr} {cs : List Instr} (h : s.pending = c :: cs) :
    step s = exec c { s with pending := cs } := by
  rw [step, h]

theorem step_of_nil {s : State} (h : s.pending = []) : step s = .next (idleTick s) := by
  rw [step, h]

theorem resolveWaits_of_nil {s : State} (h : s.waits = []) : resolveWaits s = s := by
  have hsame : ({ s with waits := [] } : State) = s := by rw [← h]
  rw [resolveWaits, h]
  exact hsame

/-- A command that nothing asked to yield has no preemption point to come to. -/
theorem atPoint_of_not_asked {c : Cmd} (s : State) (h : c.preemptTs = none) : atPoint s c = false := by
  rw [atPoint, h]

theorem yieldPoints_of_none_asked {s : State} (h : ∀ c ∈ s.sched.cmds, c.preemptTs = none) : yieldPoints s = s := by
  have hnone : s.sched.cmds.filter (atPoint s) = [] :=
    List.filter_eq_nil_iff.2 fun c hc => by simp [atPoint_of_not_asked s (h c hc)]
  rw [yieldPoints, hnone]
  rfl

/-- Settles O54: the front command runs, or the idle tick does what R136 and R148 say at the end of a count. -/
theorem stepRunsTheFrontCommand : Obligations.StepRunsTheFrontCommand := by
  unfold Obligations.StepRunsTheFrontCommand
  intro s
  refine ⟨fun c cs h => step_of_cons h, fun h hoff => ?_, fun h hoff => ?_⟩
  · have htick : step s = .next { yieldPoints (resolveWaits s) with tclk := s.tclk + 1 } := by
      rw [step_of_nil h, idleTick, if_neg hoff]
    refine ⟨htick, fun hw hc => ?_⟩
    rw [htick, resolveWaits_of_nil hw, yieldPoints_of_none_asked hc]
  · rw [step_of_nil h, idleTick, if_pos hoff]

end Sys2Proof.Machine
end

section
/-! PROOFS. Messages that a common check refuses, and commands without their message (R35, R47, R48). -/

namespace Sys2Proof.Machine

/-- Every command of an opcode is `onMessage` of that opcode, held back as R42 says. -/
theorem exec_of_opcodeCommand {c : Instr} {f : Nat} {src : Src} {op : Nat} (h : opcodeCommand c = some (f, src, op)) (s : State) :
    ∃ k, exec c s = onMessage s f src op (heldBack c s) k := by
  unfold opcodeCommand at h
  split at h
  all_goals cases h
  all_goals unfold exec
  all_goals dsimp only [
    execPartitionCreate, execPartitionSetQuota, execPartitionControl, execPartitionQuery, execModelLoad, execModelPin,
    execModelEvict, execTableCreate, execTableLoad, execTableDestroy, execIndexCreate, execIndexBulkLoad, execIndexInsert,
    execIndexDelete, execIndexSettle, execIndexSnapshot, execIndexDestroy, execIndexQuery, execPrefixRegister,
    execPrefixRelease, execContractOpen, execContractQueryProof, execContractClose, execCaseSubmit, execCaseCancel,
    execCaseQuery, execCairnAlloc, execCairnFree, execCairnSignal, execCairnWaitArm, execCairnQuery, execTelemetryRead,
    execAccountRead, execSafetySelftestRead, execSafetyInject, execSafetyFence, execSafetyHoldRelease, execPowerPolicySet,
    execPowerPolicyGet, execAmberRead, execFwStage, execFwActivate, execAttestMeasurements]
  all_goals exact ⟨_, rfl⟩

theorem onMessage_of_not_head {s : State} {f : Nat} {src : Src} {op : Nat} {held : List Byte → Bool} (hf : f < 33)
    (h : ∀ m, headOf s f src = some m → opcodeOf m ≠ op ∨ mayStart s f src m = false ∨ held m.bytes = true)
    (k : State → MsgCtx → State) : onMessage s f src op held k = .next s := by
  rw [onMessage, guardUnit_of_lt hf]
  cases hm : headOf s f src with
  | none => rfl
  | some m =>
    have hnot : ¬ (opcodeOf m = op ∧ mayStart s f src m = true ∧ held m.bytes = false) := by
      rintro ⟨hop, hmay, hheld⟩
      rcases h m hm with hne | hno | hyes
      · exact hne hop
      · exact Bool.noConfusion (hno.symm.trans hmay)
      · exact Bool.noConfusion (hheld.symm.trans hyes)
    exact congrArg _ (if_neg hnot)

/-! ## A refused message -/

/-- What a refusal does besides its completion: it is counted, and a security status is recorded (R14, R48). -/
def refusalNoted (s : State) (x : MsgCtx) (st : Status) : State :=
  if statusClass st = 6 then
    recordFunc (countRefused s x st) x.f 0x0103 (leBytes 2 (le x.bytes 0 2) ++ leBytes 2 (statusCode st) ++ leBytes 2 (le x.bytes 2 2))
  else countRefused s x st

theorem reject_eq (s : State) (x : MsgCtx) (r : Refuse) :
    reject s x r = complete (refusalNoted s x r.st) x.id r.st r.off r.result := by
  unfold reject refusalNoted
  rfl

theorem countRefused_startMsg (s : State) (x y : MsgCtx) (st : Status) :
    countRefused (startMsg s x) y st = startMsg (countRefused s y st) x := by
  unfold countRefused
  dsimp only
  split
  · rfl
  · split <;> rfl

theorem refusalNoted_startMsg (s : State) (x y : MsgCtx) (st : Status) :
    refusalNoted (startMsg s x) y st = startMsg (refusalNoted s y st) x := by
  unfold refusalNoted
  rw [countRefused_startMsg]
  split <;> rfl

/-- Counting and recording touch no mailbox, no open message, and nothing that has left the module. -/
theorem refusalNoted_keeps (s : State) (x : MsgCtx) (st : Status) :
    ((refusalNoted s x st).mail = s.mail ∧ (refusalNoted s x st).msgs = s.msgs ∧ (refusalNoted s x st).nextMsg = s.nextMsg) ∧
      (refusalNoted s x st).out = s.out := by
  have hcount : ((countRefused s x st).mail = s.mail ∧ (countRefused s x st).msgs = s.msgs ∧
      (countRefused s x st).nextMsg = s.nextMsg) ∧ (countRefused s x st).out = s.out := by
    unfold countRefused
    dsimp only
    split
    · exact ⟨⟨rfl, rfl, rfl⟩, rfl⟩
    · split <;> exact ⟨⟨rfl, rfl, rfl⟩, rfl⟩
  unfold refusalNoted
  split <;> exact hcount

theorem rest_refusalNoted (s : State) {x : MsgCtx} (st : Status) (f : Nat) (h : le x.bytes 0 2 ≠ 0x0601) :
    Rest f s (refusalNoted s x st) := by
  unfold refusalNoted
  rw [countRefused_of_ne h]
  split
  · exact rest_recordAs s f _ _ _ _ _ _
  · exact Rest.refl f s

/-- A message that starts over an effect `a` and is completed at once: it is answered, and nothing but `a` and the message path has
changed. -/
theorem completed_is_answered {s a : State} {f : Nat} {src : Src} {m : MsgIn} (fr : Fresh s) (hs : mayStart s f src m = true)
    (ha : a.mail = s.mail ∧ a.msgs = s.msgs ∧ a.nextMsg = s.nextMsg) (ho : s.out <+: a.out) (st : Status) (off b : Nat) (res : List Byte) :
    let t := sweepStrays (complete (startMsg a (ctxOf s f src m)) s.nextMsg st off res b) f src
    Answered s t f src m st off res b ∧ Rest f a t := by
  obtain ⟨hmail, hmsgs, hnext⟩ := ha
  have hmb : mbOf a f = mbOf s f := by rw [mbOf, hmail, mbOf]
  have hserves := mayStart_serves hs
  have hopened : (startMsg a (ctxOf s f src m)).msgs = s.msgs ++ [openOf (ctxOf s f src m)] := by rw [startMsg_msgs, hmsgs]
  have hcompl : complete (startMsg a (ctxOf s f src m)) s.nextMsg st off res b =
      writeCompletion { startMsg a (ctxOf s f src m) with msgs := s.msgs } (openOf (ctxOf s f src m)) st off b res :=
    complete_last _ (openOf (ctxOf s f src m)) s.msgs hopened fr st off res b
  have hlen : f < (startMsg a (ctxOf s f src m)).mail.length := by
    rw [(rest_startMsg a (ctxOf s f src m)).mail_length, hmail]
    exact mail_of_serves hserves.1
  have hactive : src = .ring → (mbOf (startMsg a (ctxOf s f src m)) f).cq.active = true := fun hsrc => by
    have hres := hserves.2 hsrc
    simp only [canReserve, Bool.and_eq_true] at hres
    exact (rest_startMsg a (ctxOf s f src m)).cq_active.trans (hmb ▸ hres.1)
  have hrest : Rest f a (complete (startMsg a (ctxOf s f src m)) s.nextMsg st off res b) := by
    rw [hcompl]
    exact (Rest.trans (rest_startMsg a (ctxOf s f src m)) (rest_msgs _ f _ s.msgs)).trans (rest_writeCompletion _ _ st off b res)
  have hopen := writeCompletion_msgs { startMsg a (ctxOf s f src m) with msgs := s.msgs } (openOf (ctxOf s f src m)) st off b res
  have hout := writeCompletion_out { startMsg a (ctxOf s f src m) with msgs := s.msgs } (ctxOf s f src m) st off b res hlen hactive
  rw [← hcompl] at hopen hout
  obtain ⟨hleft, hid⟩ := hopen
  have hid : (complete (startMsg a (ctxOf s f src m)) s.nextMsg st off res b).nextMsg = s.nextMsg + 1 :=
    hid.trans (congrArg (· + 1) hnext)
  have hfresh : Fresh (complete (startMsg a (ctxOf s f src m)) s.nextMsg st off res b) := fun o h => by
    rw [hleft] at h
    rw [hid]
    exact Nat.lt_succ_of_lt (fr o h)
  obtain ⟨hsweep, hsweepMsgs, hsweepNext⟩ := sweepStrays_rest _ f src hfresh
  refine ⟨⟨hsweepMsgs.trans hleft, by omega, ?_⟩, hrest.trans hsweep⟩
  rcases hout with ⟨c, hc, hfields⟩ | ⟨hsrc, hhalt⟩
  · exact .inl ⟨c, mem_newOut ho (hc.trans hsweep.out), hfields⟩
  · refine .inr ⟨hsrc, ?_⟩
    rw [sweepStrays, serveStrays_of_halted (f := f) hhalt]
    exact hhalt

/-- A message that a common check refuses is answered with the check's status; of its command nothing happens. -/
theorem onMessage_refused {s : State} {f : Nat} {src : Src} {op : Nat} {m : MsgIn} {held : List Byte → Bool} {r : Refuse}
    (hf : f < 33) (fr : Fresh s) (hm : headOf s f src = some m) (hop : opcodeOf m = op) (hs : mayStart s f src m = true)
    (hh : held m.bytes = false) (hc : commonCheck s f m.bytes = some r) (k : State → MsgCtx → State) :
    ∃ t, onMessage s f src op held k = .next t ∧ Answered s t f src m r.st r.off r.result 0 ∧ (op ≠ 0x0601 → Rest f s t) := by
  obtain ⟨hkept, hout⟩ := refusalNoted_keeps s (ctxOf s f src m) r.st
  obtain ⟨hans, hrest⟩ := completed_is_answered fr hs hkept (hout ▸ List.prefix_refl _) r.st r.off 0 r.result
  refine ⟨_, ?_, hans, fun hne => Rest.trans (rest_refusalNoted s r.st f ?_) hrest⟩
  · rw [onMessage, guardUnit_of_lt hf, hm]
    dsimp only
    rw [if_pos ⟨hop, hs, hh⟩, commonCheck_startMsg, hc, settle, reject_eq, refusalNoted_startMsg]
    rfl
  · exact fun h => hne (hop.symm.trans h)

/-- Settles O57: every command of an opcode is `onMessage`, whose two branches these are. -/
theorem onlyHeadMessagesStart : Obligations.OnlyHeadMessagesStart := by
  unfold Obligations.OnlyHeadMessagesStart
  refine ⟨fun c f src op s m r hcmd hf fr hm hop hs hh hc => ?_, fun c f src op s hcmd hf h => ?_⟩
  · obtain ⟨k, hexec⟩ := exec_of_opcodeCommand hcmd s
    rw [hexec]
    exact onMessage_refused hf fr hm hop hs hh hc k
  · obtain ⟨k, hexec⟩ := exec_of_opcodeCommand hcmd s
    rw [hexec]
    exact onMessage_of_not_head hf h k

end Sys2Proof.Machine
end

section
/-! PROOFS. What erasing a function's work leaves: nothing of that function, and the rest as it was (R16, R385, R386). -/

namespace Sys2Proof.Machine

/-! ## The wire -/

theorem OnWire.refl (s : State) : OnWire s s := ⟨rfl, List.prefix_refl _⟩

theorem OnWire.trans {a b c : State} (h : OnWire a b) (k : OnWire b c) : OnWire a c := by
  obtain ⟨hab, hout⟩ := h
  obtain ⟨hbc, hout'⟩ := k
  exact ⟨by rw [hbc, hab], hout.trans hout'⟩

theorem onWire_emit (s : State) (o : Out) : OnWire s (emit s o) := ⟨rfl, List.prefix_append _ _⟩

theorem onWire_updPort (s : State) (p : Nat) (g : Port → Port) : OnWire s (updPort s p g) := ⟨rfl, List.prefix_refl _⟩

theorem onWire_updMl (s : State) (g : MsgLayer → MsgLayer) : OnWire s (updMl s g) := ⟨rfl, List.prefix_refl _⟩

theorem onWire_sendOne (s : State) (n : Nat) : OnWire s (sendOne s n) := by
  unfold sendOne
  dsimp only
  split
  · exact OnWire.refl s
  · split
    · exact OnWire.refl s
    · split
      · exact OnWire.refl s
      · exact (onWire_updPort s n _).trans (onWire_emit _ _)

theorem onWire_pump (s : State) (n k : Nat) : OnWire s (pump s n k) := by
  induction k generalizing s with
  | zero => exact OnWire.refl s
  | succ k ih => exact (onWire_sendOne s n).trans (ih _)

theorem onWire_pumpPort (s : State) (n : Nat) : OnWire s (pumpPort s n) := onWire_pump s n _

theorem onWire_transmit (s : State) (n : Nat) (m : StrataMsg) : OnWire s (transmit s n m) :=
  ((onWire_emit s _).trans (onWire_updPort _ n _)).trans (onWire_pumpPort _ n)

theorem onWire_foldl {α : Type} {g : State → α → State} (hg : ∀ s a, OnWire s (g s a)) (l : List α) (s : State) :
    OnWire s (l.foldl g s) := by
  induction l generalizing s with
  | nil => exact OnWire.refl s
  | cons a l ih => exact (hg s a).trans (ih _)

theorem onWire_sendMsg (s : State) (t dst : Nat) (data : List Byte) : OnWire s (sendMsg s t dst data) := by
  unfold sendMsg
  dsimp only
  split
  · exact ((onWire_updMl s _).trans (onWire_updMl _ _)).trans (onWire_foldl (fun s p => onWire_transmit s p _) _ _)
  · split
    · exact (onWire_updMl s _).trans (onWire_transmit _ _ _)
    · exact onWire_updMl s _

theorem onWire_sendRelease (s : State) (h : Nat) (qs : List Nat) : OnWire s (sendRelease s h qs) :=
  onWire_foldl (fun s q => onWire_sendMsg s 0x12 q _) qs s

theorem onWire_releaseShards (s : State) (k : Contract) : OnWire s (releaseShards s k) := onWire_sendRelease s _ _

/-! ## The heads of the partitions -/

/-- What of the partitions the engines' telemetry does not touch: their numbers, settings and suspensions. -/
def partHeads (s : State) : List (Nat × PartCfg × Bool) := s.parts.map fun p => (p.id, p.cfg, p.suspended)

theorem partHeads_congr {s t : State} (h : t.parts = s.parts) : partHeads t = partHeads s := by rw [partHeads, h, partHeads]

@[simp] theorem partHeads_updSched (s : State) (g : Sched → Sched) : partHeads (updSched s g) = partHeads s := rfl

@[simp] theorem partHeads_updDie (s : State) (i : Nat) (g : Die → Die) : partHeads (updDie s i g) = partHeads s := rfl

@[simp] theorem partHeads_updCmd (s : State) (i : Nat) (g : Cmd → Cmd) : partHeads (updCmd s i g) = partHeads s := rfl

@[simp] theorem partHeads_updStats (s : State) (i : Nat) (g : PartStats → PartStats) : partHeads (updStats s i g) = partHeads s := by
  simp only [partHeads, updStats, updPart, modifyWhere, List.map_map]
  refine List.map_congr_left fun p _ => ?_
  dsimp only [Function.comp]
  split <;> rfl

theorem partHeads_foldl {α : Type} {g : State → α → State} (hg : ∀ s a, partHeads (g s a) = partHeads s) (l : List α) (s : State) :
    partHeads (l.foldl g s) = partHeads s := by
  induction l generalizing s with
  | nil => rfl
  | cons a l ih => exact (ih _).trans (hg s a)

@[simp] theorem partHeads_noteBlock (s : State) (c : Cmd) : partHeads (noteBlock s c) = partHeads s :=
  partHeads_foldl (fun s _ => partHeads_updStats s _ _) _ s

@[simp] theorem partHeads_addVTime (s : State) (o l n : Nat) : partHeads (addVTime s o l n) = partHeads s := by
  unfold addVTime
  dsimp only
  split <;> rfl

@[simp] theorem partHeads_raiseVTime (s : State) (o l : Nat) : partHeads (raiseVTime s o l) = partHeads s := by
  unfold raiseVTime raiseAmong
  split
  · rfl
  · split
    · rfl
    · dsimp only
      split <;> rfl

@[simp] theorem partHeads_chargeCmd (s : State) (c : Cmd) : partHeads (chargeCmd s c) = partHeads s := by
  unfold chargeCmd
  split
  · rfl
  · simp [addHeld]

@[simp] theorem partHeads_chargeAll (s : State) : partHeads (chargeAll s) = partHeads s := by
  have hcmds : partHeads (s.sched.cmds.foldl chargeCmd s) = partHeads s := partHeads_foldl partHeads_chargeCmd _ s
  unfold chargeAll chargeLoad
  split
  · exact hcmds
  · simpa [addHeld] using hcmds

@[simp] theorem partHeads_inForce (s : State) (g : Nat) : partHeads (inForce s g) = partHeads s := by
  unfold inForce
  dsimp only
  split
  · split
    · simp
    · rfl
  · rfl

@[simp] theorem partHeads_adoptIdle (s : State) : partHeads (adoptIdle s) = partHeads s :=
  partHeads_foldl (fun s g => by simp) _ s

@[simp] theorem partHeads_dropCmds (s : State) (ids : List Nat) : partHeads (dropCmds s ids) = partHeads s := by
  have hcharged := partHeads_foldl (fun s c => (partHeads_noteBlock (chargeCmd s c) c).trans (partHeads_chargeCmd s c))
    (s.sched.cmds.filter fun c => ids.contains c.id) s
  rw [dropCmds, partHeads_adoptIdle]
  exact hcharged

@[simp] theorem partHeads_readyAgain (s : State) (c : Cmd) (g : Cmd → Cmd) : partHeads (readyAgain s c g) = partHeads s := by
  rw [readyAgain, partHeads_adoptIdle]
  split <;> simp [dropAreas]

@[simp] theorem partHeads_dropCase (s : State) (key : Nat) : partHeads (dropCase s key) = partHeads s :=
  (partHeads_foldl (fun s c => partHeads_readyAgain s c _) _ _).trans (partHeads_dropCmds s _)

/-! ## Erasing -/

/-- `t` has gone through erasures from `s`: whatever of a function's work is in `t` was in `s`, the PCIe side, the safety unit and
memory are as they were, the firmware is served or not as before, and a mailbox that is not served is untouched. -/
structure Erases (s t : State) : Prop where
  cases : t.cases ⊆ s.cases
  msgs : t.msgs ⊆ s.msgs
  waits : t.waits ⊆ s.waits
  bg : t.bg ⊆ s.bg
  contracts : t.contracts ⊆ s.contracts
  models : t.models ⊆ s.models
  tables : t.tables ⊆ s.tables
  indexes : t.indexes.map Index.owner ⊆ s.indexes.map Index.owner
  pfxs : t.pfxs.map Pfx.owner ⊆ s.pfxs.map Pfx.owner
  pcie : t.pcie = s.pcie
  safety : t.safety = s.safety
  mem : t.mem = s.mem
  served : served t = served s
  boxes : t.mail.length = s.mail.length
  quiet : ∀ g, (mbOf s g).st.running = false → mbOf t g = mbOf s g

theorem Erases.refl (s : State) : Erases s s where
  cases := List.Subset.refl _
  msgs := List.Subset.refl _
  waits := List.Subset.refl _
  bg := List.Subset.refl _
  contracts := List.Subset.refl _
  models := List.Subset.refl _
  tables := List.Subset.refl _
  indexes := List.Subset.refl _
  pfxs := List.Subset.refl _
  pcie := rfl
  safety := rfl
  mem := rfl
  served := rfl
  boxes := rfl
  quiet _ _ := rfl

theorem Erases.trans {a b c : State} (h : Erases a b) (k : Erases b c) : Erases a c where
  cases := List.Subset.trans k.cases h.cases
  msgs := List.Subset.trans k.msgs h.msgs
  waits := List.Subset.trans k.waits h.waits
  bg := List.Subset.trans k.bg h.bg
  contracts := List.Subset.trans k.contracts h.contracts
  models := List.Subset.trans k.models h.models
  tables := List.Subset.trans k.tables h.tables
  indexes := List.Subset.trans k.indexes h.indexes
  pfxs := List.Subset.trans k.pfxs h.pfxs
  pcie := k.pcie.trans h.pcie
  safety := k.safety.trans h.safety
  mem := k.mem.trans h.mem
  served := k.served.trans h.served
  boxes := k.boxes.trans h.boxes
  quiet g hg := (k.quiet g (by rw [h.quiet g hg]; exact hg)).trans (h.quiet g hg)

theorem erases_foldl {α : Type} {g : State → α → State} (hg : ∀ s a, Erases s (g s a)) (l : List α) (s : State) :
    Erases s (l.foldl g s) := by
  induction l generalizing s with
  | nil => exact Erases.refl s
  | cons a l ih => exact (hg s a).trans (ih _)

/-- An operation that keeps the objects and the served mailboxes' states erases nothing. -/
theorem erases_of_retires {s t : State} (h : Retires s t) : Erases s t := by
  rw [h.1]
  exact { Erases.refl s with }

theorem erases_of_onWire {s t : State} (h : OnWire s t) : Erases s t := by
  rw [h.1]
  exact { Erases.refl s with }

theorem erases_of_posts {s t : State} (h : Posts s t) (hq : ∀ g, (mbOf s g).st.running = false → mbOf t g = mbOf s g) :
    Erases s t := by
  obtain ⟨heq, -, hlen⟩ := h
  rw [heq]
  exact { Erases.refl s with boxes := hlen, quiet := hq }

/-- An event touches one mailbox, and none that is not served (R32). -/
theorem mbOf_postEvent_of_quiet (s : State) (f : Nat) (c : EventCode) (r : List Byte) {g : Nat}
    (h : (mbOf s g).st.running = false) : mbOf (postEvent s f c r) g = mbOf s g := by
  rcases eq_or_ne g f with rfl | hg
  · unfold postEvent
    rw [if_pos (by simp [h])]
  · have hfire : mbOf (fireVector (updMb s f fun mb => { mb with ev := setPending mb.ev c }) f (eventVector c)) g = mbOf s g :=
      (mbOf_fireVector_ne _ _ hg).trans (mbOf_updMb_ne s f g _ hg)
    unfold postEvent
    dsimp only
    split
    · rfl
    · split
      · exact hfire
      · split
        · exact (mbOf_updMb_ne _ f g _ hg).trans hfire
        · split
          · exact (mbOf_updMb_ne _ f g _ hg).trans hfire
          · obtain ⟨-, -, hothers, -⟩ := rest_haltMailbox
              (fireVector (updMb s f fun mb => { mb with ev := setPending mb.ev c }) f (eventVector c)) f 5 0
            exact (hothers g hg).trans hfire

theorem erases_postEvent (s : State) (f : Nat) (c : EventCode) (r : List Byte) : Erases s (postEvent s f c r) :=
  erases_of_posts (posts_postEvent s f c r) fun _ hg => mbOf_postEvent_of_quiet s f c r hg

theorem erases_postAll (s : State) (c : EventCode) (r : List Byte) : Erases s (postAll s c r) :=
  erases_foldl (fun s f => erases_postEvent s f c r) _ s

/-- The proper state is one in which the firmware is served. -/
theorem runState_properState (s : State) : runState (properState s) = true := by
  unfold properState
  (repeat' split) <;> rfl

/-- A change of the sequencer and the pins that leaves the firmware served or not. -/
theorem erases_boot (s : State) (b : Boot) (p : Pins)
    (h : (runState b.state || decide (b.state = .safeHold)) = served s) : Erases s { s with boot := b, pins := p } :=
  { Erases.refl s with served := h }

/-- A change of state among those in which the firmware is served. -/
theorem erases_setState (s : State) {m : ModState} (hrun : runState s.boot.state = true) (hm : runState m = true) :
    Erases s (setState s m) := by
  by_cases hsame : s.boot.state = m
  · rw [setState, if_pos hsame]
    exact Erases.refl s
  · refine (erases_boot s _ _ ?_).trans (erases_of_posts (setState_changes s m hsame) fun g hg => ?_)
    · simp [served, hrun, hm]
    · rw [setState, if_neg hsame]
      exact (erases_postAll _ _ _).quiet g hg

theorem erases_settleState (s : State) : Erases s (settleState s) := by
  unfold settleState
  split
  · rename_i hrun
    exact erases_setState s hrun (runState_properState s)
  · exact Erases.refl s

theorem erases_reapPfxs (s : State) : Erases s (reapPfxs s) :=
  { Erases.refl s with pfxs := List.map_subset _ (List.filter_subset_self _) }

theorem map_modifyWhere {α β : Type} (l : List α) (p : α → Bool) {g : α → α} {v : α → β} (hv : ∀ x, v (g x) = v x) :
    (modifyWhere l p g).map v = l.map v := by
  rw [modifyWhere, List.map_map]
  refine List.map_congr_left fun x _ => ?_
  dsimp only [Function.comp]
  split
  · exact hv x
  · rfl

theorem erases_modifyPfxs (s : State) (p : Pfx → Bool) {g : Pfx → Pfx} (hg : ∀ x, (g x).owner = x.owner) :
    Erases s { s with pfxs := modifyWhere s.pfxs p g } :=
  { Erases.refl s with pfxs := by rw [map_modifyWhere s.pfxs p hg]; exact List.Subset.refl _ }

theorem erases_dropPfx (s : State) (c : Case) (whole : Bool) : Erases s (dropPfx s c whole) := by
  unfold dropPfx
  exact Erases.trans (erases_modifyPfxs s _ (by exact fun _ => rfl)) (erases_reapPfxs _)

theorem erases_reapGens (s : State) : Erases s (reapGens s) := by
  refine { Erases.refl s with indexes := ?_ }
  rw [reapGens, List.map_map, List.map_congr_left (g := Index.owner) fun x _ => ?_]
  · exact List.Subset.refl _
  · dsimp only [Function.comp]
    split
    · split <;> rfl
    · rfl

theorem erases_updIndex (s : State) (h : Nat) {g : Index → Index} (hg : ∀ x, (g x).owner = x.owner) : Erases s (updIndex s h g) :=
  { Erases.refl s with indexes := by rw [updIndex, map_modifyWhere s.indexes _ hg]; exact List.Subset.refl _ }

theorem erases_removeContract (s : State) (h : Nat) : Erases s (removeContract s h) := by
  unfold removeContract
  split
  · exact Erases.refl s
  · dsimp only
    split
    · exact (erases_of_onWire (onWire_releaseShards s _)).trans
        { Erases.refl (releaseShards s _) with contracts := List.filter_subset_self _ }
    · exact { Erases.refl s with contracts := List.filter_subset_self _ }

theorem erases_clearBusy (s : State) (k : BgKind) : Erases s (clearBusy s k) := by
  unfold clearBusy
  split
  · exact erases_updIndex s _ fun _ => rfl
  · exact erases_updIndex s _ fun _ => rfl
  · exact erases_boot s _ s.pins rfl
  · exact Erases.refl s

theorem erases_undoBg (s : State) (b : BgOp) : Erases s (undoBg s b) := by
  unfold undoBg
  split
  · exact erases_updIndex s _ fun _ => rfl
  · dsimp only
    split
    · exact ((erases_removeContract s _).trans (erases_settleState _)).trans
        { Erases.refl (settleState (removeContract s _)) with
          tables := List.filter_subset_self _, indexes := List.map_subset _ (List.filter_subset_self _) }
    · exact { Erases.refl s with tables := List.filter_subset_self _, indexes := List.map_subset _ (List.filter_subset_self _) }
  · split
    · exact erases_boot s _ s.pins rfl
    · exact Erases.refl s
  · exact erases_clearBusy s _

theorem erases_abandonBg (s : State) (p : BgOp → Bool) : Erases s (abandonBg s p) := by
  refine (erases_foldl erases_undoBg (s.bg.filter p) s).trans (Erases.trans ?_ (erases_reapGens _))
  exact { Erases.refl _ with bg := List.filter_subset_self _ }

/-- The objects of a partition taken out of the lists that hold them. -/
def withoutObjects (s : State) (i : Nat) : State :=
  { s with
    models := s.models.filter fun m => m.owner != i
    tables := s.tables.filter fun t => t.owner != i
    indexes := s.indexes.filter fun x => x.owner != i
    pfxs := s.pfxs.filter fun p => p.owner != i }

theorem erases_withoutObjects (s : State) (i : Nat) : Erases s (withoutObjects s i) :=
  { Erases.refl s with
    models := List.filter_subset_self _
    tables := List.filter_subset_self _
    indexes := List.map_subset _ (List.filter_subset_self _)
    pfxs := List.map_subset _ (List.filter_subset_self _) }

/-- The contracts of a partition removed. -/
def withoutContracts (s : State) (i : Nat) : State :=
  ((s.contracts.filter fun k => k.owner == i).map Contract.handle).foldl removeContract s

theorem freeObjects_eq (s : State) (i : Nat) :
    freeObjects s i = dropDeadBg (abandonBg (withoutObjects (withoutContracts s i) i) fun b => b.owner == i) := rfl

theorem erases_dropDeadBg (s : State) : Erases s (dropDeadBg s) := erases_of_retires (retires_dropCmds s _)

theorem erases_freeObjects (s : State) (i : Nat) : Erases s (freeObjects s i) :=
  (((erases_foldl erases_removeContract _ s).trans (erases_withoutObjects _ i)).trans (erases_abandonBg _ _)).trans
    (erases_dropDeadBg _)

/-- A case taken out of the live ones. -/
def withoutCase (s : State) (key : Nat) : State := { s with cases := s.cases.filter fun x => x.hd.key != key }

theorem erases_withoutCase (s : State) (key : Nat) : Erases s (withoutCase s key) :=
  { Erases.refl s with cases := List.filter_subset_self _ }

theorem erases_eraseCase (s : State) (c : Case) : Erases s (eraseCase s c) :=
  ((erases_of_retires (retires_dropCase s c.hd.key)).trans (erases_withoutCase _ _)).trans (erases_dropPfx _ c true)

/-- The opens of a function that wait taken out. -/
def withoutOpens (s : State) (f : Nat) : State :=
  { s with strata := { s.strata with opens := s.strata.opens.filter fun o => o.f != f } }

theorem erases_withoutOpens (s : State) (f : Nat) : Erases s (withoutOpens s f) := { Erases.refl s with }

theorem erases_eraseOpens (s : State) (f : Nat) : Erases s (eraseOpens s f) := by
  unfold eraseOpens
  refine (erases_withoutOpens s f).trans (erases_foldl (fun s o => ?_) _ _)
  exact erases_of_onWire (onWire_sendRelease s o.handle _)

theorem erases_withoutMessages (s : State) (f : Nat) : Erases s (withoutMessages s f) :=
  { Erases.refl s with msgs := List.filter_subset_self _, waits := List.filter_subset_self _ }

theorem erases_freeCairns (s : State) (p : Partition) : Erases s (freeCairns s p) := { Erases.refl s with }

/-- The cases of a function removed. -/
def withoutCases (s : State) (f : Nat) : State := (s.cases.filter fun c => c.hd.owner == f).foldl eraseCase s

/-- What `eraseWork` does before it frees the partition's cairns. -/
def withoutWork (s : State) (f : Nat) : State :=
  reapPfxs (reapGens (freeObjects (withoutMessages (eraseOpens (withoutCases s f) f) f) f))

theorem erases_withoutWork (s : State) (f : Nat) : Erases s (withoutWork s f) :=
  (((((erases_foldl erases_eraseCase _ s).trans (erases_eraseOpens _ f)).trans (erases_withoutMessages _ f)).trans
    (erases_freeObjects _ f)).trans (erases_reapGens _)).trans (erases_reapPfxs _)

/-- `eraseWork` frees the cairns of the function's partition last. -/
theorem eraseWork_eq_elim (s : State) (f : Nat) :
    eraseWork s f = (partOf (withoutWork s f) f).elim (withoutWork s f) (freeCairns (withoutWork s f)) := by
  unfold eraseWork
  dsimp only
  split <;> rename_i h <;> rw [withoutWork, withoutCases, withoutMessages, h] <;> rfl

theorem erases_eraseWork_withoutWork (s : State) (f : Nat) : Erases (withoutWork s f) (eraseWork s f) := by
  rw [eraseWork_eq_elim]
  cases partOf (withoutWork s f) f with
  | none => exact Erases.refl _
  | some p => exact erases_freeCairns _ p

theorem erases_eraseWork (s : State) (f : Nat) : Erases s (eraseWork s f) :=
  (erases_withoutWork s f).trans (erases_eraseWork_withoutWork s f)

/-! ## Nothing of a function is left -/

/-- A state with nothing of function `f`: none of its cases, messages, waits, BACKGROUND operations, contracts and objects. -/
def Cleared (f : Nat) (t : State) : Prop :=
  (∀ c ∈ t.cases, c.hd.owner ≠ f) ∧ (∀ m ∈ t.msgs, m.f ≠ f) ∧ (∀ w ∈ t.waits, w.owner ≠ f) ∧ (∀ b ∈ t.bg, b.owner ≠ f) ∧
  (∀ k ∈ t.contracts, k.owner ≠ f) ∧ (∀ m ∈ t.models, m.owner ≠ f) ∧ (∀ x ∈ t.tables, x.owner ≠ f) ∧
  (∀ x ∈ t.indexes, x.owner ≠ f) ∧ (∀ p ∈ t.pfxs, p.owner ≠ f)

theorem Cleared.of_erases {f : Nat} {s t : State} (h : Cleared f s) (he : Erases s t) : Cleared f t := by
  obtain ⟨hcases, hmsgs, hwaits, hbg, hcontracts, hmodels, htables, hindexes, hpfxs⟩ := h
  refine ⟨fun c hc => hcases c (he.cases hc), fun m hm => hmsgs m (he.msgs hm), fun w hw => hwaits w (he.waits hw),
    fun b hb => hbg b (he.bg hb), fun k hk => hcontracts k (he.contracts hk), fun m hm => hmodels m (he.models hm),
    fun x hx => htables x (he.tables hx), fun x hx => ?_, fun p hp => ?_⟩
  · obtain ⟨y, hy, hyx⟩ := List.mem_map.1 (he.indexes (List.mem_map_of_mem hx))
    exact hyx ▸ hindexes y hy
  · obtain ⟨q, hq, hqp⟩ := List.mem_map.1 (he.pfxs (List.mem_map_of_mem hp))
    exact hqp ▸ hpfxs q hq

theorem eraseCase_cases (s : State) (c : Case) : (eraseCase s c).cases = s.cases.filter fun x => x.hd.key != c.hd.key := by
  show (dropCase s c.hd.key).cases.filter _ = _
  rw [(retires_dropCase s c.hd.key).1]

theorem key_ne_of_mem_foldl_eraseCase {l : List Case} {s : State} {x : Case} (hx : x ∈ (l.foldl eraseCase s).cases) :
    ∀ c ∈ l, x.hd.key ≠ c.hd.key := by
  induction l generalizing s with
  | nil => exact fun c hc => absurd hc List.not_mem_nil
  | cons c l ih =>
    rw [List.foldl_cons] at hx
    have hmem := (erases_foldl erases_eraseCase l (eraseCase s c)).cases hx
    rw [eraseCase_cases, List.mem_filter] at hmem
    have hc : x.hd.key ≠ c.hd.key := by simpa using hmem.2
    exact List.forall_mem_cons.2 ⟨hc, ih hx⟩

theorem removeContract_contracts (s : State) (h : Nat) : ∀ k ∈ (removeContract s h).contracts, k.handle ≠ h := by
  intro k hk
  unfold removeContract at hk
  split at hk
  · rename_i hnone
    simpa using List.find?_eq_none.1 hnone k hk
  · simpa using (List.mem_filter.1 hk).2

theorem handle_ne_of_mem_foldl_removeContract {l : List Nat} {s : State} {k : Contract}
    (hk : k ∈ (l.foldl removeContract s).contracts) : ∀ h ∈ l, k.handle ≠ h := by
  induction l generalizing s with
  | nil => exact nofun
  | cons h l ih =>
    rw [List.foldl_cons] at hk
    exact List.forall_mem_cons.2 ⟨removeContract_contracts s h k ((erases_foldl erases_removeContract l _).contracts hk), ih hk⟩

theorem owner_ne_of_mem_withoutCases {s : State} {f : Nat} : ∀ c ∈ (withoutCases s f).cases, c.hd.owner ≠ f := fun c hc how =>
  key_ne_of_mem_foldl_eraseCase hc c
    (List.mem_filter.2 ⟨(erases_foldl erases_eraseCase _ s).cases hc, by simpa using how⟩) rfl

theorem owner_ne_of_mem_withoutContracts {s : State} {f : Nat} : ∀ k ∈ (withoutContracts s f).contracts, k.owner ≠ f :=
  fun k hk how => handle_ne_of_mem_foldl_removeContract hk k.handle
    (List.mem_map_of_mem (List.mem_filter.2 ⟨(erases_foldl erases_removeContract _ s).contracts hk, by simpa using how⟩)) rfl

/-- What a filter by owner keeps. -/
theorem ne_of_mem_filter_bne {α : Type} {l : List α} {v : α → Nat} {f : Nat} : ∀ x ∈ l.filter (fun x => v x != f), v x ≠ f :=
  fun _ hx => by simpa using (List.mem_filter.1 hx).2

theorem abandonBg_owners (s : State) (f : Nat) : ∀ b ∈ (abandonBg s fun b => b.owner == f).bg, b.owner ≠ f :=
  fun _ hb => by simpa using (List.mem_filter.1 hb).2

theorem cleared_withoutWork (s : State) (f : Nat) : Cleared f (withoutWork s f) := by
  have hfreed := erases_freeObjects (withoutMessages (eraseOpens (withoutCases s f) f) f) f
  have hreaped := (erases_reapGens (freeObjects (withoutMessages (eraseOpens (withoutCases s f) f) f) f)).trans (erases_reapPfxs _)
  generalize hu : withoutMessages (eraseOpens (withoutCases s f) f) f = u at hfreed hreaped
  have hwork : withoutWork s f = reapPfxs (reapGens (freeObjects u f)) := by rw [← hu]; rfl
  have habandoned := (erases_abandonBg (withoutObjects (withoutContracts u f) f) fun b => b.owner == f).trans (erases_dropDeadBg _)
  rw [hwork]
  refine Cleared.of_erases ⟨fun c hc => ?_, fun m hm => ?_, fun w hw => ?_, fun b hb => ?_, fun k hk => ?_, fun m hm => ?_, fun x hx => ?_,
    fun x hx => ?_, fun p hp => ?_⟩ hreaped
  · have hc := hfreed.cases hc
    rw [← hu] at hc
    exact owner_ne_of_mem_withoutCases c ((erases_eraseOpens _ f).cases hc)
  · have hm := hfreed.msgs hm
    rw [← hu] at hm
    exact ne_of_mem_filter_bne m hm
  · have hw := hfreed.waits hw
    rw [← hu] at hw
    exact ne_of_mem_filter_bne w hw
  · exact abandonBg_owners _ f b ((erases_dropDeadBg _).bg hb)
  · exact owner_ne_of_mem_withoutContracts k (habandoned.contracts hk)
  · exact ne_of_mem_filter_bne m (habandoned.models hm)
  · exact ne_of_mem_filter_bne x (habandoned.tables hx)
  · obtain ⟨y, hy, hyx⟩ := List.mem_map.1 (habandoned.indexes (List.mem_map_of_mem hx))
    exact hyx ▸ ne_of_mem_filter_bne y hy
  · obtain ⟨q, hq, hqp⟩ := List.mem_map.1 (habandoned.pfxs (List.mem_map_of_mem hp))
    exact hqp ▸ ne_of_mem_filter_bne q hq

theorem cleared_eraseWork (s : State) (f : Nat) : Cleared f (eraseWork s f) :=
  (cleared_withoutWork s f).of_erases (erases_eraseWork_withoutWork s f)

/-! ## The partitions of a function's erasure -/

theorem partHeads_of_onWire {s t : State} (h : OnWire s t) : partHeads t = partHeads s := partHeads_congr (by rw [h.1])

theorem partHeads_of_posts {s t : State} (h : Posts s t) : partHeads t = partHeads s := partHeads_congr (by rw [h.1])

@[simp] theorem partHeads_settleState (s : State) : partHeads (settleState s) = partHeads s := by
  unfold settleState
  split
  · by_cases h : s.boot.state = properState s
    · rw [setState, if_pos h]
    · exact (partHeads_of_posts (setState_changes s _ h)).trans rfl
  · rfl

@[simp] theorem partHeads_removeContract (s : State) (h : Nat) : partHeads (removeContract s h) = partHeads s := by
  unfold removeContract
  split
  · rfl
  · rename_i k _
    dsimp only
    split
    · change partHeads (releaseShards s k) = partHeads s
      exact partHeads_of_onWire (onWire_releaseShards s k)
    · rfl

@[simp] theorem partHeads_undoBg (s : State) (b : BgOp) : partHeads (undoBg s b) = partHeads s := by
  unfold undoBg
  split
  · rfl
  · dsimp only
    split
    · exact (partHeads_settleState _).trans (partHeads_removeContract s _)
    · rfl
  · split <;> rfl
  · unfold clearBusy
    split <;> rfl

@[simp] theorem partHeads_freeObjects (s : State) (i : Nat) : partHeads (freeObjects s i) = partHeads s := by
  have hcontracts : partHeads (withoutContracts s i) = partHeads s := partHeads_foldl partHeads_removeContract _ s
  have hbg : partHeads (abandonBg (withoutObjects (withoutContracts s i) i) fun b => b.owner == i) = partHeads s :=
    (partHeads_foldl partHeads_undoBg _ _).trans hcontracts
  rw [freeObjects_eq, dropDeadBg, partHeads_dropCmds, hbg]

@[simp] theorem partHeads_eraseCase (s : State) (c : Case) : partHeads (eraseCase s c) = partHeads s := by
  change partHeads (dropCase s c.hd.key) = partHeads s
  exact partHeads_dropCase s c.hd.key

@[simp] theorem partHeads_eraseOpens (s : State) (f : Nat) : partHeads (eraseOpens s f) = partHeads s := by
  unfold eraseOpens
  dsimp only
  rw [partHeads_foldl fun s o => partHeads_of_onWire (onWire_sendRelease s _ _)]
  rfl

@[simp] theorem partHeads_reapPfxs (s : State) : partHeads (reapPfxs s) = partHeads s := rfl

@[simp] theorem partHeads_reapGens (s : State) : partHeads (reapGens s) = partHeads s := rfl

@[simp] theorem partHeads_withoutMessages (s : State) (f : Nat) : partHeads (withoutMessages s f) = partHeads s := rfl

@[simp] theorem partHeads_freeCairns (s : State) (p : Partition) : partHeads (freeCairns s p) = partHeads s := rfl

@[simp] theorem partHeads_withoutCases (s : State) (f : Nat) : partHeads (withoutCases s f) = partHeads s :=
  partHeads_foldl partHeads_eraseCase _ s

theorem partHeads_withoutWork (s : State) (f : Nat) : partHeads (withoutWork s f) = partHeads s := by
  simp [withoutWork]

theorem partHeads_eraseWork (s : State) (f : Nat) : partHeads (eraseWork s f) = partHeads s := by
  rw [eraseWork_eq_elim]
  cases partOf (withoutWork s f) f with
  | none => exact partHeads_withoutWork s f
  | some p => exact (partHeads_freeCairns _ p).trans (partHeads_withoutWork s f)

/-- A partition whose head is kept is still there with its settings. -/
theorem partOf_of_heads {s t : State} (h : partHeads t = partHeads s) {f : Nat} {p : Partition} (hp : partOf s f = some p) :
    ∃ q, partOf t f = some q ∧ q.cfg = p.cfg := by
  have hfind (u : State) : (partHeads u).find? (fun x => x.1 == f) = (partOf u f).map fun p => (p.id, p.cfg, p.suspended) := by
    rw [partHeads, List.find?_map, partOf]
    rfl
  have hq : (partOf t f).map (fun p => (p.id, p.cfg, p.suspended)) = some (p.id, p.cfg, p.suspended) := by
    rw [← hfind, h, hfind, hp]
    rfl
  obtain ⟨q, hq, hqp⟩ := Option.map_eq_some_iff.1 hq
  simp only [Prod.mk.injEq] at hqp
  exact ⟨q, hq, hqp.2.1⟩

end Sys2Proof.Machine
end

section
/-! PROOFS. Function-level resets, VF Enable and D3hot (R16, R385, R386, R390). -/

namespace Sys2Proof.Machine

/-! ## Windows at their reset values -/

/-- A window at its reset values, served or not from then on. -/
def freshWindow (run : Bool) : Mailbox := { Mailbox.reset with st := { Mailbox.reset.st with running := run } }

theorem mbOf_resetWindow (s : State) {f : Nat} (run : Bool) (h : f < s.mail.length) :
    mbOf (resetWindow s f run) f = freshWindow run := mbOf_updMb s f _ h

theorem mbOf_resetWindow_ne (s : State) {f g : Nat} (run : Bool) (h : g ≠ f) : mbOf (resetWindow s f run) g = mbOf s g :=
  mbOf_updMb_ne s f g _ h

/-- The windows of the VFs among some functions reset, each served from then on as `run` says. It is irreducible so that no
proof runs it over all the functions. -/
@[irreducible] def resetVfs (run : State → Nat → Bool) (l : List Nat) (s : State) : State :=
  l.foldl (fun s f => if f = 0 then s else resetWindow s f (run s f)) s

theorem resetVfs_cons (run : State → Nat → Bool) (f : Nat) (l : List Nat) (s : State) :
    resetVfs run (f :: l) s = resetVfs run l (if f = 0 then s else resetWindow s f (run s f)) := by
  unfold resetVfs
  rfl

theorem resetVfs_nil (run : State → Nat → Bool) (s : State) : resetVfs run [] s = s := by
  unfold resetVfs
  rfl

/-- Resetting windows touches the mailboxes and the PCIe side, where VF Enable and D3hot stay. -/
theorem resetVfs_frame (run : State → Nat → Bool) (l : List Nat) (s : State) :
    resetVfs run l s = { s with
      mail := (resetVfs run l s).mail
      pcie := { s.pcie with atc := (resetVfs run l s).pcie.atc, fns := (resetVfs run l s).pcie.fns } } := by
  induction l generalizing s with
  | nil => rw [resetVfs_nil]
  | cons f l ih =>
    rw [resetVfs_cons, ih]
    split <;> rfl

theorem mail_length_resetWindow (s : State) (f : Nat) (run : Bool) : (resetWindow s f run).mail.length = s.mail.length :=
  modifyAt_length _ _ _

theorem mbOf_resetVfs_of_not_mem (run : State → Nat → Bool) {l : List Nat} (s : State) {g : Nat} (h : g = 0 ∨ g ∉ l) :
    mbOf (resetVfs run l s) g = mbOf s g := by
  induction l generalizing s with
  | nil => rw [resetVfs_nil]
  | cons f l ih =>
    rw [resetVfs_cons, ih _ (h.imp_right fun hn hm => hn (List.mem_cons_of_mem _ hm))]
    split
    · rfl
    · rename_i hf
      refine mbOf_resetWindow_ne s _ ?_
      rintro rfl
      exact h.elim hf fun hn => hn List.mem_cons_self

/-- Each window of a VF in the list is at its reset values, when whether it is served does not depend on the windows. -/
theorem mbOf_resetVfs_of_mem {run : State → Nat → Bool} (hrun : ∀ s f b g, run (resetWindow s f b) g = run s g) {l : List Nat}
    (s : State) {g : Nat} (hg : g ≠ 0) (hmem : g ∈ l) (hlen : g < s.mail.length) :
    mbOf (resetVfs run l s) g = freshWindow (run s g) := by
  induction l generalizing s with
  | nil => exact absurd hmem List.not_mem_nil
  | cons f l ih =>
    rw [resetVfs_cons]
    by_cases hl : g ∈ l
    · by_cases hf : f = 0
      · rw [if_pos hf, ih s hl hlen]
      · rw [if_neg hf, ih _ hl ((mail_length_resetWindow s f _).symm ▸ hlen), hrun]
    · have hgf : g = f := (List.mem_cons.1 hmem).resolve_right hl
      subst hgf
      rw [if_neg hg, mbOf_resetVfs_of_not_mem run _ (.inr hl), mbOf_resetWindow s _ hlen]

theorem firmwareRuns_resetWindow (s : State) (f : Nat) (b : Bool) : firmwareRuns (resetWindow s f b) = firmwareRuns s := rfl

@[simp] theorem partHeads_resetWindow (s : State) (f : Nat) (b : Bool) : partHeads (resetWindow s f b) = partHeads s := rfl

/-! ## FLR_VF (R385) -/

section
variable {s : State} {f : Nat} (hf : 1 ≤ f ∧ f ≤ 32)
include hf

theorem exec_flrVf_of_absent (h : s.pcie.linkUp = false ∨ funcExists s f = false) : exec (.flrVf f) s = .next s := by
  rw [exec_flrVf, execFlrVf, guardUnit, if_pos (by simpa using hf), if_pos (by simpa using h)]

variable (hlink : s.pcie.linkUp = true) (hex : funcExists s f = true)
include hlink hex

theorem exec_flrVf_of_not_run (hrun : firmwareRuns s = false) : exec (.flrVf f) s = .next (resetWindow s f false) := by
  rw [exec_flrVf, execFlrVf, guardUnit, if_pos (by simpa using hf), if_neg (by simp [hlink, hex]), if_pos (by simp [hrun])]

/-- The reset of a VF whose firmware runs ends its work, returns its window and tells the PF. -/
theorem exec_flrVf_of_run (hrun : firmwareRuns s = true) :
    ∃ t, exec (.flrVf f) s = .next t ∧ Erases (resetWindow (eraseWork s f) f true) t ∧ partHeads t = partHeads s := by
  have hheads : partHeads (settleState (resetWindow (eraseWork s f) f true)) = partHeads s :=
    ((partHeads_settleState _).trans (partHeads_resetWindow _ f true)).trans (partHeads_eraseWork s f)
  rw [exec_flrVf, execFlrVf, guardUnit, if_pos (by simpa using hf), if_neg (by simp [hlink, hex]), if_neg (by simp [hrun])]
  refine ⟨_, rfl, ?_⟩
  dsimp only
  split
  · exact ⟨(erases_settleState _).trans (erases_postEvent _ _ _ _), (partHeads_of_posts (posts_postEvent _ _ _ _)).trans hheads⟩
  · exact ⟨erases_settleState _, hheads⟩

end

theorem cleared_resetWindow {s : State} {g : Nat} (h : Cleared g s) (f : Nat) (run : Bool) : Cleared g (resetWindow s f run) := h

/-! ## VF Enable cleared (R386) -/

/-- A partition taken out of the list. -/
def withoutPart (s : State) (i : Nat) : State := { s with parts := s.parts.filter fun x => x.id != i }

theorem erases_withoutPart (s : State) (i : Nat) : Erases s (withoutPart s i) := { Erases.refl s with }

theorem partHeads_withoutPart (s : State) (i : Nat) : partHeads (withoutPart s i) = (partHeads s).filter fun x => x.1 != i := by
  rw [partHeads, partHeads, List.filter_map]
  rfl

theorem erases_clearAccounts (s : State) (i : Nat) : Erases s (clearAccounts s i) := { Erases.refl s with }

@[simp] theorem partHeads_clearAccounts (s : State) (i : Nat) : partHeads (clearAccounts s i) = partHeads s := rfl

/-- One partition destroyed with no record and no completion. -/
def erasePart (s : State) (p : Partition) : State :=
  postEvent (clearAccounts (withoutPart (eraseWork s p.id) p.id) p.id) 0 .partitionChanged
    (leBytes 1 p.id ++ leBytes 1 (givenTiers p.cfg) ++ leBytes 1 5)

theorem eraseParts_eq (s : State) : eraseParts s = (s.parts.filter fun p => p.id != 0).foldl erasePart s := by
  unfold eraseParts erasePart withoutPart
  rfl

theorem erases_erasePart (s : State) (p : Partition) : Erases s (erasePart s p) :=
  (((erases_eraseWork s p.id).trans (erases_withoutPart _ p.id)).trans (erases_clearAccounts _ p.id)).trans
    (erases_postEvent _ _ _ _)

theorem partHeads_erasePart (s : State) (p : Partition) :
    partHeads (erasePart s p) = (partHeads s).filter fun x => x.1 != p.id := by
  rw [erasePart, partHeads_of_posts (posts_postEvent _ _ _ _), partHeads_clearAccounts, partHeads_withoutPart, partHeads_eraseWork]

theorem mem_partHeads_foldl_erasePart {l : List Partition} {s : State} {x : Nat × PartCfg × Bool}
    (hx : x ∈ partHeads (l.foldl erasePart s)) : x ∈ partHeads s ∧ ∀ p ∈ l, x.1 ≠ p.id := by
  induction l generalizing s with
  | nil => exact ⟨hx, fun p hp => absurd hp List.not_mem_nil⟩
  | cons p l ih =>
    rw [List.foldl_cons] at hx
    obtain ⟨hmem, hrest⟩ := ih hx
    rw [partHeads_erasePart, List.mem_filter] at hmem
    exact ⟨hmem.1, List.forall_mem_cons.2 ⟨by simpa using hmem.2, hrest⟩⟩

/-- Only partition 0 is left. -/
theorem id_of_mem_eraseParts (s : State) : ∀ x ∈ partHeads (eraseParts s), x.1 = 0 := by
  intro x hx
  rw [eraseParts_eq] at hx
  obtain ⟨hmem, hne⟩ := mem_partHeads_foldl_erasePart hx
  obtain ⟨p, hp, rfl⟩ := List.mem_map.1 hmem
  by_contra h0
  exact hne p (List.mem_filter.2 ⟨hp, by simpa using h0⟩) rfl

theorem erases_eraseParts (s : State) : Erases s (eraseParts s) := by
  rw [eraseParts_eq]
  exact erases_foldl erases_erasePart _ s

/-- VF Enable taken away, with every VF's window and messages. -/
def vfsGone (s : State) : State :=
  let t := resetVfs (fun _ _ => false) (List.range 33) s
  { t with msgs := t.msgs.filter fun m => m.f == 0, pcie := { t.pcie with vfEnable := false, numVfs := 0 } }

theorem clearVfs_eq (s : State) : clearVfs s = if firmwareRuns (vfsGone s) then eraseParts (vfsGone s) else vfsGone s := by
  unfold clearVfs vfsGone resetVfs
  rfl

theorem vfsGone_frame (s : State) :
    vfsGone s = { s with
      mail := (vfsGone s).mail, msgs := s.msgs.filter fun m => m.f == 0
      pcie := { s.pcie with vfEnable := false, numVfs := 0, atc := (vfsGone s).pcie.atc, fns := (vfsGone s).pcie.fns } } := by
  unfold vfsGone
  dsimp only
  rw [resetVfs_frame]

theorem firmwareRuns_of_erases {s t : State} (h : Erases s t) : firmwareRuns t = firmwareRuns s := by
  rw [firmwareRuns, firmwareRuns, h.served, h.safety]

theorem vfsGone_pcie (s : State) :
    (vfsGone s).pcie.vfEnable = false ∧ (vfsGone s).pcie.numVfs = 0 ∧ (vfsGone s).pcie.d3hot = s.pcie.d3hot := by
  rw [vfsGone_frame]
  exact ⟨rfl, rfl, rfl⟩

theorem vfsGone_msgs (s : State) : (vfsGone s).msgs = s.msgs.filter fun m => m.f == 0 := by rw [vfsGone_frame]

theorem vfsGone_mem (s : State) : (vfsGone s).mem = s.mem := by rw [vfsGone_frame]

theorem firmwareRuns_vfsGone (s : State) : firmwareRuns (vfsGone s) = firmwareRuns s := by
  have hboot : (vfsGone s).boot = s.boot := by rw [vfsGone_frame]
  have hsafety : (vfsGone s).safety = s.safety := by rw [vfsGone_frame]
  simp only [firmwareRuns, served, hboot, hsafety]

theorem mbOf_vfsGone_zero (s : State) : mbOf (vfsGone s) 0 = mbOf s 0 := by
  have hmail : (vfsGone s).mail = (resetVfs (fun _ _ => false) (List.range 33) s).mail := rfl
  rw [mbOf, hmail]
  exact mbOf_resetVfs_of_not_mem _ s (.inl rfl)

theorem mail_length_resetVfs (run : State → Nat → Bool) (l : List Nat) (s : State) :
    (resetVfs run l s).mail.length = s.mail.length := by
  induction l generalizing s with
  | nil => rw [resetVfs_nil]
  | cons f l ih =>
    rw [resetVfs_cons, ih]
    split
    · rfl
    · exact mail_length_resetWindow s f _

theorem mail_length_vfsGone (s : State) : (vfsGone s).mail.length = s.mail.length := mail_length_resetVfs _ _ s

theorem erases_clearVfs (s : State) : Erases (vfsGone s) (clearVfs s) := by
  rw [clearVfs_eq]
  split
  · exact erases_eraseParts _
  · exact Erases.refl _

theorem id_of_mem_clearVfs {s : State} (h : firmwareRuns s = true) : ∀ x ∈ partHeads (clearVfs s), x.1 = 0 := by
  rw [clearVfs_eq, if_pos ((firmwareRuns_vfsGone s).trans h)]
  exact id_of_mem_eraseParts _

/-- What clearing VF Enable leaves of the PCIe side and of the messages. -/
theorem clearVfs_effect (s : State) :
    (clearVfs s).pcie.vfEnable = false ∧ (clearVfs s).pcie.numVfs = 0 ∧ (clearVfs s).pcie.d3hot = s.pcie.d3hot ∧
      (∀ m ∈ (clearVfs s).msgs, m.f = 0) ∧ (clearVfs s).mem = s.mem ∧ firmwareRuns (clearVfs s) = firmwareRuns s := by
  have he := erases_clearVfs s
  obtain ⟨henable, hnum, hd3⟩ := vfsGone_pcie s
  have hmem := he.mem
  have hrun := firmwareRuns_of_erases he
  rw [vfsGone_mem] at hmem
  rw [firmwareRuns_vfsGone] at hrun
  refine ⟨?_, ?_, ?_, fun m hm => ?_, hmem, hrun⟩
  · rw [he.pcie, henable]
  · rw [he.pcie, hnum]
  · rw [he.pcie, hd3]
  · have hm := he.msgs hm
    rw [vfsGone_msgs] at hm
    simpa using (List.mem_filter.1 hm).2

theorem exec_vfEnableClear_of_set {s : State} (hlink : s.pcie.linkUp = true) (hset : s.pcie.vfEnable = true) :
    exec .vfEnableClear s = .next (settleState (clearVfs s)) := by
  rw [exec_vfEnableClear, execVfEnableClear, if_pos ⟨hlink, hset⟩]

theorem exec_vfEnableClear_of_not {s : State} (h : s.pcie.linkUp = false ∨ s.pcie.vfEnable = false) :
    exec .vfEnableClear s = .next s := by
  rw [exec_vfEnableClear, execVfEnableClear, if_neg]
  rintro ⟨hlink, hset⟩
  rcases h with h | h <;> simp_all

/-- Partitions whose heads are all of partition 0. -/
theorem id_of_heads {s : State} (h : ∀ x ∈ partHeads s, x.1 = 0) : ∀ p ∈ s.parts, p.id = 0 :=
  fun _ hp => h _ (List.mem_map_of_mem hp)

theorem vfEnable_cleared {s : State} (hlink : s.pcie.linkUp = true) (hset : s.pcie.vfEnable = true) :
    ∃ t, exec .vfEnableClear s = .next t ∧ t.pcie.vfEnable = false ∧ t.pcie.numVfs = 0 ∧ (∀ m ∈ t.msgs, m.f = 0) ∧
      (firmwareRuns s = true → ∀ p ∈ t.parts, p.id = 0) := by
  have he := erases_settleState (clearVfs s)
  obtain ⟨henable, hnum, -, hmsgs, -, -⟩ := clearVfs_effect s
  refine ⟨_, exec_vfEnableClear_of_set hlink hset, ?_, ?_, fun m hm => hmsgs m (he.msgs hm), fun hrun => id_of_heads ?_⟩
  · rw [he.pcie, henable]
  · rw [he.pcie, hnum]
  · rw [partHeads_settleState]
    exact id_of_mem_clearVfs hrun

/-! ## FLR_PF (R53, R386) -/

/-- The state with D3hot left and the window of the PF reset, before VF Enable is cleared. -/
def pfReset (s : State) : State := resetWindow { s with pcie := { s.pcie with d3hot := false } } 0 false

/-- Partition 0 with its settings restored (R53). -/
def partZeroRestored (s : State) : State := updPart s 0 fun p => { p with cfg := partZeroCfg s, suspended := false }

theorem erases_partZeroRestored (s : State) : Erases s (partZeroRestored s) := { Erases.refl s with }

/-- The state in which the PF's mailbox may be served again. -/
def pfSettled (s : State) : State := settleState (partZeroRestored (eraseWork (clearVfs (pfReset s)) 0))

theorem heads_partZeroRestored {s : State} (h : ∀ x ∈ partHeads s, x.1 = 0) :
    ∀ x ∈ partHeads (partZeroRestored s), x = (0, partZeroCfg s, false) := by
  intro x hx
  obtain ⟨q, hq, rfl⟩ := List.mem_map.1 hx
  obtain ⟨p, hp, rfl⟩ := List.mem_map.1 hq
  simp [id_of_heads h p hp]

theorem cleared_updMb {s : State} {g : Nat} (h : Cleared g s) (f : Nat) (u : Mailbox → Mailbox) : Cleared g (updMb s f u) := h

theorem exec_flrPf_of_up {s : State} (hlink : s.pcie.linkUp = true) :
    exec .flrPf s = .next (updMb (pfSettled s) 0 fun mb => { mb with st := { mb.st with running := firmwareRuns (pfSettled s) } }) := by
  rw [exec_flrPf, execFlrPf, if_neg (by simp [hlink])]
  rfl

theorem exec_flrPf_of_down {s : State} (hlink : s.pcie.linkUp = false) : exec .flrPf s = .next s := by
  rw [exec_flrPf, execFlrPf, if_pos (by simp [hlink])]

theorem erases_pfSettled (s : State) : Erases (clearVfs (pfReset s)) (pfSettled s) :=
  ((erases_eraseWork _ 0).trans (erases_partZeroRestored _)).trans (erases_settleState _)

theorem cleared_pfSettled (s : State) : Cleared 0 (pfSettled s) :=
  (cleared_eraseWork _ 0).of_erases ((erases_partZeroRestored _).trans (erases_settleState _))

theorem firmwareRuns_pfSettled (s : State) : firmwareRuns (pfSettled s) = firmwareRuns s := by
  obtain ⟨-, -, -, -, -, hrun⟩ := clearVfs_effect (pfReset s)
  exact (firmwareRuns_of_erases (erases_pfSettled s)).trans hrun

/-- The partitions of the settled state are partition 0 with its settings of R53. -/
theorem parts_pfSettled {s : State} (hrun : firmwareRuns s = true) :
    ∀ p ∈ (pfSettled s).parts, p.id = 0 ∧ p.suspended = false ∧ p.cfg = partZeroCfg s := by
  have herase : ∀ x ∈ partHeads (eraseWork (clearVfs (pfReset s)) 0), x.1 = 0 := by
    rw [partHeads_eraseWork]
    exact id_of_mem_clearVfs (s := pfReset s) hrun
  have hcfg : partZeroCfg (eraseWork (clearVfs (pfReset s)) 0) = partZeroCfg s := by
    obtain ⟨-, -, -, -, hmem, -⟩ := clearVfs_effect (pfReset s)
    have hmem : (eraseWork (clearVfs (pfReset s)) 0).mem = s.mem := (erases_eraseWork _ 0).mem.trans hmem
    rw [partZeroCfg, hmem, partZeroCfg]
  have hheads := heads_partZeroRestored herase
  rw [hcfg] at hheads
  intro p hp
  have hx : (p.id, p.cfg, p.suspended) = (0, partZeroCfg s, false) :=
    hheads _ (partHeads_settleState _ ▸ List.mem_map_of_mem hp)
  simp only [Prod.mk.injEq] at hx
  exact ⟨hx.1, hx.2.2, hx.2.1⟩

/-- The PF's window stays at its reset values while the state settles, since its mailbox is not served. -/
theorem mbOf_pfSettled {s : State} (hlen : 0 < s.mail.length) : mbOf (pfSettled s) 0 = freshWindow false := by
  have hreset : mbOf (pfReset s) 0 = freshWindow false := mbOf_resetWindow _ false hlen
  have hgone := (mbOf_vfsGone_zero (pfReset s)).trans hreset
  have he := (erases_clearVfs (pfReset s)).trans (erases_pfSettled s)
  rw [he.quiet 0 (by rw [hgone]; rfl), hgone]

theorem pf_reset {s : State} (hlink : s.pcie.linkUp = true) :
    ∃ t, exec .flrPf s = .next t ∧ Cleared 0 t ∧ t.pcie.vfEnable = false ∧ t.pcie.d3hot = false ∧
      (firmwareRuns s = true → ∀ p ∈ t.parts, p.id = 0 ∧ p.suspended = false ∧ p.cfg = partZeroCfg s) ∧
      (0 < s.mail.length → mbOf t 0 = freshWindow (firmwareRuns s)) := by
  have he := erases_pfSettled s
  obtain ⟨henable, -, hd3, -⟩ := clearVfs_effect (pfReset s)
  refine ⟨_, exec_flrPf_of_up hlink, cleared_updMb (cleared_pfSettled s) 0 _, ?_, ?_, fun hrun => ?_, fun hlen => ?_⟩
  · rw [updMb_pcie, he.pcie, henable]
  · rw [updMb_pcie, he.pcie, hd3]
    rfl
  · rw [updMb_parts]
    exact parts_pfSettled hrun
  · have hboxes : (pfSettled s).mail.length = s.mail.length := by
      rw [((erases_clearVfs (pfReset s)).trans he).boxes, mail_length_vfsGone, pfReset, mail_length_resetWindow]
    have hmail : 0 < (pfSettled s).mail.length := by rw [hboxes]; exact hlen
    rw [mbOf_updMb _ 0 _ hmail, mbOf_pfSettled hlen, firmwareRuns_pfSettled]
    rfl

/-! ## VF_ENABLE_SET and D3hot (R16, R390) -/

theorem exec_vfEnableSet_of_not {s : State} {n : Nat} (hn : n ≤ 32) (h : s.pcie.linkUp = false ∨ s.pcie.vfEnable = true) :
    exec (.vfEnableSet n) s = .next s := by
  rw [exec_vfEnableSet, execVfEnableSet, guardUnit, if_pos (by simpa using hn), if_pos (by simpa using h)]

/-- The state in which VFs exist, before their windows are reset. -/
def vfsExist (s : State) (n : Nat) : State := { s with pcie := { s.pcie with vfEnable := true, numVfs := n } }

theorem exec_vfEnableSet_of_clear {s : State} {n : Nat} (hn : n ≤ 32) (hlink : s.pcie.linkUp = true) (hclear : s.pcie.vfEnable = false) :
    exec (.vfEnableSet n) s = .next (resetVfs (fun s f => decide (f ≤ n) && firmwareRuns s) (List.range 33) (vfsExist s n)) := by
  rw [exec_vfEnableSet, execVfEnableSet, guardUnit, if_pos (by simpa using hn), if_neg (by simp [hlink, hclear])]
  unfold resetVfs vfsExist
  rfl

theorem vfs_enabled {s : State} {n : Nat} (hn : n ≤ 32) (hlink : s.pcie.linkUp = true) (hclear : s.pcie.vfEnable = false) :
    ∃ t, exec (.vfEnableSet n) s = .next t ∧ t = { s with pcie := t.pcie, mail := t.mail } ∧ t.pcie.vfEnable = true ∧
      t.pcie.numVfs = n ∧ mbOf t 0 = mbOf s 0 ∧
      ∀ f, 1 ≤ f → f ≤ 32 → f < s.mail.length → mbOf t f = freshWindow (decide (f ≤ n) && firmwareRuns s) := by
  have hframe := resetVfs_frame (fun s f => decide (f ≤ n) && firmwareRuns s) (List.range 33) (vfsExist s n)
  refine ⟨_, exec_vfEnableSet_of_clear hn hlink hclear, ?_, ?_, ?_, ?_, fun f h1 h32 hlen => ?_⟩
  · rw [hframe]
    rfl
  · rw [hframe]
    rfl
  · rw [hframe]
    rfl
  · exact mbOf_resetVfs_of_not_mem _ (vfsExist s n) (.inl rfl)
  · exact mbOf_resetVfs_of_mem (fun s g b f => by rw [firmwareRuns_resetWindow]) (vfsExist s n) (by omega)
      (List.mem_range.2 (by omega)) hlen

theorem exec_d3hot_of_up {s : State} (enter : Bool) (hlink : s.pcie.linkUp = true) :
    exec (.d3hotTransition enter) s = .next { s with pcie := { s.pcie with d3hot := enter } } := by
  rw [exec_d3hotTransition, execD3hotTransition, if_pos hlink]

theorem exec_d3hot_of_down {s : State} (enter : Bool) (hlink : s.pcie.linkUp = false) :
    exec (.d3hotTransition enter) s = .next s := by
  rw [exec_d3hotTransition, execD3hotTransition, if_neg (by simp [hlink])]

/-- The reset of a VF leaves nothing of it but its partition, with its settings. -/
theorem vf_reset {s : State} {f : Nat} (hf : 1 ≤ f ∧ f ≤ 32) (hlink : s.pcie.linkUp = true) (hex : funcExists s f = true)
    (hrun : firmwareRuns s = true) :
    ∃ t, exec (.flrVf f) s = .next t ∧ Cleared f t ∧ (∀ p, partOf s f = some p → ∃ q, partOf t f = some q ∧ q.cfg = p.cfg) := by
  obtain ⟨t, hexec, he, hheads⟩ := exec_flrVf_of_run hf hlink hex hrun
  exact ⟨t, hexec, (cleared_resetWindow (cleared_eraseWork s f) f true).of_erases he, fun p hp => partOf_of_heads hheads hp⟩

/-- Settles O50: what each reset erases is gone by `Cleared`, and `Erases` says what it leaves. -/
theorem functionsAreReset : Obligations.FunctionsAreReset := by
  unfold Obligations.FunctionsAreReset
  intro s
  refine ⟨fun f h1 h32 => ⟨vf_reset ⟨h1, h32⟩, exec_flrVf_of_not_run ⟨h1, h32⟩, exec_flrVf_of_absent ⟨h1, h32⟩⟩,
    vfEnable_cleared, exec_vfEnableClear_of_not, pf_reset, exec_flrPf_of_down,
    fun n hn => ⟨vfs_enabled hn, exec_vfEnableSet_of_not hn⟩, fun enter => ⟨exec_d3hot_of_up enter, exec_d3hot_of_down enter⟩⟩

end Sys2Proof.Machine
end

section
/-! PROOFS. The commands still to run: no operation touches the queue. What every operation leaves of `pending` (SPEC, the step). -/

namespace Sys2Proof.Machine

/-! ## Rules -/

@[simp] theorem pending_ite (c : Prop) [Decidable c] (s t : State) :
    (if c then s else t).pending = if c then s.pending else t.pending := apply_ite State.pending c s t

theorem pending_of_posts {s t : State} (h : Posts s t) : t.pending = s.pending := by
  rw [h.1]

/-- A fold of steps that leave the queue. -/
@[simp] theorem pending_foldl {α : Type} (g : State → α → State) (hg : ∀ s a, (g s a).pending = s.pending) (l : List α) (s : State) :
    (l.foldl g s).pending = s.pending := by
  induction l generalizing s with
  | nil => rfl
  | cons a l ih => rw [List.foldl_cons, ih, hg]

/-! ## Operations that leave the queue -/

/-! ### The state's operations -/

@[simp] theorem recordAs_pending (s : State) (cls injected : Bool) (code source func : Nat) (payload : List Byte) :
    (recordAs s cls injected code source func payload).pending = s.pending := pending_of_posts (posts_recordAs _ _ _ _ _ _ _)

@[simp] theorem record_pending (s : State) (code : Nat) (payload : List Byte) :
    (record s code payload).pending = s.pending := pending_of_posts (posts_record _ _ _)

@[simp] theorem recordFunc_pending (s : State) (f code : Nat) (payload : List Byte) :
    (recordFunc s f code payload).pending = s.pending := pending_of_posts (posts_recordFunc _ _ _ _)

@[simp] theorem recordUnit_pending (s : State) (u : UnitId) (injected : Bool) (code : Nat) (payload : List Byte) :
    (recordUnit s u injected code payload).pending = s.pending := pending_of_posts (posts_recordUnit _ _ _ _ _)

@[simp] theorem fireVector_pending (s : State) (f v : Nat) :
    (fireVector s f v).pending = s.pending := pending_of_posts (posts_fireVector _ _ _)

@[simp] theorem signalCompletion_pending (s : State) (f : Nat) :
    (signalCompletion s f).pending = s.pending := pending_of_posts (posts_signalCompletion _ _)

@[simp] theorem haltMailbox_pending (s : State) (f cause index : Nat) :
    (haltMailbox s f cause index).pending = s.pending := pending_of_posts (posts_haltMailbox _ _ _ _)

@[simp] theorem learnGrants_pending (s : State) (f : Nat) (h : HostView) :
    (learnGrants s f h).pending = s.pending := by simp [learnGrants]

@[simp] theorem advanceCq_pending (s : State) (f : Nat) :
    (advanceCq s f).pending = s.pending := by simp [advanceCq]

@[simp] theorem writeCompletion_pending (s : State) (m : OpenMsg) (st : Status) (errOff respBytes : Nat) (result : List Byte) :
    (writeCompletion s m st errOff respBytes result).pending = s.pending := pending_of_posts (posts_writeCompletion _ _ _ _ _ _)

@[simp] theorem postEvent_pending (s : State) (f : Nat) (c : EventCode) (result : List Byte) :
    (postEvent s f c result).pending = s.pending := pending_of_posts (posts_postEvent _ _ _ _)

@[simp] theorem postAll_pending (s : State) (c : EventCode) (result : List Byte) :
    (postAll s c result).pending = s.pending := pending_of_posts (posts_postAll _ _ _)

@[simp] theorem postPartition_pending (s : State) (part tiers action : Nat) :
    (postPartition s part tiers action).pending = s.pending := pending_of_posts (posts_postPartition _ _ _ _)

@[simp] theorem postFault_pending (s : State) (cls : Nat) (injected : Bool) (det unit : Nat) :
    (postFault s cls injected det unit).pending = s.pending := pending_of_posts (posts_postFault _ _ _ _ _)

@[simp] theorem hostWrite_pending (s : State) (f addr : Nat) (b : List Byte) :
    (hostWrite s f addr b).pending = s.pending := pending_of_posts (posts_hostWrite _ _ _ _)

@[simp] theorem hostRead_pending (s : State) (f addr len : Nat) :
    (hostRead s f addr len).pending = s.pending := by simp [hostRead]

@[simp] theorem setVTime_pending (s : State) (owner level : Nat) (q : Nat × Nat) :
    (setVTime s owner level q).pending = s.pending := by simp [setVTime]

@[simp] theorem raiseAmong_pending (s : State) (owner level : Nat) (os : List Nat) :
    (raiseAmong s owner level os).pending = s.pending := by
  unfold raiseAmong
  (repeat' split) <;> simp

@[simp] theorem raiseVTime_pending (s : State) (owner level : Nat) :
    (raiseVTime s owner level).pending = s.pending := by simp [raiseVTime]

@[simp] theorem addCmd_pending (s : State) (serves : Serves) (owner level stage deadline startTs : Nat) (kill : Bool) (units : List UnitId) :
    (addCmd s serves owner level stage deadline startTs kill units).pending = s.pending := by simp [addCmd]

@[simp] theorem addBg_pending (s : State) (owner : Nat) (msg : Option Nat) (kind : BgKind) (t1 t2 : Nat) :
    (addBg s owner msg kind t1 t2).pending = s.pending := by simp [addBg]

/-! ### Strata ports and links -/

@[simp] theorem updPort_pending (s : State) (p : Nat) (g : Port → Port) :
    (updPort s p g).pending = s.pending := by simp [updPort]

@[simp] theorem updStack_pending (s : State) (g : Stack → Stack) :
    (updStack s g).pending = s.pending := by simp [updStack]

@[simp] theorem updMl_pending (s : State) (g : MsgLayer → MsgLayer) :
    (updMl s g).pending = s.pending := by simp [updMl]

@[simp] theorem updTime_pending (s : State) (g : StackTime → StackTime) :
    (updTime s g).pending = s.pending := by simp [updTime]

@[simp] theorem sendOne_pending (s : State) (n : Nat) :
    (sendOne s n).pending = s.pending := by
  unfold sendOne
  dsimp only
  (repeat' split) <;> simp

@[simp] theorem pump_pending (s : State) (n k : Nat) : (pump s n k).pending = s.pending := by
  induction k generalizing s with
  | zero => rfl
  | succ k ih => rw [pump, ih, sendOne_pending]

@[simp] theorem pumpPort_pending (s : State) (n : Nat) :
    (pumpPort s n).pending = s.pending := by simp [pumpPort]

@[simp] theorem transmit_pending (s : State) (n : Nat) (m : StrataMsg) :
    (transmit s n m).pending = s.pending := by
  rw [transmit, pumpPort_pending, updPort_pending, emit_pending]

@[simp] theorem sendMsg_pending (s : State) (t dst : Nat) (data : List Byte) :
    (sendMsg s t dst data).pending = s.pending := by
  unfold sendMsg
  dsimp only
  split
  · simp
  · split <;> simp

@[simp] theorem sendOn_pending (s : State) (p t : Nat) (data : List Byte) :
    (sendOn s p t data).pending = s.pending := by simp [sendOn]

@[simp] theorem resendAll_pending (s : State) :
    (resendAll s).pending = s.pending := by
  refine pending_foldl _ (fun s m => ?_) _ s
  split
  · simp
  · split <;> simp

@[simp] theorem forward_pending (s : State) (m : StrataMsg) :
    (forward s m).pending = s.pending := by
  unfold forward
  (repeat' split) <;> simp

@[simp] theorem reflood_pending (s : State) (p : Nat) (m : StrataMsg) :
    (reflood s p m).pending = s.pending := by simp [reflood]

@[simp] theorem sendAck_pending (s : State) (m : StrataMsg) :
    (sendAck s m).pending = s.pending := by simp [sendAck]

@[simp] theorem noteDelivered_pending (s : State) (m : StrataMsg) :
    (noteDelivered s m).pending = s.pending := by simp [noteDelivered]

@[simp] theorem takeInbox_pending (s : State) (p : Nat) (m : StrataMsg) :
    (takeInbox s p m).pending = s.pending := by simp [takeInbox]

@[simp] theorem killPeers_pending (s : State) (st : Status) (c : Case) :
    (killPeers s st c).pending = s.pending := by simp [killPeers]

@[simp] theorem sendRelease_pending (s : State) (handle : Nat) (qs : List Nat) :
    (sendRelease s handle qs).pending = s.pending := by simp [sendRelease]

@[simp] theorem releaseShards_pending (s : State) (k : Contract) :
    (releaseShards s k).pending = s.pending := by simp [releaseShards]

/-! ### Recovery -/

@[simp] theorem addVTime_pending (s : State) (owner level n : Nat) :
    (addVTime s owner level n).pending = s.pending := by simp [addVTime]

@[simp] theorem addHeld_pending (s : State) (owner level : Nat) (h : List (UnitId × Nat)) :
    (addHeld s owner level h).pending = s.pending := by simp [addHeld]

@[simp] theorem chargeCmd_pending (s : State) (c : Cmd) :
    (chargeCmd s c).pending = s.pending := by
  unfold chargeCmd
  split <;> simp

@[simp] theorem chargeLoad_pending (s : State) :
    (chargeLoad s).pending = s.pending := by
  unfold chargeLoad
  split <;> simp

@[simp] theorem chargeAll_pending (s : State) :
    (chargeAll s).pending = s.pending := by simp [chargeAll]

@[simp] theorem inForce_pending (s : State) (g : Nat) :
    (inForce s g).pending = s.pending := by
  unfold inForce
  dsimp only
  (repeat' split) <;> simp

@[simp] theorem adoptIdle_pending (s : State) :
    (adoptIdle s).pending = s.pending := by simp [adoptIdle]

@[simp] theorem noteBlock_pending (s : State) (c : Cmd) :
    (noteBlock s c).pending = s.pending := by
  rw [noteBlock_frame]

@[simp] theorem dropCmds_pending (s : State) (ids : List Nat) :
    (dropCmds s ids).pending = s.pending := by simp [dropCmds]

@[simp] theorem readyAgain_pending (s : State) (c : Cmd) (g : Cmd → Cmd) :
    (readyAgain s c g).pending = s.pending := by simp [readyAgain]

@[simp] theorem dropCase_pending (s : State) (key : Nat) :
    (dropCase s key).pending = s.pending := by simp [dropCase]

@[simp] theorem reapGens_pending (s : State) :
    (reapGens s).pending = s.pending := by simp [reapGens]

@[simp] theorem unplace_pending (s : State) :
    (unplace s).pending = s.pending := by simp [unplace]

@[simp] theorem removeContract_pending (s : State) (h : Nat) :
    (removeContract s h).pending = s.pending := by
  unfold removeContract
  split <;> simp

@[simp] theorem clearBusy_pending (s : State) (k : BgKind) : (clearBusy s k).pending = s.pending := by
  unfold clearBusy
  split <;> simp

@[simp] theorem endCase_pending (s : State) (key : Nat) (st : Status) (stage : Nat) :
    (endCase s key st stage).pending = s.pending := by simp [endCase]

@[simp] theorem endCases_pending (s : State) (p : Case → Bool) (st : Status) :
    (endCases s p st).pending = s.pending := by simp [endCases]

@[simp] theorem endJob_pending (s : State) (key : Nat) (st : Status) :
    (endJob s key st).pending = s.pending := by
  unfold endJob
  split <;> simp

@[simp] theorem endQuery_pending (s : State) (key : Nat) (st : Status) (stage : Nat) :
    (endQuery s key st stage).pending = s.pending := by simp [endQuery]

@[simp] theorem countRerun_pending (s : State) (c : Cmd) :
    (countRerun s c).pending = s.pending := by
  unfold countRerun
  refine (pending_foldl _ (fun s key => ?_) _ _).trans (by simp)
  split <;> simp

@[simp] theorem revoke_pending (s : State) (cause caseSt : Status) (h : Nat) :
    (revoke s cause caseSt h).pending = s.pending := by
  unfold revoke
  split <;> simp

@[simp] theorem revokeAll_pending (s : State) (p : Contract → Bool) (cause caseSt : Status) :
    (revokeAll s p cause caseSt).pending = s.pending := by simp [revokeAll]

@[simp] theorem revokeNaming_pending (s : State) (h : Nat) :
    (revokeNaming s h).pending = s.pending := by simp [revokeNaming]

@[simp] theorem gateAll_pending (s : State) :
    (gateAll s).pending = s.pending := by simp [gateAll]

@[simp] theorem noteCause_pending (s : State) (cause unit : Nat) :
    (noteCause s cause unit).pending = s.pending := by simp [noteCause]

@[simp] theorem loseObjects_pending (s : State) (t : Tier) :
    (loseObjects s t).pending = s.pending := by simp [loseObjects]

@[simp] theorem revokeLost_pending (s : State) :
    (revokeLost s).pending = s.pending := by simp [revokeLost]

@[simp] theorem issueStep_pending (s : State) (g target : Nat) (div : Option Nat) :
    (issueStep s g target div).pending = s.pending := by
  unfold issueStep
  dsimp only
  (repeat' split) <;> simp

@[simp] theorem startCores_pending (s : State) (g : Nat) :
    (startCores s g).pending = s.pending := by simp [startCores]

@[simp] theorem wakeDie_pending (s : State) (g : Nat) :
    (wakeDie s g).pending = s.pending := by simp [wakeDie]

@[simp] theorem wakeDies_pending (s : State) :
    (wakeDies s).pending = s.pending := by simp [wakeDies]

@[simp] theorem gateFenced_pending (s : State) (u : UnitId) :
    (gateFenced s u).pending = s.pending := by
  unfold gateFenced
  split <;> simp

@[simp] theorem killOnUnit_pending (s : State) (u : UnitId) :
    (killOnUnit s u).pending = s.pending := by simp [killOnUnit]

@[simp] theorem detectorRecord_pending (s : State) (det unit : Nat) (injected posted : Bool) (payload : List Byte) :
    (detectorRecord s det unit injected posted payload).pending = s.pending := by simp [detectorRecord]

@[simp] theorem poisonOwner_pending (s : State) (u : FrameUse) : (poisonOwner s u).pending = s.pending := by
  unfold poisonOwner
  (repeat' split) <;> simp

/-! ### The power unit -/

@[simp] theorem requestDivider_pending (s : State) (g v : Nat) :
    (requestDivider s g v).pending = s.pending := by simp [requestDivider]

@[simp] theorem adopt_pending (s : State) (u : UnitId) :
    (adopt s u).pending = s.pending := by
  unfold adopt
  split <;> simp

@[simp] theorem pursue_pending (s : State) (g : Nat) :
    (pursue s g).pending = s.pending := by simp [pursue]

@[simp] theorem pursueAll_pending (s : State) :
    (pursueAll s).pending = s.pending := by simp [pursueAll]

@[simp] theorem revertDie_pending (s : State) (g : Nat) :
    (revertDie s g).pending = s.pending := by simp [revertDie]

@[simp] theorem derate_pending (s : State) (g r sign : Nat) :
    (derate s g r sign).pending = s.pending := by simp [derate]

@[simp] theorem forceStep_pending (s : State) (g : Nat) :
    (forceStep s g).pending = s.pending := by simp [forceStep]

@[simp] theorem loopMove_pending (s : State) (g lowest : Nat) :
    (loopMove s g lowest).pending = s.pending := by simp [loopMove]

@[simp] theorem raiseSetpoint_pending (s : State) (g : Nat) :
    (raiseSetpoint s g).pending = s.pending := by simp [raiseSetpoint]

/-! ### The safety unit -/

@[simp] theorem holdPair_pending (s : State) (pairB : Bool) :
    (holdPair s pairB).pending = s.pending := by
  unfold holdPair
  split <;> simp

@[simp] theorem setPoint_pending (s : State) (i outcome : Nat) :
    (setPoint s i outcome).pending = s.pending := by simp [setPoint]

@[simp] theorem exerciseAll_pending (s : State) (p : PointRec → Bool) :
    (exerciseAll s p).pending = s.pending := by simp [exerciseAll]

@[simp] theorem advanceSweep_pending (s : State) :
    (advanceSweep s).pending = s.pending := by
  unfold advanceSweep
  rw [updSafety_pending]

/-! ### Amber -/

@[simp] theorem settleFull_pending (s : State) :
    (settleFull s).pending = s.pending := by simp [settleFull]

@[simp] theorem appendSlot_pending (s : State) (r : AmberRec) (queue : List AmberRec) :
    (appendSlot s r queue).pending = s.pending := by simp [appendSlot]

/-! ### Boot -/

@[simp] theorem cutStages_pending (s : State) :
    (cutStages s).pending = s.pending := by simp [cutStages]

@[simp] theorem railsOff_pending (s : State) :
    (railsOff s).pending = s.pending := by simp [railsOff]

@[simp] theorem releaseBasalt_pending (s : State) :
    (releaseBasalt s).pending = s.pending := by simp [releaseBasalt]

@[simp] theorem toStep7_pending (s : State) :
    (toStep7 s).pending = s.pending := by simp [toStep7]

@[simp] theorem cutAppend_pending (s : State) :
    (cutAppend s).pending = s.pending := by
  unfold cutAppend
  split <;> simp

@[simp] theorem slotRecord_pending (s : State) (slot : Nat) :
    (slotRecord s slot).pending = s.pending := by
  unfold slotRecord
  split <;> simp

@[simp] theorem trimVlog_pending (s : State) :
    (trimVlog s).pending = s.pending := by simp [trimVlog]

@[simp] theorem recordBaselines_pending (s : State) :
    (recordBaselines s).pending = s.pending := by simp [recordBaselines]

@[simp] theorem coresReady_pending (s : State) :
    (coresReady s).pending = s.pending := pending_foldl _ (fun s g => updDie_pending s g _) _ s

@[simp] theorem promote_pending (s : State) :
    (promote s).pending = s.pending := by
  unfold promote
  dsimp only
  split
  · split <;> rfl
  · rfl

@[simp] theorem serveMailboxes_pending (s : State) :
    (serveMailboxes s).pending = s.pending := pending_foldl _ (fun s f => updMb_pending s f _) _ s

@[simp] theorem startScrubs_pending (s : State) :
    (startScrubs s).pending = s.pending := by simp [startScrubs]

/-! ### Mailboxes and messages -/

@[simp] theorem countRefused_pending (s : State) (x : MsgCtx) (st : Status) :
    (countRefused s x st).pending = s.pending := by simp [countRefused]

@[simp] theorem hostDmaRecord_pending {α : Type} (s : State) (x : MsgCtx) (r : HostRead α) :
    (hostDmaRecord s x r).pending = s.pending := by
  simp [hostDmaRecord]

@[simp] theorem dropFetch_pending (s : State) (f i : Nat) :
    (dropFetch s f i).pending = s.pending := by simp [dropFetch]

@[simp] theorem fetchRead_pending (s : State) (f i len : Nat) :
    (fetchRead s f i len).pending = s.pending := by simp [fetchRead]

@[simp] theorem unmaskVector_pending (s : State) (f i : Nat) :
    (unmaskVector s f i).pending = s.pending := by simp [unmaskVector]

@[simp] theorem msixWrite_pending (s : State) (f off v : Nat) :
    (msixWrite s f off v).pending = s.pending := by simp [msixWrite]

@[simp] theorem configWrite_pending (s : State) (f off v : Nat) :
    (configWrite s f off v).pending = s.pending := by simp [configWrite]

@[simp] theorem mailboxWrite_pending (s : State) (f off v : Nat) :
    (mailboxWrite s f off v).pending = s.pending := by simp [mailboxWrite]

/-! ### Partitions -/

@[simp] theorem dropDeadBg_pending (s : State) :
    (dropDeadBg s).pending = s.pending := by simp [dropDeadBg]

@[simp] theorem freeCairns_pending (s : State) (p : Partition) :
    (freeCairns s p).pending = s.pending := by simp [freeCairns]

@[simp] theorem cancelCase_pending (s : State) (c : Case) :
    (cancelCase s c).pending = s.pending := by simp [cancelCase]

@[simp] theorem clearAccounts_pending (s : State) (i : Nat) :
    (clearAccounts s i).pending = s.pending := by simp [clearAccounts]

@[simp] theorem createPartition_pending (s : State) (i : Nat) (c : PartCfg) :
    (createPartition s i c).pending = s.pending := by simp [createPartition]

/-! ### Cairns -/

@[simp] theorem setCairn_pending (s : State) (n v : Nat) :
    (setCairn s n v).pending = s.pending := by simp [setCairn]

@[simp] theorem deviceSignal_pending (s : State) (n add : Nat) (remote : Bool) :
    (deviceSignal s n add remote).pending = s.pending := by
  unfold deviceSignal
  dsimp only
  (repeat' split) <;> simp

/-! ### Models, tables and prefixes -/

@[simp] theorem startBg_pending (s : State) (x : MsgCtx) (kind : BgKind) (t1 t2 : Nat) :
    (startBg s x kind t1 t2).pending = s.pending := by simp [startBg]

@[simp] theorem updModel_pending (s : State) (h : Nat) (g : Model → Model) :
    (updModel s h g).pending = s.pending := by simp [updModel]

@[simp] theorem reapPfxs_pending (s : State) :
    (reapPfxs s).pending = s.pending := by simp [reapPfxs]

/-! ### The journal -/

/-! ### The memory unit -/

@[simp] theorem setSyn_pending (s : State) (t : Tier) (frame granule : Nat) (y : Syndrome) :
    (setSyn s t frame granule y).pending = s.pending := by simp [setSyn]

@[simp] theorem queueCorrection_pending (s : State) (t : Tier) (ch frame granule : Nat) :
    (queueCorrection s t ch frame granule).pending = s.pending := by simp [queueCorrection]

@[simp] theorem dramRecord_pending (s : State) (d : DramRead) (sym outcome : Nat) (injected : Bool) :
    (dramRecord s d sym outcome injected).pending = s.pending := by simp [dramRecord]

@[simp] theorem disarm_pending (s : State) (t : Tier) (ch : Nat) :
    (disarm s t ch).pending = s.pending := by simp [disarm]

@[simp] theorem drainQueue_pending (s : State) (t : Tier) :
    (drainQueue s t).pending = s.pending := by
  unfold drainQueue
  rw [updTier_pending]
  refine pending_foldl _ (fun s e => ?_) _ s
  split <;> simp

@[simp] theorem startPass_pending (s : State) (t : Tier) :
    (startPass s t).pending = s.pending := by simp [startPass]

@[simp] theorem advanceScrub_pending (s : State) (t : Tier) :
    (advanceScrub s t).pending = s.pending := by simp [advanceScrub]

@[simp] theorem noteRetrain_pending (s : State) :
    (noteRetrain s).pending = s.pending := by simp [noteRetrain]

/-! ### The Strata unit -/

@[simp] theorem trainFail_pending (s : State) (p step : Nat) :
    (trainFail s p step).pending = s.pending := by simp [trainFail]

@[simp] theorem bringUp_pending (s : State) (p : Nat) (credits echoes : List Nat) :
    (bringUp s p credits echoes).pending = s.pending := by simp [bringUp]

@[simp] theorem rebound_pending (s : State) :
    (rebound s).pending = s.pending := by
  unfold rebound
  (repeat' split) <;> simp

@[simp] theorem checkLock_pending (s : State) :
    (checkLock s).pending = s.pending := by simp [checkLock]

@[simp] theorem revokeLink_pending (s : State) (h : Nat) :
    (revokeLink s h).pending = s.pending := by simp [revokeLink]

@[simp] theorem floodLinkState_pending (s : State) (p : Nat) (up : Bool) :
    (floodLinkState s p up).pending = s.pending := by simp [floodLinkState]

@[simp] theorem takeAck_pending (s : State) (n : Nat) (f : Flit) :
    (takeAck s n f).pending = s.pending := by simp [takeAck]

@[simp] theorem sendNak_pending (s : State) (n : Nat) :
    (sendNak s n).pending = s.pending := by simp [sendNak]

@[simp] theorem assemble_pending (s : State) (n : Nat) (f : Flit) :
    (assemble s n f).pending = s.pending := by simp [assemble]

@[simp] theorem reply_pending (s : State) (n vc : Nat) :
    (reply s n vc).pending = s.pending := by simp [reply]

@[simp] theorem enterEpoch_pending (s : State) (epoch shape gen : Nat) (members : List Nat) :
    (enterEpoch s epoch shape gen members).pending = s.pending := by simp [enterEpoch]

@[simp] theorem updColl_pending (s : State) (txn : Nat) (g : Coll → Coll) :
    (updColl s txn g).pending = s.pending := by simp [updColl]

@[simp] theorem sendDecide_pending (s : State) (c : Coll) (commit : Bool) :
    (sendDecide s c commit).pending = s.pending := by simp [sendDecide]

/-! ### Detections, fences and the hold -/

@[simp] theorem countRecovered_pending (s : State) :
    (countRecovered s).pending = s.pending := by simp [countRecovered]

@[simp] theorem injectDram_pending (s : State) (u : UnitId) (v : Nat) :
    (injectDram s u v).pending = s.pending := by simp [injectDram]

@[simp] theorem injectStrata_pending (s : State) (p : Nat) :
    (injectStrata s p).pending = s.pending := by simp [injectStrata]

@[simp] theorem notePoint_pending (s : State) (det unit : Nat) :
    (notePoint s det unit).pending = s.pending := by simp [notePoint]

@[simp] theorem wakeCores_pending (s : State) (g : Nat) :
    (wakeCores s g).pending = s.pending := by simp [wakeCores]

@[simp] theorem unfenceMemory_pending (s : State) (u : UnitId) :
    (unfenceMemory s u).pending = s.pending := by
  unfold unfenceMemory
  split <;> simp

@[simp] theorem releaseDies_pending (s : State) :
    (releaseDies s).pending = s.pending := by simp [releaseDies]

/-! ### The host's services -/

@[simp] theorem applyPolicy_pending (s : State) (p : Policy) :
    (applyPolicy s p).pending = s.pending := by simp [applyPolicy]

@[simp] theorem writeSlot_pending (s : State) (slot off : Nat) (data : List Byte) (first flashOk : Bool) :
    (writeSlot s slot off data first flashOk).pending = s.pending := by simp [writeSlot]

@[simp] theorem flashFailed_pending (s : State) (slot off len : Nat) (first : Bool) :
    (flashFailed s slot off len first).pending = s.pending := by simp [flashFailed]

@[simp] theorem activateImage_pending (s : State) (len : Nat) (img : FwImage) :
    (activateImage s len img).pending = s.pending := rfl

/-! ### The cost model -/

@[simp] theorem allLinksUp_pending (s : State) :
    (allLinksUp s).pending = s.pending := by simp [allLinksUp]

@[simp] theorem placeModel_pending (s : State) (h : Nat) :
    (placeModel s h).pending = s.pending := by simp [placeModel]

/-! ### Contracts -/

@[simp] theorem extendCairns_pending (s : State) (h : Nat) :
    (extendCairns s h).pending = s.pending := by
  unfold extendCairns
  split <;> simp

@[simp] theorem applyReproofs_pending (s : State) (level : Nat) (l : Load) :
    (applyReproofs s level l).pending = s.pending := by simp [applyReproofs]

@[simp] theorem abortCase_pending (s : State) (c : Case) :
    (abortCase s c).pending = s.pending := by simp [abortCase]

@[simp] theorem reproveAll_pending (s : State) :
    (reproveAll s).pending = s.pending := by
  refine pending_foldl _ (fun s k => ?_) _ s
  split <;> simp

/-! ### Cases -/

@[simp] theorem addCaseCmd_pending (s : State) (c : Case) (k : Contract) (stage : Nat) :
    (addCaseCmd s c k stage).pending = s.pending := by simp [addCaseCmd]

@[simp] theorem acceptCase_pending (s : State) (x : MsgCtx) (k : Contract) (d : CaseDesc) :
    (acceptCase s x k d).pending = s.pending := by
  unfold acceptCase
  split <;> simp

/-! ### Stages -/

@[simp] theorem dropLayers_pending (s : State) (h : Option Nat) :
    (dropLayers s h).pending = s.pending := by
  unfold dropLayers
  split <;> simp

@[simp] theorem fallbackRecord_pending (s : State) (c : Case) (g : Stage) (f : Form) :
    (fallbackRecord s c g f).pending = s.pending := by simp [fallbackRecord]

@[simp] theorem switchForm_pending (s : State) (c : Case) (g : Stage) (f : Form) :
    (switchForm s c g f).pending = s.pending := by simp [switchForm]

@[simp] theorem chooseNext_pending (s : State) (k : Contract) (key : Nat) (g : Stage) (p : Prediction) :
    (chooseNext s k key g p).pending = s.pending := by
  unfold chooseNext
  split <;> simp

@[simp] theorem endStage_pending (s : State) (key : Nat) (p : Prediction) :
    (endStage s key p).pending = s.pending := by
  unfold endStage
  (repeat' split) <;> simp

@[simp] theorem nextCmdOf_pending (s : State) (key : Nat) :
    (nextCmdOf s key).pending = s.pending := by
  unfold nextCmdOf
  (repeat' split) <;> simp

@[simp] theorem addSats_pending (s : State) (key n : Nat) :
    (addSats s key n).pending = s.pending := by simp [addSats]

@[simp] theorem dropPfx_pending (s : State) (c : Case) (whole : Bool) :
    (dropPfx s c whole).pending = s.pending := by simp [dropPfx]

@[simp] theorem startPrefill_pending (s : State) (key : Nat) :
    (startPrefill s key).pending = s.pending := by
  unfold startPrefill
  (repeat' split) <;> simp

/-! ### Scheduling -/

@[simp] theorem commitModel_pending (s : State) (b : BgOp) (img : ModelImage) (home : Tier) (pin shared : Bool) :
    (commitModel s b img home pin shared).1.pending = s.pending := rfl

@[simp] theorem commitSettle_pending (s : State) (h p : Nat) : (commitSettle s h p).1.pending = s.pending := by
  unfold commitSettle
  split <;> simp

@[simp] theorem commitSnapshot_pending (s : State) (b : BgOp) (h dst g q bytes : Nat) :
    (commitSnapshot s b h dst g q bytes).1.pending = s.pending := by
  unfold commitSnapshot
  dsimp only
  split <;> simp

@[simp] theorem bgEffect_pending (s : State) (b : BgOp) : (bgEffect s b).1.pending = s.pending := by
  unfold bgEffect
  dsimp only
  (repeat' split) <;> simp

@[simp] theorem endSwitch_pending (s : State) :
    (endSwitch s).pending = s.pending := by
  unfold endSwitch
  dsimp only
  (repeat' split) <;> simp

@[simp] theorem beginSwitch_pending (s : State) (c : Cmd) (m mover : Nat) :
    (beginSwitch s c m mover).pending = s.pending := by simp [beginSwitch]

@[simp] theorem takeWaiters_pending (s : State) (list : Option Nat) (keys : List Nat) :
    (takeWaiters s list keys).pending = s.pending := by simp [takeWaiters]

@[simp] theorem setModes_pending (s : State) (c : Cmd) (us : List UnitId) :
    (setModes s c us).pending = s.pending := by simp [setModes]

@[simp] theorem grantCmd_pending (s : State) (c : Cmd) (us : List UnitId) :
    (grantCmd s c us).pending = s.pending := by simp [grantCmd]

@[simp] theorem grantPass_pending (s : State) (c : Cmd) (us : List UnitId) :
    (grantPass s c us).pending = s.pending := by
  unfold grantPass
  split <;> simp

@[simp] theorem killHolder_pending (s : State) (c : Cmd) :
    (killHolder s c).pending = s.pending := by simp [killHolder]

@[simp] theorem askHolder_pending (s : State) (owner : Nat) (h : Cmd) :
    (askHolder s owner h).pending = s.pending := by simp [askHolder]

@[simp] theorem startSwitch_pending (s : State) (c : Cmd) (m : Nat) :
    (startSwitch s c m).pending = s.pending := by
  unfold startSwitch
  dsimp only
  (repeat' split) <;> simp

@[simp] theorem grant_pending (s : State) (c : Cmd) (us : List UnitId) :
    (grant s c us).pending = s.pending := by
  unfold grant
  split <;> simp

@[simp] theorem selectFor_pending (s : State) (u : UnitId) :
    (selectFor s u).pending = s.pending := by
  unfold selectFor
  split <;> simp

@[simp] theorem switchRunning_pending (s : State) (k : Contract) (c : Case) (f : Form) :
    (switchRunning s k c f).pending = s.pending := by
  unfold switchRunning
  dsimp only
  (repeat' split) <;> simp

/-! ### Search -/

@[simp] theorem endScan_pending (s : State) (key : Nat) (p : Prediction) :
    (endScan s key p).pending = s.pending := by
  unfold endScan
  (repeat' split) <;> simp

@[simp] theorem endShard_pending (s : State) (key : Nat) :
    (endShard s key).pending = s.pending := by
  unfold endShard
  split <;> simp

@[simp] theorem raiseForPass_pending (before s : State) (key : Nat) : (raiseForPass before s key).pending = s.pending := by
  unfold raiseForPass
  split <;> simp

@[simp] theorem dispatchShards_pending (s : State) (k : Contract) (c : Case) (qv : QueryVec) (lists : List Nat) :
    (dispatchShards s k c qv lists).pending = s.pending := by simp [dispatchShards]

@[simp] theorem commitCoarse_pending (s : State) (key : Nat) :
    (commitCoarse s key).pending = s.pending := by
  unfold commitCoarse
  (repeat' split) <;> simp

@[simp] theorem commitPass_pending (s : State) (index : Nat) (list : Option Nat) (ps : List (Nat × Prediction)) (key : Nat) :
    (commitPass s index list ps key).pending = s.pending := by
  unfold commitPass
  split <;> simp

/-! ### Intake and encoding -/

@[simp] theorem caseDmaFails_pending (s : State) (c : Case) (aer : Nat) :
    (caseDmaFails s c aer).pending = s.pending := by simp [caseDmaFails]

@[simp] theorem caseWrite_pending (s : State) (c : Case) (off : Nat) (b : List Byte) :
    (caseWrite s c off b).pending = s.pending := by simp [caseWrite]

@[simp] theorem readPieces_pending (s : State) (c : Case) :
    (readPieces s c).pending = s.pending := by
  rw [readPieces_eq]

@[simp] theorem commitEmbedding_pending (s : State) (c : Case) (k : Contract) (p : Prediction) :
    (commitEmbedding s c k p).pending = s.pending := by simp [commitEmbedding]

@[simp] theorem commitQuery_pending (s : State) (c : Case) (k : Contract) (ps : List Position) (p : Prediction) :
    (commitQuery s c k ps p).pending = s.pending := by
  unfold commitQuery
  split <;> simp

/-! ### Passages -/

@[simp] theorem setLookup_pending (s : State) (key : Nat) (l : Lookup) :
    (setLookup s key l).pending = s.pending := by simp [setLookup]

@[simp] theorem noteMalformed_pending (s : State) (c : Case) (l : Lookup) :
    (noteMalformed s c l).pending = s.pending := by simp [noteMalformed]

@[simp] theorem endStoreRead_pending (s : State) (key id : Nat) (r : HostRead (List Byte)) :
    (endStoreRead s key id r).pending = s.pending := by
  unfold endStoreRead
  (repeat' split) <;> simp

@[simp] theorem switchFetch_pending (s : State) (k : Contract) (c : Case) (f : Form) :
    (switchFetch s k c f).pending = s.pending := by simp [switchFetch]

@[simp] theorem expireT3_pending (s : State) (k : Contract) (c : Case) (p : Prediction) :
    (expireT3 s k c p).pending = s.pending := by
  unfold expireT3
  split <;> simp

@[simp] theorem startFills_pending (s : State) (k : Contract) (ps : List Passage) :
    (startFills s k ps).pending = s.pending := by
  unfold startFills
  split <;> simp

@[simp] theorem holdPfx_pending (s : State) (k : Contract) (key : Nat) :
    (holdPfx s k key).pending = s.pending := by
  unfold holdPfx
  split <;> simp

/-! ### Generation -/

@[simp] theorem runCache_pending (s : State) (k : Contract) (key : Nat) (m : Model) (ctx : List Seen) (lo hi n : Nat) :
    (runCache s k key m ctx lo hi n).pending = s.pending := by
  unfold runCache
  split <;> simp

@[simp] theorem prefillTo_pending (s : State) (k : Contract) (key h n : Nat) :
    (prefillTo s k key h n).pending = s.pending := by
  unfold prefillTo
  split <;> simp

@[simp] theorem deliverFrom_pending (s : State) (key n : Nat) :
    (deliverFrom s key n).pending = s.pending := by
  unfold deliverFrom
  split <;> simp

@[simp] theorem endGeneration_pending (s : State) (key cause : Nat) :
    (endGeneration s key cause).pending = s.pending := by simp [endGeneration]

@[simp] theorem stopDecode_pending (s : State) (key : Nat) :
    (stopDecode s key).pending = s.pending := by
  unfold stopDecode
  split <;> simp

@[simp] theorem goOn_pending (s : State) (k : Contract) (key : Nat) (stop : Option Nat) (p : Prediction) :
    (goOn s k key stop p).pending = s.pending := by
  unfold goOn
  (repeat' split) <;> simp

@[simp] theorem commitVerify_pending (s : State) (ps : List (Nat × Prediction)) (key : Nat) :
    (commitVerify s ps key).pending = s.pending := by
  unfold commitVerify
  dsimp only
  (repeat' split) <;> simp

@[simp] theorem lateWeights_pending (s : State) (cause : Nat) (c : Case) :
    (lateWeights s cause c).pending = s.pending := by
  unfold lateWeights
  (repeat' split) <;> simp

/-! ### Results -/

@[simp] theorem writeResult_pending (s : State) (c : Case) (st : Status) (late ok : Bool) :
    (writeResult s c st late ok).pending = s.pending := by simp [writeResult]

@[simp] theorem countCase_pending (s : State) (c : Case) (st : Status) :
    (countCase s c st).pending = s.pending := by simp [countCase]

@[simp] theorem countDrained_pending (s : State) (c : Case) :
    (countDrained s c).pending = s.pending := by simp [countDrained]

@[simp] theorem endResultStage_pending (s : State) (c : Case) :
    (endResultStage s c).pending = s.pending := by simp [endResultStage]

/-! ### Work of a stack -/

@[simp] theorem holdReserve_pending (s : State) (w : Schedules) (home : Nat) (b : List Byte) :
    (holdReserve s w home b).pending = s.pending := by
  unfold holdReserve
  split <;> simp

@[simp] theorem dropJobs_pending (s : State) (home contract : Nat) :
    (dropJobs s home contract).pending = s.pending := by simp [dropJobs]

@[simp] theorem startShard_pending (s : State) (r : ShardRsv) (b : List Byte) :
    (startShard s r b).pending = s.pending := by
  unfold startShard
  split <;> simp

/-! ### PCIe -/

@[simp] theorem eraseCase_pending (s : State) (c : Case) :
    (eraseCase s c).pending = s.pending := by simp [eraseCase]

@[simp] theorem eraseOpens_pending (s : State) (f : Nat) :
    (eraseOpens s f).pending = s.pending := by simp [eraseOpens]

@[simp] theorem resetWindow_pending (s : State) (f : Nat) (run : Bool) :
    (resetWindow s f run).pending = s.pending := by simp [resetWindow]

/-! ### The sideband -/

@[simp] theorem answer_pending (s : State) (b : List Byte) :
    (answer s b).pending = s.pending := by simp [answer]

@[simp] theorem pldmAnswer_pending (s : State) (code : Nat) (b : List Byte) :
    (pldmAnswer s code b).pending = s.pending := by simp [pldmAnswer]

@[simp] theorem pldmWrite_pending (s : State) (off : Nat) (data : List Byte) (flashOk : Bool) :
    (pldmWrite s off data flashOk).pending = s.pending := by simp [pldmWrite]

end Sys2Proof.Machine

end

section
/-! PROOFS. The commands still to run: what the operations that watch the invariant leave of `pending`. -/

namespace Sys2Proof.Machine

@[simp] theorem complete_pending (s : State) (id : Nat) (st : Status) (o : Nat) (r : List Byte) (b : Nat) :
    (complete s id st o r b).pending = s.pending := by
  unfold complete
  (repeat' split) <;> simp

@[simp] theorem setState_pending (s : State) (m : ModState) :
    (setState s m).pending = s.pending := by simp [setState]

@[simp] theorem settleState_pending (s : State) :
    (settleState s).pending = s.pending := by simp [settleState]

/-! ### Recovery -/

@[simp] theorem undoBg_pending (s : State) (b : BgOp) :
    (undoBg s b).pending = s.pending := by
  unfold undoBg
  (repeat' split) <;> simp

@[simp] theorem abandonBg_pending (s : State) (p : BgOp → Bool) :
    (abandonBg s p).pending = s.pending := by simp [abandonBg]

@[simp] theorem endBg_pending (s : State) (op cmd : Nat) (st : Status) :
    (endBg s op cmd st).pending = s.pending := by
  unfold endBg
  dsimp only
  (repeat' split) <;> simp

@[simp] theorem endServed_pending (s : State) (c : Cmd) (det : Nat) :
    (endServed s c det).pending = s.pending := by
  unfold endServed
  (repeat' split) <;> simp

@[simp] theorem rerunCmd_pending (s : State) (det : Nat) (c : Cmd) :
    (rerunCmd s det c).pending = s.pending := by simp [rerunCmd]

@[simp] theorem failMessages_pending (s : State) :
    (failMessages s).pending = s.pending := by simp [failMessages]

@[simp] theorem takeHold_pending (s : State) (cause unit : Nat) (injected : Bool) :
    (takeHold s cause unit injected).pending = s.pending := by simp [takeHold]

@[simp] theorem enterHold_pending (s : State) (cause unit : Nat) (injected : Bool) :
    (enterHold s cause unit injected).pending = s.pending := by
  unfold enterHold
  (repeat' split) <;> simp

@[simp] theorem failChannel_pending (s : State) (t : Tier) (ch cause : Nat) :
    (failChannel s t ch cause).pending = s.pending := by
  unfold failChannel
  (repeat' split) <;> simp

@[simp] theorem fenceMemory_pending (s : State) (u : UnitId) (cause : Nat) :
    (fenceMemory s u cause).pending = s.pending := by
  unfold fenceMemory
  (repeat' split) <;> simp

@[simp] theorem fenceUnit_pending (s : State) (u : UnitId) (cause det chan : Nat) (injected : Bool) :
    (fenceUnit s u cause det chan injected).pending = s.pending := by simp [fenceUnit]

@[simp] theorem fence_pending (s : State) (u : UnitId) (cause det : Nat) (injected : Bool) :
    (fence s u cause det injected).pending = s.pending := by simp [fence]

@[simp] theorem escalate_pending (s : State) (u : UnitId) (det : Nat) :
    (escalate s u det).pending = s.pending := by simp [escalate]

@[simp] theorem dataPath_pending (s : State) (d : Detection) (cmds : List Cmd) :
    (dataPath s d cmds).pending = s.pending := by simp [dataPath]

@[simp] theorem retireFrame_pending (s : State) (t : Tier) (frame : Nat) :
    (retireFrame s t frame).pending = s.pending := by simp [retireFrame]

/-! ### The power unit -/

/-- A Strata message that takes effect here leaves the queue when its effect does. -/
theorem deliver_pending {act : State → State} (ha : ∀ s, (act s).pending = s.pending) (s : State) (m : StrataMsg) :
    (deliver s m act).pending = s.pending := by
  unfold deliver
  (repeat' split) <;> simp [ha]

theorem receive_pending {act : State → State} (ha : ∀ s, (act s).pending = s.pending) (s : State) (p t : Nat) (m : StrataMsg) :
    (receive s p t m act).pending = s.pending := by
  unfold receive
  dsimp only
  (repeat' split) <;> simp [deliver_pending ha]

theorem blockWrite_pending {act : State → State} (ha : ∀ s, (act s).pending = s.pending) (s : State) (n : Nat) (b : List Byte)
    (pec fits : Bool) : (blockWrite s n b pec fits act).pending = s.pending := by
  simp [blockWrite, ha]

@[simp] theorem railFault_pending (s : State) (rail word : Nat) :
    (railFault s rail word).pending = s.pending := by simp [railFault]

@[simp] theorem stretchFault_pending (s : State) (g : Nat) (injected : Bool) (payload : List Byte) :
    (stretchFault s g injected payload).pending = s.pending := by simp [stretchFault]

@[simp] theorem undervolt_pending (s : State) (g mv : Nat) (injected : Bool) :
    (undervolt s g mv injected).pending = s.pending := by simp [undervolt]

/-! ### The safety unit -/

@[simp] theorem hubHold_pending (s : State) (det : Nat) (injected : Bool) (payload : List Byte) :
    (hubHold s det injected payload).pending = s.pending := by simp [hubHold]

@[simp] theorem watchdog_pending (s : State) (pairB : Bool) (task : Nat) :
    (watchdog s pairB task).pending = s.pending := by simp [watchdog]

@[simp] theorem latentFault_pending (s : State) (p : PointRec) :
    (latentFault s p).pending = s.pending := by
  unfold latentFault
  (repeat' split) <;> simp

@[simp] theorem exercisePoint_pending (s : State) (i : Nat) (flagged : Bool) :
    (exercisePoint s i flagged).pending = s.pending := by
  unfold exercisePoint
  (repeat' split) <;> simp

@[simp] theorem actHalt_pending (s : State) (level : Bool) :
    (actHalt s level).pending = s.pending := by simp [actHalt]

/-! ### Amber -/

/-! ### Boot -/

@[simp] theorem clearModule_pending (s : State) : (clearModule s).pending = s.pending :=
  cutStages_pending s

@[simp] theorem powerOff_pending (s : State) : (powerOff s).pending = s.pending :=
  cutStages_pending s

@[simp] theorem startAttempt_pending (s : State) (n : Nat) :
    (startAttempt s n).pending = s.pending := by simp [startAttempt]

@[simp] theorem lockout_pending (s : State) (code detail : Nat) :
    (lockout s code detail).pending = s.pending := by simp [lockout]

@[simp] theorem failAttempt_pending (s : State) (code detail : Nat) :
    (failAttempt s code detail).pending = s.pending := by simp [failAttempt]

@[simp] theorem tryPowerUp_pending (s : State) :
    (tryPowerUp s).pending = s.pending := by simp [tryPowerUp]

@[simp] theorem warmReset_pending (s : State) :
    (warmReset s).pending = s.pending := by simp [warmReset]

@[simp] theorem bootSlots_pending (s : State) (c : BootCtl) (l : List Nat) :
    (bootSlots s c l).pending = s.pending := by
  induction l generalizing s with
  | nil => exact lockout_pending _ _ _
  | cons slot rest ih =>
    unfold bootSlots
    split
    · simp
    · simp [ih]

@[simp] theorem endBooting_pending (s : State) :
    (endBooting s).pending = s.pending := by
  unfold endBooting
  dsimp only
  (repeat' split) <;> simp

/-! ### Mailboxes and messages -/

@[simp] theorem reject_pending (s : State) (x : MsgCtx) (r : Refuse) :
    (reject s x r).pending = s.pending := by simp [reject]

@[simp] theorem startMsg_pending (s : State) (x : MsgCtx) : (startMsg s x).pending = s.pending := rfl

/-- A message is refused, or its command's effect follows. -/
@[simp] theorem settle_pending {apply : State → State} (s : State) (x : MsgCtx) (c : Check) (ha : (apply s).pending = s.pending) :
    (settle s x c apply).pending = s.pending := by
  unfold settle
  split
  · simp
  · exact ha

@[simp] theorem settleRead_pending {α : Type} {apply : State → State} (s : State) (x : MsgCtx) (addr len : Nat) (r : HostRead α) (c : Check)
    (ha : (apply (hostRead s x.f addr len)).pending = s.pending) :
    (settleRead s x addr len r c apply).pending = s.pending := by
  unfold settleRead
  split
  · simp
  · exact ha

theorem serveStrays_pending (f : Nat) (src : Src) (n : Nat) (s : State) : (serveStrays f src n s).pending = s.pending := by
  induction n generalizing s with
  | zero => rfl
  | succ n ih =>
    unfold serveStrays
    split
    · rfl
    · split
      · exact (ih _).trans (settle_pending _ _ _ rfl)
      · rfl

@[simp] theorem sweepStrays_pending (s : State) (f : Nat) (src : Src) : (sweepStrays s f src).pending = s.pending :=
  serveStrays_pending f src _ s

@[simp] theorem respond_pending (s : State) (x : MsgCtx) (b result : List Byte) :
    (respond s x b result).pending = s.pending := by simp [respond]

@[simp] theorem endFetch_pending (s : State) (f i : Nat) (r : HostRead (List Byte)) :
    (endFetch s f i r).pending = s.pending := by
  unfold endFetch
  (repeat' split) <;> simp

@[simp] theorem resetMailbox_pending (s : State) (f : Nat) :
    (resetMailbox s f).pending = s.pending := by simp [resetMailbox]

/-! ### Partitions -/

@[simp] theorem freeObjects_pending (s : State) (i : Nat) :
    (freeObjects s i).pending = s.pending := by simp [freeObjects]

@[simp] theorem endWaits_pending (s : State) (i : Nat) (st : Status) :
    (endWaits s i st).pending = s.pending := by simp [endWaits]

/-! ### Cairns -/

@[simp] theorem waitExpires_pending (s : State) (w : WaitRec) :
    (waitExpires s w).pending = s.pending := by simp [waitExpires]

@[simp] theorem resolveWaits_pending (s : State) :
    (resolveWaits s).pending = s.pending := by simp [resolveWaits]

/-! ### Models, tables and prefixes -/

@[simp] theorem zeroThen_pending (s : State) (f id handle pages addr : Nat) (st : Status) (resp result : List Byte) :
    (zeroThen s f id handle pages addr st resp result).pending = s.pending := by simp [zeroThen]

/-! ### The memory unit -/

@[simp] theorem channelFails_pending (s : State) (t : Tier) (ch chan : Nat) :
    (channelFails s t ch chan).pending = s.pending := by simp [channelFails]

@[simp] theorem countChUe_pending (s : State) (t : Tier) (ch : Nat) :
    (countChUe s t ch).pending = s.pending := by simp [countChUe]

@[simp] theorem poisonRead_pending (s : State) (d : DramRead) :
    (poisonRead s d).pending = s.pending := by simp [poisonRead]

@[simp] theorem dramRead_pending (s : State) (d : DramRead) (injected : Bool) :
    (dramRead s d injected).pending = s.pending := by
  unfold dramRead
  dsimp only
  (repeat' split) <;> simp

@[simp] theorem dramWrite_pending (s : State) (w : DramWrite) :
    (dramWrite s w).pending = s.pending := by
  unfold dramWrite
  dsimp only
  (repeat' split) <;> simp

@[simp] theorem dramWrites_pending (s : State) (ws : List DramWrite) :
    (dramWrites s ws).pending = s.pending := by simp [dramWrites]

@[simp] theorem scrubArmed_pending (s : State) (t : Tier) :
    (scrubArmed s t).pending = s.pending := by simp [scrubArmed]

/-! ### The Strata unit -/

@[simp] theorem rerunCollectives_pending (s : State) :
    (rerunCollectives s).pending = s.pending := by
  unfold rerunCollectives
  refine pending_foldl _ (fun s c => ?_) _ _
  split <;> simp

@[simp] theorem contractLoses_pending (s : State) (h : Nat) :
    (contractLoses s h).pending = s.pending := by
  unfold contractLoses
  (repeat' split) <;> simp

@[simp] theorem loseLink_pending (s : State) (pos port : Nat) :
    (loseLink s pos port).pending = s.pending := by simp [loseLink]

@[simp] theorem takeDown_pending (s : State) (p cause : Nat) :
    (takeDown s p cause).pending = s.pending := by simp [takeDown]

@[simp] theorem lossAt_pending (s : State) (p cause : Nat) :
    (lossAt s p cause).pending = s.pending := by simp [lossAt]

@[simp] theorem crcFailure_pending (s : State) (n : Nat) :
    (crcFailure s n).pending = s.pending := by simp [crcFailure]

@[simp] theorem endColl_pending (s : State) (c : Coll) (commit : Bool) :
    (endColl s c commit).pending = s.pending := by
  unfold endColl
  dsimp only
  (repeat' split) <;> simp

@[simp] theorem decideColl_pending (s : State) (c : Coll) (commit : Bool) (cause : Nat) :
    (decideColl s c commit cause).pending = s.pending := by simp [decideColl]

@[simp] theorem countVotes_pending (s : State) (txn : Nat) :
    (countVotes s txn).pending = s.pending := by
  unfold countVotes
  (repeat' split) <;> simp

@[simp] theorem castVote_pending (s : State) (c : Coll) :
    (castVote s c).pending = s.pending := by simp [castVote]

/-! ### Detections, fences and the hold -/

@[simp] theorem poisonConsumer_pending (s : State) (c : Cmd) :
    (poisonConsumer s c).pending = s.pending := by
  unfold poisonConsumer
  (repeat' split) <;> simp

@[simp] theorem sramDetection_pending (s : State) (d : Detection) (cmds : List Cmd) :
    (sramDetection s d cmds).pending = s.pending := by simp [sramDetection]

@[simp] theorem d2dDetection_pending (s : State) (d : Detection) :
    (d2dDetection s d).pending = s.pending := by simp [d2dDetection]

@[simp] theorem preemptDetection_pending (s : State) (d : Detection) :
    (preemptDetection s d).pending = s.pending := by simp [preemptDetection]

@[simp] theorem detect_pending (s : State) (d : Detection) (cmds : List Cmd) :
    (detect s d cmds).pending = s.pending := by
  unfold detect
  (repeat' split) <;> simp

/-- A commit, and the detection that may fall before it. -/
theorem commitUnder_pending {k : State → State} (hk : ∀ s, (k s).pending = s.pending) (s : State) (det : Option Detection)
    (cmds : List Cmd) : (commitUnder s det cmds k).pending = s.pending := by
  unfold commitUnder
  dsimp only
  (repeat' split) <;> simp [hk]

@[simp] theorem injectLive_pending (s : State) (det : Nat) (u : UnitId) :
    (injectLive s det u).pending = s.pending := by
  unfold injectLive
  (repeat' split) <;> simp

@[simp] theorem unfence_pending (s : State) (u : UnitId) :
    (unfence s u).pending = s.pending := by
  unfold unfence
  (repeat' split) <;> simp

@[simp] theorem leaveHold_pending (s : State) :
    (leaveHold s).pending = s.pending := by simp [leaveHold]

@[simp] theorem endRelease_pending (s : State) (x : MsgCtx) (st : Status) :
    (endRelease s x st).pending = s.pending := by simp [endRelease]

@[simp] theorem releaseHold_pending (s : State) (x : MsgCtx) (failed : List Nat) :
    (releaseHold s x failed).pending = s.pending := by simp [releaseHold]

/-! ### Indexes -/

/-! ### The host's services -/

/-! ### Contracts -/

@[simp] theorem admitContract_pending (s : State) (f h : Nat) (r : ContractRec) (w : Schedules) (pf : ProofFigures) (shards : List ShardAck) :
    (admitContract s f h r w pf shards).pending = s.pending := by simp [admitContract]

@[simp] theorem answerOpen_pending (s : State) (id f addr handle : Nat) (st : Status) (r : ContractRec) (pf : ProofFigures) (p : Proof) (q : Nat × Nat) :
    (answerOpen s id f addr handle st r pf p q).pending = s.pending := by simp [answerOpen]

@[simp] theorem concludeOpen_pending (s : State) (po : PendOpen) :
    (concludeOpen s po).pending = s.pending := by
  unfold concludeOpen
  dsimp only
  (repeat' split) <;> simp

@[simp] theorem startOpen_pending (s : State) (x : MsgCtx) (r : ContractRec) (w : Schedules) :
    (startOpen s x r w).pending = s.pending := by simp [startOpen]

@[simp] theorem finishClose_pending (s : State) (h : Nat) :
    (finishClose s h).pending = s.pending := by
  unfold finishClose
  (repeat' split) <;> simp

/-! ### Cases -/

/-! ### Stages -/

@[simp] theorem overrunReport_pending (s : State) (u : UnitId) (w outcome : Nat) :
    (overrunReport s u w outcome).pending = s.pending := by simp [overrunReport]

@[simp] theorem noteWait_pending (s : State) (c : Cmd) :
    (noteWait s c).pending = s.pending := by
  unfold noteWait
  (repeat' split) <;> simp

@[simp] theorem retireCmd_pending (s : State) (c : Cmd) :
    (retireCmd s c).pending = s.pending := by simp [retireCmd]

/-! ### Scheduling -/

theorem stageCommit_pending {k : State → Case → Contract → Cmd → State} (hk : ∀ s c x m, (k s c x m).pending = s.pending) (s : State)
    (key : Nat) (g : Stage) (det : Option Detection) : (stageCommit s key g det k).pending = s.pending := by
  unfold stageCommit
  split
  · split
    · split
      · refine commitUnder_pending (fun s => ?_) _ _ _
        split
        · exact hk _ _ _ _
        · rfl
      · rfl
    · rfl
  · rfl

@[simp] theorem finishBg_pending (s : State) (b : BgOp) (st : Status) (result : List Byte) :
    (finishBg s b st result).pending = s.pending := by
  unfold finishBg
  (repeat' split) <;> simp

@[simp] theorem commitBg_pending (s : State) (b : BgOp) :
    (commitBg s b).pending = s.pending := by simp [commitBg]

@[simp] theorem yieldCmd_pending (s : State) (c : Cmd) :
    (yieldCmd s c).pending = s.pending := by simp [yieldCmd]

@[simp] theorem yieldAtPoint_pending (s : State) (c : Cmd) :
    (yieldAtPoint s c).pending = s.pending := by
  unfold yieldAtPoint
  (repeat' split) <;> simp

@[simp] theorem yieldPoints_pending (s : State) :
    (yieldPoints s).pending = s.pending := by simp [yieldPoints]

@[simp] theorem failTile_pending (s : State) (c : Cmd) (ds : List Detection) :
    (failTile s c ds).pending = s.pending := by
  unfold failTile
  (repeat' split) <;> simp

@[simp] theorem passTile_pending (s : State) (c : Cmd) (u : UnitId) (t : TileRun) (d : TileArea) :
    (passTile s c u t d).pending = s.pending := by simp [passTile]

@[simp] theorem endTile_pending (s : State) (c : Cmd) (u : UnitId) (t : TileRun) :
    (endTile s c u t).pending = s.pending := by
  unfold endTile
  dsimp only
  (repeat' split) <;> simp

/-! ### Search -/

/-! ### Intake and encoding -/

@[simp] theorem commitIntake_pending (s : State) (c : Case) (m : Cmd) (b : List Byte) (wr : List DramWrite) :
    (commitIntake s c m b wr).pending = s.pending := by simp [commitIntake]

@[simp] theorem endIntake_pending (s : State) (key : Nat) (rs : List (HostRead (List Byte))) (wr : List DramWrite) :
    (endIntake s key rs wr).pending = s.pending := by
  refine stageCommit_pending (fun s c k m => ?_) _ _ _ _
  dsimp only
  (repeat' split) <;> simp

@[simp] theorem commitChunk_pending (s : State) (c : Case) (k : Contract) (m : Cmd) (i : Nat) :
    (commitChunk s c k m i).pending = s.pending := by
  unfold commitChunk
  (repeat' split) <;> simp

@[simp] theorem commitStage_pending (s : State) (c : Case) (k : Contract) (m : Cmd) (p : Prediction) :
    (commitStage s c k m p).pending = s.pending := by
  unfold commitStage
  (repeat' split) <;> simp

/-! ### Passages -/

@[simp] theorem commitFill_pending (s : State) (b : BgOp) (x : Index) (p : Passage) :
    (commitFill s b x p).pending = s.pending := by simp [commitFill]

@[simp] theorem commitBatch_pending (s : State) (c : Case) (k : Contract) (m : Cmd) (img : ModelImage) (p : Prediction) :
    (commitBatch s c k m img p).pending = s.pending := by simp [commitBatch]

@[simp] theorem commitPacking_pending (s : State) (c : Case) (k : Contract) (m : Cmd) (p : Prediction) :
    (commitPacking s c k m p).pending = s.pending := by simp [commitPacking]

/-! ### Generation -/

@[simp] theorem commitPrefill_pending (s : State) (c : Case) (k : Contract) (cmd : Cmd) (m : Model) (p : Prediction) :
    (commitPrefill s c k cmd m p).pending = s.pending := by simp [commitPrefill]

@[simp] theorem propose_pending (s : State) (k : Contract) (c : Case) (cmd : Cmd) (m : Model) :
    (propose s k c cmd m).pending = s.pending := by simp [propose]

/-! ### Results -/

@[simp] theorem freeCase_pending (s : State) (c : Case) (st : Status) (late : Bool) :
    (freeCase s c st late).pending = s.pending := by
  unfold freeCase
  dsimp only
  (repeat' split) <;> simp

@[simp] theorem issueResult_pending (s : State) (c : Case) (st : Status) (late ok : Bool) :
    (issueResult s c st late ok).pending = s.pending := by simp [issueResult]

/-! ### The end of a partition -/

@[simp] theorem cancelNow_pending (s : State) (c : Case) :
    (cancelNow s c).pending = s.pending := by
  unfold cancelNow
  dsimp only
  (repeat' split) <;> simp

@[simp] theorem destroyPartition_pending (s : State) (p : Partition) :
    (destroyPartition s p).pending = s.pending := by simp [destroyPartition]

/-! ### Work of a stack -/

@[simp] theorem openAwake_pending (s : State) :
    (openAwake s).pending = s.pending := by simp [openAwake]

@[simp] theorem failOpens_pending (s : State) :
    (failOpens s).pending = s.pending := by simp [failOpens]

@[simp] theorem failBgWake_pending (s : State) :
    (failBgWake s).pending = s.pending := by
  unfold failBgWake
  dsimp only
  split
  · refine (pending_foldl _ (fun s b => ?_) _ _).trans (dropDeadBg_pending _)
    split <;> simp
  · rfl

@[simp] theorem fenceWake_pending (s : State) (core : Nat) :
    (fenceWake s core).pending = s.pending := by simp [fenceWake]

/-! ### PCIe -/

@[simp] theorem eraseWork_pending (s : State) (f : Nat) :
    (eraseWork s f).pending = s.pending := by
  unfold eraseWork
  dsimp only
  (repeat' split) <;> simp

@[simp] theorem eraseParts_pending (s : State) :
    (eraseParts s).pending = s.pending := by simp [eraseParts]

@[simp] theorem clearVfs_pending (s : State) :
    (clearVfs s).pending = s.pending := by simp [clearVfs]

@[simp] theorem timeOut_pending (s : State) (d : DmaRef) :
    (timeOut s d).pending = s.pending := by
  unfold timeOut
  (repeat' split) <;> simp

/-! ### The sideband -/

end Sys2Proof.Machine

end

section
/-! PROOFS. Every well-formed command runs and leaves the queue (O56). -/

namespace Sys2Proof.Machine

/-- A command that answers a next state and leaves the queue as it was. -/
def Answers (s : State) (r : Res) : Prop := ∃ t, r = .next t ∧ t.pending = s.pending

@[simp] theorem answers_next {s t : State} : Answers s (.next t) ↔ t.pending = s.pending :=
  ⟨fun ⟨_, h, hp⟩ => by injection h with h; exact h ▸ hp, fun hp => ⟨t, rfl, hp⟩⟩

/-- A command of a unit answers when the unit exists. -/
@[simp] theorem answers_guardUnit {s : State} {ok : Bool} {r : Res} : Answers s (guardUnit ok r) ↔ ok = true ∧ Answers s r := by
  unfold guardUnit
  split
  · simp [*]
  · simp [*, Answers]

/-- An opcode's command answers when what it does with its message leaves the queue. -/
@[simp] theorem answers_onMessage {f : Nat} {src : Src} {op : Nat} {held : List Byte → Bool} {k : State → MsgCtx → State}
    (hk : ∀ s x, (k s x).pending = s.pending) (s : State) : Answers s (onMessage s f src op held k) ↔ f < 33 := by
  rw [onMessage, answers_guardUnit, answers_next, decide_eq_true_eq, and_iff_left_iff_imp]
  intro _
  dsimp only
  split
  · rfl
  · split
    · rw [sweepStrays_pending]
      exact settle_pending _ _ _ (hk _ _)
    · rfl

@[simp] theorem answers_strataMsg {act : State → State} (ha : ∀ s, (act s).pending = s.pending) (s : State) (p t : Nat) (m : StrataMsg) :
    Answers s (strataMsg s p t m act) ↔ p < 4 := by
  simp [strataMsg, receive_pending ha]

/-! ## The commands whose effect has cases -/

theorem answers_execSqEnable (f : Nat) (withCq : Bool) (h : HostView) (s : State) (hu : f < 33) :
    Answers s (execSqEnable f withCq h s) := by
  rw [execSqEnable, answers_guardUnit, answers_next]
  refine ⟨decide_eq_true hu, ?_⟩
  (repeat' split) <;> simp

theorem answers_execRegisterWrite (f : Nat) (win : Window) (off val : Nat) (s : State) (hu : f < 33) :
    Answers s (execRegisterWrite f win off val s) := by
  rw [execRegisterWrite, answers_guardUnit, answers_next]
  refine ⟨decide_eq_true hu, ?_⟩
  dsimp only
  (repeat' split) <;> simp

theorem answers_execPartitionControl (f : Nat) (src : Src) (s : State) (hf : f < 33) : Answers s (execPartitionControl f src s) := by
  refine (answers_onMessage (fun s x => ?_) s).2 hf
  dsimp only
  (repeat' split) <;> simp

theorem answers_execPartitionQuery (f : Nat) (src : Src) (h : HostView) (s : State) (hf : f < 33) :
    Answers s (execPartitionQuery f src h s) := by
  refine (answers_onMessage (fun s x => ?_) s).2 hf
  refine settle_pending _ _ _ ?_
  (repeat' split) <;> simp

theorem answers_execModelLoad (f : Nat) (src : Src) (h : HostView) (r : HostRead ModelImage) (s : State) (hf : f < 33) :
    Answers s (execModelLoad f src h r s) := by
  refine (answers_onMessage (fun s x => ?_) s).2 hf
  refine settleRead_pending _ _ _ _ _ _ ?_
  (repeat' split) <;> simp

theorem answers_execModelPin (f : Nat) (src : Src) (s : State) (hf : f < 33) : Answers s (execModelPin f src s) := by
  refine (answers_onMessage (fun s x => ?_) s).2 hf
  dsimp only
  (repeat' split) <;> simp

theorem answers_execTableLoad (f : Nat) (src : Src) (h : HostView) (r : HostRead (List Byte)) (s : State) (hf : f < 33) :
    Answers s (execTableLoad f src h r s) := by
  refine (answers_onMessage (fun s x => ?_) s).2 hf
  refine settleRead_pending _ _ _ _ _ _ ?_
  (repeat' split) <;> simp

theorem answers_execIndexBulkLoad (f : Nat) (src : Src) (h : HostView) (r : HostRead (List Byte)) (s : State) (hf : f < 33) :
    Answers s (execIndexBulkLoad f src h r s) := by
  refine (answers_onMessage (fun s x => ?_) s).2 hf
  refine settleRead_pending _ _ _ _ _ _ ?_
  (repeat' split) <;> simp

theorem answers_execIndexInsert (f : Nat) (src : Src) (h : HostView) (r : HostRead (List Byte)) (s : State) (hf : f < 33) :
    Answers s (execIndexInsert f src h r s) := by
  refine (answers_onMessage (fun s x => ?_) s).2 hf
  refine settleRead_pending _ _ _ _ _ _ ?_
  (repeat' split) <;> simp

theorem answers_execIndexDelete (f : Nat) (src : Src) (h : HostView) (r : HostRead (List Byte)) (s : State) (hf : f < 33) :
    Answers s (execIndexDelete f src h r s) := by
  refine (answers_onMessage (fun s x => ?_) s).2 hf
  refine settleRead_pending _ _ _ _ _ _ ?_
  (repeat' split) <;> simp

theorem answers_execIndexSettle (f : Nat) (src : Src) (s : State) (hf : f < 33) : Answers s (execIndexSettle f src s) := by
  refine (answers_onMessage (fun s x => ?_) s).2 hf
  refine settle_pending _ _ _ ?_
  (repeat' split) <;> simp

theorem answers_execIndexSnapshot (f : Nat) (src : Src) (h : HostView) (s : State) (hf : f < 33) :
    Answers s (execIndexSnapshot f src h s) := by
  refine (answers_onMessage (fun s x => ?_) s).2 hf
  refine settle_pending _ _ _ ?_
  (repeat' split) <;> simp

theorem answers_execIndexQuery (f : Nat) (src : Src) (s : State) (hf : f < 33) : Answers s (execIndexQuery f src s) := by
  refine (answers_onMessage (fun s x => ?_) s).2 hf
  (repeat' split) <;> simp

theorem answers_execPrefixRegister (f : Nat) (src : Src) (h : HostView) (r : HostRead (List Byte)) (s : State) (hf : f < 33) :
    Answers s (execPrefixRegister f src h r s) := by
  refine (answers_onMessage (fun s x => ?_) s).2 hf
  refine settleRead_pending _ _ _ _ _ _ ?_
  (repeat' split) <;> simp

theorem answers_execContractOpen (f : Nat) (src : Src) (h : HostView) (r : HostRead (List Byte)) (w : Schedules) (s : State) (hf : f < 33) :
    Answers s (execContractOpen f src h r w s) := by
  refine (answers_onMessage (fun s x => ?_) s).2 hf
  (repeat' split) <;> simp

theorem answers_execContractQueryProof (f : Nat) (src : Src) (h : HostView) (s : State) (hf : f < 33) :
    Answers s (execContractQueryProof f src h s) := by
  refine (answers_onMessage (fun s x => ?_) s).2 hf
  refine settle_pending _ _ _ ?_
  (repeat' split) <;> simp

theorem answers_execContractClose (f : Nat) (src : Src) (s : State) (hf : f < 33) : Answers s (execContractClose f src s) := by
  refine (answers_onMessage (fun s x => ?_) s).2 hf
  simp

theorem answers_execCaseSubmit (f : Nat) (src : Src) (h : HostView) (r : HostRead (List Byte)) (s : State) (hf : f < 33) :
    Answers s (execCaseSubmit f src h r s) := by
  refine (answers_onMessage (fun s x => ?_) s).2 hf
  refine settleRead_pending _ _ _ _ _ _ ?_
  (repeat' split) <;> simp

theorem answers_execCaseCancel (f : Nat) (src : Src) (s : State) (hf : f < 33) : Answers s (execCaseCancel f src s) := by
  refine (answers_onMessage (fun s x => ?_) s).2 hf
  simp

theorem answers_execCairnSignal (f : Nat) (src : Src) (s : State) (hf : f < 33) : Answers s (execCairnSignal f src s) := by
  refine (answers_onMessage (fun s x => ?_) s).2 hf
  refine settle_pending _ _ _ ?_
  (repeat' split) <;> simp

theorem answers_execTelemetryRead (f : Nat) (src : Src) (h : HostView) (s : State) (hf : f < 33) :
    Answers s (execTelemetryRead f src h s) := by
  refine (answers_onMessage (fun s x => ?_) s).2 hf
  refine settle_pending _ _ _ ?_
  (repeat' split) <;> simp

theorem answers_execSafetyInject (f : Nat) (src : Src) (s : State) (hf : f < 33) : Answers s (execSafetyInject f src s) := by
  refine (answers_onMessage (fun s x => ?_) s).2 hf
  dsimp only
  (repeat' split) <;> simp

theorem answers_execSafetyFence (f : Nat) (src : Src) (testOk : Bool) (s : State) (hf : f < 33) :
    Answers s (execSafetyFence f src testOk s) := by
  refine (answers_onMessage (fun s x => ?_) s).2 hf
  (repeat' split) <;> simp

theorem answers_execFwStage (f : Nat) (src : Src) (h : HostView) (r : HostRead (List Byte)) (flashOk : Bool) (s : State) (hf : f < 33) :
    Answers s (execFwStage f src h r flashOk s) := by
  refine (answers_onMessage (fun s x => ?_) s).2 hf
  (repeat' split) <;> simp

theorem answers_execFwActivate (f : Nat) (src : Src) (s : State) (hf : f < 33) : Answers s (execFwActivate f src s) := by
  refine (answers_onMessage (fun s x => ?_) s).2 hf
  dsimp only
  (repeat' split) <;> simp

theorem answers_execBackgroundOpCommit (op : Nat) (wr : List DramWrite) (s : State) : Answers s (execBackgroundOpCommit op wr s) := by
  rw [execBackgroundOpCommit, answers_next]
  (repeat' split) <;> simp

theorem answers_execTileEnd (cmd : Nat) (u : UnitId) (t : TileRun) (s : State) (hu : u.kind = 3 ∧ u.idx < 64) :
    Answers s (execTileEnd cmd u t s) := by
  rw [execTileEnd, answers_guardUnit, answers_next]
  refine ⟨decide_eq_true hu, ?_⟩
  (repeat' split) <;> simp

theorem answers_execCommandCommit (cmd : Nat) (p : Prediction) (wr : List DramWrite) (det : Option Detection) (s : State) :
    Answers s (execCommandCommit cmd p wr det s) := by
  rw [execCommandCommit, answers_next]
  split
  · rfl
  · split
    · rfl
    · refine stageCommit_pending (fun s c k m => ?_) _ _ _ _
      split <;> simp

theorem answers_execPreemptWdogTimeout (u : UnitId) (s : State) (hu : isEngine u = true) : Answers s (execPreemptWdogTimeout u s) := by
  rw [execPreemptWdogTimeout, answers_guardUnit, answers_next]
  refine ⟨hu, ?_⟩
  (repeat' split) <;> simp

theorem answers_execModelSwitchLoadDone (m : Nat) (s : State) : Answers s (execModelSwitchLoadDone m s) := by
  rw [execModelSwitchLoadDone, answers_next]
  (repeat' split) <;> simp

theorem answers_execLayerMoveDone (m layer late : Nat) (s : State) : Answers s (execLayerMoveDone m layer late s) := by
  rw [execLayerMoveDone, answers_next]
  (repeat' split) <;> simp

theorem answers_execChunkEncodeCommit (c i : Nat) (det : Option Detection) (s : State) : Answers s (execChunkEncodeCommit c i det s) := by
  rw [execChunkEncodeCommit, answers_next]
  refine stageCommit_pending (fun s c k m => ?_) _ _ _ _
  (repeat' split) <;> simp

theorem answers_execSummaryPassCommit (c : Nat) (det : Option Detection) (s : State) : Answers s (execSummaryPassCommit c det s) := by
  rw [execSummaryPassCommit, answers_next]
  refine stageCommit_pending (fun s c k m => ?_) _ _ _ _
  (repeat' split) <;> simp

theorem answers_execCoarseSearchCommit (cmd : Nat) (det : Option Detection) (s : State) : Answers s (execCoarseSearchCommit cmd det s) := by
  rw [execCoarseSearchCommit, answers_next]
  split
  · rfl
  · split
    · exact commitUnder_pending (fun s => by simp) _ _ _
    · rfl

theorem answers_execListPassCommit (cmd : Nat) (ps : List (Nat × Prediction)) (det : Option Detection) (s : State) :
    Answers s (execListPassCommit cmd ps det s) := by
  rw [execListPassCommit, answers_next]
  split
  · rfl
  · split
    · split
      · exact commitUnder_pending (fun s => by simp) _ _ _
      · rfl
    · rfl

theorem answers_execPassageStoreReadComplete (c id : Nat) (r : HostRead (List Byte)) (s : State) :
    Answers s (execPassageStoreReadComplete c id r s) := by
  rw [execPassageStoreReadComplete, answers_next]
  simp

theorem answers_execT3BudgetExpiry (c : Nat) (p : Prediction) (s : State) : Answers s (execT3BudgetExpiry c p s) := by
  rw [execT3BudgetExpiry, answers_next]
  (repeat' split) <;> simp

theorem answers_execT3LatestSwitchPoint (c : Nat) (p : Prediction) (s : State) : Answers s (execT3LatestSwitchPoint c p s) := by
  rw [execT3LatestSwitchPoint, answers_next]
  (repeat' split) <;> simp

theorem answers_execPassageFetchCommit (c : Nat) (p : Prediction) (s : State) : Answers s (execPassageFetchCommit c p s) := by
  rw [execPassageFetchCommit, answers_next]
  refine stageCommit_pending (fun s c k m => ?_) _ _ _ _
  (repeat' split) <;> simp

theorem answers_execCacheFillCommit (op : Nat) (s : State) : Answers s (execCacheFillCommit op s) := by
  rw [execCacheFillCommit, answers_next]
  (repeat' split) <;> simp

theorem answers_execRerankBatchCommit (c : Nat) (p : Prediction) (det : Option Detection) (s : State) :
    Answers s (execRerankBatchCommit c p det s) := by
  rw [execRerankBatchCommit, answers_next]
  refine stageCommit_pending (fun s c k m => ?_) _ _ _ _
  (repeat' split) <;> simp

theorem answers_execPackingCommit (c : Nat) (p : Prediction) (s : State) : Answers s (execPackingCommit c p s) := by
  rw [execPackingCommit, answers_next]
  refine stageCommit_pending (fun s c k m => ?_) _ _ _ _
  simp

theorem answers_execPrefillCommit (c : Nat) (p : Prediction) (det : Option Detection) (s : State) :
    Answers s (execPrefillCommit c p det s) := by
  rw [execPrefillCommit, answers_next]
  refine stageCommit_pending (fun s c k m => ?_) _ _ _ _
  (repeat' split) <;> simp

theorem answers_execFileChunkPrefillCommit (c i : Nat) (det : Option Detection) (s : State) :
    Answers s (execFileChunkPrefillCommit c i det s) := by
  rw [execFileChunkPrefillCommit, answers_next]
  refine stageCommit_pending (fun s c k m => ?_) _ _ _ _
  (repeat' split) <;> simp

theorem answers_execDraftStep (c : Nat) (s : State) : Answers s (execDraftStep c s) := by
  rw [execDraftStep, answers_next]
  (repeat' split) <;> simp

theorem answers_execVerifyPassCommit (cmd : Nat) (ps : List (Nat × Prediction)) (det : Option Detection) (s : State) :
    Answers s (execVerifyPassCommit cmd ps det s) := by
  rw [execVerifyPassCommit, answers_next]
  split
  · rfl
  · split
    · exact commitUnder_pending (fun s => by simp) _ _ _
    · rfl

theorem answers_execResultRecordIssue (c : Nat) (s : State) : Answers s (execResultRecordIssue c s) := by
  rw [execResultRecordIssue, answers_next]
  (repeat' split) <;> simp

theorem answers_execCairnWaitTimeout (w : Nat) (s : State) : Answers s (execCairnWaitTimeout w s) := by
  rw [execCairnWaitTimeout, answers_next]
  (repeat' split) <;> simp

theorem answers_execClockMon (domain : Nat) (dev : Int) (s : State) (hu : domain ≤ 6) : Answers s (execClockMon domain dev s) := by
  rw [execClockMon, answers_guardUnit, answers_next]
  refine ⟨decide_eq_true hu, ?_⟩
  (repeat' split) <;> simp

theorem answers_execDiagnosticSweepTick (flagged : Bool) (s : State) : Answers s (execDiagnosticSweepTick flagged s) := by
  rw [execDiagnosticSweepTick, answers_next]
  dsimp only
  (repeat' split) <;> simp

theorem answers_execHaltReqNRearmExpiry (s : State) : Answers s (execHaltReqNRearmExpiry s) := by
  rw [execHaltReqNRearmExpiry, answers_next]
  dsimp only
  (repeat' split) <;> simp

theorem answers_execSyncOutPulseStart (s : State) : Answers s (execSyncOutPulseStart s) := by
  rw [execSyncOutPulseStart, answers_next]
  (repeat' split) <;> simp

theorem answers_execVoltageStepAck (rail : Nat) (s : State) (hu : rail ≤ 10) : Answers s (execVoltageStepAck rail s) := by
  rw [execVoltageStepAck, answers_guardUnit, answers_next]
  refine ⟨decide_eq_true hu, ?_⟩
  dsimp only
  (repeat' split) <;> simp

theorem answers_execVoltageStepTimeout (rail : Nat) (s : State) (hu : rail ≤ 10) : Answers s (execVoltageStepTimeout rail s) := by
  rw [execVoltageStepTimeout, answers_guardUnit, answers_next]
  refine ⟨decide_eq_true hu, ?_⟩
  dsimp only
  (repeat' split) <;> simp

theorem answers_execMinSenseLoopPeriod (g ma : Nat) (rd : LoopReading) (s : State) (hu : g < 4) :
    Answers s (execMinSenseLoopPeriod g ma rd s) := by
  rw [execMinSenseLoopPeriod, answers_guardUnit, answers_next]
  refine ⟨decide_eq_true hu, ?_⟩
  (repeat' split) <;> simp

theorem answers_execThermalSensorRead (temps : List (List Int)) (s : State) : Answers s (execThermalSensorRead temps s) := by
  rw [execThermalSensorRead, answers_next]
  (repeat' split) <;> simp

theorem answers_execCoreReady (core : Nat) (s : State) (hu : core < 16) : Answers s (execCoreReady core s) := by
  rw [execCoreReady, answers_guardUnit, answers_next]
  refine ⟨decide_eq_true hu, ?_⟩
  (repeat' split) <;> simp

theorem answers_execHdrSwitchTimeout (core stage : Nat) (s : State) (hu : core < 16 ∧ 1 ≤ stage ∧ stage ≤ 4) :
    Answers s (execHdrSwitchTimeout core stage s) := by
  rw [execHdrSwitchTimeout, answers_guardUnit, answers_next]
  refine ⟨decide_eq_true hu, ?_⟩
  (repeat' split) <;> simp

theorem answers_execHeaderSwitchReadyLost (core : Nat) (s : State) (hu : core < 16) : Answers s (execHeaderSwitchReadyLost core s) := by
  rw [execHeaderSwitchReadyLost, answers_guardUnit, answers_next]
  refine ⟨decide_eq_true hu, ?_⟩
  (repeat' split) <;> simp

theorem answers_execAtsInvalidation (f lo hi : Nat) (s : State) (hu : f < 33) : Answers s (execAtsInvalidation f lo hi s) := by
  rw [execAtsInvalidation, answers_guardUnit, answers_next]
  refine ⟨decide_eq_true hu, ?_⟩
  simp

theorem answers_execDmaCompletionTimeout (d : DmaRef) (s : State) (hu : readFits d = true) : Answers s (execDmaCompletionTimeout d s) := by
  rw [execDmaCompletionTimeout, answers_guardUnit, answers_next]
  refine ⟨hu, ?_⟩
  (repeat' split) <;> simp

theorem answers_execTrainingStepTimeout (p step : Nat) (s : State) (hu : p < 4 ∧ 1 ≤ step ∧ step ≤ 5) :
    Answers s (execTrainingStepTimeout p step s) := by
  rw [execTrainingStepTimeout, answers_guardUnit, answers_next]
  refine ⟨decide_eq_true hu, ?_⟩
  simp

theorem answers_execNakFlit (n : Nat) (f : Flit) (s : State) (hu : n < 4) : Answers s (execNakFlit n f s) := by
  rw [execNakFlit, answers_guardUnit, answers_next]
  refine ⟨decide_eq_true hu, ?_⟩
  dsimp only
  split
  · rfl
  · split
    · simp
    · split
      · simp
      · split
        · simp
        · rw [pending_foldl _ (fun s f => emit_pending s _), updPort_pending, takeAck_pending]

theorem answers_execReserve (p : Nat) (m : StrataMsg) (w : Schedules) (s : State) (hp : p < 4) : Answers s (execReserve p m w s) := by
  refine (answers_strataMsg (fun s => ?_) s _ _ _).2 hp
  simp

theorem answers_execReserveAck (p : Nat) (m : StrataMsg) (s : State) (hp : p < 4) : Answers s (execReserveAck p m s) := by
  refine (answers_strataMsg (fun s => ?_) s _ _ _).2 hp
  dsimp only
  (repeat' split) <;> simp

theorem answers_execReserveTimeout (k : Nat) (s : State) : Answers s (execReserveTimeout k s) := by
  rw [execReserveTimeout, answers_next]
  (repeat' split) <;> simp

theorem answers_execVoteTimeout (txn : Nat) (s : State) : Answers s (execVoteTimeout txn s) := by
  rw [execVoteTimeout, answers_next]
  (repeat' split) <;> simp

theorem answers_execDecide (p : Nat) (m : StrataMsg) (s : State) (hp : p < 4) : Answers s (execDecide p m s) := by
  refine (answers_strataMsg (fun s => ?_) s _ _ _).2 hp
  (repeat' split) <;> simp

theorem answers_execDecisionWaitTimeout (txn : Nat) (s : State) : Answers s (execDecisionWaitTimeout txn s) := by
  rw [execDecisionWaitTimeout, answers_next]
  (repeat' split) <;> simp

theorem answers_execDecisionQuery (p : Nat) (m : StrataMsg) (s : State) (hp : p < 4) : Answers s (execDecisionQuery p m s) := by
  refine (answers_strataMsg (fun s => ?_) s _ _ _).2 hp
  (repeat' split) <;> simp

theorem answers_execDispatch (p : Nat) (m : StrataMsg) (s : State) (hp : p < 4) : Answers s (execDispatch p m s) := by
  refine (answers_strataMsg (fun s => ?_) s _ _ _).2 hp
  (repeat' split) <;> simp

theorem answers_execShardResult (p : Nat) (m : StrataMsg) (q : Prediction) (s : State) (hp : p < 4) :
    Answers s (execShardResult p m q s) := by
  refine (answers_strataMsg (fun s => ?_) s _ _ _).2 hp
  dsimp only
  (repeat' split) <;> simp

theorem answers_execPartialMsg (p : Nat) (m : StrataMsg) (s : State) (hp : p < 4) : Answers s (execPartialMsg p m s) := by
  refine (answers_strataMsg (fun s => ?_) s _ _ _).2 hp
  dsimp only
  (repeat' split) <;> simp

theorem answers_execKill (p : Nat) (m : StrataMsg) (s : State) (hp : p < 4) : Answers s (execKill p m s) := by
  refine (answers_strataMsg (fun s => ?_) s _ _ _).2 hp
  dsimp only
  (repeat' split) <;> simp

theorem answers_execSyncExchangeTimer (s : State) : Answers s (execSyncExchangeTimer s) := by
  rw [execSyncExchangeTimer, answers_next]
  dsimp only
  (repeat' split) <;> simp

theorem answers_execMainPowerLost (s : State) : Answers s (execMainPowerLost s) := by
  rw [execMainPowerLost, answers_next]
  dsimp only
  (repeat' split) <;> simp

theorem answers_execPerstDeassert (s : State) : Answers s (execPerstDeassert s) := by
  rw [execPerstDeassert, answers_next]
  dsimp only
  (repeat' split) <;> simp

theorem answers_execVfEnableSet (n : Nat) (s : State) (hu : n ≤ 32) : Answers s (execVfEnableSet n s) := by
  rw [execVfEnableSet, answers_guardUnit, answers_next]
  refine ⟨decide_eq_true hu, ?_⟩
  (repeat' split) <;> simp

theorem answers_execAmberRingWrite (s : State) : Answers s (execAmberRingWrite s) := by
  rw [execAmberRingWrite, answers_next]
  (repeat' split) <;> simp

theorem answers_execAmberPersistentAppend (ok : Bool) (s : State) : Answers s (execAmberPersistentAppend ok s) := by
  rw [execAmberPersistentAppend, answers_next]
  (repeat' split) <;> simp

theorem answers_execAmberSelect (b : List Byte) (pec : Bool) (s : State) : Answers s (execAmberSelect b pec s) := by
  rw [execAmberSelect, answers_next]
  refine blockWrite_pending (fun s => ?_) _ _ _ _ _
  simp

theorem answers_execAmberNext (s : State) : Answers s (execAmberNext s) := by
  rw [execAmberNext, answers_next]
  (repeat' split) <;> simp

theorem answers_execRetry (b : List Byte) (pec : Bool) (s : State) : Answers s (execRetry b pec s) := by
  rw [execRetry, answers_next]
  refine blockWrite_pending (fun s => ?_) _ _ _ _ _
  (repeat' split) <;> simp

theorem answers_execPldmFirmwareUpdate (q : PldmReq) (s : State) : Answers s (execPldmFirmwareUpdate q s) := by
  unfold execPldmFirmwareUpdate
  rw [answers_next]
  (repeat' split) <;> simp

/-! ## Every command -/

/-- The reads that the model's unit carries are those that a well-formed command names. -/
theorem readFits_eq_readOf (d : DmaRef) : readFits d = readOf d := by
  cases d <;> rfl

/-- Every well-formed command answers: the units it names exist, and what it does leaves the queue. -/
theorem answers_exec (c : Instr) (s : State) (hw : Instr.wf c = true) : Answers s (exec c s) := by
  cases c with
  | inlPiObserved f => simpa [execInlPiObserved, Instr.wf, fn] using hw
  | sqPiObserved f => simpa [execSqPiObserved, Instr.wf, fn] using hw
  | cqCiObserved f => simpa [execCqCiObserved, Instr.wf, fn] using hw
  | sqEntryFetchComplete f index r => simpa [execSqEntryFetchComplete, Instr.wf, fn] using hw
  | mbReset f => simpa [execMbReset, Instr.wf, fn] using hw
  | sqEnable f withCq h => exact answers_execSqEnable f withCq h s (of_decide_eq_true hw)
  | cqEnable f h => simpa [execCqEnable, Instr.wf, fn] using hw
  | eventPendingClear f mask same => simpa [execEventPendingClear, Instr.wf, fn] using hw
  | evtLostRead f same => simpa [execEvtLostRead, Instr.wf, fn] using hw
  | complDroppedRead f same => simpa [execComplDroppedRead, Instr.wf, fn] using hw
  | conflictsRead same => simp [execConflictsRead]
  | throtChangesRead same => simp [execThrotChangesRead]
  | stretchFaultsRead same => simp [execStretchFaultsRead]
  | minRearm => simp [execMinRearm]
  | registerWrite f win off val =>
    simp only [Instr.wf, fn, Bool.and_eq_true, decide_eq_true_eq] at hw
    exact answers_execRegisterWrite f win off val s hw.1.1.1
  | modTimeExpiry f => simpa [execModTimeExpiry, Instr.wf, fn] using hw
  | partitionCreate f src => simpa [execPartitionCreate, Instr.wf, fn] using hw
  | partitionSetQuota f src => simpa [execPartitionSetQuota, Instr.wf, fn] using hw
  | partitionControl f src => exact answers_execPartitionControl f src s (of_decide_eq_true hw)
  | partitionQuery f src h => exact answers_execPartitionQuery f src h s (of_decide_eq_true hw)
  | modelLoad f src h r => exact answers_execModelLoad f src h r s (of_decide_eq_true hw)
  | modelPin f src => exact answers_execModelPin f src s (of_decide_eq_true hw)
  | modelEvict f src => simpa [execModelEvict, Instr.wf, fn] using hw
  | tableCreate f src => simpa [execTableCreate, Instr.wf, fn] using hw
  | tableLoad f src h r => exact answers_execTableLoad f src h r s (of_decide_eq_true hw)
  | tableDestroy f src => simpa [execTableDestroy, Instr.wf, fn] using hw
  | indexCreate f src => simpa [execIndexCreate, Instr.wf, fn] using hw
  | indexBulkLoad f src h r => exact answers_execIndexBulkLoad f src h r s (of_decide_eq_true hw)
  | indexInsert f src h r => exact answers_execIndexInsert f src h r s (of_decide_eq_true hw)
  | indexDelete f src h r => exact answers_execIndexDelete f src h r s (of_decide_eq_true hw)
  | indexSettle f src => exact answers_execIndexSettle f src s (of_decide_eq_true hw)
  | indexSnapshot f src h => exact answers_execIndexSnapshot f src h s (of_decide_eq_true hw)
  | indexDestroy f src => simpa [execIndexDestroy, Instr.wf, fn] using hw
  | indexQuery f src => exact answers_execIndexQuery f src s (of_decide_eq_true hw)
  | prefixRegister f src h r => exact answers_execPrefixRegister f src h r s (of_decide_eq_true hw)
  | prefixRelease f src => simpa [execPrefixRelease, Instr.wf, fn] using hw
  | contractOpen f src h r w => exact answers_execContractOpen f src h r w s (of_decide_eq_true hw)
  | contractQueryProof f src h => exact answers_execContractQueryProof f src h s (of_decide_eq_true hw)
  | contractClose f src => exact answers_execContractClose f src s (of_decide_eq_true hw)
  | caseSubmit f src h r => exact answers_execCaseSubmit f src h r s (of_decide_eq_true hw)
  | caseCancel f src => exact answers_execCaseCancel f src s (of_decide_eq_true hw)
  | caseQuery f src h => simpa [execCaseQuery, Instr.wf, fn] using hw
  | cairnAlloc f src => simpa [execCairnAlloc, Instr.wf, fn] using hw
  | cairnFree f src => simpa [execCairnFree, Instr.wf, fn] using hw
  | cairnSignal f src => exact answers_execCairnSignal f src s (of_decide_eq_true hw)
  | cairnWaitArm f src => simpa [execCairnWaitArm, Instr.wf, fn] using hw
  | cairnQuery f src => simpa [execCairnQuery, Instr.wf, fn] using hw
  | telemetryRead f src h => exact answers_execTelemetryRead f src h s (of_decide_eq_true hw)
  | accountRead f src h => simpa [execAccountRead, Instr.wf, fn] using hw
  | safetySelftestRead f src h => simpa [execSafetySelftestRead, Instr.wf, fn] using hw
  | safetyInject f src => exact answers_execSafetyInject f src s (of_decide_eq_true hw)
  | safetyFence f src testOk => exact answers_execSafetyFence f src testOk s (of_decide_eq_true hw)
  | safetyHoldRelease f src failed => simpa [execSafetyHoldRelease, Instr.wf, fn] using hw
  | powerPolicySet f src => simpa [execPowerPolicySet, Instr.wf, fn] using hw
  | powerPolicyGet f src => simpa [execPowerPolicyGet, Instr.wf, fn] using hw
  | amberRead f src h => simpa [execAmberRead, Instr.wf, fn] using hw
  | fwStage f src h r flashOk => exact answers_execFwStage f src h r flashOk s (of_decide_eq_true hw)
  | fwActivate f src => exact answers_execFwActivate f src s (of_decide_eq_true hw)
  | attestMeasurements f src h => simpa [execAttestMeasurements, Instr.wf, fn] using hw
  | backgroundOpCommit op wr => exact answers_execBackgroundOpCommit op wr s
  | commandSelection u => simpa [execCommandSelection, Instr.wf] using hw
  | tileEnd cmd u t =>
    simp only [Instr.wf, Bool.and_eq_true] at hw
    exact answers_execTileEnd cmd u t s (of_decide_eq_true hw.1)
  | commandCommit cmd p wr det => exact answers_execCommandCommit cmd p wr det s
  | preemptWdogTimeout u => exact answers_execPreemptWdogTimeout u s hw
  | modelSwitchLoadDone m => exact answers_execModelSwitchLoadDone m s
  | layerMoveDone m layer late => exact answers_execLayerMoveDone m layer late s
  | intakeCommit c rs wr => simp [execIntakeCommit]
  | chunkEncodeCommit c chunk det => exact answers_execChunkEncodeCommit c chunk det s
  | summaryPassCommit c det => exact answers_execSummaryPassCommit c det s
  | coarseSearchCommit cmd det => exact answers_execCoarseSearchCommit cmd det s
  | holdExpiry c => simp [execHoldExpiry]
  | listPassCommit cmd ps det => exact answers_execListPassCommit cmd ps det s
  | passageStoreReadComplete c id r => exact answers_execPassageStoreReadComplete c id r s
  | t3BudgetExpiry c p => exact answers_execT3BudgetExpiry c p s
  | t3LatestSwitchPoint c p => exact answers_execT3LatestSwitchPoint c p s
  | passageFetchCommit c p => exact answers_execPassageFetchCommit c p s
  | cacheFillCommit op => exact answers_execCacheFillCommit op s
  | rerankBatchCommit c p det => exact answers_execRerankBatchCommit c p det s
  | packingCommit c p => exact answers_execPackingCommit c p s
  | prefillCommit c p det => exact answers_execPrefillCommit c p det s
  | fileChunkPrefillCommit c chunk det => exact answers_execFileChunkPrefillCommit c chunk det s
  | draftStep c => exact answers_execDraftStep c s
  | verifyPassCommit cmd ps det => exact answers_execVerifyPassCommit cmd ps det s
  | resultRecordIssue c => exact answers_execResultRecordIssue c s
  | arrivalTokenAccrual k => simp [execArrivalTokenAccrual]
  | periodWindowEnd k => simp [execPeriodWindowEnd]
  | cairnWaitTimeout w => exact answers_execCairnWaitTimeout w s
  | linkRateFall rate width => simp [execLinkRateFall]
  | voltMon g mv high => simpa [execVoltMon, Instr.wf, below] using hw
  | stretchBudgetFault g region => simpa [execStretchBudgetFault, Instr.wf, below] using hw
  | railMon rail word => simpa [execRailMon, Instr.wf, rail11] using hw
  | lockstepMismatch pairB pos pc => simp [execLockstepMismatch]
  | fwWdog pairB task => simp [execFwWdog]
  | clockMon domain dev => exact answers_execClockMon domain dev s (Nat.le_of_lt_succ (of_decide_eq_true hw))
  | clockRelockAttempt ok => simp [execClockRelockAttempt]
  | diagnosticSweepTick flagged => exact answers_execDiagnosticSweepTick flagged s
  | haltReqNChange level => simp [execHaltReqNChange]
  | haltReqNRearmExpiry => exact answers_execHaltReqNRearmExpiry s
  | throtNChange level => simp [execThrotNChange]
  | syncInEdge ts => simp [execSyncInEdge]
  | syncOutPulseStart => exact answers_execSyncOutPulseStart s
  | syncOutPulseEnd => simp [execSyncOutPulseEnd]
  | dividerDwellEnd g ma => simpa [execDividerDwellEnd, Instr.wf, below] using hw
  | voltageStepAck rail => exact answers_execVoltageStepAck rail s (of_decide_eq_true hw)
  | voltageStepTimeout rail => exact answers_execVoltageStepTimeout rail s (of_decide_eq_true hw)
  | minSenseLoopPeriod g ma rd => exact answers_execMinSenseLoopPeriod g ma rd s (of_decide_eq_true hw)
  | unmatchedFall g region mv => simpa [execUnmatchedFall, Instr.wf, below] using hw
  | powerCapEvaluation energyUj avgMw maxMw => simp [execPowerCapEvaluation]
  | capCalibration estMw teleMw => simp [execCapCalibration]
  | thermalSensorRead temps => exact answers_execThermalSensorRead temps s
  | thermalThrottleStep g => simpa [execThermalThrottleStep, Instr.wf, below] using hw
  | coreReady core => exact answers_execCoreReady core s (of_decide_eq_true hw)
  | hdrSwitchTimeout core stage => exact answers_execHdrSwitchTimeout core stage s (by simpa [Instr.wf, below, within] using hw)
  | headerSwitchReadyLost core => exact answers_execHeaderSwitchReadyLost core s (of_decide_eq_true hw)
  | dozeEntry => simp [execDozeEntry]
  | dieRegate g => simpa [execDieRegate, Instr.wf, below] using hw
  | patrolScrubTick t reads => simp [execPatrolScrubTick]
  | scrubPassStart t => simp [execScrubPassStart]
  | channelReadTimeout t ch => simpa [execChannelReadTimeout, Instr.wf, below] using hw
  | retrainEnd t ch ok => simpa [execRetrainEnd, Instr.wf, below] using hw
  | atsInvalidation f lo hi =>
    simp only [Instr.wf, fn, Bool.and_eq_true, decide_eq_true_eq] at hw
    exact answers_execAtsInvalidation f lo hi s hw.1
  | dmaCompletionTimeout d => exact answers_execDmaCompletionTimeout d s ((readFits_eq_readOf d).trans hw)
  | cableInsertion p eeprom => simpa [execCableInsertion, Instr.wf, port, port] using hw
  | linkTrainingAttempt p => simpa [execLinkTrainingAttempt, Instr.wf, port, port] using hw
  | trainingStepTimeout p step => exact answers_execTrainingStepTimeout p step s (by simpa [Instr.wf, port, within] using hw)
  | trainingRetryTimer p => simpa [execTrainingRetryTimer, Instr.wf, port, port] using hw
  | linkFlit p fl => simpa [execLinkFlit, Instr.wf, port, port] using hw
  | dataFlit p fl => simpa [execDataFlit, Instr.wf, port, port] using hw
  | idleFlit p fl => simpa [execIdleFlit, Instr.wf, port, port] using hw
  | nakFlit p fl => exact answers_execNakFlit p fl s (of_decide_eq_true hw)
  | lossOfSignal p => simpa [execLossOfSignal, Instr.wf, port, port] using hw
  | cblIntN p => simpa [execCblIntN, Instr.wf, port, port] using hw
  | memberSilentTimeout pos => simp [execMemberSilentTimeout]
  | formationQuietTimeout shape members => simp [execFormationQuietTimeout]
  | hello p m => simpa [execHello, Instr.wf, port, port] using hw
  | form p m => simpa [execForm, Instr.wf, port, port] using hw
  | linkState p m => simpa [execLinkState, Instr.wf, port, port] using hw
  | ack p m => simpa [execAck, Instr.wf, port, port] using hw
  | reserve p m w => exact answers_execReserve p m w s (of_decide_eq_true hw)
  | reserveAck p m => exact answers_execReserveAck p m s (of_decide_eq_true hw)
  | reserveTimeout k => exact answers_execReserveTimeout k s
  | release p m => simpa [execRelease, Instr.wf, port, port] using hw
  | signal p m => simpa [execSignal, Instr.wf, port, port] using hw
  | vote p m => simpa [execVote, Instr.wf, port, port] using hw
  | voteTimeout txn => exact answers_execVoteTimeout txn s
  | decide p m => exact answers_execDecide p m s (of_decide_eq_true hw)
  | decisionWaitTimeout txn => exact answers_execDecisionWaitTimeout txn s
  | decisionQuery p m => exact answers_execDecisionQuery p m s (of_decide_eq_true hw)
  | dispatch p m => exact answers_execDispatch p m s (of_decide_eq_true hw)
  | shardResult p m q => exact answers_execShardResult p m q s (of_decide_eq_true hw)
  | partialMsg p m => exact answers_execPartialMsg p m s (of_decide_eq_true hw)
  | kill p m => exact answers_execKill p m s (of_decide_eq_true hw)
  | throttleAdvise p m => simpa [execThrottleAdvise, Instr.wf, port, port] using hw
  | syncExchangeTimer => exact answers_execSyncExchangeTimer s
  | syncReq p m t2 t3 => simpa [execSyncReq, Instr.wf, port, port] using hw
  | syncResp p m t4 => simpa [execSyncResp, Instr.wf, port, port] using hw
  | bulk p m => simpa [execBulk, Instr.wf, port, port] using hw
  | unknownMessageType p m => simpa [execUnknownMessageType, Instr.wf, port, port] using hw
  | auxPowerOn epochOk => simp [execAuxPowerOn]
  | auxPowerLost => simp [execAuxPowerLost]
  | mainPowerPresent => simp [execMainPowerPresent]
  | mainPowerLost => exact answers_execMainPowerLost s
  | railPowerGood rail => simpa [execRailPowerGood, Instr.wf, rail11] using hw
  | powerGoodTimeout rail => simpa [execPowerGoodTimeout, Instr.wf, rail11] using hw
  | oscillatorStable => simp [execOscillatorStable]
  | pllLock => simp [execPllLock]
  | refclkTimeout pll => simp [execRefclkTimeout]
  | attemptRetryWaitExpiry => simp [execAttemptRetryWaitExpiry]
  | perstAssert => simp [execPerstAssert]
  | perstDeassert => exact answers_execPerstDeassert s
  | bootVerifyComplete => simp [execBootVerifyComplete]
  | memoryTrainingComplete failed => simpa [execMemoryTrainingComplete, Instr.wf, channelsOk] using hw
  | memoryInitComplete bad failed => simp [execMemoryInitComplete]
  | trialBootTimeout => simp [execTrialBootTimeout]
  | flrVf f => simpa [execFlrVf, Instr.wf, within] using hw
  | flrPf => simp [execFlrPf]
  | vfEnableClear => simp [execVfEnableClear]
  | vfEnableSet n => exact answers_execVfEnableSet n s (Nat.le_of_lt_succ (of_decide_eq_true hw))
  | d3hotTransition enter => simp [execD3hotTransition]
  | amberRingWrite => exact answers_execAmberRingWrite s
  | amberPersistentAppend ok => exact answers_execAmberPersistentAppend ok s
  | id => simp [execId]
  | status => simp [execStatus]
  | recorder => simp [execRecorder]
  | amberSelect b pec => exact answers_execAmberSelect b pec s
  | amberNext => exact answers_execAmberNext s
  | retry b pec => exact answers_execRetry b pec s
  | mctpControl b pec => simp [execMctpControl]
  | pldmFirmwareUpdate q => exact answers_execPldmFirmwareUpdate q s
  | pldmPlatformMonitoring sensor => simp [execPldmPlatformMonitoring]
  | spdmRequest q => simp [execSpdmRequest]
  | clockStretchStart g region => simpa [execClockStretchStart, Instr.wf, below] using hw
  | clockStretchEnd g => simpa [execClockStretchEnd, Instr.wf, below] using hw
  | setpointRaiseExpiry g => simpa [execSetpointRaiseExpiry, Instr.wf, below] using hw
  | undervoltagePersistence g => simpa [execUndervoltagePersistence, Instr.wf, below] using hw
  | cableRemoval p => simpa [execCableRemoval, Instr.wf, port, port] using hw

/-- Settles O56: a well-formed command names units that the module has, and no operation touches the queue. -/
theorem everyCommandAnswers : Obligations.EveryCommandAnswers := by
  unfold Obligations.EveryCommandAnswers
  exact answers_exec

end Sys2Proof.Machine

end

section
/-! PROOFS. Commands that complete: the fetch of a ring entry, a register write, the end of MOD_TIME, and the records of an index (R3,
R26, R33, R77). -/

namespace Sys2Proof.Machine

/-! ## Mailboxes -/

/-- A write to INL_PI is taken as it stands, modulo the slots. -/
theorem exec_registerWrite_inlPi {s : State} {f v : Nat} (hf : f < 33) (hw : windowOpen s f = true) (hv : v < 2 ^ 32) :
    exec (.registerWrite f .mailbox 0x20 v) s = .next (updMb s f fun mb => { mb with inl := { mb.inl with pi := v % 16 } }) := by
  rw [exec_registerWrite, execRegisterWrite, guardUnit_of_lt hf, Nat.mod_eq_of_lt hv]
  simp [hw, mailboxWrite]

/-- A fetch, a register write and the end of MOD_TIME complete (R3, R26, R33). -/
theorem mailbox_commands_complete {s : State} {f : Nat} (hf : f < 33) (hlen : f < s.mail.length) :
    (∀ i e b, Fresh s → (mbOf s f).sqFetch.find? (fun x => x.1 == i) = some e → mbServes s f = true → canReserve s f = true →
      ∃ t, exec (.sqEntryFetchComplete f i (.data b)) s = .next t ∧
        (mbOf t f).sqFetch = (mbOf s f).sqFetch.filter (fun x => x.1 != i)) ∧
    (∀ v, v < 2 ^ 32 → windowOpen s f = true →
      ∃ t, exec (.registerWrite f .mailbox 0x20 v) s = .next t ∧ (mbOf t f).inl.pi = v % 16) ∧
    ((mbOf s f).ev.unsignalled ≠ 0 → ∃ t, exec (.modTimeExpiry f) s = .next t ∧ (mbOf t f).ev.unsignalled = 0) := by
  refine ⟨fun i e b fr he hs hc => ?_, fun v hv hw => ?_, fun hu => ?_⟩
  · obtain ⟨t, hnext, hfetch, -⟩ := fetch_joins hf he fr b hs hc
    exact ⟨t, hnext, hfetch⟩
  · refine ⟨_, exec_registerWrite_inlPi hf hw hv, ?_⟩
    rw [mbOf_updMb _ _ _ hlen]
  · obtain ⟨t, hnext, hzero, -⟩ := modTime_fires hf hlen hu
    exact ⟨t, hnext, hzero⟩

/-! ## The records of an index -/

/-- The index of a handle after records have been appended to it. -/
theorem indexOf_appendScree {s : State} {ih : Nat} {i : Index} (hi : indexOf s ih = some i) (rs : List ScreeRec) :
    indexOf (updIndex s ih fun x => appendScree x rs) ih = some (appendScree i rs) := by
  have hkeeps := find?_modifyWhere s.indexes (fun x => x.handle == ih) (fun x => x.handle == ih) (fun x => appendScree x rs) fun _ _ => rfl
  rw [indexOf] at hi
  rw [hi, Option.map_some, if_pos (List.find?_some hi)] at hkeeps
  exact hkeeps

theorem handle_of_indexOf {s : State} {h : Nat} {i : Index} (hi : indexOf s h = some i) : i.handle = h := by
  simpa using List.find?_some hi

theorem indexOf_of_ownIndex {s : State} {f h : Nat} {i : Index} (hi : ownIndex s f h = some i) : indexOf s h = some i :=
  (Option.filter_eq_some_iff.1 hi).1

theorem appendScree_length (x : Index) (rs : List ScreeRec) : (appendScree x rs).scree.length = x.scree.length + rs.length := by
  simp [appendScree]

/-- A list of checks that all pass passes. -/
theorem firstSome_eq_none {α : Type} {l : List (Option α)} (h : ∀ a ∈ l, a = none) : firstSome l = none := by
  induction l with
  | nil => rfl
  | cons a l ih =>
    rw [h a List.mem_cons_self]
    exact ih fun b hb => h b (List.mem_cons_of_mem _ hb)

theorem failIf_of_false {c : Bool} (hc : c = false) (st : Status) (off : Nat) : failIf c st off = none := by
  rw [hc]
  rfl

theorem recordLengths_of_le {b : List Byte} {w : Nat} (h : le b 36 4 * w ≤ le b 48 8) : recordLengths b w = none :=
  failIf_of_false (decide_eq_false (Nat.not_lt.2 h)) _ _

/-- The checks that INDEX_INSERT and INDEX_DELETE share pass for a LIVE index with room in its scree. -/
theorem recordChecks_of_live {s : State} {f : Nat} {b : List Byte} {lengths : IndexCfg → Check} {i : Index}
    (hi : ownIndex s f (le b 32 4) = some i) (hlive : i.state = .live) (hroom : i.scree.length + le b 36 4 ≤ screeMax)
    (hl : lengths i.cfg = none) : recordChecks s f b lengths = none := by
  rw [recordChecks, hi]
  refine firstSome_eq_none fun a ha => ?_
  simp only [List.mem_cons, List.not_mem_nil, or_false] at ha
  rcases ha with rfl | rfl | rfl
  · exact failIf_of_false (by rw [hlive]; rfl) _ _
  · exact hl
  · exact failIf_of_false (decide_eq_false (Nat.not_lt.2 hroom)) _ _

/-- What the records of a message leave of the index they are appended to. -/
def Grown (t : State) (i : Index) (n : Nat) : Prop :=
  ∃ y, indexOf t i.handle = some y ∧ y.nextSeq = i.nextSeq + n ∧ y.scree.length = i.scree.length + n

theorem grown_of_rest {f ih n : Nat} {s t : State} {i : Index} {rs : List ScreeRec} (hi : indexOf s ih = some i) (hn : rs.length = n)
    (hr : Rest f (updIndex s ih fun x => appendScree x rs) t) : Grown t i n := by
  refine ⟨appendScree i rs, ?_, ?_, ?_⟩
  · rw [handle_of_indexOf hi, ← indexOf_appendScree hi rs]
    obtain ⟨hrest, -⟩ := hr
    rw [hrest]
    rfl
  · rw [← hn]
    rfl
  · rw [appendScree_length, hn]

/-- A message that appends records to an index and is answered leaves the index grown. -/
theorem answered_grows {s : State} {f ih addr len n : Nat} {src : Src} {op : Nat} {m : MsgIn} {held : List Byte → Bool} {i : Index}
    {k : State → MsgCtx → State} {rs : List ScreeRec} (hd : Head s f src op m) (fr : Fresh s) (hh : held m.bytes = false)
    (hi : indexOf s ih = some i) (hn : rs.length = n)
    (hk : k (startMsg s (ctxOf s f src m)) (ctxOf s f src m) =
      complete (startMsg (updIndex (hostRead s f addr len) ih fun x => appendScree x rs) (ctxOf s f src m)) s.nextMsg .ok) :
    ∃ t, onMessage s f src op held k = .next t ∧ Grown t i n := by
  obtain ⟨t, hnext, -, hrest⟩ := answers (a := updIndex (hostRead s f addr len) ih fun x => appendScree x rs) hd fr hh
    ⟨rfl, rfl, rfl⟩ (List.prefix_append _ _) hk
  have hread : indexOf (hostRead s f addr len) ih = some i := hi
  exact ⟨t, hnext, grown_of_rest hread hn hrest⟩

theorem ctxOf_bytes (s : State) (f : Nat) (src : Src) (m : MsgIn) : (ctxOf s f src m).bytes = m.bytes := rfl

theorem ctxOf_f (s : State) (f : Nat) (src : Src) (m : MsgIn) : (ctxOf s f src m).f = f := rfl

theorem indexOf_startMsg (s : State) (x : MsgCtx) (h : Nat) : indexOf (startMsg s x) h = indexOf s h := rfl

theorem ctxOf_id (s : State) (f : Nat) (src : Src) (m : MsgIn) : (ctxOf s f src m).id = s.nextMsg := rfl

theorem indexOf_hostRead (s : State) (f addr len h : Nat) : indexOf (hostRead s f addr len) h = indexOf s h := rfl

theorem hostRead_startMsg (s : State) (x : MsgCtx) (f addr len : Nat) :
    hostRead (startMsg s x) f addr len = startMsg (hostRead s f addr len) x := rfl

theorem updIndex_startMsg (s : State) (x : MsgCtx) (h : Nat) (g : Index → Index) :
    updIndex (startMsg s x) h g = startMsg (updIndex s h g) x := rfl

theorem addrCheck_startMsg (s : State) (x : MsgCtx) (h : HostView) (f : Nat) (w : Bool) (addr len off : Nat) :
    addrCheck (startMsg s x) h f w addr len off = addrCheck s h f w addr len off := rfl

theorem recordChecks_startMsg (s : State) (x : MsgCtx) (f : Nat) (b : List Byte) (lengths : IndexCfg → Check) :
    recordChecks (startMsg s x) f b lengths = recordChecks s f b lengths := rfl

/-- A message that reads records and refuses none of them. -/
theorem settleRead_of_none {α : Type} {s : State} {x : MsgCtx} {addr len : Nat} {r : HostRead α} {c : Check} (hc : c = none)
    (apply : State → State) : settleRead s x addr len r c apply = apply (hostRead s x.f addr len) := by
  rw [hc, settleRead]

section
variable {s : State} {f : Nat} {src : Src} {m : MsgIn} {h : HostView} {b : List Byte} {i : Index}
  (fr : Fresh s) (hi : ownIndex s f (le m.bytes 32 4) = some i) (hlive : i.state = .live)
  (haddr : addrCheck s h f false (le m.bytes 40 8) (le m.bytes 48 8) 40 = none)
  (hroom : i.scree.length + le m.bytes 36 4 ≤ screeMax)
include fr hi hlive haddr hroom

/-- INDEX_INSERT appends its records (R77). -/
theorem indexInsert_grows (hd : Head s f src 0x0403 m) (hlen : le m.bytes 36 4 * slotBytes i.cfg.codeBytes ≤ le m.bytes 48 8)
    (hmax : mainEntries i.lists + liveInserts i.scree + le m.bytes 36 4 ≤ i.cfg.maxEntries)
    (hrecs : ∀ k < le m.bytes 36 4, insertCheck i.cfg b k = none) :
    ∃ t, exec (.indexInsert f src h (.data b)) s = .next t ∧ Grown t i (le m.bytes 36 4) := by
  have hix := indexOf_of_ownIndex hi
  have hcheck : firstSome
      [addrCheck s h f false (le m.bytes 40 8) (le m.bytes 48 8) 40,
       recordChecks s f m.bytes fun c => recordLengths m.bytes (slotBytes c.codeBytes),
       withRef (some i) 32 fun i =>
         failIf (decide (i.cfg.maxEntries < mainEntries i.lists + liveInserts i.scree + le m.bytes 36 4)) .lenExceedsBuffer 36,
       readFailed (.data b)] = none := by
    rw [haddr, recordChecks_of_live hi hlive hroom (recordLengths_of_le hlen), withRef,
      failIf_of_false (decide_eq_false (Nat.not_lt.2 hmax))]
    rfl
  have hbad : firstSome ((List.range (le m.bytes 36 4)).map (insertCheck i.cfg b)) = none :=
    firstSome_eq_none fun a ha => by
      obtain ⟨k, hk, rfl⟩ := List.mem_map.1 ha
      exact hrecs k (List.mem_range.1 hk)
  rw [exec_indexInsert, execIndexInsert]
  refine answered_grows (addr := le m.bytes 40 8) (len := le m.bytes 48 8)
    (rs := (List.range (le m.bytes 36 4)).map (insertRec i.cfg.codeBytes b)) hd fr rfl hix
    (by rw [List.length_map, List.length_range]) ?_
  simp only [ctxOf_bytes, ctxOf_id, addrCheck_startMsg, recordChecks_startMsg, indexOf_startMsg, hix]
  refine (settleRead_of_none hcheck _).trans ?_
  simp only [ctxOf_f, hostRead_startMsg, indexOf_startMsg, indexOf_hostRead, updIndex_startMsg, hix, settle, hbad]

/-- INDEX_DELETE appends its records (R77). -/
theorem indexDelete_grows (hd : Head s f src 0x0404 m) (hlen : le m.bytes 36 4 * 8 ≤ le m.bytes 48 8)
    (hids : ∀ k < le m.bytes 36 4, le b (8 * k) 8 ≠ noId) :
    ∃ t, exec (.indexDelete f src h (.data b)) s = .next t ∧ Grown t i (le m.bytes 36 4) := by
  have hix := indexOf_of_ownIndex hi
  have hcheck : firstSome
      [recordLengths m.bytes 8, addrCheck s h f false (le m.bytes 40 8) (le m.bytes 48 8) 40,
       recordChecks s f m.bytes fun _ => none, readFailed (.data b)] = none := by
    rw [haddr, recordChecks_of_live hi hlive hroom rfl, recordLengths_of_le hlen]
    rfl
  have hbad : firstSome ((List.range (le m.bytes 36 4)).map fun k =>
      failStruct (le b (8 * k) 8 == noId) .fieldRange (8 * k) 40) = none :=
    firstSome_eq_none fun a ha => by
      obtain ⟨k, hk, rfl⟩ := List.mem_map.1 ha
      rw [beq_eq_false_iff_ne.2 (hids k (List.mem_range.1 hk))]
      rfl
  rw [exec_indexDelete, execIndexDelete]
  refine answered_grows (addr := le m.bytes 40 8) (len := le m.bytes 48 8)
    (rs := (List.range (le m.bytes 36 4)).map (deleteRec i.cfg.codeBytes b)) hd fr rfl hix
    (by rw [List.length_map, List.length_range]) ?_
  simp only [ctxOf_bytes, ctxOf_f, ctxOf_id, addrCheck_startMsg, recordChecks_startMsg, settleRead_of_none hcheck,
    hostRead_startMsg, indexOf_startMsg, indexOf_hostRead, updIndex_startMsg, hix, settle, hbad]

end

end Sys2Proof.Machine

end

section
/-! PROOFS. Commands that complete: coarse search, the end of a hold, a list pass and a case's result (R176, R177, R179, R233). -/

namespace Sys2Proof.Machine

/-! ## What leaves the cases as they are -/

theorem cases_of_posts {s t : State} (h : Posts s t) : t.cases = s.cases := by
  rw [h.1]

theorem cases_of_onWire {s t : State} (h : OnWire s t) : t.cases = s.cases := by
  rw [h.1]

theorem cases_of_retires {s t : State} (h : Retires s t) : t.cases = s.cases := by
  rw [h.1]

theorem complete_cases (s : State) (id : Nat) (st : Status) (o b : Nat) (r : List Byte) : (complete s id st o r b).cases = s.cases := by
  unfold complete
  split
  · rfl
  · rw [cases_of_posts (posts_writeCompletion _ _ _ _ _ _)]

theorem settleState_cases (s : State) : (settleState s).cases = s.cases := by
  unfold settleState
  split
  · by_cases h : s.boot.state = properState s
    · rw [← h, setState_same]
    · rw [cases_of_posts (setState_changes s _ h)]
  · rfl

theorem removeContract_cases (s : State) (h : Nat) : (removeContract s h).cases = s.cases := by
  unfold removeContract
  split
  · rfl
  · dsimp only [unplace]
    rw [updSched_cases]
    split
    · dsimp only
      exact cases_of_onWire (onWire_releaseShards s _)
    · rfl

theorem foldl_cases {α : Type} {g : State → α → State} (hg : ∀ s a, (g s a).cases = s.cases) (l : List α) (s : State) :
    (l.foldl g s).cases = s.cases := by
  induction l generalizing s with
  | nil => rfl
  | cons a l ih => exact (ih _).trans (hg s a)

theorem finishClose_cases (s : State) (h : Nat) : (finishClose s h).cases = s.cases := by
  unfold finishClose
  split
  · rfl
  · split
    · rfl
    · exact (foldl_cases (fun s w => complete_cases s _ _ _ _ _) _ _).trans ((settleState_cases _).trans (removeContract_cases s h))

theorem raiseAmong_cases (s : State) (owner level : Nat) (os : List Nat) : (raiseAmong s owner level os).cases = s.cases := by
  unfold raiseAmong
  split
  · rfl
  · split
    · rfl
    · dsimp only
      split <;> rfl

theorem raiseForPass_cases (before s : State) (key : Nat) : (raiseForPass before s key).cases = s.cases := by
  unfold raiseForPass
  split
  · rfl
  · exact foldl_cases (fun s o => raiseAmong_cases s o _ _) _ s

theorem dispatchShards_cases (s : State) (k : Contract) (c : Case) (qv : QueryVec) (lists : List Nat) :
    (dispatchShards s k c qv lists).cases = s.cases :=
  cases_of_onWire (onWire_foldl (fun s _ => onWire_sendMsg s _ _ _) _ s)

/-! ## The result of a case -/

/-- A case that is freed is gone. -/
theorem caseOf_freeCase (s : State) (c : Case) (st : Status) (late : Bool) : caseOf (freeCase s c st late) c.hd.key = none := by
  unfold freeCase
  dsimp only
  rw [caseOf, finishClose_cases, complete_cases, reapGens, List.find?_eq_none]
  intro x hx
  simpa using (List.mem_filter.1 hx).2

theorem caseOf_issueResult (s : State) (c : Case) (st : Status) (late ok : Bool) :
    caseOf (issueResult s c st late ok) c.hd.key = none := by
  unfold issueResult
  dsimp only
  generalize (if late ∧ ok then
    record s 0x0202 (leBytes 4 c.hd.contract ++ leBytes 8 c.hd.caseId ++ leBytes 1 (causeNow s c)) else s) = u
  split
  · exact caseOf_freeCase _ _ _ _
  · exact caseOf_freeCase _ { c with failedStage := if ok then 10 else c.failedStage } _ _

/-- A case in its result stage issues its record and is gone (R233). -/
theorem resultRecordIssue_completes {s : State} {key : Nat} {c : Case} {m : Cmd} {k : Contract} (h : Running s key .result c m k) :
    ∃ t, exec (.resultRecordIssue key) s = .next t ∧ caseOf t key = none := by
  obtain ⟨hc, hm, hk, hstage, hruns, hmay, -⟩ := h
  have hkey := key_of_caseOf hc
  rw [exec_resultRecordIssue, execResultRecordIssue]
  refine ⟨_, rfl, ?_⟩
  rw [hc]
  dsimp only
  rw [Option.isNone_iff_eq_none.1 hruns, hm, hk]
  dsimp only
  rw [if_pos ⟨hstage, rfl, hmay⟩]
  split
  · rw [caseOf, journaled_cases, ← hkey]
    exact caseOf_issueResult _ c _ _ _
  · rw [← hkey]
    exact caseOf_issueResult _ c _ _ _

/-! ## Coarse search and list scan -/

theorem caseOf_updSrch {s : State} {key : Nat} {c : Case} (hc : caseOf s key = some c) (g : SearchState → SearchState) :
    caseOf (updSrch s key g) key = some { c with srch := g c.srch } := by
  have h := caseOf_updCase_self s key (g := fun c => { c with srch := g c.srch }) fun _ => rfl
  rw [hc] at h
  exact h

/-- The end of a stage puts its case in the next one and leaves its results. -/
theorem caseOf_endStage {s : State} {key : Nat} {c : Case} {k : Contract} (hc : caseOf s key = some c)
    (hk : contractOf s c.hd.contract = some k) (p : Prediction) :
    ∃ x, caseOf (endStage s key p) key = some x ∧ x = { inStage (stageAfter k.rcd c.stage) s.tclk c with forms := x.forms } := by
  obtain rfl := key_of_caseOf hc
  obtain ⟨x, hx, hkept, -⟩ := caseOf_formed hc k (stageAfter k.rcd c.stage) p
  refine ⟨x, ?_, hkept⟩
  rw [endStage_eq hc hk]
  split
  · exact hx
  · rw [addCaseCmd_frame]
    exact hx

/-- Coarse search takes its case to list scan, with the lists it will visit (R176). -/
theorem caseOf_commitCoarse {s : State} {key : Nat} {c : Case} {k : Contract} {x : Index} {qv : QueryVec}
    (hc : caseOf s key = some c) (hk : contractOf s c.hd.contract = some k) (hx : indexOf s k.rcd.refs.index = some x)
    (hq : c.enc.query = some qv) (hstage : c.stage = .coarse) :
    ∃ y, caseOf (commitCoarse s key) key = some y ∧ y.stage = .listScan ∧ y.srch.visited = visitedLists x qv k.rcd.lim.nprobe := by
  obtain rfl := key_of_caseOf hc
  unfold commitCoarse
  rw [hc]
  dsimp only
  rw [hk]
  dsimp only
  rw [hx, hq]
  dsimp only
  have hsrch := caseOf_updSrch hc fun r =>
    { r with visited := visitedLists x qv k.rcd.lim.nprobe, gen := x.gen, seq := snapSeq x, snapped := true
             waitLists := visitedLists x qv k.rcd.lim.nprobe, waitScree := true, holdExpired := false, found := []
             shardsLeft := (contractPeers k).map Prod.snd, shardLOut := fpInf false }
  obtain ⟨y, hy, hkept⟩ := caseOf_endStage (k := k) hsrch hk { forms := [] }
  refine ⟨y, ?_, ?_, ?_⟩
  · rw [caseOf, raiseForPass_cases, dispatchShards_cases]
    exact hy
  · rw [hkept]
    dsimp only [inStage]
    rw [hstage]
    rfl
  · rw [hkept]
    rfl

theorem contractOf_retires {s t : State} (h : Retires s t) (i : Nat) : contractOf t i = contractOf s i := by
  rw [contractOf, contractOf, h.1]

theorem indexOf_retires {s t : State} (h : Retires s t) (i : Nat) : indexOf t i = indexOf s i := by
  rw [indexOf, indexOf, h.1]

theorem caseOf_retires {s t : State} (h : Retires s t) (i : Nat) : caseOf t i = caseOf s i := by
  rw [caseOf, caseOf, cases_of_retires h]

theorem passHits_retires {s t : State} (h : Retires s t) (i : Nat) (l : Option Nat) (qv : QueryVec) (g q : Nat) :
    passHits t i l qv g q = passHits s i l qv g q := by
  rw [passHits, passHits, indexOf_retires h]

theorem caseOf_journaled (s : State) (ms : List Cmd) (t : State) (i : Nat) : caseOf (journaled s ms t) i = caseOf t i := rfl

section
variable {s : State} {key : Nat} {c : Case} {k : Contract} {m : Cmd} {qv : QueryVec} (hc : caseOf s key = some c)
include hc

theorem coarseSearch_completes (hcmd : cmdOf s m.id = some m) (hmay : mayCommit s m = true) (htime : OnTime s m)
    (hq : c.enc.query = some qv) (hk : contractOf s c.hd.contract = some k) (hserves : m.serves = .cases [key]) (hm : m.stage = 4)
    (hstage : c.stage = .coarse) {x : Index} (hx : indexOf s k.rcd.refs.index = some x) :
    ∃ t y, exec (.coarseSearchCommit m.id none) s = .next t ∧ caseOf t key = some y ∧ y.stage = .listScan ∧
      y.srch.visited = visitedLists x qv k.rcd.lim.nprobe := by
  have hret := retires_retireCmd htime
  have hkeys : cmdKeys m = [key] := by rw [cmdKeys, hserves]
  obtain ⟨y, hy, hdone⟩ := caseOf_commitCoarse (s := retireCmd s m) ((caseOf_retires hret _).trans hc)
    ((contractOf_retires hret _).trans hk) ((indexOf_retires hret _).trans hx) hq hstage
  refine ⟨journaled s [m] (commitCoarse (retireCmd s m) key), y, ?_, (caseOf_journaled _ _ _ _).trans hy, hdone⟩
  rw [exec_coarseSearchCommit, execCoarseSearchCommit, hcmd]
  dsimp only
  rw [if_pos ⟨hm, hmay⟩, commitUnder, hkeys, List.foldl_cons, List.foldl_nil]

/-- The hold of a query expires (R177). -/
theorem holdExpiry_completes : ∃ t y, exec (.holdExpiry key) s = .next t ∧ caseOf t key = some y ∧ y.srch.holdExpired = true := by
  rw [exec_holdExpiry, execHoldExpiry]
  refine ⟨_, { c with srch := { c.srch with holdExpired := true } }, rfl, ?_, rfl⟩
  rw [caseOf, raiseForPass_cases]
  exact caseOf_updSrch hc fun r => { r with holdExpired := true }

/-- A pass of a case that waits for its shards adds what it finds, and the scan goes on (R178, R179, R192). -/
theorem caseOf_commitPass (hq : c.enc.query = some qv) (hshards : c.srch.shardsLeft ≠ []) (i : Nat) (l : Option Nat)
    (ps : List (Nat × Prediction)) :
    ∃ y, caseOf (commitPass s i l ps key) key = some y ∧ y.srch.found = c.srch.found ++ passHits s i l qv c.srch.gen c.srch.seq := by
  have hsrch := caseOf_updSrch hc fun r => { r with found := r.found ++ passHits s i l qv c.srch.gen c.srch.seq }
  refine ⟨{ c with srch := { c.srch with found := c.srch.found ++ passHits s i l qv c.srch.gen c.srch.seq } }, ?_, rfl⟩
  unfold commitPass
  rw [hc]
  dsimp only
  rw [hq]
  dsimp only
  unfold endScan
  rw [hsrch]
  dsimp only
  split
  · exact hsrch
  · rw [if_neg fun h => hshards h.2.2.2.2.1]
    exact hsrch

theorem listPass_completes (hcmd : cmdOf s m.id = some m) (hmay : mayCommit s m = true) (htime : OnTime s m)
    (hq : c.enc.query = some qv) {i g : Nat} {l : Option Nat} (hserves : m.serves = .pass i g l [key]) (hshards : c.srch.shardsLeft ≠ [])
    (ps : List (Nat × Prediction)) :
    ∃ t y, exec (.listPassCommit m.id ps none) s = .next t ∧ caseOf t key = some y ∧
      y.srch.found = c.srch.found ++ passHits s i l qv c.srch.gen c.srch.seq := by
  have hret := retires_retireCmd htime
  obtain ⟨y, hy, hfound⟩ := caseOf_commitPass ((caseOf_retires hret _).trans hc) hq hshards i l ps
  refine ⟨journaled s [m] (commitPass (retireCmd s m) i l ps key), y, ?_, (caseOf_journaled _ _ _ _).trans hy, hfound.trans ?_⟩
  · rw [exec_listPassCommit, execListPassCommit, hcmd]
    dsimp only
    rw [hserves]
    dsimp only
    rw [if_pos hmay, commitUnder, List.foldl_cons, List.foldl_nil]
  · rw [passHits_retires hret]

end

end Sys2Proof.Machine

end

section
/-! PROOFS. Commands that complete: a token, a window and a fall of the link's rate (R119, R166, R392). -/

namespace Sys2Proof.Machine

/-! ## A contract -/

/-- A change of a contract that keeps its handle is seen under it. -/
theorem contractOf_updContract {s : State} {h : Nat} {k : Contract} (hk : contractOf s h = some k) {g : Contract → Contract}
    (hg : ∀ x, (g x).handle = x.handle) : contractOf (updContract s h g) h = some (g k) := by
  have hfind := find?_modifyWhere s.contracts (fun x => x.handle == h) (fun x => x.handle == h) g fun x _ => by rw [hg]
  rw [contractOf] at hk
  rw [hk, Option.map_some, if_pos (List.find?_some hk)] at hfind
  exact hfind

/-- The policing state of a RATE contract after a token has come (R119). -/
def withToken (tclk : Nat) (c : Contract) : Contract :=
  if c.rcd.terms.arrivalKind = 1 ∧ isOpen c then
    { c with arrival := { c.arrival with tokens := (c.arrival.tokens ++ [tclk]).take c.rcd.terms.burst } }
  else c

theorem withToken_handle (tclk : Nat) (c : Contract) : (withToken tclk c).handle = c.handle := by
  unfold withToken
  split <;> rfl

theorem arrivalToken_completes {s : State} {k : Contract} (hk : contractOf s k.handle = some k) (hopen : isOpen k = true)
    (hkind : k.rcd.terms.arrivalKind = 1) :
    ∃ t x, exec (.arrivalTokenAccrual k.handle) s = .next t ∧ contractOf t k.handle = some x ∧
      x.arrival.tokens = (k.arrival.tokens ++ [s.tclk]).take k.rcd.terms.burst := by
  refine ⟨_, withToken s.tclk k, rfl, contractOf_updContract hk (withToken_handle s.tclk), ?_⟩
  rw [withToken, if_pos ⟨hkind, hopen⟩]

/-- The policing state of a PERIOD contract at the end of a window: a pending epoch from before it takes effect (R166). -/
def atWindowEnd (tclk : Nat) (c : Contract) : Contract :=
  let w := (windowStart c c.arrival.epoch tclk).toNat
  match c.arrival.pendingEpoch with
  | some e =>
    if c.rcd.terms.arrivalKind = 2 ∧ isOpen c ∧ e < w then
      { c with arrival := { c.arrival with epoch := e, pendingEpoch := none, openFrom := w } }
    else c
  | none => c

theorem atWindowEnd_handle (tclk : Nat) (c : Contract) : (atWindowEnd tclk c).handle = c.handle := by
  unfold atWindowEnd
  dsimp only
  split
  · split <;> rfl
  · rfl

theorem periodWindowEnd_completes {s : State} {k : Contract} {e : Nat} (hk : contractOf s k.handle = some k) (hopen : isOpen k = true)
    (hkind : k.rcd.terms.arrivalKind = 2) (hpend : k.arrival.pendingEpoch = some e)
    (he : e < (windowStart k k.arrival.epoch s.tclk).toNat) :
    ∃ t x, exec (.periodWindowEnd k.handle) s = .next t ∧ contractOf t k.handle = some x ∧ x.arrival.epoch = e := by
  refine ⟨_, atWindowEnd s.tclk k, rfl, contractOf_updContract hk (atWindowEnd_handle s.tclk), ?_⟩
  rw [atWindowEnd, hpend]
  dsimp only
  rw [if_pos ⟨hkind, hopen, he⟩]

/-! ## The link -/

theorem foldl_pcie {α : Type} {g : State → α → State} (hg : ∀ s a, (g s a).pcie = s.pcie) (l : List α) (s : State) :
    (l.foldl g s).pcie = s.pcie := by
  induction l generalizing s with
  | nil => rfl
  | cons a l ih => exact (ih _).trans (hg s a)

theorem pcie_of_posts {s t : State} (h : Posts s t) : t.pcie = s.pcie := by
  rw [h.1]

theorem pcie_of_onWire {s t : State} (h : OnWire s t) : t.pcie = s.pcie := by
  rw [h.1]

theorem endCase_pcie (s : State) (key : Nat) (st : Status) (stage : Nat) : (endCase s key st stage).pcie = s.pcie := by
  rw [endCase, reapGens, updCase_pcie, (retires_dropCase s key).1]

theorem endCases_pcie (s : State) (p : Case → Bool) (st : Status) : (endCases s p st).pcie = s.pcie :=
  foldl_pcie (fun s _ => endCase_pcie s _ _ _) _ s

/-- A revocation is no concern of the link. -/
theorem revoke_pcie (s : State) (cause st : Status) (h : Nat) : (revoke s cause st h).pcie = s.pcie := by
  unfold revoke
  split
  · rfl
  · split
    · rfl
    · dsimp only [unplace]
      rw [updSched_pcie, pcie_of_posts (posts_postEvent _ _ _ _), updTelem_pcie, pcie_of_posts (posts_record _ _ _), updContract_pcie]
      exact (pcie_of_onWire (onWire_releaseShards _ _)).trans (endCases_pcie s _ st)

theorem revokeAll_pcie (s : State) (p : Contract → Bool) (cause st : Status) : (revokeAll s p cause st).pcie = s.pcie :=
  foldl_pcie (fun s h => revoke_pcie s cause st h) _ s

theorem reproveAll_pcie (s : State) : (reproveAll s).pcie = s.pcie := by
  refine foldl_pcie (fun s k => ?_) _ s
  split <;> rfl

/-- The link runs at the rate and the width it has fallen to (R392). -/
theorem linkRateFall_completes (s : State) (rate width : Nat) :
    ∃ t, exec (.linkRateFall rate width) s = .next t ∧ t.pcie.rate = rate ∧ t.pcie.width = width := by
  rw [exec_linkRateFall, execLinkRateFall]
  refine ⟨_, rfl, ?_⟩
  dsimp only
  split
  · exact ⟨rfl, rfl⟩
  · rw [revokeAll_pcie]
    dsimp only
    rw [pcie_of_posts (posts_record _ _ _), reproveAll_pcie, reproveAll_pcie]
    exact ⟨rfl, rfl⟩

end Sys2Proof.Machine

end

section
/-! PROOFS. What a die is supplied with: the operations that leave the setpoints, the loads and the policy; dwells, voltage steps and the
power policy (R99, R312 to R316). -/

namespace Sys2Proof.Machine

/-! ## The supply of the dies -/

/-- What a die is supplied with: its setpoint and its load. -/
def supply (d : Die) : Nat × Nat := (d.vset, d.loadMa)

/-- The policy stands, and every die keeps its setpoint and its load. -/
def SameSupply (s t : State) : Prop := t.power.policy = s.power.policy ∧ t.power.dies.map supply = s.power.dies.map supply

theorem SameSupply.refl (s : State) : SameSupply s s := ⟨rfl, rfl⟩

theorem SameSupply.trans {a b c : State} (h : SameSupply a b) (k : SameSupply b c) : SameSupply a c :=
  ⟨k.1.trans h.1, k.2.trans h.2⟩

theorem sameSupply_of_power {s t : State} (h : t.power = s.power) : SameSupply s t := by
  rw [SameSupply, h]
  exact ⟨rfl, rfl⟩

theorem sameSupply_of_posts {s t : State} (h : Posts s t) : SameSupply s t := sameSupply_of_power (by rw [h.1])

theorem power_of_posts {s t : State} (h : Posts s t) : t.power = s.power := by rw [h.1]

theorem power_of_onWire {s t : State} (h : OnWire s t) : t.power = s.power := by rw [h.1]

theorem SameSupply.dieOf_eq {s t : State} (h : SameSupply s t) (g : Nat) : supply (dieOf t g) = supply (dieOf s g) := by
  obtain ⟨-, hdies⟩ := h
  have hat := congrArg (fun l => l.getD g (supply Die.reset)) hdies
  rw [dieOf, dieOf]
  simpa only [List.getD_map] using hat

theorem modifyAt_map {α β : Type} {f : α → β} {u : α → α} (hu : ∀ a, f (u a) = f a) (l : List α) (i : Nat) :
    (modifyAt l i u).map f = l.map f := by
  induction l generalizing i with
  | nil => rfl
  | cons a l ih =>
    cases i with
    | zero => rw [modifyAt, List.map_cons, hu, List.map_cons]
    | succ i => rw [modifyAt, List.map_cons, ih, List.map_cons]

theorem sameSupply_updDie (s : State) (g : Nat) {u : Die → Die} (hu : ∀ d, supply (u d) = supply d) : SameSupply s (updDie s g u) :=
  ⟨rfl, modifyAt_map hu s.power.dies g⟩

theorem sameSupply_foldl {α : Type} {g : State → α → State} (hg : ∀ s a, SameSupply s (g s a)) (l : List α) (s : State) :
    SameSupply s (l.foldl g s) := by
  induction l generalizing s with
  | nil => exact SameSupply.refl s
  | cons a l ih => exact (hg s a).trans (ih _)

/-! ## Charging and scheduling -/

theorem foldl_power {α : Type} {g : State → α → State} (hg : ∀ s a, (g s a).power = s.power) (l : List α) (s : State) :
    (l.foldl g s).power = s.power := by
  induction l generalizing s with
  | nil => rfl
  | cons a l ih => exact (ih _).trans (hg s a)

theorem addVTime_power (s : State) (owner level n : Nat) : (addVTime s owner level n).power = s.power := by
  unfold addVTime
  dsimp only
  split <;> rfl

theorem chargeCmd_power (s : State) (c : Cmd) : (chargeCmd s c).power = s.power := by
  unfold chargeCmd
  split
  · rfl
  · dsimp only
    rw [updCmd_power, addVTime_power, addHeld, updSched_power]

theorem chargeLoad_power (s : State) : (chargeLoad s).power = s.power := by
  unfold chargeLoad
  split
  · rfl
  · dsimp only
    rw [updSched_power, addVTime_power, addHeld, updSched_power]

theorem chargeAll_power (s : State) : (chargeAll s).power = s.power :=
  (chargeLoad_power _).trans (foldl_power chargeCmd_power _ s)

theorem noteBlock_power (s : State) (c : Cmd) : (noteBlock s c).power = s.power :=
  foldl_power (fun s (e : Nat × Nat) => updStats_power s e.1 fun p => { p with blockMax := max p.blockMax (s.tclk - e.2) }) _ s

theorem raiseAmong_power (s : State) (owner level : Nat) (os : List Nat) : (raiseAmong s owner level os).power = s.power := by
  unfold raiseAmong
  split
  · rfl
  · split
    · rfl
    · dsimp only
      split <;> rfl

theorem sameSupply_inForce (s : State) (g : Nat) : SameSupply s (inForce s g) := by
  unfold inForce
  dsimp only
  split
  · split
    · exact (sameSupply_of_power (chargeAll_power s)).trans (sameSupply_updDie _ _ fun _ => rfl)
    · exact SameSupply.refl s
  · exact SameSupply.refl s

theorem sameSupply_adoptIdle (s : State) : SameSupply s (adoptIdle s) :=
  sameSupply_foldl (fun s g => (sameSupply_updDie s g (by exact fun _ => rfl)).trans (sameSupply_inForce _ g)) _ s

theorem sameSupply_dropCmds (s : State) (ids : List Nat) : SameSupply s (dropCmds s ids) := by
  refine SameSupply.trans (sameSupply_of_power ?_) (sameSupply_adoptIdle _)
  rw [dropAreas_power, updSched_power]
  exact foldl_power (fun s c => (noteBlock_power _ c).trans (chargeCmd_power s c)) _ s

theorem sameSupply_readyAgain (s : State) (c : Cmd) (g : Cmd → Cmd) : SameSupply s (readyAgain s c g) := by
  have hready : (updCmd (raiseVTime (noteBlock (chargeCmd s c) c) c.owner c.level) c.id g).power = s.power := by
    rw [updCmd_power, raiseVTime, raiseAmong_power, noteBlock_power, chargeCmd_power]
  refine SameSupply.trans (sameSupply_of_power ?_) (sameSupply_adoptIdle _)
  split
  · rw [dropAreas_power, hready]
  · exact hready

theorem sameSupply_dropCase (s : State) (key : Nat) : SameSupply s (dropCase s key) :=
  (sameSupply_dropCmds s _).trans (sameSupply_foldl (fun s c => sameSupply_readyAgain s c _) _ _)

theorem sameSupply_endCase (s : State) (key : Nat) (st : Status) (stage : Nat) : SameSupply s (endCase s key st stage) :=
  (sameSupply_dropCase s key).trans (sameSupply_of_power rfl)

theorem sameSupply_endCases (s : State) (p : Case → Bool) (st : Status) : SameSupply s (endCases s p st) :=
  sameSupply_foldl (fun s _ => sameSupply_endCase s _ _ _) _ s

/-! ## Dividers and steps -/

theorem sameSupply_requestDivider (s : State) (g v : Nat) : SameSupply s (requestDivider s g v) := by
  unfold requestDivider
  split
  · exact SameSupply.refl s
  · exact (sameSupply_updDie s g (by exact fun _ => rfl)).trans (sameSupply_inForce _ g)

theorem sameSupply_issueStep (s : State) (g target : Nat) (div : Option Nat) : SameSupply s (issueStep s g target div) := by
  unfold issueStep
  dsimp only
  generalize (if target > (dieOf s g).vset then min target ((dieOf s g).vset + 80) else max target ((dieOf s g).vset - 80)) = t
  split
  · exact SameSupply.refl s
  · split
    · exact SameSupply.refl s
    · refine SameSupply.trans ?_ (sameSupply_of_posts (posts_emit _ _))
      exact sameSupply_updDie s g (by exact fun _ => rfl)

theorem sameSupply_startCores (s : State) (g : Nat) : SameSupply s (startCores s g) := sameSupply_updDie s g (by exact fun _ => rfl)

theorem sameSupply_pursue (s : State) (g : Nat) : SameSupply s (pursue s g) := by
  unfold pursue
  dsimp only
  split
  · exact SameSupply.refl s
  · split
    · exact sameSupply_requestDivider s g _
    · split
      · exact sameSupply_requestDivider s g _
      · exact sameSupply_issueStep s g _ _

theorem sameSupply_forceStep (s : State) (g : Nat) : SameSupply s (forceStep s g) := by
  unfold forceStep
  dsimp only
  split
  · exact SameSupply.refl s
  · refine SameSupply.trans ?_ (sameSupply_requestDivider _ g _)
    refine SameSupply.trans ?_ (sameSupply_of_posts (posts_record _ _ _))
    exact ⟨rfl, rfl⟩

/-- The policy that is set is in force (R99). -/
theorem applyPolicy_policy (s : State) (p : Policy) : (applyPolicy s p).power.policy = p := by
  unfold applyPolicy pursueAll
  dsimp only
  generalize hu : updPower s _ = u
  obtain ⟨hpolicy, -⟩ := (sameSupply_foldl sameSupply_forceStep (List.range 4) u).trans
    (sameSupply_foldl sameSupply_pursue (List.range 4) _)
  rw [hpolicy, ← hu]
  rfl

theorem sameSupply_wakeDie (s : State) (g : Nat) : SameSupply s (wakeDie s g) := by
  unfold wakeDie
  split
  · exact SameSupply.refl s
  · dsimp only
    refine SameSupply.trans (b := updDie s g fun d => { d with woken := true }) (sameSupply_updDie s g (by exact fun _ => rfl)) ?_
    split
    · exact sameSupply_startCores _ g
    · exact sameSupply_issueStep _ g _ _

/-! ## A die that is fenced -/

theorem sameSupply_revoke (s : State) (cause st : Status) (h : Nat) : SameSupply s (revoke s cause st h) := by
  unfold revoke
  split
  · exact SameSupply.refl s
  · split
    · exact SameSupply.refl s
    · refine (sameSupply_endCases s (fun c => c.hd.contract == h) st).trans (sameSupply_of_power ?_)
      dsimp only [unplace]
      rw [updSched_power, power_of_posts (posts_postEvent _ _ _ _), updTelem_power, power_of_posts (posts_record _ _ _), updContract_power]
      dsimp only
      exact power_of_onWire (onWire_releaseShards _ _)

theorem sameSupply_settleState (s : State) : SameSupply s (settleState s) := by
  unfold settleState
  split
  · by_cases h : s.boot.state = properState s
    · rw [← h, setState_same]
      exact SameSupply.refl s
    · refine sameSupply_of_power ?_
      rw [power_of_posts (setState_changes s _ h)]
  · exact SameSupply.refl s

theorem sameSupply_gateFenced (s : State) (u : UnitId) : SameSupply s (gateFenced s u) := by
  unfold gateFenced
  split
  · exact sameSupply_updDie s _ (by exact fun _ => rfl)
  · exact sameSupply_updDie s _ (by exact fun _ => rfl)
  · exact SameSupply.refl s

theorem sameSupply_killOnUnit (s : State) (u : UnitId) : SameSupply s (killOnUnit s u) :=
  sameSupply_foldl (fun s c => sameSupply_readyAgain s c freshCmd) _ s

theorem sameSupply_revokeAll (s : State) (p : Contract → Bool) (cause st : Status) : SameSupply s (revokeAll s p cause st) :=
  sameSupply_foldl (fun s h => sameSupply_revoke s cause st h) _ s

/-- A Garnet has no channels of its own. -/
theorem fenceMemory_garnet (s : State) (g cause : Nat) : fenceMemory s { kind := 1, idx := g } cause = s := rfl

/-- A fence of a Garnet leaves its regulator where it is. -/
theorem sameSupply_fence_garnet (s : State) (g cause det : Nat) (injected : Bool) :
    SameSupply s (fence s { kind := 1, idx := g } cause det injected) := by
  unfold fence fenceUnit
  split
  · exact SameSupply.refl s
  · dsimp only
    rw [fenceMemory_garnet]
    generalize hu : recordUnit _ _ _ _ _ = u
    have hstart : SameSupply s u := by
      rw [← hu]
      exact sameSupply_of_power rfl
    have hsettled : SameSupply s (settleState (revokeAll (postFault (gateFenced (killOnUnit u { kind := 1, idx := g })
        { kind := 1, idx := g }) 2 injected det (unitCode { kind := 1, idx := g }))
        (fun k => k.units.any (covers { kind := 1, idx := g })) .faultFenced .faultFenced)) :=
      hstart.trans <| (sameSupply_killOnUnit u _).trans <| (sameSupply_gateFenced _ _).trans <|
        (sameSupply_of_posts (posts_postFault _ _ _ _ _)).trans <| (sameSupply_revokeAll _ _ _ _).trans (sameSupply_settleState _)
    split
    · exact hsettled.trans (sameSupply_foldl sameSupply_wakeDie _ _)
    · exact hsettled

/-! ## The power unit's commands -/

theorem sameSupply_railFault_garnet (s : State) (g word : Nat) : SameSupply s (railFault s (7 + g) word) := by
  rw [railFault, if_pos (Nat.le_add_right 7 g), Nat.add_sub_cancel_left]
  exact (sameSupply_of_posts (posts_recordAs _ _ _ _ _ _ _)).trans (sameSupply_fence_garnet _ g _ _ _)

theorem dieOf_updDie {s : State} {g : Nat} (hg : g < s.power.dies.length) (u : Die → Die) : dieOf (updDie s g u) g = u (dieOf s g) :=
  modifyAt_getD_same _ _ _ _ hg

theorem SameSupply.vset_eq {s t : State} (h : SameSupply s t) (g : Nat) : (dieOf t g).vset = (dieOf s g).vset :=
  congrArg Prod.fst (h.dieOf_eq g)

theorem SameSupply.loadMa_eq {s t : State} (h : SameSupply s t) (g : Nat) : (dieOf t g).loadMa = (dieOf s g).loadMa :=
  congrArg Prod.snd (h.dieOf_eq g)

section
variable {s : State} {g : Nat} (hg4 : g < 4) (hg : g < s.power.dies.length)
include hg4 hg

/-- At the end of a dwell the die's load is as it was read (R313). -/
theorem dividerDwellEnd_completes (ma : Nat) : ∃ t, exec (.dividerDwellEnd g ma) s = .next t ∧ (dieOf t g).loadMa = ma := by
  rw [exec_dividerDwellEnd, execDividerDwellEnd, guardUnit_of_lt hg4]
  refine ⟨_, rfl, ?_⟩
  rw [(sameSupply_pursue _ g).loadMa_eq, dieOf_updDie hg]

/-- A step that is acknowledged is in force (R316). -/
theorem voltageStepAck_completes {p : PendStep} (hp : (dieOf s g).pend = some p) :
    ∃ t, exec (.voltageStepAck (7 + g)) s = .next t ∧ (dieOf t g).vset = p.target := by
  have hrail : 7 + g ≤ 10 := by omega
  rw [exec_voltageStepAck, execVoltageStepAck, guardUnit, if_pos (decide_eq_true hrail), if_neg (Nat.not_lt.2 (Nat.le_add_right 7 g)),
    Nat.add_sub_cancel_left]
  dsimp only
  rw [hp]
  dsimp only
  generalize hu : updDie s g _ = u
  have hset : (dieOf u g).vset = p.target := by rw [← hu, dieOf_updDie hg]
  refine ⟨_, rfl, Eq.trans (SameSupply.vset_eq ?_ g) hset⟩
  split
  · split
    · exact SameSupply.refl u
    · split
      · exact sameSupply_requestDivider u g _
      · exact sameSupply_issueStep u g _ _
  · split
    · split
      · exact sameSupply_startCores u g
      · exact sameSupply_issueStep u g _ _
    · split
      · exact sameSupply_issueStep u g _ _
      · exact SameSupply.refl u

/-- A step that is not acknowledged in time reverts (R316). -/
theorem voltageStepTimeout_completes {p : PendStep} (hp : (dieOf s g).pend = some p) :
    ∃ t, exec (.voltageStepTimeout (7 + g)) s = .next t ∧ (dieOf t g).vset = p.prev := by
  have hrail : 7 + g ≤ 10 := by omega
  rw [exec_voltageStepTimeout, execVoltageStepTimeout, guardUnit, if_pos (decide_eq_true hrail),
    if_neg (Nat.not_lt.2 (Nat.le_add_right 7 g)), Nat.add_sub_cancel_left]
  dsimp only
  rw [hp]
  dsimp only
  generalize hu : updDie (emit s _) g _ = u
  have hset : (dieOf u g).vset = p.prev := by rw [← hu, dieOf_updDie (s := emit s _) hg]
  have hrec := sameSupply_of_posts (posts_record u 0x1305 (leBytes 1 (7 + g) ++ leBytes 2 p.target))
  generalize record u 0x1305 _ = v at hrec ⊢
  generalize (Config.freeWord v.free).toNat % 65536 = word
  refine ⟨_, rfl, Eq.trans (SameSupply.vset_eq ?_ g) hset⟩
  split
  · exact hrec.trans ((sameSupply_of_power (bumpFree_power v)).trans (sameSupply_railFault_garnet _ g word))
  · exact hrec

end

end Sys2Proof.Machine

end

section
/-! PROOFS. Commands that complete: the power policy, a firmware update, a pool switch and a layer (R99, R103, R104, R135, R273). -/

namespace Sys2Proof.Machine

/-! ## A message that starts -/

/-- What an opcode's command does with the message at its channel's head that may start. -/
theorem onMessage_of_head {s : State} {f : Nat} {src : Src} {op : Nat} {m : MsgIn} {held : List Byte → Bool} (hd : Head s f src op m)
    (hh : held m.bytes = false) (k : State → MsgCtx → State) :
    onMessage s f src op held k = .next (sweepStrays (k (startMsg s (ctxOf s f src m)) (ctxOf s f src m)) f src) := by
  obtain ⟨hf, hm, hop, hs, hc⟩ := hd
  rw [onMessage, guardUnit_of_lt hf, hm]
  dsimp only
  rw [if_pos ⟨hop, hs, hh⟩, commonCheck_startMsg, hc, settle]

/-! ## The answer of a message leaves the power unit -/

theorem complete_power (s : State) (id : Nat) (st : Status) (o b : Nat) (r : List Byte) : (complete s id st o r b).power = s.power := by
  unfold complete
  split
  · rfl
  · rw [power_of_posts (posts_writeCompletion _ _ _ _ _ _)]

theorem countRefused_power (s : State) (x : MsgCtx) (st : Status) : (countRefused s x st).power = s.power := by
  unfold countRefused
  split
  · rfl
  · dsimp only
    split <;> rfl

theorem reject_power (s : State) (x : MsgCtx) (r : Refuse) : (reject s x r).power = s.power := by
  unfold reject
  dsimp only
  rw [complete_power]
  split
  · rw [power_of_posts (posts_recordFunc _ _ _ _), countRefused_power]
  · rw [countRefused_power]

theorem serveStrays_power (f : Nat) (src : Src) (n : Nat) (s : State) : (serveStrays f src n s).power = s.power := by
  induction n generalizing s with
  | zero => rfl
  | succ n ih =>
    unfold serveStrays
    split
    · rfl
    · split
      · refine (ih _).trans ?_
        unfold settle
        split
        · exact reject_power _ _ _
        · rfl
      · rfl

theorem sweepStrays_power (s : State) (f : Nat) (src : Src) : (sweepStrays s f src).power = s.power := serveStrays_power f src _ s

/-! ## The power policy -/

/-- A policy that every ceiling and every proof allows is in force (R99). -/
theorem powerPolicySet_completes {s : State} {f : Nat} {src : Src} {m : MsgIn} (hd : Head s f src 0x0B01 m)
    (hlow : ∀ g < 4, loadLineMv (policyOf m.bytes).minDiv ≤ (policyOf m.bytes).vceil.getD g 0)
    (hproof : brokenBy (policyOf m.bytes) [] (openContracts s) = none) :
    ∃ t, exec (.powerPolicySet f src) s = .next t ∧ t.power.policy = policyOf m.bytes := by
  have hceil (g : Nat) (hg : g < 4) : failIf (decide ((policyOf m.bytes).vceil.getD g 0 < loadLineMv (policyOf m.bytes).minDiv))
      .fieldRange (36 + 2 * g) = none := failIf_of_false (decide_eq_false (Nat.not_lt.2 (hlow g hg))) _ _
  have hbroken : brokenBy (policyOf m.bytes) [] (openContracts (startMsg s (ctxOf s f src m))) = none := hproof
  rw [exec_powerPolicySet, execPowerPolicySet, onMessage_of_head hd rfl]
  refine ⟨_, rfl, ?_⟩
  rw [sweepStrays_power]
  dsimp only
  rw [ctxOf_bytes, hbroken, hceil 0 (by decide), hceil 1 (by decide), hceil 2 (by decide), hceil 3 (by decide)]
  simp only [firstSome, Option.map_none, settle, complete_power, applyPolicy_policy]

/-! ## A firmware update -/

/-- A message that is left open over one more BACKGROUND operation. -/
theorem opens_background {s a : State} {f : Nat} {src : Src} {op : Nat} {m : MsgIn} {held : List Byte → Bool}
    {k : State → MsgCtx → State} (hd : Head s f src op m) (fr : Fresh s) (hh : held m.bytes = false)
    (ha : a.mail = s.mail ∧ a.msgs = s.msgs ∧ a.nextMsg = s.nextMsg) (hbg : a.bg.length = s.bg.length + 1)
    (hk : k (startMsg s (ctxOf s f src m)) (ctxOf s f src m) = startMsg a (ctxOf s f src m)) :
    ∃ t, onMessage s f src op held k = .next t ∧ StaysOpen s t f src m ∧ t.bg.length = s.bg.length + 1 := by
  obtain ⟨t, hnext, hopen, hrest, -⟩ := stays_open hd fr hh ha hk
  refine ⟨t, hnext, hopen, ?_⟩
  rw [hrest]
  exact hbg

theorem addBg_startMsg (s : State) (x : MsgCtx) (owner : Nat) (msg : Option Nat) (kind : BgKind) (t1 t2 : Nat) :
    addBg (startMsg s x) owner msg kind t1 t2 = startMsg (addBg s owner msg kind t1 t2) x := rfl

theorem addBg_length (s : State) (owner : Nat) (msg : Option Nat) (kind : BgKind) (t1 t2 : Nat) :
    (addBg s owner msg kind t1 t2).bg.length = s.bg.length + 1 := by
  rw [addBg, List.length_append]
  rfl

theorem updBoot_startMsg (s : State) (x : MsgCtx) (g : Boot → Boot) : updBoot (startMsg s x) g = startMsg (updBoot s g) x := rfl

theorem startMsg_boot (s : State) (x : MsgCtx) : (startMsg s x).boot = s.boot := rfl

theorem hostRead_boot (s : State) (f addr len : Nat) : (hostRead s f addr len).boot = s.boot := rfl

theorem stagedImage_startMsg (s : State) (x : MsgCtx) (len : Nat) : stagedImage (startMsg s x) len = stagedImage s len := rfl

theorem inactiveSlot_startMsg (s : State) (x : MsgCtx) : inactiveSlot (startMsg s x) = inactiveSlot s := rfl

theorem imageChecks_startMsg (s : State) (x : MsgCtx) (slot : Nat) (img : FwImage) :
    imageChecks (startMsg s x) slot img = imageChecks s slot img := rfl

/-- A piece of an image that is granted is written in the background (R103). -/
theorem fwStage_completes {s : State} {f : Nat} {src : Src} {m : MsgIn} {h : HostView} (fr : Fresh s) (hd : Head s f src 0x0D01 m)
    (hheld : updateHeld s m.bytes = false) (hsb : s.boot.sbUpdate = false) (hlen : le m.bytes 32 4 + le m.bytes 36 4 ≤ 16777216)
    (haddr : addrCheck s h f false (le m.bytes 40 8) (le m.bytes 36 4) 40 = none) (d : List Byte) (ok : Bool) :
    ∃ t, exec (.fwStage f src h (.data d) ok) s = .next t ∧ StaysOpen s t f src m ∧ t.bg.length = s.bg.length + 1 := by
  have hcheck : firstSome
      [failIf (decide (16777216 < le m.bytes 32 4 + le m.bytes 36 4)) .lenExceedsBuffer 36,
       addrCheck s h f false (le m.bytes 40 8) (le m.bytes 36 4) 40,
       failIf s.boot.sbUpdate .updateInProgress,
       readFailed (.data d)] = none := by
    rw [failIf_of_false (decide_eq_false (Nat.not_lt.2 hlen)), haddr, failIf_of_false hsb]
    rfl
  rw [exec_fwStage, execFwStage]
  refine opens_background (a := addBg (updBoot (hostRead s f (le m.bytes 40 8) (le m.bytes 36 4)) fun t =>
      { t with pfUpdate := t.pfUpdate || bitOf (byteAt m.bytes 48) 0 }) f (some s.nextMsg)
      (.fwStage (le m.bytes 32 4) (readBytes d (le m.bytes 36 4)) (bitOf (byteAt m.bytes 48) 0)
        (bitOf (byteAt m.bytes 48) 0 && !s.boot.pfUpdate) ok) 0 0) hd fr hheld ⟨rfl, rfl, rfl⟩ (addBg_length _ _ _ _ _ _) ?_
  simp only [ctxOf_bytes, ctxOf_id, addrCheck_startMsg, startMsg_boot]
  refine (settleRead_of_none hcheck _).trans ?_
  simp only [ctxOf_f, hostRead_startMsg, startMsg_boot, hostRead_boot, updBoot_startMsg, addBg_startMsg]

/-- An image that may be installed is activated in the background (R104). -/
theorem fwActivate_completes {s : State} {f : Nat} {src : Src} {m : MsgIn} (fr : Fresh s) (hd : Head s f src 0x0D02 m)
    (hheld : updateHeld s m.bytes = false) (hsb : s.boot.sbUpdate = false)
    (himg : imageChecks s (inactiveSlot s) (stagedImage s (le m.bytes 32 4)) = none) :
    ∃ t, exec (.fwActivate f src) s = .next t ∧ StaysOpen s t f src m ∧ t.bg.length = s.bg.length + 1 := by
  rw [exec_fwActivate, execFwActivate]
  refine opens_background (a := addBg s f (some s.nextMsg) (.fwActivate (le m.bytes 32 4) (stagedImage s (le m.bytes 32 4))) 0 0)
    hd fr hheld ⟨rfl, rfl, rfl⟩ (addBg_length _ _ _ _ _ _) ?_
  simp only [ctxOf_bytes, ctxOf_id, startMsg_boot, stagedImage_startMsg, inactiveSlot_startMsg, imageChecks_startMsg, himg,
    failIf_of_false hsb, firstSome, addBg_startMsg]

/-! ## Weights -/

theorem endSwitch_poolLoading (s : State) : (endSwitch s).sched.poolLoading = none := by
  unfold endSwitch
  dsimp only
  split
  · assumption
  · rfl

/-- The pool holds the model it was loading (R135). -/
theorem modelSwitchLoadDone_completes {s : State} {p : PoolLoad} (hp : s.sched.poolLoading = some p) :
    ∃ t, exec (.modelSwitchLoadDone p.model) s = .next t ∧ t.sched.poolLoading = none ∧ t.sched.poolModel = some p.model := by
  rw [exec_modelSwitchLoadDone, execModelSwitchLoadDone, hp]
  dsimp only
  rw [if_pos rfl]
  exact ⟨_, rfl, endSwitch_poolLoading s, rfl⟩

/-- A layer that has come in time is among those that are there (R273). -/
theorem layerMoveDone_completes {s : State} {m layer : Nat} {x : Model} (hx : modelOf s m = some x)
    (hlayer : layer < x.img.shape.layers) :
    ∃ t, exec (.layerMoveDone m layer 0) s = .next t ∧ t.sched.layers.contains (m, layer) = true := by
  rw [exec_layerMoveDone, execLayerMoveDone, hx]
  dsimp only
  rw [if_neg (Nat.not_le.2 hlayer), if_pos rfl]
  refine ⟨_, rfl, ?_⟩
  rw [updSched_sched]
  dsimp only
  split
  · assumption
  · simp

end Sys2Proof.Machine

end

section
/-! PROOFS. Commands that complete: flits and the exchange of time (R293 to R297, R304, R305). -/

namespace Sys2Proof.Machine

/-! ## A port -/

theorem portOf_updPort {s : State} {n : Nat} (hn : n < s.strata.ports.length) (g : Port → Port) :
    portOf (updPort s n g) n = g (portOf s n) := modifyAt_getD_same _ _ _ _ hn

/-- What sending on a port leaves of it: the last SEQ that has been received in order. -/
theorem rxSeq_updPort {s : State} {n : Nat} {g : Port → Port} (hg : (g (portOf s n)).retry.rxSeq = (portOf s n).retry.rxSeq) :
    (portOf (updPort s n g) n).retry.rxSeq = (portOf s n).retry.rxSeq := by
  rcases Nat.lt_or_ge n s.strata.ports.length with hn | hn
  · rw [portOf_updPort hn, hg]
  · exact congrArg (fun p => p.retry.rxSeq) (modifyAt_getD_of_ge _ _ _ _ _ hn)

theorem portOf_emit (s : State) (o : Out) (n : Nat) : portOf (emit s o) n = portOf s n := rfl

theorem sendOne_rxSeq (s : State) (n : Nat) : (portOf (sendOne s n) n).retry.rxSeq = (portOf s n).retry.rxSeq := by
  unfold sendOne
  dsimp only
  split
  · rfl
  · split
    · rfl
    · split
      · rfl
      · rw [portOf_emit]
        exact rxSeq_updPort rfl

theorem pump_rxSeq (s : State) (n k : Nat) : (portOf (pump s n k) n).retry.rxSeq = (portOf s n).retry.rxSeq := by
  induction k generalizing s with
  | zero => rfl
  | succ k ih => rw [pump, ih, sendOne_rxSeq]

theorem pumpPort_rxSeq (s : State) (n : Nat) : (portOf (pumpPort s n) n).retry.rxSeq = (portOf s n).retry.rxSeq := pump_rxSeq s n _

theorem reply_rxSeq (s : State) (n vc : Nat) : (portOf (reply s n vc) n).retry.rxSeq = (portOf s n).retry.rxSeq := by
  unfold reply
  split
  · rfl
  · exact pumpPort_rxSeq s n

theorem takeAck_rxSeq (s : State) (n : Nat) (f : Flit) : (portOf (takeAck s n f) n).retry.rxSeq = (portOf s n).retry.rxSeq := by
  refine rxSeq_updPort ?_
  dsimp only
  split <;> rfl

theorem takeAck_length (s : State) (n : Nat) (f : Flit) : (takeAck s n f).strata.ports.length = s.strata.ports.length :=
  modifyAt_length _ _ _

/-- A DATA flit that is taken in order is the last one received. -/
theorem assemble_rxSeq {s : State} {n : Nat} (hn : n < s.strata.ports.length) (f : Flit) :
    (portOf (assemble s n f) n).retry.rxSeq = f.seq := by
  unfold assemble
  dsimp only
  split
  · change (portOf (updPort s n _) n).retry.rxSeq = _
    rw [portOf_updPort hn]
  · rw [portOf_updPort hn]

/-- An ACK_SEQ that acknowledges nothing new leaves what is to be resent. -/
theorem takeAck_of_same {s : State} {n : Nat} {f : Flit} (hn : n < s.strata.ports.length)
    (hack : f.ackSeq = (portOf s n).retry.ackSeq) :
    (portOf (takeAck s n f) n).retry = (portOf s n).retry ∧ (portOf (takeAck s n f) n).retries = (portOf s n).retries := by
  have hgone : (f.ackSeq + 65536 - (portOf s n).retry.ackSeq) % 65536 = 0 := by
    rw [hack, Nat.add_sub_cancel_left]
  rw [takeAck, portOf_updPort hn]
  dsimp only
  rw [hgone, if_neg (fun h => Nat.lt_irrefl 0 h.2)]
  exact ⟨rfl, rfl⟩

/-! ## Flits -/

theorem foldl_emit_ports (l : List Flit) (n : Nat) (s : State) :
    (l.foldl (fun s f => emit s (.flit n f)) s).strata.ports = s.strata.ports := by
  induction l generalizing s with
  | nil => rfl
  | cons f l ih => exact ih _

section
variable {s : State} {p : Nat} {fl : Flit} (hp : p < 4) (hruns : basaltRuns s = true)
  (hup : (portOf s p).st = 2) (hok : flitOk fl = true)
include hp hruns hup hok

theorem dataFlit_completes (hlen : p < s.strata.ports.length) (htype : fl.ftype = 1)
    (hseq : fl.seq = ((portOf s p).retry.rxSeq + 1) % 65536) :
    ∃ t, exec (.dataFlit p fl) s = .next t ∧ (portOf t p).retry.rxSeq = fl.seq := by
  have htaken : p < (takeAck s p fl).strata.ports.length := by rw [takeAck_length]; exact hlen
  rw [exec_dataFlit, execDataFlit, guardUnit_of_lt hp]
  refine ⟨_, rfl, ?_⟩
  dsimp only
  rw [if_neg (by simp [hruns, hup, htype]), if_neg (by simp [hok]), if_pos hseq, reply_rxSeq, assemble_rxSeq htaken]

theorem idleFlit_completes (htype : fl.ftype = 0) :
    ∃ t, exec (.idleFlit p fl) s = .next t ∧ (portOf t p).retry.rxSeq = (portOf s p).retry.rxSeq := by
  rw [exec_idleFlit, execIdleFlit, guardUnit_of_lt hp]
  refine ⟨_, rfl, ?_⟩
  dsimp only
  rw [if_neg (by simp [hruns, hup, htype]), if_neg (by simp [hok]), pumpPort_rxSeq, takeAck_rxSeq]

/-- A NAK that acknowledges nothing new counts a retry, and what is unacknowledged goes out again (R295). -/
theorem nakFlit_completes (hlen : p < s.strata.ports.length) (htype : fl.ftype = 2)
    (hack : fl.ackSeq = (portOf s p).retry.ackSeq) (hunacked : (portOf s p).retry.unacked ≠ [])
    (hresends : (portOf s p).retry.resends < 15) :
    ∃ t, exec (.nakFlit p fl) s = .next t ∧ (portOf t p).retries = (portOf s p).retries + 1 := by
  have htaken : p < (takeAck s p fl).strata.ports.length := by rw [takeAck_length]; exact hlen
  obtain ⟨hretry, hcount⟩ := takeAck_of_same hlen hack
  rw [exec_nakFlit, execNakFlit, guardUnit_of_lt hp]
  refine ⟨_, rfl, ?_⟩
  dsimp only
  rw [if_neg (by simp [hruns, hup, htype]), if_neg (by simp [hok]), hretry, if_neg hunacked, if_neg (by omega), portOf,
    foldl_emit_ports]
  exact (congrArg Port.retries (portOf_updPort htaken _)).trans (congrArg (· + 1) hcount)

end

/-! ## Messages -/

theorem transmit_out (s : State) (n : Nat) (m : StrataMsg) : s.out ++ [.strata n m] <+: (transmit s n m).out :=
  (onWire_pumpPort (updPort (emit s (.strata n m)) n _) n).2

theorem foldl_transmit_out {l : List Nat} {p : Nat} (hp : p ∈ l) (m : StrataMsg) (s : State) :
    ∃ u : State, s.out <+: u.out ∧ u.out ++ [.strata p m] <+: (l.foldl (fun s p => transmit s p m) s).out := by
  induction l generalizing s with
  | nil => cases hp
  | cons q l ih =>
    rw [List.foldl_cons]
    rcases List.mem_cons.1 hp with rfl | hp
    · exact ⟨s, List.prefix_refl _, (transmit_out s p m).trans (onWire_foldl (fun s q => onWire_transmit s q m) l _).2⟩
    · obtain ⟨u, hu, hout⟩ := ih hp (transmit s q m)
      exact ⟨u, (onWire_transmit s q m).2.trans hu, hout⟩

section
variable (s : State) (g : MsgLayer → MsgLayer)

theorem neighbour_updMl (pos port : Nat) : neighbour (updMl s g) pos port = neighbour s pos port := rfl

theorem myPos_updMl : myPos (updMl s g) = myPos s := rfl

theorem linkUp_updMl (pos port : Nat) : linkUp (updMl s g) pos port = linkUp s pos port := by
  rw [linkUp, linkUp, neighbour_updMl]
  rfl

theorem neighbours_updMl (pos : Nat) : neighbours (updMl s g) pos = neighbours s pos := by
  simp only [neighbours, linkUp_updMl, neighbour_updMl]

theorem hops_updMl (a b : Nat) : hops (updMl s g) a b = hops s a b := by
  simp only [hops, hopsFrom, widen, neighbours_updMl]

/-- The routes are no matter of the message layer. -/
theorem nextHop_updMl (dst : Nat) : nextHop (updMl s g) dst = nextHop s dst := by
  simp only [nextHop, hops_updMl, neighbours_updMl, myPos_updMl]

end

/-- The next hop is one of this module's four ports, and its link is up. -/
theorem linkUp_of_nextHop {s : State} {dst p : Nat} (h : nextHop s dst = some p) : p < 4 ∧ linkUp s (myPos s) p = true := by
  unfold nextHop at h
  split at h
  · cases h
  · obtain ⟨e, he, rfl⟩ := Option.map_eq_some_iff.1 h
    have hmem := List.mem_of_find?_eq_some he
    obtain ⟨port, hport, hsome⟩ := List.mem_filterMap.1 hmem
    split at hsome
    · obtain ⟨x, -, rfl⟩ := Option.map_eq_some_iff.1 hsome
      exact ⟨List.mem_range.1 hport, ‹_›⟩
    · cases hsome

/-- A flood reaches the next hop toward any position. -/
theorem nextHop_mem_floodPorts {s : State} {dst p : Nat} (h : nextHop s dst = some p) (t : Nat) : p ∈ floodPorts s t := by
  obtain ⟨hp, hup⟩ := linkUp_of_nextHop h
  refine List.mem_filter.2 ⟨List.mem_range.2 hp, ?_⟩
  unfold linkUp at hup
  split at hup
  · cases hup
  · simp only [Bool.and_eq_true, bne_self_eq_false, Bool.false_or] at hup
    obtain ⟨-, hst, hbulk⟩ := hup
    simp [portCarries, beq_iff_eq.1 hst, hbulk]

/-- A message that is sent leaves on the next hop toward its position (R298). -/
theorem sent_sendMsg (s : State) (type dst : Nat) (data : List Byte) : Sent s (sendMsg s type dst data) type dst data := by
  intro p hp
  unfold sendMsg
  dsimp only
  generalize hm : StrataMsg.mk _ _ _ _ _ _ _ = m
  refine ⟨m, ?_, by rw [← hm], by rw [← hm], by rw [← hm]⟩
  split
  · obtain ⟨u, hu, hout⟩ := foldl_transmit_out (nextHop_mem_floodPorts hp type) m (updMl (updMl s _) _)
    exact mem_newOut hu hout
  · rw [nextHop_updMl, hp]
    exact mem_newOut (List.prefix_refl _) (transmit_out (updMl s _) p m)

/-! ## The exchange of time -/

/-- A message for this module alone, of a type that is not acknowledged, takes effect as it comes. -/
theorem strataMsg_of_arrives {s : State} {p t : Nat} {m : StrataMsg} (h : Arrives s p t m) (hdst : m.dst ≠ 0xFF) (hack : acked t = false)
    (act : State → State) : strataMsg s p t m act = .next (act (takeInbox s p m)) := by
  obtain ⟨hp, hruns, hcarries, rfl, hfor, -⟩ := h
  have hhere : m.dst = myPos (takeInbox s p m) := by
    rcases hfor with ⟨hpos, -⟩ | ⟨hall, -⟩
    · rw [takeInbox, myPos_updMl, hpos]
    · exact absurd hall hdst
  have hstill : portCarries (portOf (takeInbox s p m) p) m.type = true := hcarries
  rw [strataMsg, guardUnit_of_lt hp, if_pos hruns, receive]
  dsimp only
  rw [if_neg (by simp [hstill]), if_neg hdst, if_pos hhere, deliver, hack]
  rfl

theorem time_of_onWire {s t : State} (h : OnWire s t) : t.strata.time = s.strata.time := by
  rw [h.1]

theorem strata_of_posts {s t : State} (h : Posts s t) : t.strata = s.strata := by
  rw [h.1]

/-- An exchange of time takes the next number (R304). -/
theorem syncExchangeTimer_completes {s : State} {p : Nat} (hruns : basaltRuns s = true) (hpos : myPos s ≠ 0)
    (hhop : nextHop s 0 = some p) :
    ∃ t, exec .syncExchangeTimer s = .next t ∧ t.strata.time.seq = (s.strata.time.seq + 1) % 2 ^ 32 := by
  rw [exec_syncExchangeTimer, execSyncExchangeTimer, if_neg (by simp [hruns, hpos]), hhop]
  refine ⟨_, rfl, ?_⟩
  dsimp only
  split
  · rw [time_of_onWire (onWire_sendMsg _ _ _ _)]
    rfl
  · rfl

/-- A request for the time is answered (R304). -/
theorem syncReq_completes {s : State} {p : Nat} {m : StrataMsg} (h : Arrives s p 0x60 m) (hdst : m.dst ≠ 0xFF) (t2 t3 : Nat) :
    ∃ t, exec (.syncReq p m t2 t3) s = .next t ∧
      Sent s t 0x61 m.src (leBytes 4 (le m.data 0 4) ++ leBytes 8 (le m.data 4 8) ++ leBytes 8 t2 ++ leBytes 8 t3) := by
  rw [exec_syncReq, execSyncReq, strataMsg_of_arrives h hdst rfl]
  refine ⟨_, rfl, fun q hq => ?_⟩
  exact sent_sendMsg (takeInbox s p m) _ _ _ q ((nextHop_updMl s _ _).trans hq)

/-- That the module locks to the time leaves no exchange under way where none was. -/
theorem t1_of_lock {c : Prop} [Decidable c] {u : State} (hu : u.strata.time.t1 = none) {code : Nat} {data : List Byte} :
    (if c then record (updTime u fun t => { t with locked := true }) code data else u).strata.time.t1 = none := by
  split
  · rw [strata_of_posts (posts_record _ _ _)]
    exact hu
  · exact hu

/-- The answer to the exchange under way ends it (R304, R305). -/
theorem syncResp_completes {s : State} {p : Nat} {m : StrataMsg} (h : Arrives s p 0x61 m) (hdst : m.dst ≠ 0xFF)
    (ht1 : s.strata.time.t1 = some (le m.data 4 8)) (hseq : s.strata.time.seq = le m.data 0 4) (t4 : Nat) :
    ∃ t, exec (.syncResp p m t4) s = .next t ∧ t.strata.time.t1 = none := by
  have hmine : ¬ ((takeInbox s p m).strata.time.t1 ≠ some (le m.data 4 8) ∨ (takeInbox s p m).strata.time.seq ≠ le m.data 0 4) := by
    rintro (hne | hne)
    · exact hne ht1
    · exact hne hseq
  rw [exec_syncResp, execSyncResp, strataMsg_of_arrives h hdst rfl]
  refine ⟨_, rfl, ?_⟩
  dsimp only
  rw [if_neg hmine]
  exact t1_of_lock rfl

end Sys2Proof.Machine

end

section
/-! PROOFS. Commands that complete: the statement, from the rules of each group of commands. -/

namespace Sys2Proof.Machine

/-- Settles O60: each group of commands completes by the rules proved for its commands above. -/
theorem commandsComplete : Obligations.CommandsComplete := by
  unfold Obligations.CommandsComplete
  refine ⟨fun s f hf hlen => mailbox_commands_complete hf hlen, ?index, ?case, ?contract, linkRateFall_completes, ?powerAndFw, ?switch,
    ?die, ?flit, ?time⟩
  case index =>
    intro s f src m h b i fr hi hlive haddr hroom
    exact ⟨fun hd hlen hmax hrecs => indexInsert_grows fr hi hlive haddr hroom hd hlen hmax hrecs,
      fun hd hlen hids => indexDelete_grows fr hi hlive haddr hroom hd hlen hids⟩
  case case =>
    intro s key c k hc hk
    exact ⟨fun m x qv hcmd hserves hm hmay htime hstage hx hq => coarseSearch_completes hc hcmd hmay htime hq hk hserves hm hstage hx,
      holdExpiry_completes hc,
      fun m i g l ps qv hcmd hserves hmay htime hq hshards => listPass_completes hc hcmd hmay htime hq hserves hshards ps,
      fun m hruns => resultRecordIssue_completes hruns⟩
  case contract =>
    intro s k hk hopen
    exact ⟨arrivalToken_completes hk hopen, fun e hkind hpend he => periodWindowEnd_completes hk hopen hkind hpend he⟩
  case powerAndFw =>
    intro s f src m fr
    exact ⟨powerPolicySet_completes, fun hheld hsb =>
      ⟨fun h d ok hd hlen haddr => fwStage_completes fr hd hheld hsb hlen haddr d ok, fun hd himg => fwActivate_completes fr hd hheld hsb himg⟩⟩
  case switch =>
    intro s
    exact ⟨fun p hp => modelSwitchLoadDone_completes hp, fun m layer x hx hlayer => layerMoveDone_completes hx hlayer⟩
  case die =>
    intro s g hg4 hg
    exact ⟨dividerDwellEnd_completes hg4 hg, fun p hp => ⟨voltageStepAck_completes hg4 hg hp, voltageStepTimeout_completes hg4 hg hp⟩⟩
  case flit =>
    intro s p fl hp hlen hruns hup hok
    exact ⟨dataFlit_completes hp hruns hup hok hlen, idleFlit_completes hp hruns hup hok,
      fun htype hack _ hunacked hresends => nakFlit_completes hp hruns hup hok hlen htype hack hunacked hresends⟩
  case time =>
    intro s p hruns
    exact ⟨fun hpos hhop => syncExchangeTimer_completes hruns hpos hhop, fun m t2 t3 h hdst => syncReq_completes h hdst t2 t3,
      fun m t4 h hdst ht1 hseq => syncResp_completes h hdst ht1 hseq t4⟩

end Sys2Proof.Machine

end

section
/-! PROOFS. A message that is answered, or left open, over any state that keeps the message path (R28, R47), and what the path leaves
of everything else. -/

namespace Sys2Proof.Machine

/-! ## What keeps the message path -/

/-- The open messages are as they were, the completion rings are as active as they were, and what left the module before is still
there: over such a change a message that has started can be answered. -/
structure KeepsPath (a b : State) : Prop where
  msgs : b.msgs = a.msgs
  next : b.nextMsg = a.nextMsg
  boxes : b.mail.length = a.mail.length
  ring : ∀ g, (mbOf b g).cq.active = (mbOf a g).cq.active
  out : a.out <+: b.out

theorem KeepsPath.refl (a : State) : KeepsPath a a := ⟨rfl, rfl, rfl, fun _ => rfl, List.prefix_refl _⟩

theorem KeepsPath.trans {a b c : State} (h : KeepsPath a b) (k : KeepsPath b c) : KeepsPath a c :=
  ⟨k.msgs.trans h.msgs, k.next.trans h.next, k.boxes.trans h.boxes, fun g => (k.ring g).trans (h.ring g), h.out.trans k.out⟩

theorem keepsPath_of_eq {a b : State} (hmail : b.mail = a.mail) (hmsgs : b.msgs = a.msgs) (hnext : b.nextMsg = a.nextMsg)
    (hout : a.out <+: b.out) : KeepsPath a b :=
  ⟨hmsgs, hnext, by rw [hmail], fun g => by rw [mbOf, hmail, mbOf], hout⟩

theorem keepsPath_foldl {α : Type} {g : State → α → State} (hg : ∀ s a, KeepsPath s (g s a)) (l : List α) (s : State) :
    KeepsPath s (l.foldl g s) := by
  induction l generalizing s with
  | nil => exact KeepsPath.refl s
  | cons a l ih => exact (hg s a).trans (ih _)

theorem keepsPath_of_retires {a b : State} (h : Retires a b) : KeepsPath a b := by
  obtain ⟨heq, -⟩ := h
  exact keepsPath_of_eq (by rw [heq]) (by rw [heq]) (by rw [heq]) (by rw [heq])

theorem keepsPath_of_onWire {a b : State} (h : OnWire a b) : KeepsPath a b := by
  obtain ⟨heq, hout⟩ := h
  exact keepsPath_of_eq (by rw [heq]) (by rw [heq]) (by rw [heq]) hout

/-- What only posts keeps the path if it leaves the rings as active as they were. -/
theorem keepsPath_of_posts {a b : State} (h : Posts a b) (hring : ∀ g, (mbOf b g).cq.active = (mbOf a g).cq.active) : KeepsPath a b := by
  obtain ⟨heq, hout, hlen⟩ := h
  exact ⟨by rw [heq], by rw [heq], hlen, hring, hout⟩

/-- A change of one mailbox that leaves its ring as active as it was. -/
theorem cqActive_updMb (s : State) (f g : Nat) {u : Mailbox → Mailbox} (hu : ∀ a, (u a).cq.active = a.cq.active) :
    (mbOf (updMb s f u) g).cq.active = (mbOf s g).cq.active := by
  rcases eq_or_ne g f with rfl | hne
  · rcases Nat.lt_or_ge g s.mail.length with hlt | hge
    · rw [mbOf_updMb _ _ _ hlt, hu]
    · rw [show mbOf (updMb s g u) g = mbOf s g from modifyAt_getD_of_ge _ _ _ _ _ hge]
  · rw [mbOf_updMb_ne _ _ _ _ hne]

theorem keepsPath_updMb (s : State) (f : Nat) {u : Mailbox → Mailbox} (hu : ∀ a, (u a).cq.active = a.cq.active) :
    KeepsPath s (updMb s f u) :=
  keepsPath_of_posts (posts_updMb s f u) fun g => cqActive_updMb s f g hu

theorem keepsPath_emit (s : State) (o : Out) : KeepsPath s (emit s o) := keepsPath_of_posts (posts_emit s o) fun _ => rfl

theorem keepsPath_recordAs (s : State) (cls inj : Bool) (code source func : Nat) (p : List Byte) :
    KeepsPath s (recordAs s cls inj code source func p) := keepsPath_of_eq rfl rfl rfl (List.prefix_refl _)

theorem keepsPath_fireVector (s : State) (f v : Nat) : KeepsPath s (fireVector s f v) := by
  unfold fireVector
  split
  · exact KeepsPath.refl s
  · split
    · exact keepsPath_updMb s f fun _ => rfl
    · exact keepsPath_emit s _

theorem keepsPath_haltMailbox (s : State) (f c i : Nat) : KeepsPath s (haltMailbox s f c i) := by
  unfold haltMailbox
  dsimp only
  split
  · exact keepsPath_recordAs s _ _ _ _ _ _
  · exact ((keepsPath_updMb s f (by exact fun _ => rfl)).trans (keepsPath_fireVector _ f 3)).trans (keepsPath_recordAs _ _ _ _ _ _ _)

theorem keepsPath_postEvent (s : State) (f : Nat) (c : EventCode) (r : List Byte) : KeepsPath s (postEvent s f c r) := by
  have hfired : KeepsPath s (fireVector (updMb s f fun mb => { mb with ev := setPending mb.ev c }) f (eventVector c)) :=
    (keepsPath_updMb s f (by exact fun _ => rfl)).trans (keepsPath_fireVector _ f _)
  unfold postEvent
  dsimp only
  split
  · exact KeepsPath.refl s
  · split
    · exact hfired
    · split
      · exact (hfired.trans (keepsPath_updMb _ f (by exact fun _ => rfl))).trans (keepsPath_recordAs _ _ _ _ _ _ _)
      · split
        · exact (hfired.trans (keepsPath_emit _ _)).trans (keepsPath_updMb _ f (by exact fun _ => rfl))
        · exact hfired.trans (keepsPath_haltMailbox _ f 5 0)

theorem keepsPath_postAll (s : State) (c : EventCode) (r : List Byte) : KeepsPath s (postAll s c r) :=
  keepsPath_foldl (fun s f => keepsPath_postEvent s f c r) _ s

theorem keepsPath_postPartition (s : State) (p t a : Nat) : KeepsPath s (postPartition s p t a) := by
  unfold postPartition
  dsimp only
  split
  · exact keepsPath_postEvent _ _ _ _
  · exact (keepsPath_postEvent _ _ _ _).trans (keepsPath_postEvent _ _ _ _)

theorem keepsPath_setState (s : State) (m : ModState) : KeepsPath s (setState s m) := by
  unfold setState
  split
  · exact KeepsPath.refl s
  · refine KeepsPath.trans ?_ (keepsPath_postAll _ _ _)
    refine KeepsPath.trans ?_ (keepsPath_recordAs _ _ _ _ _ _ _)
    exact keepsPath_of_eq rfl rfl rfl (List.prefix_refl _)

theorem keepsPath_settleState (s : State) : KeepsPath s (settleState s) := by
  unfold settleState
  split
  · exact keepsPath_setState s _
  · exact KeepsPath.refl s

/-! ## Answering over such a change -/

section
variable {s A : State} {f : Nat} {src : Src} {m : MsgIn}

/-- A message that has started is answered over whatever keeps the message path, and the answer changes nothing else. -/
theorem answered_of_keepsPath (fr : Fresh s) (hs : mayStart s f src m = true) (h : KeepsPath (startMsg s (ctxOf s f src m)) A)
    (st : Status) (off b : Nat) (res : List Byte) :
    let t := sweepStrays (complete A s.nextMsg st off res b) f src
    Answered s t f src m st off res b ∧ Rest f A t := by
  have hserves := mayStart_serves hs
  have hopened : A.msgs = s.msgs ++ [openOf (ctxOf s f src m)] := h.msgs
  have hcompl : complete A s.nextMsg st off res b =
      writeCompletion { A with msgs := s.msgs } (openOf (ctxOf s f src m)) st off b res :=
    complete_last _ (openOf (ctxOf s f src m)) s.msgs hopened fr st off res b
  have hlen : f < A.mail.length := by
    rw [h.boxes, (rest_startMsg s (ctxOf s f src m)).mail_length]
    exact mail_of_serves hserves.1
  have hactive : src = .ring → (mbOf A f).cq.active = true := fun hsrc => by
    have hres := hserves.2 hsrc
    simp only [canReserve, Bool.and_eq_true] at hres
    exact (h.ring f).trans ((rest_startMsg s (ctxOf s f src m)).cq_active.trans hres.1)
  have hrest : Rest f A (complete A s.nextMsg st off res b) := by
    rw [hcompl]
    exact Rest.trans (rest_msgs A f A.nextMsg s.msgs) (rest_writeCompletion _ (openOf (ctxOf s f src m)) st off b res)
  have hleft := writeCompletion_msgs { A with msgs := s.msgs } (openOf (ctxOf s f src m)) st off b res
  have hout := writeCompletion_out { A with msgs := s.msgs } (ctxOf s f src m) st off b res hlen hactive
  rw [← hcompl] at hleft hout
  obtain ⟨hleft, hid⟩ := hleft
  have hid : (complete A s.nextMsg st off res b).nextMsg = s.nextMsg + 1 := hid.trans h.next
  have hfresh : Fresh (complete A s.nextMsg st off res b) := fun o ho => by
    rw [hleft] at ho
    rw [hid]
    exact Nat.lt_succ_of_lt (fr o ho)
  obtain ⟨hsweep, hsweepMsgs, hsweepNext⟩ := sweepStrays_rest _ f src hfresh
  refine ⟨⟨hsweepMsgs.trans hleft, by omega, ?_⟩, hrest.trans hsweep⟩
  rcases hout with ⟨c, hc, hfields⟩ | ⟨hsrc, hhalt⟩
  · exact .inl ⟨c, mem_newOut h.out (hc.trans hsweep.out), hfields⟩
  · refine .inr ⟨hsrc, ?_⟩
    rw [sweepStrays, serveStrays_of_halted (f := f) hhalt]
    exact hhalt

/-- A message that has started and is not completed stays open over whatever keeps the message path. -/
theorem staysOpen_of_keepsPath (fr : Fresh s) (h : KeepsPath (startMsg s (ctxOf s f src m)) A) :
    StaysOpen s (sweepStrays A f src) f src m ∧ Rest f A (sweepStrays A f src) := by
  have hopened : A.msgs = s.msgs ++ [openOf (ctxOf s f src m)] := h.msgs
  have hid : A.nextMsg = s.nextMsg + 1 := h.next
  have hfresh : Fresh A := fun o ho => by
    rw [hopened, List.mem_append, List.mem_singleton] at ho
    rw [hid]
    rcases ho with ho | rfl
    · exact Nat.lt_succ_of_lt (fr o ho)
    · exact Nat.lt_succ_self _
  obtain ⟨hsweep, hsweepMsgs, hsweepNext⟩ := sweepStrays_rest _ f src hfresh
  exact ⟨⟨by omega, openOf (ctxOf s f src m), hsweepMsgs.trans hopened, rfl, rfl, rfl, rfl, rfl, rfl⟩, hsweep⟩

variable {op : Nat} {held : List Byte → Bool} {k : State → MsgCtx → State}

theorem onMessage_answers {st : Status} {off b : Nat} {res : List Byte} (hd : Head s f src op m) (fr : Fresh s) (hh : held m.bytes = false)
    (hk : k (startMsg s (ctxOf s f src m)) (ctxOf s f src m) = complete A s.nextMsg st off res b)
    (h : KeepsPath (startMsg s (ctxOf s f src m)) A) :
    ∃ t, onMessage s f src op held k = .next t ∧ Answered s t f src m st off res b ∧ Rest f A t := by
  rw [onMessage_of_head hd hh, hk]
  obtain ⟨-, -, -, hs, -⟩ := hd
  exact ⟨_, rfl, answered_of_keepsPath fr hs h st off b res⟩

theorem onMessage_staysOpen (hd : Head s f src op m) (fr : Fresh s) (hh : held m.bytes = false)
    (hk : k (startMsg s (ctxOf s f src m)) (ctxOf s f src m) = A) (h : KeepsPath (startMsg s (ctxOf s f src m)) A) :
    ∃ t, onMessage s f src op held k = .next t ∧ StaysOpen s t f src m ∧ Rest f A t := by
  rw [onMessage_of_head hd hh, hk]
  exact ⟨_, rfl, staysOpen_of_keepsPath fr h⟩

end

/-! ## What the message path leaves, whatever messages are open -/

theorem RestEvents.refl (a : State) : RestEvents a a := ⟨rfl, List.prefix_refl _⟩

theorem RestEvents.trans {a b c : State} (h : RestEvents a b) (k : RestEvents b c) : RestEvents a c := by
  obtain ⟨hab, hout⟩ := h
  obtain ⟨hbc, hout'⟩ := k
  exact ⟨by rw [hbc, hab], hout.trans hout'⟩

theorem restEvents_of_rest {f : Nat} {a t : State} (h : Rest f a t) : RestEvents a t := ⟨h.1, h.out⟩

theorem restEvents_of_posts {a t : State} (h : Posts a t) : RestEvents a t := by
  obtain ⟨heq, hout, -⟩ := h
  exact ⟨by rw [heq], hout⟩

theorem restEvents_startMsg (s : State) (x : MsgCtx) : RestEvents s (startMsg s x) := restEvents_of_rest (rest_startMsg s x)

theorem restEvents_complete (s : State) (id : Nat) (st : Status) (o : Nat) (r : List Byte) (b : Nat) :
    RestEvents s (complete s id st o r b) := by
  rcases posts_complete s id st o r b with h | ⟨-, h⟩
  · exact RestEvents.trans (b := { s with msgs := s.msgs.filter fun m => m.id != id }) ⟨rfl, List.prefix_refl _⟩ (restEvents_of_posts h)
  · rw [h]
    exact RestEvents.refl s

/-- A message of no opcode is refused by the message path alone. -/
theorem restEvents_serveStrays (f : Nat) (src : Src) (n : Nat) (s : State) : RestEvents s (serveStrays f src n s) := by
  induction n generalizing s with
  | zero => exact RestEvents.refl s
  | succ n ih =>
    unfold serveStrays
    split
    · exact RestEvents.refl s
    · rename_i m _
      split
      · rename_i hc
        simp only [Bool.and_eq_true, Option.isNone_iff_eq_none] at hc
        have hop : le (ctxOf s f src m).bytes 0 2 ≠ 0x0601 := fun he => by
          have hnone : opInfo (le m.bytes 0 2) = none := hc.1
          rw [show le m.bytes 0 2 = 0x0601 from he] at hnone
          simp [opInfo] at hnone
        refine RestEvents.trans (restEvents_startMsg s (ctxOf s f src m)) (RestEvents.trans ?_ (ih _))
        unfold settle
        split
        · rw [reject_eq]
          exact RestEvents.trans (restEvents_of_rest (rest_refusalNoted _ _ f hop)) (restEvents_complete _ _ _ _ _ _)
        · exact RestEvents.refl _
      · exact RestEvents.refl s

theorem restEvents_sweepStrays (s : State) (f : Nat) (src : Src) : RestEvents s (sweepStrays s f src) := restEvents_serveStrays f src _ s

end Sys2Proof.Machine
end

section
/-! PROOFS. Operations that do not look at the messages: each does the same before and after a message has started (R47). -/

namespace Sys2Proof.Machine

/-! ## Checks that pass -/

theorem settle_of_none {s : State} {x : MsgCtx} {c : Check} (hc : c = none) (apply : State → State) : settle s x c apply = apply s := by
  rw [hc, settle]

theorem settle_of_some {s : State} {x : MsgCtx} {c : Check} {r : Refuse} (hc : c = some r) (apply : State → State) :
    settle s x c apply = reject s x r := by
  rw [hc, settle]

theorem firstSome_cons_none {α : Type} {a : Option α} {l : List (Option α)} (ha : a = none) : firstSome (a :: l) = firstSome l := by
  rw [ha, firstSome]

theorem withRef_some {α : Type} {o : Option α} {a : α} (ho : o = some a) (off : Nat) (k : α → Check) : withRef o off k = k a := by
  rw [ho, withRef]

/-! ## Before and after a message has started -/

theorem startMsg_ite {c : Prop} {_ : Decidable c} (a b : State) (x : MsgCtx) :
    startMsg (if c then a else b) x = if c then startMsg a x else startMsg b x := apply_ite (startMsg · x) c a b

theorem foldl_startMsg {α : Type} {g : State → α → State} {x : MsgCtx} (hg : ∀ s a, g (startMsg s x) a = startMsg (g s a) x)
    (l : List α) (s : State) : l.foldl g (startMsg s x) = startMsg (l.foldl g s) x := by
  induction l generalizing s with
  | nil => rfl
  | cons a l ih => rw [List.foldl_cons, hg, ih, List.foldl_cons]

section
variable (s : State) (x : MsgCtx)

theorem raiseVTime_startMsg (owner level : Nat) : raiseVTime (startMsg s x) owner level = startMsg (raiseVTime s owner level) x := by
  have hready : readyOwners (startMsg s x) level = readyOwners s level := rfl
  unfold raiseVTime raiseAmong
  rw [hready]
  split
  · rfl
  · split
    · rfl
    · dsimp only
      rw [startMsg_ite]
      rfl

theorem addCmd_startMsg (v : Serves) (o l st d a : Nat) (k : Bool) (us : List UnitId) :
    addCmd (startMsg s x) v o l st d a k us = startMsg (addCmd s v o l st d a k us) x := by
  unfold addCmd
  rw [raiseVTime_startMsg]
  rfl

theorem startBg_startMsg (kind : BgKind) (t1 t2 : Nat) : startBg (startMsg s x) x kind t1 t2 = startMsg (startBg s x kind t1 t2) x := by
  unfold startBg
  dsimp only
  rw [← addBg_startMsg, ← addCmd_startMsg]
  rfl

theorem addVTime_startMsg (owner level n : Nat) : addVTime (startMsg s x) owner level n = startMsg (addVTime s owner level n) x := by
  unfold addVTime
  dsimp only
  split <;> rfl

theorem chargeCmd_startMsg (c : Cmd) : chargeCmd (startMsg s x) c = startMsg (chargeCmd s c) x := by
  have hcmd : cmdOf (startMsg s x) c.id = cmdOf s c.id := rfl
  unfold chargeCmd
  rw [hcmd]
  split
  · rfl
  · rename_i c _
    exact congrArg (updCmd · c.id _) (addVTime_startMsg (addHeld s c.owner c.level (heldCycles s c)) x c.owner c.level _)

theorem chargeLoad_startMsg : chargeLoad (startMsg s x) = startMsg (chargeLoad s) x := by
  have hload : (startMsg s x).sched.poolLoading = s.sched.poolLoading := rfl
  unfold chargeLoad
  rw [hload]
  split
  · rfl
  · exact congrArg (updSched · _) (addVTime_startMsg (addHeld s _ _ _) x _ _ _)

theorem chargeAll_startMsg : chargeAll (startMsg s x) = startMsg (chargeAll s) x := by
  have hcmds : (startMsg s x).sched.cmds.foldl chargeCmd (startMsg s x) = startMsg (s.sched.cmds.foldl chargeCmd s) x :=
    foldl_startMsg (fun s c => chargeCmd_startMsg s x c) _ s
  rw [chargeAll, hcmds, chargeLoad_startMsg, chargeAll]

theorem inForce_startMsg (g : Nat) : inForce (startMsg s x) g = startMsg (inForce s g) x := by
  have hdie : dieOf (startMsg s x) g = dieOf s g := rfl
  unfold inForce
  rw [hdie]
  dsimp only
  split
  · split
    · rw [chargeAll_startMsg]
      rfl
    · rfl
  · rfl

theorem adoptIdle_startMsg : adoptIdle (startMsg s x) = startMsg (adoptIdle s) x :=
  foldl_startMsg (fun s g => inForce_startMsg (updDie s g fun d => { d with adopting := d.adopting.filter (runningArrays s g).contains }) x g) _ s

theorem noteBlock_startMsg (c : Cmd) : noteBlock (startMsg s x) c = startMsg (noteBlock s c) x :=
  foldl_startMsg (g := fun a (e : Nat × Nat) => updStats a e.1 fun p => { p with blockMax := max p.blockMax (a.tclk - e.2) })
    (fun _ _ => rfl) _ s

theorem dropCmds_startMsg (ids : List Nat) : dropCmds (startMsg s x) ids = startMsg (dropCmds s ids) x := by
  have hcharged := foldl_startMsg (g := fun s c => noteBlock (chargeCmd s c) c) (x := x)
    (fun s c => by rw [chargeCmd_startMsg, noteBlock_startMsg]) (s.sched.cmds.filter fun c => ids.contains c.id) s
  have hids : (startMsg s x).sched.cmds.filter (fun c => ids.contains c.id) = s.sched.cmds.filter fun c => ids.contains c.id := rfl
  unfold dropCmds
  rw [hids]
  dsimp only
  rw [hcharged]
  generalize List.foldl (fun s c => noteBlock (chargeCmd s c) c) s _ = u
  exact adoptIdle_startMsg (dropAreas (updSched u fun d => { d with cmds := d.cmds.filter fun c => !ids.contains c.id }) ids) x

theorem readyAgain_startMsg (c : Cmd) (g : Cmd → Cmd) : readyAgain (startMsg s x) c g = startMsg (readyAgain s c g) x := by
  have hready : updCmd (raiseVTime (noteBlock (chargeCmd (startMsg s x) c) c) c.owner c.level) c.id g =
      startMsg (updCmd (raiseVTime (noteBlock (chargeCmd s c) c) c.owner c.level) c.id g) x := by
    rw [chargeCmd_startMsg s x c, noteBlock_startMsg (chargeCmd s c) x c, raiseVTime_startMsg (noteBlock (chargeCmd s c) c) x]
    rfl
  unfold readyAgain
  dsimp only
  rw [hready]
  generalize updCmd (raiseVTime (noteBlock (chargeCmd s c) c) c.owner c.level) c.id g = u
  split
  · exact adoptIdle_startMsg (dropAreas u [c.id]) x
  · exact adoptIdle_startMsg u x

theorem dropCase_startMsg (key : Nat) : dropCase (startMsg s x) key = startMsg (dropCase s key) x := by
  have hcmds : cmdsOfCase (startMsg s x) key = cmdsOfCase s key := rfl
  unfold dropCase
  rw [hcmds]
  dsimp only
  rw [dropCmds_startMsg, foldl_startMsg fun s c => readyAgain_startMsg s x c _]

theorem endCase_startMsg (key : Nat) (st : Status) (stage : Nat) : endCase (startMsg s x) key st stage = startMsg (endCase s key st stage) x := by
  rw [endCase, dropCase_startMsg]
  rfl

theorem issueStep_startMsg (g target : Nat) (div : Option Nat) :
    issueStep (startMsg s x) g target div = startMsg (issueStep s g target div) x := by
  have hpend : (dieOf (startMsg s x) g).pend = (dieOf s g).pend := rfl
  unfold issueStep
  dsimp only
  rw [hpend]
  split
  · rfl
  · rw [startMsg_ite]
    rfl

theorem wakeDie_startMsg (g : Nat) : wakeDie (startMsg s x) g = startMsg (wakeDie s g) x := by
  have hwoken (u : State) : (if (dieOf (startMsg u x) g).vset ≥ 576 then startCores (startMsg u x) g else issueStep (startMsg u x) g 576 none) =
      startMsg (if (dieOf u g).vset ≥ 576 then startCores u g else issueStep u g 576 none) x := by
    rw [issueStep_startMsg, startMsg_ite]
    rfl
  unfold wakeDie
  dsimp only
  rw [startMsg_ite, ← hwoken]
  rfl

theorem wakeDies_startMsg : wakeDies (startMsg s x) = startMsg (wakeDies s) x := foldl_startMsg (fun s g => wakeDie_startMsg s x g) _ s

end

end Sys2Proof.Machine
end

section
/-! PROOFS. What the dies and the scheduler's accounts do leaves everything else: dividers, voltage steps, and the wake of cores (R317 to R325). -/

namespace Sys2Proof.Machine

/-- Only the scheduler, the power unit and the recorder have changed, and what left the module before is still there. -/
def Powers (s t : State) : Prop :=
  t = { s with sched := t.sched, power := t.power, amber := t.amber, out := t.out } ∧ s.out <+: t.out

theorem Powers.refl (s : State) : Powers s s := ⟨rfl, List.prefix_refl _⟩

theorem Powers.trans {a b c : State} (h : Powers a b) (k : Powers b c) : Powers a c := by
  obtain ⟨hab, hout⟩ := h
  obtain ⟨hbc, hout'⟩ := k
  exact ⟨by rw [hbc, hab], hout.trans hout'⟩

theorem powers_foldl {α : Type} {g : State → α → State} (hg : ∀ s a, Powers s (g s a)) (l : List α) (s : State) : Powers s (l.foldl g s) := by
  induction l generalizing s with
  | nil => exact Powers.refl s
  | cons a l ih => exact (hg s a).trans (ih _)

theorem powers_updSched (s : State) (g : Sched → Sched) : Powers s (updSched s g) := ⟨rfl, List.prefix_refl _⟩

theorem powers_updPower (s : State) (g : Power → Power) : Powers s (updPower s g) := ⟨rfl, List.prefix_refl _⟩

theorem powers_updDie (s : State) (i : Nat) (g : Die → Die) : Powers s (updDie s i g) := ⟨rfl, List.prefix_refl _⟩

theorem powers_updCmd (s : State) (i : Nat) (g : Cmd → Cmd) : Powers s (updCmd s i g) := ⟨rfl, List.prefix_refl _⟩

theorem powers_emit (s : State) (o : Out) : Powers s (emit s o) := ⟨rfl, List.prefix_append _ _⟩

theorem powers_record (s : State) (code : Nat) (b : List Byte) : Powers s (record s code b) := ⟨rfl, List.prefix_refl _⟩

theorem powers_addVTime (s : State) (owner level n : Nat) : Powers s (addVTime s owner level n) := by
  unfold addVTime
  dsimp only
  split
  · exact Powers.refl s
  · exact ⟨rfl, List.prefix_refl _⟩

theorem powers_chargeCmd (s : State) (c : Cmd) : Powers s (chargeCmd s c) := by
  unfold chargeCmd
  split
  · exact Powers.refl s
  · exact ((powers_updSched s _).trans (powers_addVTime _ _ _ _)).trans (powers_updCmd _ _ _)

theorem powers_chargeLoad (s : State) : Powers s (chargeLoad s) := by
  unfold chargeLoad
  split
  · exact Powers.refl s
  · exact ((powers_updSched s _).trans (powers_addVTime _ _ _ _)).trans (powers_updSched _ _)

theorem powers_chargeAll (s : State) : Powers s (chargeAll s) := (powers_foldl powers_chargeCmd _ s).trans (powers_chargeLoad _)

theorem powers_inForce (s : State) (g : Nat) : Powers s (inForce s g) := by
  unfold inForce
  dsimp only
  split
  · split
    · exact (powers_chargeAll s).trans (powers_updDie _ _ _)
    · exact Powers.refl s
  · exact Powers.refl s

theorem powers_requestDivider (s : State) (g v : Nat) : Powers s (requestDivider s g v) := by
  unfold requestDivider
  split
  · exact Powers.refl s
  · exact (powers_updDie s g _).trans (powers_inForce _ g)

theorem powers_issueStep (s : State) (g target : Nat) (div : Option Nat) : Powers s (issueStep s g target div) := by
  unfold issueStep
  extract_lets d t
  split
  · exact Powers.refl s
  · split
    · exact Powers.refl s
    · exact (powers_updDie s g _).trans (powers_emit _ _)

theorem powers_pursue (s : State) (g : Nat) : Powers s (pursue s g) := by
  unfold pursue
  dsimp only
  split
  · exact Powers.refl s
  · split
    · exact powers_requestDivider s g _
    · split
      · exact powers_requestDivider s g _
      · exact powers_issueStep s g _ _

theorem powers_forceStep (s : State) (g : Nat) : Powers s (forceStep s g) := by
  unfold forceStep
  dsimp only
  split
  · exact Powers.refl s
  · exact ((powers_updPower s _).trans (powers_record _ _ _)).trans (powers_requestDivider _ g _)

theorem powers_applyPolicy (s : State) (p : Policy) : Powers s (applyPolicy s p) :=
  ((powers_updPower s _).trans (powers_foldl powers_forceStep _ _)).trans (powers_foldl powers_pursue _ _)

theorem powers_wakeDie (s : State) (g : Nat) : Powers s (wakeDie s g) := by
  unfold wakeDie
  split
  · exact Powers.refl s
  · dsimp only
    split
    · exact (powers_updDie s g _).trans (powers_updDie _ g _)
    · exact (powers_updDie s g _).trans (powers_issueStep _ g _ _)

theorem powers_wakeDies (s : State) : Powers s (wakeDies s) := powers_foldl powers_wakeDie _ s

end Sys2Proof.Machine
end

section
/-! PROOFS. Messages that read (R63, R80, R85, R91 to R96, R100, R102, R105). -/

namespace Sys2Proof.Machine

/-! ## A response -/

section
variable {s a : State} {f : Nat} {src : Src} {op : Nat} {m : MsgIn} {held : List Byte → Bool} {k : State → MsgCtx → State}

/-- A message whose handler responds over an effect `a` writes its response and is answered with ST_OK (R57). -/
theorem onMessage_responds {b res : List Byte} (hd : Head s f src op m) (fr : Fresh s) (hh : held m.bytes = false)
    (ha : a.mail = s.mail ∧ a.msgs = s.msgs ∧ a.nextMsg = s.nextMsg) (ho : s.out <+: a.out)
    (hk : k (startMsg s (ctxOf s f src m)) (ctxOf s f src m) =
      respond (startMsg a (ctxOf s f src m)) (ctxOf s f src m) b res) :
    ∃ t, onMessage s f src op held k = .next t ∧ Answered s t f src m .ok 0xFFFF res b.length ∧
      Rest f (hostWrite a f (le m.bytes 8 8) b) t :=
  answers hd fr hh ha (ho.trans (List.prefix_append _ _)) hk

end

/-! ## TELEMETRY_READ (R93) -/

theorem set2_startMsg (s : State) (x : MsgCtx) (p : Partition) : set2 (startMsg s x) p = set2 s p := by
  unfold set2
  rw [chargeAll_startMsg]
  rfl

theorem set1_startMsg (s : State) (x : MsgCtx) : set1 (startMsg s x) = set1 s := rfl

theorem set4_startMsg (s : State) (x : MsgCtx) : set4 (startMsg s x) = set4 s := rfl

theorem set5_startMsg (s : State) (x : MsgCtx) : set5 (startMsg s x) = set5 s := rfl

theorem set6Page_startMsg (s : State) (x : MsgCtx) (p c : Nat) : set6Page (startMsg s x) p c = set6Page s p c := rfl

theorem partOf_startMsg (s : State) (x : MsgCtx) (i : Nat) : partOf (startMsg s x) i = partOf s i := rfl

theorem contractOf_startMsg (s : State) (x : MsgCtx) (h : Nat) : contractOf (startMsg s x) h = contractOf s h := rfl

/-- A partition that the sender may name passes the check of the field that names it. -/
theorem ownPartCheck_of_part {s : State} {f i : Nat} {p : Partition} (hp : partOf s i = some p) (hown : f = 0 ∨ i = f) (off : Nat) :
    ownPartCheck s f i off = none := by
  refine failIf_of_false ?_ _ _
  rw [hp]
  rcases hown with h | h <;> simp [h]

/-- What a set of TELEMETRY_READ answers for a subject: the response and RESULT. -/
def setAnswer (s : State) (set subject cursor : Nat) : Option (List Byte × List Byte) :=
  match set with
  | 1 => some (set1 s, [])
  | 2 => (partOf s subject).map fun p => (set2 s p, [])
  | 3 => (contractOf s subject).map fun k => (set3 k, [])
  | 4 => some (set4 s, [])
  | 5 => some (set5 s, [])
  | 6 =>
    let e := set6Page s subject cursor
    some (e.1.flatMap ObjEntry.bytes, resultAt [(0, 4, e.1.length), (4, 4, e.2.1), (8, 8, e.2.2)])
  | _ => none

section
variable {s : State} {f : Nat} {src : Src} {m : MsgIn} {h : HostView}

/-- TELEMETRY_READ responds with what the set that it names answers, once the sender and the subject have passed their checks. -/
theorem telemetryRead_responds {b res : List Byte} (fr : Fresh s) (hd : Head s f src 0x0901 m)
    (hresp : respCheck s h f (setSize (le m.bytes 32 2)) m.bytes = none)
    (hpf : (decide (f ≠ 0) && (le m.bytes 32 2 == 1 || le m.bytes 32 2 == 4 || le m.bytes 32 2 == 5)) = false)
    (hsub : subjectCheck s f (le m.bytes 32 2) (le m.bytes 36 4) = none)
    (hset : setAnswer s (le m.bytes 32 2) (le m.bytes 36 4) (le m.bytes 40 8) = some (b, res)) :
    Responds (.telemetryRead f src h) s f src m s b res := by
  have hcheck : firstSome
      [failIf (decide (f ≠ 0) && (le m.bytes 32 2 == 1 || le m.bytes 32 2 == 4 || le m.bytes 32 2 == 5)) .pfOnly,
       respCheck s h f (setSize (le m.bytes 32 2)) m.bytes, subjectCheck s f (le m.bytes 32 2) (le m.bytes 36 4)] = none := by
    rw [failIf_of_false hpf, hresp, hsub]
    rfl
  rw [Responds, AnswersOver, exec_telemetryRead, execTelemetryRead]
  refine onMessage_responds hd fr rfl ⟨rfl, rfl, rfl⟩ (List.prefix_refl _) ((settle_of_none hcheck _).trans ?_)
  dsimp only
  rw [ctxOf_bytes, partOf_startMsg, contractOf_startMsg]
  generalize le m.bytes 32 2 = set at hset
  unfold setAnswer at hset
  split at hset
  · obtain ⟨rfl, rfl⟩ := Prod.mk.inj (Option.some.inj hset)
    simp only [set1_startMsg]
  · obtain ⟨p, hp, he⟩ := Option.map_eq_some_iff.1 hset
    obtain ⟨rfl, rfl⟩ := Prod.mk.inj he
    simp only [hp, set2_startMsg]
  · obtain ⟨k, hk, he⟩ := Option.map_eq_some_iff.1 hset
    obtain ⟨rfl, rfl⟩ := Prod.mk.inj he
    simp only [hk]
  · obtain ⟨rfl, rfl⟩ := Prod.mk.inj (Option.some.inj hset)
    simp only [set4_startMsg]
  · obtain ⟨rfl, rfl⟩ := Prod.mk.inj (Option.some.inj hset)
    simp only [set5_startMsg]
  · obtain ⟨rfl, rfl⟩ := Prod.mk.inj (Option.some.inj hset)
    simp only [set6Page_startMsg]
  · cases hset

end

/-- Settles O1: each set's clause is the answer of that set, whose subject has passed its check. -/
theorem telemetryReadAnswersTheSet : Obligations.TelemetryReadAnswersTheSet := by
  unfold Obligations.TelemetryReadAnswersTheSet
  intro s f src m h fr hd hresp
  refine ⟨fun hf => ⟨fun hset => ?_, fun hset => ?_, fun hset => ?_⟩, fun p hp hown => ⟨fun hset => ?_, fun hset => ?_⟩, fun k hk hown hset => ?_⟩
  · exact telemetryRead_responds fr hd hresp (by simp [hf]) (by rw [hset]; rfl) (by rw [hset, setAnswer])
  · exact telemetryRead_responds fr hd hresp (by simp [hf]) (by rw [hset]; rfl) (by rw [hset, setAnswer])
  · exact telemetryRead_responds fr hd hresp (by simp [hf]) (by rw [hset]; rfl) (by rw [hset, setAnswer])
  · exact telemetryRead_responds fr hd hresp (by simp [hset]) (by rw [hset]; exact ownPartCheck_of_part hp hown 36)
      (by rw [hset, setAnswer, hp, Option.map_some])
  · exact telemetryRead_responds fr hd hresp (by simp [hset]) (by rw [hset]; exact ownPartCheck_of_part hp hown 36)
      (by rw [hset, setAnswer])
  · have hsub : subjectCheck s f 3 (le m.bytes 36 4) = none := failIf_of_false (by simp [hk, hown]) _ _
    exact telemetryRead_responds fr hd hresp (by simp [hset]) (by rw [hset, hsub]) (by rw [hset, setAnswer, hk, Option.map_some])

end Sys2Proof.Machine
end

section
/-! PROOFS. The other messages that read (R63, R80, R85, R91, R92, R94, R96, R100, R102, R105). -/

namespace Sys2Proof.Machine

section
variable {s : State} {f : Nat} {src : Src} {m : MsgIn} {h : HostView}

theorem powerPolicyGet_answers (fr : Fresh s) (hd : Head s f src 0x0B02 m) :
    AnswersOver (.powerPolicyGet f src) s f src m s .ok
      (policyBytes s.power.policy ++ (List.range 4).flatMap fun g => leBytes 1 (dieOf s g).div) 0 := by
  rw [AnswersOver, exec_powerPolicyGet, execPowerPolicyGet]
  exact answers hd fr rfl ⟨rfl, rfl, rfl⟩ (List.prefix_refl _) rfl

theorem accountRead_responds (fr : Fresh s) (hd : Head s f src 0x0902 m) (hresp : respCheck s h f 8192 m.bytes = none)
    (hown : ownPartCheck s f (namedPart f (byteAt m.bytes 32)) 32 = none) :
    let es := (chargeAll s).sched.accounts.filter fun a => a.owner == namedPart f (byteAt m.bytes 32)
    Responds (.accountRead f src h) s f src m s (es.flatMap accountEntry) (resultAt [(0, 4, es.length)]) := by
  have hcheck : firstSome [respCheck s h f 8192 m.bytes, ownPartCheck s f (namedPart f (byteAt m.bytes 32)) 32] = none := by
    rw [hresp, hown]
    rfl
  rw [Responds, AnswersOver, exec_accountRead, execAccountRead]
  refine onMessage_responds hd fr rfl ⟨rfl, rfl, rfl⟩ (List.prefix_refl _) ((settle_of_none hcheck _).trans ?_)
  simp only [chargeAll_startMsg, ctxOf_bytes]
  rfl

theorem partitionQuery_responds (fr : Fresh s) (hd : Head s f src 0x0104 m) (hresp : respCheck s h f 128 m.bytes = none)
    {p : Partition} (hp : partOf s (namedPart f (byteAt m.bytes 32)) = some p)
    (hown : ownPartCheck s f (namedPart f (byteAt m.bytes 32)) 32 = none) :
    Responds (.partitionQuery f src h) s f src m s (partitionInfo s p) [] := by
  have hcheck : firstSome [respCheck s h f 128 m.bytes, ownPartCheck s f (namedPart f (byteAt m.bytes 32)) 32] = none := by
    rw [hresp, hown]
    rfl
  rw [Responds, AnswersOver, exec_partitionQuery, execPartitionQuery]
  refine onMessage_responds hd fr rfl ⟨rfl, rfl, rfl⟩ (List.prefix_refl _) ((settle_of_none hcheck _).trans ?_)
  simp only [partOf_startMsg, ctxOf_bytes, hp]
  rfl

theorem safetySelftestRead_responds (fr : Fresh s) (hd : Head s f src 0x0A01 m) (hresp : respCheck s h f 8192 m.bytes = none) :
    Responds (.safetySelftestRead f src h) s f src m s (selftestBytes s) (resultAt [(0, 4, 476)]) := by
  rw [Responds, AnswersOver, exec_safetySelftestRead, execSafetySelftestRead]
  exact onMessage_responds hd fr rfl ⟨rfl, rfl, rfl⟩ (List.prefix_refl _) (settle_of_none hresp _)

theorem amberRead_responds (fr : Fresh s) (hd : Head s f src 0x0C01 m)
    (hresp : respCheck s h f (64 * le m.bytes 36 4) m.bytes = none) :
    let rs := readRecords s.amber (byteAt m.bytes 32) (le m.bytes 40 8) (le m.bytes 36 4)
    Responds (.amberRead f src h) s f src m s (rs.flatMap fun e => recordBytes e.2)
      (resultAt [(0, 4, rs.length), (4, 4, (rs.filter fun e => decide (e.2.damaged ≠ none)).length),
        (8, 8, continueSeq s (byteAt m.bytes 32) (le m.bytes 40 8) rs),
        (16, 8, oldestSeq s.amber (byteAt m.bytes 32)), (24, 1, bit s.amber.full)]) := by
  rw [Nat.mul_comm] at hresp
  rw [Responds, AnswersOver, exec_amberRead, execAmberRead]
  exact onMessage_responds hd fr rfl ⟨rfl, rfl, rfl⟩ (List.prefix_refl _) (settle_of_none hresp _)

theorem attestMeasurements_responds (fr : Fresh s) (hd : Head s f src 0x0D03 m) (hresp : respCheck s h f 8192 m.bytes = none) :
    Responds (.attestMeasurements f src h) s f src m s (measurementLog s) [] := by
  rw [Responds, AnswersOver, exec_attestMeasurements, execAttestMeasurements]
  exact onMessage_responds hd fr rfl ⟨rfl, rfl, rfl⟩ (List.prefix_refl _) (settle_of_none hresp _)

theorem indexQuery_answers (fr : Fresh s) (hd : Head s f src 0x0408 m) {i : Index} (hi : readIndex s f (le m.bytes 32 4) = some i) :
    AnswersOver (.indexQuery f src) s f src m s .ok (indexInfo i) 0 := by
  have hread (x : MsgCtx) : readIndex (startMsg s x) f (le m.bytes 32 4) = some i := hi
  rw [AnswersOver, exec_indexQuery, execIndexQuery]
  refine answers hd fr rfl ⟨rfl, rfl, rfl⟩ (List.prefix_refl _) ?_
  simp only [ctxOf_bytes, hread]
  rfl

theorem cairnQuery_answers (fr : Fresh s) (hd : Head s f src 0x0705 m) (hspan : le m.bytes 32 4 + le m.bytes 36 4 ≤ 131072)
    (hnums : ∀ n ∈ cairnNums m.bytes, (hostCairn s f n).isSome = true) :
    AnswersOver (.cairnQuery f src) s f src m s .ok
      ((cairnNums m.bytes).flatMap fun n => leBytes 4 (((cairnOf s n).map CairnRec.val).getD 0)) 0 := by
  have hspan : cairnSpan m.bytes = none := failIf_of_false (decide_eq_false (Nat.not_lt.2 hspan)) _ _
  have hall : ((cairnNums m.bytes).any fun n => (hostCairn s f n).isNone) = false :=
    List.any_eq_false.2 fun n hn => by simp [Option.isSome_iff_ne_none.1 (hnums n hn)]
  have hcheck : firstSome [cairnSpan m.bytes, failIf ((cairnNums m.bytes).any fun n => (hostCairn s f n).isNone) .badReference 32] = none := by
    rw [hspan, failIf_of_false hall]
    rfl
  rw [AnswersOver, exec_cairnQuery, execCairnQuery]
  exact answers hd fr rfl ⟨rfl, rfl, rfl⟩ (List.prefix_refl _) (settle_of_none hcheck _)

theorem contractQueryProof_responds (fr : Fresh s) (hd : Head s f src 0x0502 m) (hresp : respCheck s h f 4096 m.bytes = none)
    {k : Contract} (hk : ownContract s f (le m.bytes 32 4) = some k) :
    Responds (.contractQueryProof f src h) s f src m (bumpFree s)
      (summaryBytes s k.rcd k.pf (standingProof k) k.divider k.stageCairns.length (powerSum (s.contracts.filter isOpen)) s.free)
      (proofResult k.handle k.divider (standingProof k)) := by
  have hown (x : MsgCtx) : ownContract (startMsg s x) f (le m.bytes 32 4) = some k := hk
  have hcheck : firstSome [respCheck s h f 4096 m.bytes, withRef (ownContract s f (le m.bytes 32 4)) 32 fun _ => none] = none := by
    rw [hresp, withRef_some hk]
    rfl
  rw [Responds, AnswersOver, exec_contractQueryProof, execContractQueryProof]
  refine onMessage_responds hd fr rfl ⟨rfl, rfl, rfl⟩ (List.prefix_refl _) ((settle_of_none hcheck _).trans ?_)
  simp only [ctxOf_bytes, hown]
  rfl

theorem caseQuery_responds (fr : Fresh s) (hd : Head s f src 0x0603 m)
    (hresp : respCheck s h f (32 * le m.bytes 40 4) m.bytes = none) (hany : anyContract s f (le m.bytes 32 4) 32 = none) :
    let live := s.cases.filter fun c => c.hd.owner == f && (le m.bytes 32 4 == 0 || c.hd.contract == le m.bytes 32 4)
    let sorted := sortBy (fun a b => decide (a.hd.startTs < b.hd.startTs)) live
    let out := (sorted.drop (le m.bytes 36 4)).take (le m.bytes 40 4)
    Responds (.caseQuery f src h) s f src m s (out.flatMap caseEntry) (resultAt [(0, 4, out.length), (4, 4, live.length)]) := by
  have hcheck : firstSome [respCheck s h f (32 * le m.bytes 40 4) m.bytes, anyContract s f (le m.bytes 32 4) 32] = none := by
    rw [hresp, hany]
    rfl
  rw [Responds, AnswersOver, exec_caseQuery, execCaseQuery]
  exact onMessage_responds hd fr rfl ⟨rfl, rfl, rfl⟩ (List.prefix_refl _) (settle_of_none hcheck _)

end

/-- Settles O2: every read passes its checks on the state before it starts, and answers from that state. -/
theorem readsAnswerAndChangeNothing : Obligations.ReadsAnswerAndChangeNothing := by
  unfold Obligations.ReadsAnswerAndChangeNothing
  refine ⟨fun s f src m h fr => ⟨powerPolicyGet_answers fr, fun hd hresp p hp hown => ?_, fun hd hresp p hp hown => ?_,
      safetySelftestRead_responds fr, amberRead_responds fr, attestMeasurements_responds fr,
      fun hd i hi => indexQuery_answers fr hd hi, cairnQuery_answers fr⟩,
    fun s f src m h k fr hd hresp hk => contractQueryProof_responds fr hd hresp hk,
    fun s f src m h fr hd hresp hany => caseQuery_responds fr hd hresp hany⟩
  · exact accountRead_responds fr hd hresp (ownPartCheck_of_part hp hown 32)
  · exact partitionQuery_responds fr hd hresp hp (ownPartCheck_of_part hp hown 32)

end Sys2Proof.Machine
end

section
/-! PROOFS. Partitions (R59 to R62): they are created, set and suspended. -/

namespace Sys2Proof.Machine

/-- What a start leaves of the mailboxes comes from the mailboxes alone. -/
theorem startMsg_mail_congr {a s : State} (h : a.mail = s.mail) (x : MsgCtx) : (startMsg a x).mail = (startMsg s x).mail := by
  simp only [startMsg, updMb, h]

theorem startMsg_out (s : State) (x : MsgCtx) : (startMsg s x).out = s.out := rfl

section
variable {s : State} {f : Nat} {src : Src} {m : MsgIn}

/-- A message that is answered over an effect of which the partitions' events tell (R406). -/
theorem onMessage_answersEvents {a : State} {op p ts act : Nat} {res : List Byte} {held : List Byte → Bool} {k : State → MsgCtx → State}
    (hd : Head s f src op m) (fr : Fresh s) (hh : held m.bytes = false)
    (ha : a.mail = s.mail ∧ a.msgs = s.msgs ∧ a.nextMsg = s.nextMsg ∧ a.out = s.out)
    (hk : k (startMsg s (ctxOf s f src m)) (ctxOf s f src m) =
      complete (postPartition (startMsg a (ctxOf s f src m)) p ts act) s.nextMsg .ok 0xFFFF res 0) :
    ∃ t, onMessage s f src op held k = .next t ∧ Answered s t f src m .ok 0xFFFF res 0 ∧ RestEvents a t := by
  obtain ⟨hmail, hmsgs, hnext, hout⟩ := ha
  have hmsgs' : (startMsg a (ctxOf s f src m)).msgs = (startMsg s (ctxOf s f src m)).msgs := by
    rw [startMsg_msgs, startMsg_msgs, hmsgs]
  have hnext' : (startMsg a (ctxOf s f src m)).nextMsg = (startMsg s (ctxOf s f src m)).nextMsg := by
    rw [startMsg_nextMsg, startMsg_nextMsg, hnext]
  have hstart : KeepsPath (startMsg s (ctxOf s f src m)) (startMsg a (ctxOf s f src m)) :=
    keepsPath_of_eq (startMsg_mail_congr hmail _) hmsgs' hnext' (by rw [startMsg_out, startMsg_out, hout])
  obtain ⟨t, ht, hans, hrest⟩ := onMessage_answers hd fr hh hk (hstart.trans (keepsPath_postPartition _ _ _ _))
  exact ⟨t, ht, hans, (restEvents_startMsg a _).trans ((restEvents_of_posts (posts_postPartition _ _ _ _)).trans (restEvents_of_rest hrest))⟩

theorem failIf_of_true_not {c : Bool} (hc : c = true) (st : Status) (off : Nat) : failIf (!c) st off = none :=
  failIf_of_false (by rw [hc]; rfl) st off

theorem createPartition_startMsg (s : State) (x : MsgCtx) (i : Nat) (c : PartCfg) :
    let key := if c.encrypt then some (Config.freeDWord s.free).toNat else none
    createPartition (startMsg s x) i c = postPartition (startMsg
      { s with parts := s.parts ++ [{ id := i, cfg := c, suspended := false, key := key, stats := PartStats.zero }]
               free := if c.encrypt then s.free + 1 else s.free } x) i (givenTiers c) 1 := by
  unfold createPartition
  cases c.encrypt <;> rfl

/-- PARTITION_CREATE (R59, R60). -/
theorem partitionCreate_answers {i a : Nat} (fr : Fresh s) (hd : Head s f src 0x0101 m) (hbind : bindTo s (byteAt m.bytes 32) = some i)
    (hrun : cairnRun s (le m.bytes 56 4) = some a) (hpages : pagesFit s i (newCfg m.bytes a) = true)
    (hshares : sharesFit s i (newCfg m.bytes a) = true) :
    let c := newCfg m.bytes a
    let key := if c.encrypt then some (Config.freeDWord s.free).toNat else none
    AnswersEvents (.partitionCreate f src) s f src m
      { s with parts := s.parts ++ [{ id := i, cfg := c, suspended := false, key := key, stats := PartStats.zero }]
               free := if c.encrypt then s.free + 1 else s.free }
      .ok (resultAt [(0, 1, i), (4, 4, a), (8, 4, le m.bytes 56 4)]) := by
  intro c key
  have hcheck : firstSome
      [failIf ((bindTo s (byteAt m.bytes 32)).isNone && byteAt m.bytes 32 != 255) .badReference 32,
       failIf (bindTo s (byteAt m.bytes 32)).isNone .partitionLimit, failIf (!pagesFit s i c) .quotaPages,
       failIf (!sharesFit s i c) .quotaBandwidth, failIf (cairnRun s (le m.bytes 56 4)).isNone .cairnExhausted] = none := by
    rw [hbind, hrun, failIf_of_true_not hpages, failIf_of_true_not hshares]
    rfl
  have hfirst : newCfg m.bytes ((cairnRun s (le m.bytes 56 4)).getD 0) = c := by rw [hrun, Option.getD_some]
  have hi : (bindTo s (byteAt m.bytes 32)).getD 33 = i := by rw [hbind, Option.getD_some]
  rw [AnswersEvents, exec_partitionCreate, execPartitionCreate]
  refine onMessage_answersEvents (p := i) (ts := givenTiers c) (act := 1) hd fr rfl ⟨rfl, rfl, rfl, rfl⟩ ?_
  have hbind' (x : MsgCtx) : bindTo (startMsg s x) (byteAt m.bytes 32) = bindTo s (byteAt m.bytes 32) := rfl
  have hrun' (x : MsgCtx) : cairnRun (startMsg s x) (le m.bytes 56 4) = cairnRun s (le m.bytes 56 4) := rfl
  simp only [ctxOf_bytes, hbind', hrun', hfirst, hi]
  refine (settle_of_none hcheck _).trans ?_
  rw [createPartition_startMsg]
  rfl

/-- PARTITION_SET_QUOTA (R61). -/
theorem partitionSetQuota_answers {p : Partition} (fr : Fresh s) (hd : Head s f src 0x0102 m) (hp : partOf s (byteAt m.bytes 32) = some p)
    (hused1 : (usedPages s (byteAt m.bytes 32)).1 ≤ (quotaOf m.bytes p.cfg).t1Pages)
    (hused2 : (usedPages s (byteAt m.bytes 32)).2 ≤ (quotaOf m.bytes p.cfg).t2Pages)
    (hpages : pagesFit s (byteAt m.bytes 32) (quotaOf m.bytes p.cfg) = true)
    (hshares : sharesFit s (byteAt m.bytes 32) (quotaOf m.bytes p.cfg) = true)
    (hslots1 : (slotsReserved s (byteAt m.bytes 32)).1 ≤ slotsOf (quotaOf m.bytes p.cfg).t1Bw)
    (hslots2 : (slotsReserved s (byteAt m.bytes 32)).2 ≤ slotsOf (quotaOf m.bytes p.cfg).t2Bw)
    (hlevel : ∀ k ∈ s.contracts, k.owner = byteAt m.bytes 32 → isOpen k = true → (quotaOf m.bytes p.cfg).levelMax ≤ k.rcd.terms.level) :
    AnswersEvents (.partitionSetQuota f src) s f src m
      (updPart s (byteAt m.bytes 32) fun q => { q with cfg := quotaOf m.bytes p.cfg }) .ok [] := by
  have hopen : (s.contracts.any fun k => k.owner == byteAt m.bytes 32 && isOpen k &&
      decide (k.rcd.terms.level < (quotaOf m.bytes p.cfg).levelMax)) = false := by
    refine List.any_eq_false.2 fun k hk => ?_
    simp only [Bool.and_eq_true, beq_iff_eq, decide_eq_true_eq, not_and, Nat.not_lt, and_imp]
    exact hlevel k hk
  have hcheck : firstSome
      [failIf ((partOf s (byteAt m.bytes 32)).map Partition.cfg).isNone .badReference 32,
       failIf (decide ((quotaOf m.bytes p.cfg).t1Pages < (usedPages s (byteAt m.bytes 32)).1 ∨
         (quotaOf m.bytes p.cfg).t2Pages < (usedPages s (byteAt m.bytes 32)).2)) .quotaPages,
       failIf (!pagesFit s (byteAt m.bytes 32) (quotaOf m.bytes p.cfg)) .quotaPages,
       failIf (!sharesFit s (byteAt m.bytes 32) (quotaOf m.bytes p.cfg)) .quotaBandwidth,
       failIf (decide (slotsOf (quotaOf m.bytes p.cfg).t1Bw < (slotsReserved s (byteAt m.bytes 32)).1 ∨
         slotsOf (quotaOf m.bytes p.cfg).t2Bw < (slotsReserved s (byteAt m.bytes 32)).2)) .inUseByContract,
       failIf (s.contracts.any fun k => k.owner == byteAt m.bytes 32 && isOpen k &&
         decide (k.rcd.terms.level < (quotaOf m.bytes p.cfg).levelMax)) .inUseByContract] = none := by
    rw [hp, failIf_of_true_not hpages, failIf_of_true_not hshares, failIf_of_false hopen,
      failIf_of_false (decide_eq_false (not_or.2 ⟨Nat.not_lt.2 hused1, Nat.not_lt.2 hused2⟩)),
      failIf_of_false (decide_eq_false (not_or.2 ⟨Nat.not_lt.2 hslots1, Nat.not_lt.2 hslots2⟩))]
    rfl
  have hcfg (x : MsgCtx) : (partOf (startMsg s x) (byteAt m.bytes 32)).map Partition.cfg = some p.cfg := by
    rw [partOf_startMsg, hp, Option.map_some]
  rw [hp] at hcheck
  rw [AnswersEvents, exec_partitionSetQuota, execPartitionSetQuota]
  refine onMessage_answersEvents (p := byteAt m.bytes 32) (ts := changedTiers p.cfg (quotaOf m.bytes p.cfg)) (act := 2)
    hd fr rfl ⟨rfl, rfl, rfl, rfl⟩ ?_
  simp only [ctxOf_bytes, hcfg, Option.getD_some]
  exact settle_of_none hcheck _

section
variable {p : Partition} (fr : Fresh s) (hd : Head s f src 0x0103 m) (hp : partOf s (byteAt m.bytes 32) = some p)
  (hheld : controlHeld s m.bytes = false) (hact : byteAt m.bytes 33 ≠ 3)
include fr hd hp hheld hact

/-- PARTITION_CONTROL that suspends a suspended partition, or resumes another, changes nothing (R62). -/
theorem partitionControl_answers_same (hsame : p.suspended = (byteAt m.bytes 33 == 1)) :
    AnswersOver (.partitionControl f src) s f src m s .okNoChange [] 0 := by
  rw [AnswersOver, exec_partitionControl, execPartitionControl]
  refine answers hd fr hheld ⟨rfl, rfl, rfl⟩ (List.prefix_refl _) ?_
  simp only [ctxOf_bytes, partOf_startMsg, hp, if_pos hsame]
  rfl

/-- PARTITION_CONTROL suspends and resumes (R62). -/
theorem partitionControl_answers_change (hdiff : p.suspended ≠ (byteAt m.bytes 33 == 1)) :
    AnswersEvents (.partitionControl f src) s f src m
      (updPart s (byteAt m.bytes 32) fun p => { p with suspended := byteAt m.bytes 33 == 1 }) .ok [] := by
  rw [AnswersEvents, exec_partitionControl, execPartitionControl]
  refine onMessage_answersEvents (p := byteAt m.bytes 32) (ts := 0) (act := if byteAt m.bytes 33 == 1 then 3 else 4)
    hd fr hheld ⟨rfl, rfl, rfl, rfl⟩ ?_
  simp only [ctxOf_bytes, partOf_startMsg, hp, if_neg hdiff]
  rfl

end

end

/-- Settles O3: the messages pass their checks, change the partition alone, and tell of it by events. -/
theorem partitionsAreManaged : Obligations.PartitionsAreManaged := by
  unfold Obligations.PartitionsAreManaged
  refine ⟨fun s f src m i a fr hd hbind hrun => partitionCreate_answers fr hd hbind hrun,
    fun s f src m p fr hd hp => partitionSetQuota_answers fr hd hp, fun s f src m p fr hd hp hheld hact => ?_⟩
  have hact : byteAt m.bytes 33 ≠ 3 := by omega
  exact ⟨partitionControl_answers_same fr hd hp hheld hact, partitionControl_answers_change fr hd hp hheld hact⟩

end Sys2Proof.Machine
end

section
/-! PROOFS. Models, tables and prefixes (R64 to R71, R81, R82): loads run in the background, and objects are moved and removed. -/

namespace Sys2Proof.Machine

/-! ## What a handle names -/

theorem modelOf_of_ownModel {s : State} {f h : Nat} {k : Model} (hk : ownModel s f h = some k) : modelOf s h = some k :=
  (Option.filter_eq_some_iff.1 hk).1

theorem modelOf_of_readModel {s : State} {f h : Nat} {k : Model} (hk : readModel s f h = some k) : modelOf s h = some k :=
  (Option.filter_eq_some_iff.1 hk).1

theorem tableOf_of_ownTable {s : State} {f h : Nat} {t : Table} (ht : ownTable s f h = some t) : tableOf s h = some t :=
  (Option.filter_eq_some_iff.1 ht).1

theorem handle_of_modelOf {s : State} {h : Nat} {k : Model} (hk : modelOf s h = some k) : k.handle = h := by
  simpa using List.find?_some hk

theorem handle_of_tableOf {s : State} {h : Nat} {t : Table} (ht : tableOf s h = some t) : t.handle = h := by
  simpa using List.find?_some ht

theorem handle_of_pfxOf {s : State} {h : Nat} {p : Pfx} (hp : pfxOf s h = some p) : p.handle = h := by
  simpa using List.find?_some hp

theorem tableOf_hostRead (s : State) (f addr len h : Nat) : tableOf (hostRead s f addr len) h = tableOf s h := rfl

theorem modelOf_hostRead (s : State) (f addr len h : Nat) : modelOf (hostRead s f addr len) h = modelOf s h := rfl

theorem tableOf_startMsg (s : State) (x : MsgCtx) (h : Nat) : tableOf (startMsg s x) h = tableOf s h := rfl

theorem modelOf_startMsg (s : State) (x : MsgCtx) (h : Nat) : modelOf (startMsg s x) h = modelOf s h := rfl

/-- A new command touches the scheduler alone. -/
theorem addCmd_path (s : State) (v : Serves) (o l st d a : Nat) (k : Bool) (us : List UnitId) :
    (addCmd s v o l st d a k us).mail = s.mail ∧ (addCmd s v o l st d a k us).msgs = s.msgs ∧
      (addCmd s v o l st d a k us).nextMsg = s.nextMsg := by
  rw [addCmd_frame]
  exact ⟨rfl, rfl, rfl⟩

theorem failStruct_isSome_of_none {o : Option Nat} (ho : o = none) (st : Status) (at' off : Nat) : failStruct o.isSome st at' off = none := by
  rw [ho]
  rfl

/-! ## Loads (R64, R70, R81) -/

section
variable {s : State} {f : Nat} {src : Src} {m : MsgIn} {h : HostView}

/-- A message that begins BACKGROUND work stays open over it (R56). -/
theorem onMessage_beginsBg {a : State} {op : Nat} {held : List Byte → Bool} {k : State → MsgCtx → State} {kind : BgKind} {t1 t2 : Nat}
    (hd : Head s f src op m) (fr : Fresh s) (hh : held m.bytes = false) (ha : a.mail = s.mail ∧ a.msgs = s.msgs ∧ a.nextMsg = s.nextMsg)
    (hk : k (startMsg s (ctxOf s f src m)) (ctxOf s f src m) = startBg (startMsg a (ctxOf s f src m)) (ctxOf s f src m) kind t1 t2) :
    ∃ t, onMessage s f src op held k = .next t ∧ StaysOpen s t f src m ∧ Rest f (beginBg a f kind t1 t2) t := by
  obtain ⟨hmail, hmsgs, hnext⟩ := ha
  obtain ⟨cmail, cmsgs, cnext⟩ := addCmd_path a (.bg a.nextBg) f 3 0 0 a.tclk false []
  have hid : (ctxOf s f src m).id = a.nextMsg := hnext.symm
  refine stays_open hd fr hh ⟨cmail.trans hmail, cmsgs.trans hmsgs, cnext.trans hnext⟩ (hk.trans ?_)
  rw [startBg_startMsg, startBg, beginBg, hid]
  rfl

theorem modelLoad_opens {img : ModelImage} (fr : Fresh s) (hd : Head s f src 0x0201 m)
    (haddr : addrCheck s h f false (le m.bytes 32 8) (le m.bytes 40 8) 32 = none)
    (hmodel : ∀ x at', x.f = f → x.bytes = m.bytes → modelChecks s x img at' = none) :
    let pin := bitOf (byteAt m.bytes 49) 0
    let home := tierOfByte (byteAt m.bytes 48)
    let p := modelPages (newModel 0 f false pin home img)
    OpensOver (.modelLoad f src h (.data img)) s f src m
      (beginBg (hostRead (bumpFree s) f (le m.bytes 32 8) (le m.bytes 40 8)) f (.modelLoad img home pin (bitOf (byteAt m.bytes 49) 1)) p.1 p.2) := by
  have hread : firstSome [addrCheck s h f false (le m.bytes 32 8) (le m.bytes 40 8) 32, readFailed (.data img)] = none := by
    rw [haddr]
    rfl
  have hmodel := hmodel (ctxOf s f src m) (Config.freeWord s.free).toNat rfl rfl
  rw [OpensOver, exec_modelLoad, execModelLoad]
  refine onMessage_beginsBg hd fr rfl ⟨rfl, rfl, rfl⟩ ?_
  exact (settleRead_of_none hread _).trans (settle_of_none hmodel _)

theorem tableLoad_opens {b : List Byte} {t : Table} (fr : Fresh s) (hd : Head s f src 0x0302 m) (hheld : tableHeld s m.bytes = false)
    (haddr : addrCheck s h f false (le m.bytes 48 8) (le m.bytes 56 8) 48 = none) (ht : ownTable s f (le m.bytes 32 4) = some t)
    (hhere : t.unavailable = false) (hkind : t.kind ≠ 2) (hrows : le m.bytes 36 4 + le m.bytes 40 4 ≤ t.nrows)
    (hlen : le m.bytes 40 4 * rowBytes t.format t.dim ≤ le m.bytes 56 8) (huse : inUse s t.handle = false)
    (hbad : badInRows t.format t.dim 0 (cutRows (rowBytes t.format t.dim) b (le m.bytes 40 4)) = none) :
    OpensOver (.tableLoad f src h (.data b)) s f src m
      (beginBg (hostRead s f (le m.bytes 48 8) (le m.bytes 56 8)) f
        (.tableLoad t.handle (le m.bytes 36 4) (cutRows (rowBytes t.format t.dim) b (le m.bytes 40 4))) 0 0) := by
  have hof := tableOf_of_ownTable ht
  have hhandle := handle_of_tableOf hof
  rw [hhandle] at huse ⊢
  have htable : firstSome
      [failIf t.unavailable .tierUnavailable, failIf (t.kind == 2) .badReference 32,
       failIf (decide (t.nrows < le m.bytes 36 4 + le m.bytes 40 4)) .lenExceedsBuffer 36,
       failIf (decide (le m.bytes 56 8 < le m.bytes 40 4 * rowBytes t.format t.dim)) .lenExceedsBuffer 40,
       failIf (inUse s (le m.bytes 32 4)) .inUseByContract] = none := by
    rw [hhere, failIf_of_false (beq_eq_false_iff_ne.2 hkind), failIf_of_false (decide_eq_false (Nat.not_lt.2 hrows)),
      failIf_of_false (decide_eq_false (Nat.not_lt.2 hlen)), huse]
    rfl
  have hread : firstSome
      [addrCheck s h f false (le m.bytes 48 8) (le m.bytes 56 8) 48,
       withRef (ownTable s f (le m.bytes 32 4)) 32 fun t => firstSome
         [failIf t.unavailable .tierUnavailable, failIf (t.kind == 2) .badReference 32,
          failIf (decide (t.nrows < le m.bytes 36 4 + le m.bytes 40 4)) .lenExceedsBuffer 36,
          failIf (decide (le m.bytes 56 8 < le m.bytes 40 4 * rowBytes t.format t.dim)) .lenExceedsBuffer 40,
          failIf (inUse s (le m.bytes 32 4)) .inUseByContract],
       readFailed (.data b)] = none := by
    rw [haddr, withRef_some ht, htable]
    rfl
  rw [OpensOver, exec_tableLoad, execTableLoad]
  refine onMessage_beginsBg hd fr hheld ⟨rfl, rfl, rfl⟩ ?_
  refine (settleRead_of_none hread _).trans ?_
  simp only [ctxOf_bytes, tableOf_hostRead, tableOf_startMsg, hof]
  exact settle_of_none (failStruct_isSome_of_none hbad _ _ _) _

theorem prefixRegister_opens {b : List Byte} {k : Model} (fr : Fresh s) (hd : Head s f src 0x0801 m)
    (hlen : le m.bytes 36 4 * 4 ≤ le m.bytes 48 4) (haddr : addrCheck s h f false (le m.bytes 40 8) (le m.bytes 48 4) 40 = none)
    (hk : readModel s f (le m.bytes 32 4) = some k) (hrole : k.img.role = .generator) (hkv : k.img.gen.hasKv = true)
    (hhere : k.unavailable = false) (hgroup : (headGroup k.img.shape (byteAt m.bytes 52)).isSome = true) (hcount : pfxCount s < 256)
    (hfits : fitsQuota s f (kvPages k.img.shape (byteAt m.bytes 52) (le m.bytes 36 4)) 0 = true)
    (hbad : badToken k.img.vocab (tokensOf b (le m.bytes 36 4)) = none) :
    let pages := kvPages k.img.shape (byteAt m.bytes 52) (le m.bytes 36 4)
    let a := hostRead s f (le m.bytes 40 8) (le m.bytes 48 4)
    OpensOver (.prefixRegister f src h (.data b)) s f src m
      (beginBg (if s.boot.state = .doze then wakeDies a else a) f
        (.prefixRegister k.handle (tokensOf b (le m.bytes 36 4)) (byteAt m.bytes 52) pages (bitOf (byteAt m.bytes 53) 0)) pages 0) := by
  intro pages a
  have hof := modelOf_of_readModel hk
  have hmodel : firstSome
      [failIf (k.img.role != .generator || !k.img.gen.hasKv) .badReference 32, failIf k.unavailable .tierUnavailable,
       failIf (headGroup k.img.shape (byteAt m.bytes 52)).isNone .fieldRange 52] = none := by
    rw [hrole, hkv, hhere, ← Option.not_isSome, hgroup]
    rfl
  have hread : firstSome
      [failIf (decide (le m.bytes 48 4 < le m.bytes 36 4 * 4)) .lenExceedsBuffer 36,
       addrCheck s h f false (le m.bytes 40 8) (le m.bytes 48 4) 40,
       withRef (readModel s f (le m.bytes 32 4)) 32 fun m' => firstSome
         [failIf (m'.img.role != .generator || !m'.img.gen.hasKv) .badReference 32, failIf m'.unavailable .tierUnavailable,
          failIf (headGroup m'.img.shape (byteAt m.bytes 52)).isNone .fieldRange 52],
       failIf (decide (256 ≤ pfxCount s)) .prefixLimit, failIf (!fitsQuota s f pages 0) .quotaPages, readFailed (.data b)] = none := by
    rw [failIf_of_false (decide_eq_false (Nat.not_lt.2 hlen)), haddr, withRef_some hk, hmodel,
      failIf_of_false (decide_eq_false (Nat.not_le.2 hcount)), failIf_of_true_not hfits]
    rfl
  have hwoken : (if s.boot.state = .doze then wakeDies a else a).mail = s.mail ∧
      (if s.boot.state = .doze then wakeDies a else a).msgs = s.msgs ∧
      (if s.boot.state = .doze then wakeDies a else a).nextMsg = s.nextMsg := by
    split
    · rw [(powers_wakeDies a).1]
      exact ⟨rfl, rfl, rfl⟩
    · exact ⟨rfl, rfl, rfl⟩
  rw [OpensOver, exec_prefixRegister, execPrefixRegister]
  refine onMessage_beginsBg hd fr rfl hwoken ?_
  simp only [ctxOf_bytes, modelOf_startMsg, hof, Option.map_some]
  refine (settleRead_of_none hread _).trans ?_
  simp only [modelOf_hostRead, modelOf_startMsg, hof]
  refine (settle_of_none (failStruct_isSome_of_none hbad _ _ _) _).trans ?_
  rw [startMsg_ite, ← wakeDies_startMsg]
  rfl

end

/-- Settles O5: each load passes its checks before it starts, and begins BACKGROUND work over the host read. -/
theorem loadsRunInTheBackground : Obligations.LoadsRunInTheBackground := by
  unfold Obligations.LoadsRunInTheBackground
  intro s f src m h fr
  exact ⟨fun img hd haddr hmodel => modelLoad_opens fr hd haddr hmodel,
    fun b t hd hheld haddr ht hhere hkind hrows hlen huse hbad => tableLoad_opens fr hd hheld haddr ht hhere hkind hrows hlen huse hbad,
    fun b k hd hlen haddr hk hrole hkv hhere hgroup hcount hfits hbad =>
      prefixRegister_opens fr hd hlen haddr hk hrole hkv hhere hgroup hcount hfits hbad⟩

end Sys2Proof.Machine
end

section
/-! PROOFS. Objects are moved, removed and created (R66 to R73, R80, R82). -/

namespace Sys2Proof.Machine

theorem isNone_of_eq_some {α : Type} {o : Option α} {a : α} (ho : o = some a) : o.isNone = false := by
  rw [ho]
  rfl

section
variable {s : State} {f : Nat} {src : Src} {m : MsgIn}

/-! ## MODEL_PIN (R66) -/

section
variable {k : Model} (fr : Fresh s) (hd : Head s f src 0x0202 m) (hk : ownModel s f (le m.bytes 32 4) = some k) (hhere : k.unavailable = false)
include fr hd hk hhere

theorem modelPin_answers_same (hsame : k.home = .t1 ∨ k.pinned = (byteAt m.bytes 36 == 1)) :
    AnswersOver (.modelPin f src) s f src m s .okNoChange [] 0 := by
  have hk' (x : MsgCtx) : ownModel (startMsg s x) f (le m.bytes 32 4) = some k := hk
  rw [AnswersOver, exec_modelPin, execModelPin]
  refine answers hd fr rfl ⟨rfl, rfl, rfl⟩ (List.prefix_refl _) ?_
  simp only [ctxOf_bytes, hk', hhere, Bool.false_eq_true, if_false]
  exact if_pos hsame

theorem modelPin_answers_pin (hhome : k.home = .t2) (hpin : k.pinned = false) (hact : byteAt m.bytes 36 = 1)
    (hfits : fitsQuota s f (pagesOf k.img.weightBytes) 0 = true) :
    AnswersOver (.modelPin f src) s f src m (updModel s k.handle fun x => { x with pinned := true }) .ok [] 0 := by
  have hk' (x : MsgCtx) : ownModel (startMsg s x) f (le m.bytes 32 4) = some k := hk
  have hdiff : ¬(k.home = .t1 ∨ k.pinned = (byteAt m.bytes 36 == 1)) := by simp [hhome, hpin, hact]
  have hwant : (byteAt m.bytes 36 == 1) = true := by simp [hact]
  rw [handle_of_modelOf (modelOf_of_ownModel hk), AnswersOver, exec_modelPin, execModelPin]
  refine answers hd fr rfl ⟨rfl, rfl, rfl⟩ (List.prefix_refl _) ?_
  simp only [ctxOf_bytes, hk', hhere, Bool.false_eq_true, if_false]
  exact (if_neg hdiff).trans ((if_pos hwant).trans (settle_of_none (failIf_of_true_not hfits _ _) _))

theorem modelPin_answers_unpin (hhome : k.home = .t2) (hpin : k.pinned = true) (hact : byteAt m.bytes 36 = 2)
    (huse : residenceInUse s k.handle = false) :
    AnswersOver (.modelPin f src) s f src m (updModel s k.handle fun x => { x with pinned := false, unavailable := x.t2Lost }) .ok [] 0 := by
  have hk' (x : MsgCtx) : ownModel (startMsg s x) f (le m.bytes 32 4) = some k := hk
  have hdiff : ¬(k.home = .t1 ∨ k.pinned = (byteAt m.bytes 36 == 1)) := by simp [hhome, hpin, hact]
  have hwant : ¬(byteAt m.bytes 36 == 1) = true := by simp [hact]
  have hhandle := handle_of_modelOf (modelOf_of_ownModel hk)
  rw [hhandle] at huse ⊢
  rw [AnswersOver, exec_modelPin, execModelPin]
  refine answers hd fr rfl ⟨rfl, rfl, rfl⟩ (List.prefix_refl _) ?_
  simp only [ctxOf_bytes, hk', hhere, Bool.false_eq_true, if_false]
  exact (if_neg hdiff).trans ((if_neg hwant).trans (settle_of_none (failIf_of_false huse _ _) _))

end

/-! ## Removals (R67, R71, R80, R82) -/

theorem modelEvict_answers {k : Model} (fr : Fresh s) (hd : Head s f src 0x0203 m) (hheld : modelHeld s m.bytes = false)
    (hk : ownModel s f (le m.bytes 32 4) = some k) (huse : inUse s k.handle = false)
    (hpfxs : ∀ p ∈ s.pfxs, p.model = k.handle → inUse s p.handle = false) (hload : modelLoading s k.handle = false) :
    AnswersOver (.modelEvict f src) s f src m
      (unplace { s with models := s.models.filter fun x => x.handle != k.handle
                        pfxs := s.pfxs.filter fun p => p.model != k.handle }) .ok [] 0 := by
  have hhandle := handle_of_modelOf (modelOf_of_ownModel hk)
  rw [hhandle] at huse hpfxs hload ⊢
  have hnamed : (inUse s (le m.bytes 32 4) || s.pfxs.any fun p => p.model == le m.bytes 32 4 && inUse s p.handle) = false := by
    refine Bool.or_eq_false_iff.2 ⟨huse, List.any_eq_false.2 fun p hp => ?_⟩
    simp only [Bool.and_eq_true, beq_iff_eq, not_and, Bool.not_eq_true]
    exact hpfxs p hp
  have hcheck : firstSome
      [failIf (ownModel s f (le m.bytes 32 4)).isNone .badReference 32,
       failIf (inUse s (le m.bytes 32 4) || s.pfxs.any fun p => p.model == le m.bytes 32 4 && inUse s p.handle) .inUseByContract,
       failIf (modelLoading s (le m.bytes 32 4)) .busy] = none := by
    rw [isNone_of_eq_some hk, hnamed, hload]
    rfl
  rw [AnswersOver, exec_modelEvict, execModelEvict]
  exact answers hd fr hheld ⟨rfl, rfl, rfl⟩ (List.prefix_refl _) (settle_of_none hcheck _)

theorem tableDestroy_answers {k : Table} (fr : Fresh s) (hd : Head s f src 0x0303 m) (hheld : tableHeld s m.bytes = false)
    (hk : ownTable s f (le m.bytes 32 4) = some k) (huse : inUse s k.handle = false)
    (hparts : ∀ t ∈ s.tables, t.kind = 2 → t.partA ≠ k.handle ∧ t.partB ≠ k.handle) :
    AnswersOver (.tableDestroy f src) s f src m { s with tables := s.tables.filter fun t => t.handle != k.handle } .ok [] 0 := by
  have hhandle := handle_of_tableOf (tableOf_of_ownTable hk)
  rw [hhandle] at huse hparts ⊢
  have hpart : (s.tables.any fun t => t.kind == 2 && (t.partA == le m.bytes 32 4 || t.partB == le m.bytes 32 4)) = false := by
    refine List.any_eq_false.2 fun t ht => ?_
    simp only [Bool.and_eq_true, Bool.or_eq_true, beq_iff_eq, not_and, not_or]
    exact hparts t ht
  have hcheck : firstSome
      [failIf (ownTable s f (le m.bytes 32 4)).isNone .badReference 32, failIf (inUse s (le m.bytes 32 4)) .inUseByContract,
       failIf (s.tables.any fun t => t.kind == 2 && (t.partA == le m.bytes 32 4 || t.partB == le m.bytes 32 4)) .busy] = none := by
    rw [isNone_of_eq_some hk, hpart, huse]
    rfl
  rw [AnswersOver, exec_tableDestroy, execTableDestroy]
  exact answers hd fr hheld ⟨rfl, rfl, rfl⟩ (List.prefix_refl _) (settle_of_none hcheck _)

theorem prefixRelease_answers {k : Pfx} (fr : Fresh s) (hd : Head s f src 0x0802 m) (hk : ownPfx s f (le m.bytes 32 4) = some k)
    (huse : inUse s k.handle = false) :
    AnswersOver (.prefixRelease f src) s f src m
      (reapPfxs { s with pfxs := modifyWhere s.pfxs (fun p => p.handle == k.handle) fun p => { p with released := true } }) .ok [] 0 := by
  have hhandle := handle_of_pfxOf (Option.filter_eq_some_iff.1 hk).1
  rw [hhandle] at huse ⊢
  have hcheck : firstSome
      [failIf (ownPfx s f (le m.bytes 32 4)).isNone .badReference 32, failIf (inUse s (le m.bytes 32 4)) .inUseByContract] = none := by
    rw [isNone_of_eq_some hk, huse]
    rfl
  rw [AnswersOver, exec_prefixRelease, execPrefixRelease]
  exact answers hd fr rfl ⟨rfl, rfl, rfl⟩ (List.prefix_refl _) (settle_of_none hcheck _)

theorem indexDestroy_answers {k : Index} (fr : Fresh s) (hd : Head s f src 0x0407 m) (hk : ownIndex s f (le m.bytes 32 4) = some k)
    (huse : inUse s k.handle = false) (hshard : shardNames s k.handle = false) (hstate : k.state ≠ .settling)
    (hsnap : k.snapBusy = false) (hbulk : k.bulkBusy = false) :
    AnswersOver (.indexDestroy f src) s f src m { s with indexes := s.indexes.filter fun i => i.handle != k.handle } .ok [] 0 := by
  have hhandle := handle_of_indexOf (indexOf_of_ownIndex hk)
  rw [hhandle] at huse hshard ⊢
  have hcheck : withRef (ownIndex s f (le m.bytes 32 4)) 32 (fun i => firstSome
      [failIf (inUse s (le m.bytes 32 4) || shardNames s (le m.bytes 32 4)) .inUseByContract,
       failIf (decide (i.state = .settling) || i.snapBusy || i.bulkBusy) .busy]) = none := by
    rw [withRef_some hk, huse, hshard, hsnap, hbulk, decide_eq_false hstate]
    rfl
  rw [AnswersOver, exec_indexDestroy, execIndexDestroy]
  exact answers hd fr rfl ⟨rfl, rfl, rfl⟩ (List.prefix_refl _) (settle_of_none hcheck _)

/-! ## TABLE_CREATE and INDEX_CREATE (R68, R69, R72, R73) -/

/-- What is given no frames completes at once (R264). -/
theorem zeroThen_of_zero (s : State) (f id handle : Nat) (st : Status) (resp result : List Byte) :
    zeroThen s f id handle 0 0 st resp result = complete s id st 0xFFFF result resp.length := rfl

/-- Frames are zeroed as BACKGROUND work before the message completes (R264). -/
theorem zeroThen_of_pages {pages : Nat} (hp : pages ≠ 0) (s : State) (x : MsgCtx) (handle addr : Nat) (st : Status) (resp result : List Byte) :
    zeroThen s x.f x.id handle pages addr st resp result = startBg s x (.zero handle addr resp result) 0 0 := if_neg hp

section
variable (fr : Fresh s) (hd : Head s f src 0x0301 m)
  (hsize : (newTable s.nextHandle f m.bytes).kind = 2 ∨
    (newTable s.nextHandle f m.bytes).nrows * rowBytes (newTable s.nextHandle f m.bytes).format (newTable s.nextHandle f m.bytes).dim ≤
      34359738368)
  (hparts : composedChecks s f (newTable s.nextHandle f m.bytes) = none)
  (hfits : fitsQuota s f (tablePages (newTable s.nextHandle f m.bytes)) 0 = true)
include hsize hparts hfits

theorem tableCreate_checks :
    let t := newTable s.nextHandle f m.bytes
    firstSome [failIf (t.kind != 2 && decide (34359738368 < t.nrows * rowBytes t.format t.dim)) .productRange 32,
      composedChecks s f t, failIf (!fitsQuota s f (tablePages t) 0) .quotaPages] = none := by
  intro t
  have hlarge : (t.kind != 2 && decide (34359738368 < t.nrows * rowBytes t.format t.dim)) = false := by
    rcases hsize with h | h
    · rw [show t.kind = 2 from h]
      rfl
    · rw [decide_eq_false (Nat.not_lt.2 h), Bool.and_false]
  rw [failIf_of_false hlarge, hparts, failIf_of_true_not hfits]
  rfl

include fr hd

theorem tableCreate_answers (hnone : tablePages (newTable s.nextHandle f m.bytes) = 0) :
    let t := newTable s.nextHandle f m.bytes
    AnswersOver (.tableCreate f src) s f src m { s with tables := s.tables ++ [t], nextHandle := s.nextHandle + 1 } .ok
      (resultAt [(0, 4, s.nextHandle), (4, 4, tablePages t)]) 0 := by
  intro t
  have hcheck := tableCreate_checks hsize hparts hfits
  rw [AnswersOver, exec_tableCreate, execTableCreate]
  refine answers hd fr rfl ⟨rfl, rfl, rfl⟩ (List.prefix_refl _) ((settle_of_none hcheck _).trans ?_)
  have hzero : tablePages t = 0 := hnone
  dsimp only
  rw [show newTable (startMsg s (ctxOf s f src m)).nextHandle f (ctxOf s f src m).bytes = t from rfl, hzero]
  exact zeroThen_of_zero _ _ _ _ _ _ _

theorem tableCreate_opens (hsome : tablePages (newTable s.nextHandle f m.bytes) ≠ 0) :
    let t := newTable s.nextHandle f m.bytes
    OpensOver (.tableCreate f src) s f src m
      (beginBg { s with tables := s.tables ++ [t], nextHandle := s.nextHandle + 1 } f
        (.zero s.nextHandle 0 [] (resultAt [(0, 4, s.nextHandle), (4, 4, tablePages t)])) 0 0) := by
  intro t
  have hcheck := tableCreate_checks hsize hparts hfits
  rw [OpensOver, exec_tableCreate, execTableCreate]
  refine onMessage_beginsBg hd fr rfl ⟨rfl, rfl, rfl⟩ ((settle_of_none hcheck _).trans ?_)
  exact zeroThen_of_pages hsome _ (ctxOf s f src m) _ _ _ _ _

end

/-- An index always takes frames: two pages of its own beside its directory and its lists (R267). -/
theorem indexFixedPages_ne_zero (c : IndexCfg) : (indexFixedPages c).1 + (indexFixedPages c).2 ≠ 0 := by
  rw [indexFixedPages]
  dsimp only
  omega

theorem indexCreate_opens (fr : Fresh s) (hd : Head s f src 0x0401 m)
    (hsize : (indexCfgOf m.bytes).maxEntries * ((indexCfgOf m.bytes).codeBytes + 1) ≤ productMax s) (hcount : s.indexes.length < 16)
    (hfits : fitsQuota s f (indexFixedPages (indexCfgOf m.bytes)).1 (indexFixedPages (indexCfgOf m.bytes)).2 = true)
    (haccepts : s.mem.t2.accepts = true) :
    let c := indexCfgOf m.bytes
    let p := indexFixedPages c
    OpensOver (.indexCreate f src) s f src m
      (beginBg
        { s with indexes := s.indexes ++ [newIndex s.nextHandle f (bitOf (byteAt m.bytes 38) 0) c], nextHandle := s.nextHandle + 1 } f
        (.zero s.nextHandle 0 [] (resultAt [(0, 4, s.nextHandle), (4, 4, p.1), (8, 4, p.2)])) 0 0) := by
  intro c p
  have htier : tierOpen s p.2 = none := failIf_of_false (by rw [haccepts, Bool.not_true, Bool.and_false]) _ _
  have hcheck : firstSome
      [failIf (decide (productMax s < c.maxEntries * (c.codeBytes + 1))) .productRange 48,
       failIf (decide (16 ≤ s.indexes.length)) .indexLimit, failIf (!fitsQuota s f p.1 p.2) .quotaPages, tierOpen s p.2] = none := by
    rw [failIf_of_false (decide_eq_false (Nat.not_lt.2 hsize)), failIf_of_false (decide_eq_false (Nat.not_le.2 hcount)),
      failIf_of_true_not hfits, htier]
    rfl
  rw [OpensOver, exec_indexCreate, execIndexCreate]
  refine onMessage_beginsBg hd fr rfl ⟨rfl, rfl, rfl⟩ ((settle_of_none hcheck _).trans ?_)
  exact zeroThen_of_pages (indexFixedPages_ne_zero c) _ (ctxOf s f src m) _ _ _ _ _

end

/-- Settles O6: each message passes its checks and answers over the one object that it moves or removes. -/
theorem objectsAreMovedAndRemoved : Obligations.ObjectsAreMovedAndRemoved := by
  unfold Obligations.ObjectsAreMovedAndRemoved
  refine ⟨fun s f src m k fr hd hk hhere => ?_, fun s f src m fr => ?_⟩
  · exact ⟨modelPin_answers_same fr hd hk hhere, modelPin_answers_pin fr hd hk hhere, modelPin_answers_unpin fr hd hk hhere⟩
  · exact ⟨fun k => modelEvict_answers fr, fun k => tableDestroy_answers fr, fun k => prefixRelease_answers fr, fun k => indexDestroy_answers fr⟩

/-- Settles O7: what is given frames zeroes them before it answers, and a composed table is given none. -/
theorem createsRegisterUnderANewHandle : Obligations.CreatesRegisterUnderANewHandle := by
  unfold Obligations.CreatesRegisterUnderANewHandle
  intro s f src m fr
  refine ⟨fun hd hsize hparts hfits => ?_, fun hd hsize hcount hfits haccepts => indexCreate_opens fr hd hsize hcount hfits haccepts⟩
  exact ⟨tableCreate_answers fr hd hsize hparts hfits, tableCreate_opens fr hd hsize hparts hfits⟩

end Sys2Proof.Machine
end

section
/-! PROOFS. Indexes (R74 to R80): records join the scree, and loads, settles and snapshots run in the background. -/

namespace Sys2Proof.Machine

/-! ## The scree (R76, R77, R181) -/

/-- The records join in order, each with the next SEQ. -/
theorem appendScree_getElem? (x : Index) {rs : List ScreeRec} {k : Nat} {r : ScreeRec} (hr : rs[k]? = some r) :
    (appendScree x rs).scree[x.scree.length + k]? = some { r with seq := x.nextSeq + k } := by
  obtain ⟨hk, hrk⟩ := List.getElem?_eq_some_iff.1 hr
  rw [appendScree, List.getElem?_append_right (Nat.le_add_right _ _), Nat.add_sub_cancel_left, List.getElem?_zipWith,
    List.getElem?_range hk, hr]

theorem appendScree_frame (x : Index) (rs : List ScreeRec) :
    appendScree x rs = { x with scree := (appendScree x rs).scree, nextSeq := x.nextSeq + rs.length } := rfl

theorem scree_prefix_appendScree (x : Index) (rs : List ScreeRec) : x.scree <+: (appendScree x rs).scree := List.prefix_append _ _

/-! ## INDEX_INSERT and INDEX_DELETE -/

section
variable {s : State} {f : Nat} {src : Src} {m : MsgIn} {h : HostView} {b : List Byte} {i : Index}

section
variable (hi : ownIndex s f (le m.bytes 32 4) = some i) (hstate : i.state = .live ∨ i.state = .settling)
  (hroom : i.scree.length + le m.bytes 36 4 ≤ screeMax)
include hi hstate hroom

/-- The checks that both messages share pass for an index that serves, with room in its scree. -/
theorem recordChecks_of_serving {lengths : IndexCfg → Check} (hl : lengths i.cfg = none) : recordChecks s f m.bytes lengths = none := by
  have hserving : stateRefusal i [.live, .settling] = none := by
    rcases hstate with he | he <;> exact failIf_of_false (by rw [he]; rfl) _ _
  rw [recordChecks, withRef_some hi, hserving, hl, failIf_of_false (decide_eq_false (Nat.not_lt.2 hroom))]
  rfl

variable (fr : Fresh s) (haddr : addrCheck s h f false (le m.bytes 40 8) (le m.bytes 48 8) 40 = none)
include fr haddr

theorem indexInsert_answers (hd : Head s f src 0x0403 m) (hlen : le m.bytes 36 4 * slotBytes i.cfg.codeBytes ≤ le m.bytes 48 8)
    (hmax : mainEntries i.lists + liveInserts i.scree + le m.bytes 36 4 ≤ i.cfg.maxEntries)
    (hrecs : ∀ k < le m.bytes 36 4, insertCheck i.cfg b k = none) :
    AnswersOver (.indexInsert f src h (.data b)) s f src m
      (updIndex (hostRead s f (le m.bytes 40 8) (le m.bytes 48 8)) i.handle fun x =>
        appendScree x ((List.range (le m.bytes 36 4)).map (insertRec i.cfg.codeBytes b))) .ok [] 0 := by
  have hix := indexOf_of_ownIndex hi
  have hcheck : firstSome
      [addrCheck s h f false (le m.bytes 40 8) (le m.bytes 48 8) 40,
       recordChecks s f m.bytes fun c => recordLengths m.bytes (slotBytes c.codeBytes),
       withRef (some i) 32 fun i =>
         failIf (decide (i.cfg.maxEntries < mainEntries i.lists + liveInserts i.scree + le m.bytes 36 4)) .lenExceedsBuffer 36,
       readFailed (.data b)] = none := by
    rw [haddr, recordChecks_of_serving hi hstate hroom (recordLengths_of_le hlen), withRef,
      failIf_of_false (decide_eq_false (Nat.not_lt.2 hmax))]
    rfl
  have hbad : firstSome ((List.range (le m.bytes 36 4)).map (insertCheck i.cfg b)) = none :=
    firstSome_eq_none fun a ha => by
      obtain ⟨k, hk, rfl⟩ := List.mem_map.1 ha
      exact hrecs k (List.mem_range.1 hk)
  rw [handle_of_indexOf hix, AnswersOver, exec_indexInsert, execIndexInsert]
  refine answers hd fr rfl ⟨rfl, rfl, rfl⟩ (List.prefix_append _ _) ?_
  simp only [ctxOf_bytes, ctxOf_id, addrCheck_startMsg, recordChecks_startMsg, indexOf_startMsg, hix]
  refine (settleRead_of_none hcheck _).trans ?_
  simp only [ctxOf_f, hostRead_startMsg, indexOf_startMsg, indexOf_hostRead, updIndex_startMsg, hix, settle, hbad]

theorem indexDelete_answers (hd : Head s f src 0x0404 m) (hlen : le m.bytes 36 4 * 8 ≤ le m.bytes 48 8)
    (hids : ∀ k < le m.bytes 36 4, le b (8 * k) 8 ≠ noId) :
    AnswersOver (.indexDelete f src h (.data b)) s f src m
      (updIndex (hostRead s f (le m.bytes 40 8) (le m.bytes 48 8)) i.handle fun x =>
        appendScree x ((List.range (le m.bytes 36 4)).map (deleteRec i.cfg.codeBytes b))) .ok [] 0 := by
  have hix := indexOf_of_ownIndex hi
  have hcheck : firstSome
      [recordLengths m.bytes 8, addrCheck s h f false (le m.bytes 40 8) (le m.bytes 48 8) 40,
       recordChecks s f m.bytes fun _ => none, readFailed (.data b)] = none := by
    rw [haddr, recordChecks_of_serving hi hstate hroom rfl, recordLengths_of_le hlen]
    rfl
  have hbad : firstSome ((List.range (le m.bytes 36 4)).map fun k =>
      failStruct (le b (8 * k) 8 == noId) .fieldRange (8 * k) 40) = none :=
    firstSome_eq_none fun a ha => by
      obtain ⟨k, hk, rfl⟩ := List.mem_map.1 ha
      rw [beq_eq_false_iff_ne.2 (hids k (List.mem_range.1 hk))]
      rfl
  rw [handle_of_indexOf hix, AnswersOver, exec_indexDelete, execIndexDelete]
  refine answers hd fr rfl ⟨rfl, rfl, rfl⟩ (List.prefix_append _ _) ?_
  simp only [ctxOf_bytes, ctxOf_f, ctxOf_id, addrCheck_startMsg, recordChecks_startMsg, settleRead_of_none hcheck,
    hostRead_startMsg, indexOf_startMsg, indexOf_hostRead, updIndex_startMsg, hix, settle, hbad]

end

/-! ## Background work on an index (R75, R78, R79, R187) -/

theorem bulkHeld_of_idle {b : List Byte} (hi : indexOf s (le b 32 4) = some i) (hidle : i.bulkBusy = false) : bulkHeld s b = false := by
  rw [bulkHeld, hi]
  exact hidle

theorem indexBulkLoad_opens (fr : Fresh s) (hd : Head s f src 0x0402 m)
    (haddr : addrCheck s h f false (le m.bytes 40 8) (le m.bytes 48 8) 40 = none) (hi : ownIndex s f (le m.bytes 32 4) = some i)
    (hidle : i.bulkBusy = false) (hstate : i.state = .empty ∨ i.state = .loading) (hsegs : le m.bytes 36 2 = i.segs)
    (hseg : segmentCheck s i (bitOf (byteAt m.bytes 38) 0) (readBytes b (le m.bytes 48 8)) = none) :
    let seg := readBytes b (le m.bytes 48 8)
    let a := hostRead s f (le m.bytes 40 8) (le m.bytes 48 8)
    OpensOver (.indexBulkLoad f src h (.data b)) s f src m
      (beginBg (updIndex a i.handle fun x => { x with bulkBusy := true }) f
        (.bulkLoad i.handle seg (bitOf (byteAt m.bytes 38) 0)) 0 (if i.segs = 0 then headerPages (headerAt seg) else 0)) := by
  intro seg a
  have hix := indexOf_of_ownIndex hi
  have hopen : stateRefusal i [.empty, .loading] = none := by
    rcases hstate with he | he <;> exact failIf_of_false (by rw [he]; rfl) _ _
  have hcheck : firstSome
      [addrCheck s h f false (le m.bytes 40 8) (le m.bytes 48 8) 40,
       withRef (ownIndex s f (le m.bytes 32 4)) 32 fun i => firstSome
         [stateRefusal i [.empty, .loading], failIf (le m.bytes 36 2 != i.segs) .fieldRange 36],
       readFailed (.data b)] = none := by
    rw [haddr, withRef_some hi, hopen, hsegs, bne_self_eq_false]
    rfl
  rw [handle_of_indexOf hix, OpensOver, exec_indexBulkLoad, execIndexBulkLoad]
  refine onMessage_beginsBg hd fr (bulkHeld_of_idle hix hidle) ⟨rfl, rfl, rfl⟩ ((settleRead_of_none hcheck _).trans ?_)
  simp only [ctxOf_bytes, indexOf_hostRead, indexOf_startMsg, hix]
  exact settle_of_none hseg _

section
variable (fr : Fresh s) (hd : Head s f src 0x0405 m) (hi : ownIndex s f (le m.bytes 32 4) = some i) (hlive : i.state = .live)
include fr hd hi hlive

/-- A settle that folds nothing answers at once (R78). -/
theorem indexSettle_answers (hnone : (fold i (settlePoint s i)).folded = 0) :
    AnswersOver (.indexSettle f src) s f src m s .okNoChange (settleResult i.gen 0 i.scree.length) 0 := by
  have hcheck : withRef (ownIndex s f (le m.bytes 32 4)) 32 (fun i => stateRefusal i [.live]) = none := by
    rw [withRef_some hi]
    exact failIf_of_false (by rw [hlive]; rfl) _ _
  rw [AnswersOver, exec_indexSettle, execIndexSettle]
  refine answers hd fr rfl ⟨rfl, rfl, rfl⟩ (List.prefix_refl _) ((settle_of_none hcheck _).trans ?_)
  simp only [ctxOf_bytes, indexOf_startMsg, indexOf_of_ownIndex hi]
  exact if_pos hnone

theorem indexSettle_opens (hsome : (fold i (settlePoint s i)).folded ≠ 0) :
    let p := settlePoint s i
    OpensOver (.indexSettle f src) s f src m
      (beginBg (updIndex s i.handle fun x => { x with state := .settling }) f (.settle i.handle p) 0 (foldPages i (fold i p))) := by
  intro p
  have hix := indexOf_of_ownIndex hi
  have hcheck : withRef (ownIndex s f (le m.bytes 32 4)) 32 (fun i => stateRefusal i [.live]) = none := by
    rw [withRef_some hi]
    exact failIf_of_false (by rw [hlive]; rfl) _ _
  rw [handle_of_indexOf hix, OpensOver, exec_indexSettle, execIndexSettle]
  refine onMessage_beginsBg hd fr rfl ⟨rfl, rfl, rfl⟩ ((settle_of_none hcheck _).trans ?_)
  simp only [ctxOf_bytes, indexOf_startMsg, hix]
  exact if_neg hsome

end

theorem indexSnapshot_opens (fr : Fresh s) (hd : Head s f src 0x0406 m)
    (haddr : addrCheck s h f true (le m.bytes 40 8) (le m.bytes 48 8) 40 = none) (hi : readIndex s f (le m.bytes 32 4) = some i)
    (hstate : i.state = .live ∨ i.state = .settling) (hidle : i.snapBusy = false) (hsize : snapSize i ≤ le m.bytes 48 8) :
    OpensOver (.indexSnapshot f src h) s f src m
      (beginBg (updIndex s i.handle fun x => { x with snapBusy := true }) f
        (.snapshot i.handle (le m.bytes 40 8) i.gen (i.nextSeq - 1) (snapSize i)) 0 0) := by
  have hix : indexOf s (le m.bytes 32 4) = some i := (Option.filter_eq_some_iff.1 hi).1
  have hserving : decide (i.state = .unavailable) = false ∧ stateRefusal i [.live, .settling] = none := by
    rcases hstate with he | he <;> rw [stateRefusal, he] <;> exact ⟨rfl, rfl⟩
  obtain ⟨hhere, hserving⟩ := hserving
  have hcheck : firstSome
      [addrCheck s h f true (le m.bytes 40 8) (le m.bytes 48 8) 40,
       withRef (readIndex s f (le m.bytes 32 4)) 32 fun i => firstSome
         [failIf (decide (i.state = .unavailable)) .tierUnavailable, stateRefusal i [.live, .settling], failIf i.snapBusy .busy,
          failIf (decide (le m.bytes 48 8 < snapSize i)) .lenExceedsBuffer 48]] = none := by
    rw [haddr, withRef_some hi, hhere, hserving, hidle, failIf_of_false (decide_eq_false (Nat.not_lt.2 hsize))]
    rfl
  rw [handle_of_indexOf hix, OpensOver, exec_indexSnapshot, execIndexSnapshot]
  refine onMessage_beginsBg hd fr rfl ⟨rfl, rfl, rfl⟩ ((settle_of_none hcheck _).trans ?_)
  simp only [ctxOf_bytes, indexOf_startMsg, hix]
  rfl

end

/-- Settles O8: the records join the scree in order, and each message answers over that one change. -/
theorem screeGrowsByConsecutiveSeqs : Obligations.ScreeGrowsByConsecutiveSeqs := by
  unfold Obligations.ScreeGrowsByConsecutiveSeqs
  refine ⟨fun x rs => ?_, fun s f src m h b i fr hi hstate haddr hroom => ?_⟩
  · exact ⟨appendScree_frame x rs, appendScree_length x rs, scree_prefix_appendScree x rs, fun k r => appendScree_getElem? x⟩
  · exact ⟨fun hd => indexInsert_answers hi hstate hroom fr haddr hd, fun hd => indexDelete_answers hi hstate hroom fr haddr hd⟩

/-- Settles O9: each message passes its checks on the index that it names, and begins BACKGROUND work on it. -/
theorem indexWorkRunsInTheBackground : Obligations.IndexWorkRunsInTheBackground := by
  unfold Obligations.IndexWorkRunsInTheBackground
  intro s f src m h fr
  refine ⟨fun d i hd haddr hi => indexBulkLoad_opens fr hd haddr hi, fun i hd hi hlive => ?_,
    fun i hd haddr hi => indexSnapshot_opens fr hd haddr hi⟩
  exact ⟨indexSettle_answers fr hd hi hlive, indexSettle_opens fr hd hi hlive⟩

end Sys2Proof.Machine
end

section
/-! PROOFS. Host cairns and armed waits (R92, R144 to R148). -/

namespace Sys2Proof.Machine

theorem cairnOf_of_hostCairn {s : State} {f n : Nat} {c : CairnRec} (hc : hostCairn s f n = some c) : cairnOf s n = some c :=
  (Option.filter_eq_some_iff.1 (Option.filter_eq_some_iff.1 hc).1).1

theorem ownCairn_of_hostCairn {s : State} {f n : Nat} {c : CairnRec} (hc : hostCairn s f n = some c) : ownCairn s f n = some c :=
  (Option.filter_eq_some_iff.1 hc).1

theorem host_of_hostCairn {s : State} {f n : Nat} {c : CairnRec} (hc : hostCairn s f n = some c) : c.st = .host :=
  of_decide_eq_true (Option.filter_eq_some_iff.1 hc).2

theorem num_of_cairnOf {s : State} {n : Nat} {c : CairnRec} (hc : cairnOf s n = some c) : c.num = n := by
  simpa using List.find?_some hc

section
variable {s : State} {f : Nat} {src : Src} {m : MsgIn}

theorem cairnAlloc_answers {p : Partition} {a : Nat} (fr : Fresh s) (hd : Head s f src 0x0701 m) (hp : partOf s f = some p)
    (ha : freeRun s p (le m.bytes 32 4) = some a) :
    let new := (List.range (le m.bytes 32 4)).map fun i =>
      ({ num := a + i, st := .host, val := le m.bytes 36 4, copy := le m.bytes 36 4, run := s.nextRun } : CairnRec)
    AnswersOver (.cairnAlloc f src) s f src m { s with cairns := s.cairns ++ new, nextRun := s.nextRun + 1 } .ok
      (resultAt [(0, 4, a), (4, 4, le m.bytes 32 4)]) 0 := by
  intro new
  have hrun (x : MsgCtx) : ((partOf (startMsg s x) f).bind fun p => freeRun (startMsg s x) p (le m.bytes 32 4)) = some a := by
    rw [partOf_startMsg, hp, Option.bind_some]
    exact ha
  rw [AnswersOver, exec_cairnAlloc, execCairnAlloc]
  refine answers hd fr rfl ⟨rfl, rfl, rfl⟩ (List.prefix_refl _) ?_
  simp only [ctxOf_bytes, hrun]
  exact settle_of_none (failIf_of_false rfl _ _) _

theorem cairnFree_answers (fr : Fresh s) (hd : Head s f src 0x0702 m) (hspan : le m.bytes 32 4 + le m.bytes 36 4 ≤ 131072)
    (hnums : ∀ n ∈ cairnNums m.bytes, (hostCairn s f n).isSome = true ∧ cairnInUse s n = false)
    (hwaits : ∀ w ∈ s.waits, w.cairn ∉ cairnNums m.bytes) :
    AnswersOver (.cairnFree f src) s f src m { s with cairns := s.cairns.filter fun c => !(cairnNums m.bytes).contains c.num } .ok [] 0 := by
  have hspan : cairnSpan m.bytes = none := failIf_of_false (decide_eq_false (Nat.not_lt.2 hspan)) _ _
  have hown : ((cairnNums m.bytes).any fun n => (ownCairn s f n).isNone) = false := by
    refine List.any_eq_false.2 fun n hn => ?_
    obtain ⟨hhost, -⟩ := hnums n hn
    obtain ⟨c, hc⟩ := Option.isSome_iff_exists.1 hhost
    rw [ownCairn_of_hostCairn hc]
    exact Bool.false_ne_true
  have hfree : ((cairnNums m.bytes).any fun n => ((cairnOf s n).any fun c => decide (c.st = .stage)) || cairnInUse s n) = false := by
    refine List.any_eq_false.2 fun n hn => ?_
    obtain ⟨hhost, huse⟩ := hnums n hn
    obtain ⟨c, hc⟩ := Option.isSome_iff_exists.1 hhost
    rw [cairnOf_of_hostCairn hc, huse, Option.any_some, host_of_hostCairn hc]
    decide
  have hidle : (s.waits.any fun w => (cairnNums m.bytes).contains w.cairn) = false := by
    refine List.any_eq_false.2 fun w hw => ?_
    rw [List.contains_iff_mem]
    exact hwaits w hw
  have hcheck : firstSome
      [cairnSpan m.bytes, failIf ((cairnNums m.bytes).any fun n => (ownCairn s f n).isNone) .badReference 32,
       failIf ((cairnNums m.bytes).any fun n => ((cairnOf s n).any fun c => decide (c.st = .stage)) || cairnInUse s n) .inUseByContract,
       failIf (s.waits.any fun w => (cairnNums m.bytes).contains w.cairn) .busy] = none := by
    rw [hspan, hown, hfree, hidle]
    rfl
  rw [AnswersOver, exec_cairnFree, execCairnFree]
  exact answers hd fr rfl ⟨rfl, rfl, rfl⟩ (List.prefix_refl _) (settle_of_none hcheck _)

theorem cairnSignal_answers {c : CairnRec} (fr : Fresh s) (hd : Head s f src 0x0703 m) (hc : hostCairn s f (le m.bytes 32 4) = some c)
    (hsum : c.val + le m.bytes 36 4 < 2 ^ 32) :
    AnswersOver (.cairnSignal f src) s f src m
      (updStats (setCairn s c.num (c.val + le m.bytes 36 4)) f fun p => { p with signalsHost := p.signalsHost + 1 }) .ok [] 0 := by
  have hof := cairnOf_of_hostCairn hc
  have hof' (x : MsgCtx) : cairnOf (startMsg s x) (le m.bytes 32 4) = some c := hof
  have hcheck : withRef (hostCairn s f (le m.bytes 32 4)) 32 (fun c => failIf (decide (2 ^ 32 ≤ c.val + le m.bytes 36 4)) .fieldRange 36) =
      none := by
    rw [withRef_some hc, failIf_of_false (decide_eq_false (Nat.not_le.2 hsum))]
  rw [num_of_cairnOf hof, AnswersOver, exec_cairnSignal, execCairnSignal]
  refine answers hd fr rfl ⟨rfl, rfl, rfl⟩ (List.prefix_refl _) ((settle_of_none hcheck _).trans ?_)
  simp only [ctxOf_bytes, hof']
  rfl

theorem cairnWaitArm_opens {c : CairnRec} (fr : Fresh s) (hd : Head s f src 0x0704 m) (hc : hostCairn s f (le m.bytes 32 4) = some c) :
    OpensOver (.cairnWaitArm f src) s f src m
      { s with waits := s.waits ++ [{ id := s.nextWait, owner := f, cairn := c.num, threshold := le m.bytes 36 4, msg := s.nextMsg,
                                      armTs := s.tclk, timeoutUs := le m.bytes 40 4 }]
               nextWait := s.nextWait + 1 } := by
  have hcheck : failIf (hostCairn s f (le m.bytes 32 4)).isNone .badReference 32 = none := failIf_of_false (isNone_of_eq_some hc) _ _
  rw [num_of_cairnOf (cairnOf_of_hostCairn hc), OpensOver, exec_cairnWaitArm, execCairnWaitArm]
  exact stays_open hd fr rfl ⟨rfl, rfl, rfl⟩ (settle_of_none hcheck _)

end

/-! ## The end of a wait (R148) -/

/-- Before its expiry a wait stays armed. -/
theorem cairnWaitTimeout_early {s : State} {w : WaitRec} (hw : s.waits.find? (fun x => x.id == w.id) = some w)
    (hearly : s.tclk ≤ w.armTs + 120 * w.timeoutUs) : exec (.cairnWaitTimeout w.id) s = .next s := by
  rw [exec_cairnWaitTimeout, execCairnWaitTimeout, hw]
  exact congrArg _ (if_pos hearly)

/-- A completion is sent where the message came over the inline ring, or its ring can be written. -/
theorem writeCompletion_sends {s : State} {m : OpenMsg} (h : m.src = .inl ∨ ((mbOf s m.f).cq.active = true ∧ cqWritable s m.f = true))
    (st : Status) (e b : Nat) (r : List Byte) :
    ∃ d, s.out ++ [Out.completion d] <+: (writeCompletion s m st e b r).out ∧ d.f = m.f ∧ d.tag = m.tag ∧ d.status = st ∧
      d.result = r.take 32 := by
  unfold writeCompletion
  dsimp only
  split
  · exact ⟨_, signalled (emit_updMb_out _ _ _ _) _, rfl, rfl, rfl, rfl⟩
  · rename_i hsrc
    rcases h with h | ⟨hactive, hwrite⟩
    · rw [hsrc] at h
      cases h
    · rw [hactive, hwrite]
      exact ⟨_, signalled ((advanceCq_out _ _).trans (emit_appends _ _)) _, rfl, rfl, rfl, rfl⟩

/-- What counts a partition's telemetry leaves its rings as writable as they were. -/
theorem cqWritable_updStats (s : State) (i f : Nat) (g : PartStats → PartStats) : cqWritable (updStats s i g) f = cqWritable s f := by
  obtain ⟨-, hpasid⟩ := retires_updStats s i g
  unfold cqWritable activePasid ringPasid
  rw [hpasid]
  rfl

/-- The state over which an expired wait completes: it is gone, counted, and its message is no longer open. -/
def afterWait (s : State) (w : WaitRec) : State :=
  { updStats { s with waits := s.waits.filter fun y => y.id != w.id } w.owner fun p => { p with waitTimeouts := p.waitTimeouts + 1 } with
    msgs := s.msgs.filter fun y => y.id != w.msg }

theorem cqWritable_afterWait (s : State) (w : WaitRec) (f : Nat) : cqWritable (afterWait s w) f = cqWritable s f :=
  cqWritable_updStats s w.owner f fun p => { p with waitTimeouts := p.waitTimeouts + 1 }

section
variable {s : State} {w : WaitRec} {m : OpenMsg} {c : CairnRec} (hlate : w.armTs + 120 * w.timeoutUs < s.tclk)
  (hw : s.waits.find? (fun x => x.id == w.id) = some w) (hm : s.msgs.find? (fun x => x.id == w.msg) = some m)
  (hc : cairnOf s w.cairn = some c)
include hlate hw hm hc

theorem exec_cairnWaitTimeout_late :
    exec (.cairnWaitTimeout w.id) s = .next (writeCompletion (afterWait s w) m .cairnTimeout 0xFFFF 0 (leBytes 4 c.val)) := by
  have hval : cairnVal s w.cairn = c.val := by
    rw [cairnVal, hc]
    rfl
  have hended : waitExpires { s with waits := s.waits.filter fun y => y.id != w.id } w =
      writeCompletion (afterWait s w) m .cairnTimeout 0xFFFF 0 (leBytes 4 c.val) := by
    rw [← hval, waitExpires]
    unfold complete
    simp only [updStats_msgs, hm]
    rfl
  rw [exec_cairnWaitTimeout, execCairnWaitTimeout, hw]
  exact congrArg _ ((if_neg (Nat.not_le.2 hlate)).trans hended)

/-- An expired wait ends with the value found, over the count of the partition that armed it. -/
theorem cairnWaitTimeout_ends (hsend : m.src = .inl ∨ ((mbOf s m.f).cq.active = true ∧ cqWritable s m.f = true)) :
    ∃ t, exec (.cairnWaitTimeout w.id) s = .next t ∧
      t.waits = s.waits.filter (fun y => y.id != w.id) ∧ t.cairns = s.cairns ∧ t.msgs = s.msgs.filter (fun y => y.id != w.msg) ∧
      ∃ d, Out.completion d ∈ newOut s t ∧ d.f = m.f ∧ d.tag = m.tag ∧ d.status = .cairnTimeout ∧ d.result = leBytes 4 c.val := by
  have hring : m.src = .inl ∨ ((mbOf (afterWait s w) m.f).cq.active = true ∧ cqWritable (afterWait s w) m.f = true) := by
    rw [cqWritable_afterWait]
    exact hsend
  obtain ⟨hmsgs, -⟩ := writeCompletion_msgs (afterWait s w) m .cairnTimeout 0xFFFF 0 (leBytes 4 c.val)
  obtain ⟨hframe, -⟩ := posts_writeCompletion (afterWait s w) m .cairnTimeout 0xFFFF 0 (leBytes 4 c.val)
  obtain ⟨d, hout, hf, htag, hst, hres⟩ := writeCompletion_sends hring .cairnTimeout 0xFFFF 0 (leBytes 4 c.val)
  refine ⟨_, exec_cairnWaitTimeout_late hlate hw hm hc, ?_, ?_, hmsgs, d, mem_newOut (List.prefix_refl _) hout, hf, htag, hst, ?_⟩
  · rw [hframe]
    rfl
  · rw [hframe]
    rfl
  · exact hres.trans (List.take_of_length_le (by simp [leBytes]))

end

/-- Settles O10: each message answers over the cairns or the wait that it changes, and an expired wait completes. -/
theorem hostCairnsWork : Obligations.HostCairnsWork := by
  unfold Obligations.HostCairnsWork
  refine ⟨fun s f src m p fr hp => ?_, fun s f src m c => cairnSignal_answers, fun s f src m c => cairnWaitArm_opens,
    fun s w => cairnWaitTimeout_early, fun s w m c hlate hw hm hsend hc => cairnWaitTimeout_ends hlate hw hm hc hsend⟩
  exact ⟨fun a hd ha => cairnAlloc_answers fr hd hp ha, cairnFree_answers fr⟩

end Sys2Proof.Machine
end

section
/-! PROOFS. POWER_POLICY_SET, FW_STAGE and FW_ACTIVATE (R99, R100, R103, R104). -/

namespace Sys2Proof.Machine

theorem keepsPath_of_powers {a b : State} (h : Powers a b) : KeepsPath a b := by
  obtain ⟨heq, hout⟩ := h
  exact keepsPath_of_eq (by rw [heq]) (by rw [heq]) (by rw [heq]) hout

section
variable {s : State} {f : Nat} {src : Src} {m : MsgIn}

/-- A policy that asks for no voltage below the load line and breaks no proof is in force at the answer. -/
theorem powerPolicySet_answers (fr : Fresh s) (hd : Head s f src 0x0B01 m)
    (hceil : ∀ g < 4, loadLineMv (policyOf m.bytes).minDiv ≤ (policyOf m.bytes).vceil.getD g 0)
    (hproofs : brokenBy (policyOf m.bytes) [] (openContracts s) = none) :
    ∃ t, exec (.powerPolicySet f src) s = .next t ∧ Answered s t f src m .ok 0xFFFF [] 0 ∧
      Rest f (applyPolicy (startMsg s (ctxOf s f src m)) (policyOf m.bytes)) t := by
  have hlow (g : Nat) (hg : g < 4) :
      failIf (decide ((policyOf m.bytes).vceil.getD g 0 < loadLineMv (policyOf m.bytes).minDiv)) .fieldRange (36 + 2 * g) = none :=
    failIf_of_false (decide_eq_false (Nat.not_lt.2 (hceil g hg))) _ _
  have hcheck : firstSome
      [failIf (decide ((policyOf m.bytes).vceil.getD 0 0 < loadLineMv (policyOf m.bytes).minDiv)) .fieldRange (36 + 2 * 0),
       failIf (decide ((policyOf m.bytes).vceil.getD 1 0 < loadLineMv (policyOf m.bytes).minDiv)) .fieldRange (36 + 2 * 1),
       failIf (decide ((policyOf m.bytes).vceil.getD 2 0 < loadLineMv (policyOf m.bytes).minDiv)) .fieldRange (36 + 2 * 2),
       failIf (decide ((policyOf m.bytes).vceil.getD 3 0 < loadLineMv (policyOf m.bytes).minDiv)) .fieldRange (36 + 2 * 3),
       (brokenBy (policyOf m.bytes) [] (openContracts s)).map fun k =>
         { st := .policyBreaksProof, off := 0xFFFF, result := resultAt [(0, 4, k.handle)] }] = none := by
    rw [hlow 0 (by decide), hlow 1 (by decide), hlow 2 (by decide), hlow 3 (by decide), hproofs]
    rfl
  rw [exec_powerPolicySet, execPowerPolicySet]
  exact onMessage_answers hd fr rfl (settle_of_none hcheck _) (keepsPath_of_powers (powers_applyPolicy _ _))

/-- A policy touches the power unit and the scheduler alone. -/
theorem powerPolicySet_takesForce (fr : Fresh s) (hd : Head s f src 0x0B01 m)
    (hceil : ∀ g < 4, loadLineMv (policyOf m.bytes).minDiv ≤ (policyOf m.bytes).vceil.getD g 0)
    (hproofs : brokenBy (policyOf m.bytes) [] (openContracts s) = none) :
    ∃ t, exec (.powerPolicySet f src) s = .next t ∧ Answered s t f src m .ok 0xFFFF [] 0 ∧ t.power.policy = policyOf m.bytes ∧
      t.contracts = s.contracts ∧ t.cases = s.cases ∧ t.parts = s.parts ∧ t.models = s.models ∧ t.boot = s.boot ∧
      t.safety = s.safety ∧ t.mem = s.mem := by
  obtain ⟨t, ht, hans, hrest, -⟩ := powerPolicySet_answers fr hd hceil hproofs
  obtain ⟨happlied, -⟩ := powers_applyPolicy (startMsg s (ctxOf s f src m)) (policyOf m.bytes)
  have hpolicy := applyPolicy_policy (startMsg s (ctxOf s f src m)) (policyOf m.bytes)
  generalize applyPolicy (startMsg s (ctxOf s f src m)) (policyOf m.bytes) = a at hrest happlied hpolicy
  rw [happlied] at hrest
  have hpower : t.power = a.power := by rw [hrest]
  refine ⟨t, ht, hans, by rw [hpower, hpolicy], ?_⟩
  rw [hrest]
  exact ⟨rfl, rfl, rfl, rfl, rfl, rfl, rfl⟩

/-- FW_STAGE (R103). -/
theorem fwStage_opens {h : HostView} (fr : Fresh s) (hd : Head s f src 0x0D01 m)
    (hheld : updateHeld s m.bytes = false) (hsb : s.boot.sbUpdate = false) (hlen : le m.bytes 32 4 + le m.bytes 36 4 ≤ 16777216)
    (haddr : addrCheck s h f false (le m.bytes 40 8) (le m.bytes 36 4) 40 = none) (d : List Byte) (ok : Bool) :
    let first := bitOf (byteAt m.bytes 48) 0
    let a := updBoot (hostRead s f (le m.bytes 40 8) (le m.bytes 36 4)) fun t => { t with pfUpdate := t.pfUpdate || first }
    OpensOver (.fwStage f src h (.data d) ok) s f src m
      (addBg a f (some s.nextMsg)
        (.fwStage (le m.bytes 32 4) (readBytes d (le m.bytes 36 4)) first (first && !s.boot.pfUpdate) ok) 0 0) := by
  have hcheck : firstSome
      [failIf (decide (16777216 < le m.bytes 32 4 + le m.bytes 36 4)) .lenExceedsBuffer 36,
       addrCheck s h f false (le m.bytes 40 8) (le m.bytes 36 4) 40, failIf s.boot.sbUpdate .updateInProgress,
       readFailed (.data d)] = none := by
    rw [failIf_of_false (decide_eq_false (Nat.not_lt.2 hlen)), haddr, failIf_of_false hsb]
    rfl
  rw [OpensOver, exec_fwStage, execFwStage]
  exact stays_open hd fr hheld ⟨rfl, rfl, rfl⟩ (settleRead_of_none hcheck _)

/-- FW_ACTIVATE (R104). -/
theorem fwActivate_opens (fr : Fresh s) (hd : Head s f src 0x0D02 m) (hheld : updateHeld s m.bytes = false) (hsb : s.boot.sbUpdate = false)
    (himg : imageChecks s (inactiveSlot s) (stagedImage s (le m.bytes 32 4)) = none) :
    OpensOver (.fwActivate f src) s f src m
      (addBg s f (some s.nextMsg) (.fwActivate (le m.bytes 32 4) (stagedImage s (le m.bytes 32 4))) 0 0) := by
  rw [OpensOver, exec_fwActivate, execFwActivate]
  refine stays_open hd fr hheld ⟨rfl, rfl, rfl⟩ ?_
  simp only [ctxOf_bytes, ctxOf_id, startMsg_boot, stagedImage_startMsg, inactiveSlot_startMsg, imageChecks_startMsg, himg,
    failIf_of_false hsb, firstSome, addBg_startMsg]

end

/-- Settles O17: a policy is applied over the power unit alone, and an update message begins its one operation. -/
theorem policyAndFirmwareMessagesTakeEffect : Obligations.PolicyAndFirmwareMessagesTakeEffect := by
  unfold Obligations.PolicyAndFirmwareMessagesTakeEffect
  refine ⟨fun s f src m fr hd => powerPolicySet_takesForce fr hd, fun s f src m fr hheld hsb => ⟨fun h d ok hd hlen haddr => ?_, fun hd => ?_⟩⟩
  · exact fwStage_opens fr hd hheld hsb hlen haddr d ok
  · exact fwActivate_opens fr hd hheld hsb

end Sys2Proof.Machine
end

section
/-! PROOFS. SAFETY_INJECT and SAFETY_FENCE (R96, R97, R341, R342, R346). -/

namespace Sys2Proof.Machine

section
variable {s A : State} {f : Nat} {src : Src} {m : MsgIn} {op : Nat} {held : List Byte → Bool} {k : State → MsgCtx → State}

/-- A message that its own checks refuse is answered with the check's status; nothing of its command happens (R34, R48). -/
theorem onMessage_rejects {r : Refuse} (hd : Head s f src op m) (fr : Fresh s) (hh : held m.bytes = false) (hop : op ≠ 0x0601)
    (hk : k (startMsg s (ctxOf s f src m)) (ctxOf s f src m) = reject (startMsg s (ctxOf s f src m)) (ctxOf s f src m) r) :
    ∃ t, onMessage s f src op held k = .next t ∧ Answered s t f src m r.st r.off r.result 0 ∧ Rest f s t := by
  obtain ⟨hkept, hout⟩ := refusalNoted_keeps s (ctxOf s f src m) r.st
  have hopcode : opcodeOf m = op := hd.2.2.1
  have hnoted : k (startMsg s (ctxOf s f src m)) (ctxOf s f src m) =
      complete (startMsg (refusalNoted s (ctxOf s f src m) r.st) (ctxOf s f src m)) s.nextMsg r.st r.off r.result := by
    rw [hk, reject_eq, refusalNoted_startMsg]
    rfl
  obtain ⟨t, ht, hans, hrest⟩ := answers hd fr hh hkept (hout ▸ List.prefix_refl _) hnoted
  exact ⟨t, ht, hans, Rest.trans (rest_refusalNoted (x := ctxOf s f src m) s r.st f fun h => hop (hopcode.symm.trans h)) hrest⟩

/-- Whatever a completed message's command has done, the answer leaves it but for the message path. -/
theorem onMessage_restEvents {id off b : Nat} {st : Status} {res : List Byte} (hd : Head s f src op m) (hh : held m.bytes = false)
    (hk : k (startMsg s (ctxOf s f src m)) (ctxOf s f src m) = complete A id st off res b) :
    ∃ t, onMessage s f src op held k = .next t ∧ RestEvents A t := by
  rw [onMessage_of_head hd hh, hk]
  exact ⟨_, rfl, (restEvents_complete A id st off res b).trans (restEvents_sweepStrays _ f src)⟩

end

/-! ## SAFETY_INJECT (R96, R346) -/

section
variable {s : State} {f : Nat} {src : Src} {m : MsgIn} {u : UnitId} (fr : Fresh s) (hd : Head s f src 0x0A02 m)
  (hu : unitOfCode (le m.bytes 34 2) = some u) (hpoint : hasPoint s (le m.bytes 32 2) (le m.bytes 34 2) = true)
include fr hd hu hpoint

theorem safetyInject_answers_bist (hmode : byteAt m.bytes 36 = 2) :
    AnswersOver (.safetyInject f src) s f src m (notePoint s (le m.bytes 32 2) (le m.bytes 34 2)) .ok [] 0 := by
  have hlive : (byteAt m.bytes 36 == 1) = false := by rw [hmode]; rfl
  have hcheck : firstSome [failIf (!hasPoint s (le m.bytes 32 2) (le m.bytes 34 2)) .fieldRange 32,
      failIf ((byteAt m.bytes 36 == 1) && isFenced s u) .faultFenced] = none := by
    rw [failIf_of_true_not hpoint, hlive]
    rfl
  rw [AnswersOver, exec_safetyInject, execSafetyInject]
  refine answers hd fr rfl ⟨rfl, rfl, rfl⟩ (List.prefix_refl _) ?_
  simp only [ctxOf_bytes, hu]
  refine (settle_of_none hcheck _).trans ?_
  simp only [hlive, Bool.false_eq_true, if_false]
  rfl

theorem safetyInject_answers_fenced (hmode : byteAt m.bytes 36 = 1) (hfenced : isFenced s u = true) :
    AnswersOver (.safetyInject f src) s f src m s .faultFenced [] 0 := by
  have hcheck : firstSome [failIf (!hasPoint s (le m.bytes 32 2) (le m.bytes 34 2)) .fieldRange 32,
      failIf ((byteAt m.bytes 36 == 1) && isFenced s u) .faultFenced] = some { st := .faultFenced, off := 0xFFFF, result := [] } := by
    rw [failIf_of_true_not hpoint, hmode, hfenced]
    rfl
  rw [AnswersOver, exec_safetyInject, execSafetyInject]
  refine onMessage_rejects (r := { st := .faultFenced, off := 0xFFFF, result := [] }) hd fr rfl (by decide) ?_
  simp only [ctxOf_bytes, hu]
  exact settle_of_some hcheck _

end

/-! ## What a fence leaves (R341, R342) -/

theorem settleState_of_not_run {s : State} (h : runState s.boot.state = false) : settleState s = s := by
  rw [settleState, h]
  rfl

/-- Settling touches the sequencer and the pins, and posts. -/
theorem settleState_safety (s : State) : (settleState s).safety = s.safety := (erases_settleState s).safety

theorem settleState_state {s : State} (h : runState s.boot.state = true) : (settleState s).boot.state = properState s := by
  rw [settleState, if_pos h, setState_state]

theorem settleState_contracts (s : State) : (settleState s).contracts = s.contracts := by
  unfold settleState
  split
  · by_cases hsame : s.boot.state = properState s
    · rw [← hsame, setState_same]
    · rw [(setState_changes s _ hsame).1]
  · rfl

/-- A T2 channel's failure leaves the module's state and the fences. -/
theorem watched_failChannel_t2 (s : State) (ch cause : Nat) : watched (failChannel s .t2 ch cause) = watched s := by
  simp [failChannel]

/-- The memory effect of a fence that is not on a T1 channel leaves the module's state and the fences. -/
theorem watched_fenceMemory {u : UnitId} (hu : u.kind ≠ 8) (s : State) (cause : Nat) : watched (fenceMemory s u cause) = watched s := by
  unfold fenceMemory
  split
  · exact watched_foldl _ (fun s i => watched_failChannel_t2 s _ _) _ s
  · contradiction
  · exact watched_failChannel_t2 s _ _
  · rfl

/-- What a fence has done before its memory effect. -/
def fenceBegun (s : State) (u : UnitId) (cause det : Nat) (injected : Bool) : State :=
  let s := updSafety s fun y => { y with fences := y.fences ++ [u] }
  let s := updTelem s fun t => { t with fences := t.fences + 1 }
  let s := recordUnit s u injected 0x1101 (leBytes 2 (unitCode u) ++ leBytes 2 cause)
  let s := gateFenced (killOnUnit s u) u
  let s := postFault s 2 injected det (unitCode u)
  revokeAll s (fun k => k.units.any (covers u)) .faultFenced .faultFenced

theorem fenceUnit_of_new {s : State} {u : UnitId} (hu : s.safety.fences.contains u = false) (cause det chan : Nat) (injected : Bool) :
    let a := fenceMemory (fenceBegun s u cause det injected) u chan
    fenceUnit s u cause det chan injected = if decide (a.boot.state = .doze) then wakeDies (settleState a) else settleState a := by
  rw [fenceUnit, if_neg (by rw [hu]; exact Bool.false_ne_true)]
  rfl

theorem watched_fenceBegun (s : State) (u : UnitId) (cause det : Nat) (injected : Bool) :
    watched (fenceBegun s u cause det injected) = ⟨s.msgs, s.nextMsg, s.pins, s.boot.state, s.safety.fences ++ [u]⟩ := by
  simp [fenceBegun]

/-- The watched parts after a new fence are those of the settled state: the wake of dies touches none. -/
theorem watched_fenceUnit {s : State} {u : UnitId} (hu : s.safety.fences.contains u = false) (cause det chan : Nat) (injected : Bool) :
    watched (fenceUnit s u cause det chan injected) = watched (settleState (fenceMemory (fenceBegun s u cause det injected) u chan)) := by
  rw [fenceUnit_of_new hu]
  split
  · rw [watched_wakeDies]
  · rfl

/-! ## Into SAFE_HOLD (R348, R398) -/

/-- The module is in SAFE_HOLD, FAULT_N is asserted, and the fences are as given. -/
def Watched.InHold (fs : List UnitId) (w : Watched) : Prop := w.state = .safeHold ∧ w.pins.faultN = true ∧ w.fences = fs

section
variable {s : State} {fs : List UnitId}

theorem inHold_foldl {α : Type} {g : State → α → State} (hg : ∀ s a, (watched s).InHold fs → (watched (g s a)).InHold fs) (l : List α)
    {s : State} (hs : (watched s).InHold fs) : (watched (l.foldl g s)).InHold fs := by
  induction l generalizing s with
  | nil => exact hs
  | cons a l ih => exact ih (hg s a hs)

theorem inHold_of_eq {t : State} (h : watched t = watched s) (hs : (watched s).InHold fs) : (watched t).InHold fs := by
  rw [h]
  exact hs

/-- In SAFE_HOLD nothing settles. -/
theorem settleState_of_inHold (hs : (watched s).InHold fs) : settleState s = s := by
  obtain ⟨hstate, -⟩ := hs
  exact settleState_of_not_run (by rw [show s.boot.state = .safeHold from hstate]; rfl)

theorem inHold_complete (id : Nat) (st : Status) (o b : Nat) (r : List Byte) (hs : (watched s).InHold fs) :
    (watched (complete s id st o r b)).InHold fs := by
  obtain ⟨hframe, -⟩ := restEvents_complete s id st o r b
  rw [hframe]
  exact hs

theorem inHold_undoBg (b : BgOp) (hs : (watched s).InHold fs) : (watched (undoBg s b)).InHold fs := by
  unfold undoBg
  split
  · exact inHold_of_eq (watched_updIndex _ _ _) hs
  · dsimp only
    split
    · rw [settleState_of_inHold (inHold_of_eq (watched_removeContract s _) hs)]
      exact inHold_of_eq (watched_removeContract s _) hs
    · exact hs
  · split
    · rw [watched_updBoot]
      exact hs
    · exact hs
  · exact inHold_of_eq (watched_clearBusy _ _) hs

theorem inHold_abandonBg (p : BgOp → Bool) (hs : (watched s).InHold fs) : (watched (abandonBg s p)).InHold fs := by
  have hundone : (watched ((s.bg.filter p).foldl undoBg s)).InHold fs := inHold_foldl (fun _ b => inHold_undoBg b) _ hs
  exact inHold_of_eq (by simp [abandonBg, watched_eta]) hundone

theorem inHold_failMessages (hs : (watched s).InHold fs) : (watched (failMessages s)).InHold fs := by
  unfold failMessages
  refine inHold_foldl (fun _ i => inHold_complete i _ _ _ _) _ ?_
  simp [inHold_abandonBg _ hs]

theorem inHold_setState (hstate : s.boot.state ≠ .safeHold) (hf : s.safety.fences = fs) : (watched (setState s .safeHold)).InHold fs := by
  rw [watched_setState_of_ne s hstate]
  exact ⟨rfl, rfl, hf⟩

/-- The hold is taken from any other state. -/
theorem inHold_takeHold (cause unit : Nat) (injected : Bool) (hstate : s.boot.state ≠ .safeHold) :
    (watched (takeHold s cause unit injected)).InHold s.safety.fences := by
  obtain ⟨hdrop, -⟩ := retires_dropCmds s (s.sched.cmds.map Cmd.id)
  have hdropState : (dropCmds s (s.sched.cmds.map Cmd.id)).boot.state ≠ .safeHold := by
    rw [hdrop]
    exact hstate
  have hdropFences : (dropCmds s (s.sched.cmds.map Cmd.id)).safety.fences = s.safety.fences := by rw [hdrop]
  unfold takeHold
  generalize dropCmds s (s.sched.cmds.map Cmd.id) = d at hdropState hdropFences
  refine inHold_failMessages ?_
  simp only [watched_endCases, watched_gateAll, watched_postFault, watched_mk, watched_eta]
  exact inHold_setState hdropState hdropFences

theorem absurd_of_run {p : Prop} {m : ModState} (hm : s.boot.state = m) (hrun : runState m = false) (h : runState s.boot.state = true) : p :=
  absurd h (by rw [hm, hrun]; exact Bool.false_ne_true)

/-- A T1 channel's failure takes a running module into SAFE_HOLD (R349). -/
theorem inHold_enterHold (cause unit : Nat) (injected : Bool) (hrun : runState s.boot.state = true) :
    (watched (enterHold s cause unit injected)).InHold s.safety.fences := by
  have hstate : s.boot.state ≠ .safeHold := fun h => absurd_of_run h rfl hrun
  have hnotedState : (noteCause s cause unit).boot.state = s.boot.state := congrArg Watched.state (watched_noteCause s cause unit)
  have hnotedFences : (noteCause s cause unit).safety.fences = s.safety.fences :=
    congrArg Watched.fences (watched_noteCause s cause unit)
  unfold enterHold
  split
  · exact absurd_of_run ‹_› rfl hrun
  · exact absurd_of_run ‹_› rfl hrun
  · exact absurd_of_run ‹_› rfl hrun
  · exact absurd_of_run ‹_› rfl hrun
  · exact absurd_of_run ‹_› rfl hrun
  · have hheld := inHold_takeHold (s := noteCause s cause unit) cause unit injected (by rwa [hnotedState])
    rwa [hnotedFences] at hheld

theorem inHold_enterHold_of_eq {v : State} (hv : watched v = watched s) (cause unit : Nat) (injected : Bool)
    (hrun : runState s.boot.state = true) : (watched (enterHold v cause unit injected)).InHold s.safety.fences := by
  have hstate : v.boot.state = s.boot.state := congrArg Watched.state hv
  have hfences : v.safety.fences = s.safety.fences := congrArg Watched.fences hv
  have hheld := inHold_enterHold (s := v) cause unit injected (by rwa [hstate])
  rwa [hfences] at hheld

/-- The failure of a T1 channel takes a running module into SAFE_HOLD, whatever objects it loses. -/
theorem inHold_failChannel_t1 (ch cause : Nat) (hrun : runState s.boot.state = true) :
    (watched (failChannel s .t1 ch cause)).InHold s.safety.fences :=
  inHold_enterHold_of_eq (by simp) _ _ _ hrun

end

/-! ## A new fence -/

section
variable {s : State} {u : UnitId} (hu : s.safety.fences.contains u = false) (cause det chan : Nat) (injected : Bool)
include hu

/-- A unit that holds no T1 memory is fenced, and a running module is DEGRADED. -/
theorem fenceUnit_degrades (hkind : u.kind ≠ 8) :
    (fenceUnit s u cause det chan injected).safety.fences = s.safety.fences ++ [u] ∧
      (runState s.boot.state = true → (fenceUnit s u cause det chan injected).boot.state = .degraded) := by
  have hfenced := (watched_fenceMemory hkind (fenceBegun s u cause det injected) chan).trans (watched_fenceBegun s u cause det injected)
  have hsettled := watched_fenceUnit hu cause det chan injected
  generalize fenceMemory (fenceBegun s u cause det injected) u chan = a at hfenced hsettled
  have hfences : a.safety.fences = s.safety.fences ++ [u] := congrArg Watched.fences hfenced
  have hstate : a.boot.state = s.boot.state := congrArg Watched.state hfenced
  refine ⟨(congrArg Watched.fences hsettled).trans (by rw [watched, settleState_safety, hfences]), fun hrun => ?_⟩
  refine (congrArg Watched.state hsettled).trans ((settleState_state (by rwa [hstate])).trans ?_)
  rw [properState, hfences, if_pos (List.append_ne_nil_of_right_ne_nil _ (List.cons_ne_nil _ _))]

/-- A T1 channel's fence takes a running module into SAFE_HOLD. -/
theorem fenceUnit_holds (hkind : u.kind = 8) (hrun : runState s.boot.state = true) :
    (watched (fenceUnit s u cause det chan injected)).InHold (s.safety.fences ++ [u]) := by
  have hbegun := watched_fenceBegun s u cause det injected
  have hfences : (fenceBegun s u cause det injected).safety.fences = s.safety.fences ++ [u] := congrArg Watched.fences hbegun
  have hstate : (fenceBegun s u cause det injected).boot.state = s.boot.state := congrArg Watched.state hbegun
  have hheld : (watched (fenceMemory (fenceBegun s u cause det injected) u chan)).InHold (s.safety.fences ++ [u]) := by
    rw [fenceMemory, hkind, ← hfences]
    exact inHold_failChannel_t1 u.idx chan (by rwa [hstate])
  rw [watched_fenceUnit hu, settleState_of_inHold hheld]
  exact hheld

end

/-! ## The end of a fence (R97, R342) -/

theorem unfenceMemory_keeps (s : State) (u : UnitId) :
    (unfenceMemory s u).safety = s.safety ∧ (unfenceMemory s u).contracts = s.contracts := by
  unfold unfenceMemory
  split <;> exact ⟨rfl, rfl⟩

theorem powers_wakeCores (s : State) (g : Nat) : Powers s (wakeCores s g) := by
  unfold wakeCores
  split
  · exact Powers.refl s
  · split
    · exact powers_wakeDie s g
    · exact powers_updDie s g _

/-- What an unfence has done before the module's state settles: the fence is gone, and the contracts stand. -/
theorem unfence_settles (s : State) (u : UnitId) :
    ∃ a, unfence s u = settleState a ∧ a.safety.fences = s.safety.fences.filter (fun v => decide (v ≠ u)) ∧ a.contracts = s.contracts := by
  unfold unfence
  extract_lets a b c d
  obtain ⟨hsafety, hcontracts⟩ := unfenceMemory_keeps (recordUnit b u false 0x1102 (leBytes 2 (unitCode u))) u
  have hwoken : Powers c d := by
    dsimp only [d]
    split
    · exact powers_wakeCores c _
    · exact powers_wakeCores c _
    · exact Powers.refl c
  obtain ⟨hwoken, -⟩ := hwoken
  refine ⟨d, rfl, ?_, ?_⟩
  · rw [hwoken]
    exact congrArg Safety.fences hsafety
  · rw [hwoken]
    exact hcontracts

/-! ## SAFETY_FENCE (R97) -/

section
variable {s : State} {f : Nat} {src : Src} {m : MsgIn} {u : UnitId} (hd : Head s f src 0x0A03 m)
  (hu : unitOfCode (le m.bytes 32 2) = some u)
include hd hu

theorem safetyFence_answers_same (fr : Fresh s) (hsame : s.safety.fences.contains u = (byteAt m.bytes 34 == 1)) (ok : Bool) :
    AnswersOver (.safetyFence f src ok) s f src m s .okNoChange [] 0 := by
  rw [AnswersOver, exec_safetyFence, execSafetyFence]
  refine answers hd fr rfl ⟨rfl, rfl, rfl⟩ (List.prefix_refl _) ?_
  simp only [ctxOf_bytes, hu]
  exact if_pos hsame

section
variable (hfenced : s.safety.fences.contains u = true) (hact : byteAt m.bytes 34 = 2)
include hfenced hact

theorem safetyFence_answers_failed (fr : Fresh s) : AnswersOver (.safetyFence f src false) s f src m s .faultFenced [] 0 := by
  have hdiff : s.safety.fences.contains u ≠ (byteAt m.bytes 34 == 1) := by rw [hfenced, hact]; decide
  have hwant : ¬(byteAt m.bytes 34 == 1) = true := by rw [hact]; decide
  rw [AnswersOver, exec_safetyFence, execSafetyFence]
  refine onMessage_rejects (r := { st := .faultFenced, off := 0xFFFF, result := [] }) hd fr rfl (by decide) ?_
  simp only [ctxOf_bytes, hu]
  exact (if_neg hdiff).trans ((if_neg hwant).trans (settle_of_some rfl _))

/-- SAFETY_FENCE of a fenced unit whose self-test passes does what `unfence` does. -/
theorem safetyFence_unfences :
    ∃ t, exec (.safetyFence f src true) s = .next t ∧ RestEvents (unfence (startMsg s (ctxOf s f src m)) u) t := by
  have hdiff : s.safety.fences.contains u ≠ (byteAt m.bytes 34 == 1) := by rw [hfenced, hact]; decide
  have hwant : ¬(byteAt m.bytes 34 == 1) = true := by rw [hact]; decide
  rw [exec_safetyFence, execSafetyFence]
  refine onMessage_restEvents (id := s.nextMsg) (off := 0xFFFF) (b := 0) (st := .ok) (res := []) hd rfl ?_
  simp only [ctxOf_bytes, hu]
  exact (if_neg hdiff).trans ((if_neg hwant).trans (settle_of_none rfl _))

theorem safetyFence_settles :
    ∃ t, exec (.safetyFence f src true) s = .next t ∧ t.safety.fences = s.safety.fences.filter (fun v => decide (v ≠ u)) ∧
      t.contracts = s.contracts ∧ DegOk t := by
  obtain ⟨t, ht, hrest, -⟩ := safetyFence_unfences hd hu hfenced hact
  obtain ⟨a, hsettles, hfences, hcontracts⟩ := unfence_settles (startMsg s (ctxOf s f src m)) u
  rw [hsettles] at hrest
  refine ⟨t, ht, ?_, ?_, ?_⟩
  · rw [hrest]
    exact (congrArg Safety.fences (settleState_safety a)).trans hfences
  · rw [hrest]
    exact (settleState_contracts a).trans hcontracts
  · rw [hrest]
    exact degOk_settleState a fun hnot hrun => absurd hrun (by rw [hnot]; exact Bool.false_ne_true)

end

/-- SAFETY_FENCE of a unit that is not fenced does what `fence` does. -/
theorem safetyFence_fences (hnew : s.safety.fences.contains u = false) (hact : byteAt m.bytes 34 = 1) :
    ∃ t, exec (.safetyFence f src true) s = .next t ∧ RestEvents (fence (startMsg s (ctxOf s f src m)) u 0x0100 0 false) t := by
  have hdiff : s.safety.fences.contains u ≠ (byteAt m.bytes 34 == 1) := by rw [hnew, hact]; decide
  have hwant : (byteAt m.bytes 34 == 1) = true := by rw [hact]; rfl
  rw [exec_safetyFence, execSafetyFence]
  refine onMessage_restEvents (id := s.nextMsg) (off := 0xFFFF) (b := 0) (st := .ok) (res := []) hd rfl ?_
  simp only [ctxOf_bytes, hu]
  exact (if_neg hdiff).trans (if_pos hwant)

end

/-- Settles O15: an injection notes its point or is refused, and a fence or its end settles the module's state over the fences. -/
theorem safetyMessagesTakeEffect : Obligations.SafetyMessagesTakeEffect := by
  unfold Obligations.SafetyMessagesTakeEffect
  refine ⟨fun s f src m u fr hd hu hpoint => ⟨safetyInject_answers_bist fr hd hu hpoint, safetyInject_answers_fenced fr hd hu hpoint⟩,
    fun s f src m u fr hd hu => ⟨safetyFence_answers_same hd hu fr, fun hfenced hact => ⟨safetyFence_answers_failed hd hu hfenced hact fr, ?_⟩,
      fun hnew hact hkind => ?_, fun hnew hact hkind hrun => ?_⟩⟩
  · obtain ⟨t, ht, hfences, hcontracts, hdeg⟩ := safetyFence_settles hd hu hfenced hact
    exact ⟨t, ht, hfences, hcontracts, fun _ => hdeg⟩
  · obtain ⟨t, ht, hrest, -⟩ := safetyFence_fences hd hu hnew hact
    obtain ⟨hfences, hstate⟩ := fenceUnit_degrades (s := startMsg s (ctxOf s f src m)) hnew 0x0100 0 5 false hkind
    refine ⟨t, ht, ?_, fun hrun => ?_⟩
    · rw [hrest]
      exact hfences
    · rw [hrest]
      exact hstate hrun
  · obtain ⟨t, ht, hrest, -⟩ := safetyFence_fences hd hu hnew hact
    obtain ⟨hstate, hpin, hfences⟩ := fenceUnit_holds (s := startMsg s (ctxOf s f src m)) hnew 0x0100 0 5 false hkind hrun
    refine ⟨t, ht, ?_, ?_, ?_⟩
    · rw [hrest]
      exact hfences
    · rw [hrest]
      exact hstate
    · rw [hrest]
      exact hpin

end Sys2Proof.Machine
end

section
/-! PROOFS. SAFETY_HOLD_RELEASE (R98, R352, R353). -/

namespace Sys2Proof.Machine

/-- The wake of the dies for a release touches the power unit alone. -/
theorem powers_releaseDies (s : State) : Powers s (releaseDies s) :=
  powers_foldl (fun s g => by split; exact Powers.refl s; exact powers_updDie s g _) _ s

/-- What a release in which no point fails has done before it ends the hold. -/
def releaseReady (s : State) : State :=
  let a := releaseDies { s with mem := { s.mem with selfRefresh := false } }
  exerciseAll a (pointLive a)

theorem releaseHold_of_none (s : State) (x : MsgCtx) : releaseHold s x [] = endRelease (leaveHold (releaseReady s)) x .ok := rfl

theorem releaseReady_keeps (s : State) :
    (releaseReady s).boot = s.boot ∧ (releaseReady s).contracts = s.contracts ∧ (releaseReady s).safety.fences = s.safety.fences ∧
      (releaseReady s).mem.selfRefresh = false := by
  obtain ⟨hwoken, -⟩ := powers_releaseDies { s with mem := { s.mem with selfRefresh := false } }
  unfold releaseReady
  generalize releaseDies { s with mem := { s.mem with selfRefresh := false } } = a at hwoken
  dsimp only
  rw [hwoken]
  exact ⟨rfl, rfl, rfl, rfl⟩

/-- The state that the fences and the contracts give a module whose hold ends. -/
theorem properState_of_safeHold {s : State} (h : s.boot.state = .safeHold) :
    properState s = if s.safety.fences ≠ [] then .degraded else if s.contracts.any isOpen then .serving else .ready := by
  rw [properState, h]
  rfl

/-- The end of a hold clears its causes and takes the state that R342 gives. -/
theorem leaveHold_leaves {s : State} (h : s.boot.state = .safeHold) :
    (leaveHold s).boot.state = (if s.safety.fences ≠ [] then .degraded else if s.contracts.any isOpen then .serving else .ready) ∧
      (leaveHold s).pins.faultN = false ∧ (leaveHold s).safety.causes = [] ∧ (leaveHold s).safety.fences = s.safety.fences ∧
      (leaveHold s).mem = s.mem := by
  let a : State := updSafety s fun y => { y with causes := [], resetNeeded := false }
  have hproper : properState a = if s.safety.fences ≠ [] then .degraded else if s.contracts.any isOpen then .serving else .ready :=
    properState_of_safeHold h
  have hne : a.boot.state ≠ properState a := by
    rw [show a.boot.state = .safeHold from h, hproper]
    (repeat' split) <;> exact fun e => by cases e
  have hpin : faultState (properState a) = false := by
    rw [hproper]
    (repeat' split) <;> rfl
  obtain ⟨hset, -⟩ := setState_changes a (properState a) hne
  have hleft : leaveHold s = setState a (properState a) := rfl
  rw [hleft, setState_state, hproper]
  rw [hproper] at hpin hset
  refine ⟨rfl, ?_, ?_, ?_, ?_⟩
  all_goals rw [hset]
  · exact hpin
  all_goals rfl

section
variable {s : State} {f : Nat} {src : Src} {m : MsgIn} (hd : Head s f src 0x0A04 m)
include hd

theorem safetyHoldRelease_answers_same (fr : Fresh s) (hstate : s.boot.state ≠ .safeHold) (l : List Nat) :
    AnswersOver (.safetyHoldRelease f src l) s f src m s .okNoChange [] 0 := by
  rw [AnswersOver, exec_safetyHoldRelease, execSafetyHoldRelease]
  exact answers hd fr rfl ⟨rfl, rfl, rfl⟩ (List.prefix_refl _) (if_pos hstate)

theorem safetyHoldRelease_recordsBusy (fr : Fresh s) (hstate : s.boot.state = .safeHold) (hcause : causeActive s = true) (l : List Nat) :
    AnswersOver (.safetyHoldRelease f src l) s f src m (record s 0x1105 (leBytes 2 (statusCode .busy))) .busy [] 0 := by
  rw [AnswersOver, exec_safetyHoldRelease, execSafetyHoldRelease]
  exact answers hd fr rfl ⟨rfl, rfl, rfl⟩ (List.prefix_refl _) ((if_neg (not_not.2 hstate)).trans (if_pos hcause))

/-- The record of a refusal is part of the message path's (R370). -/
theorem safetyHoldRelease_answers_busy (fr : Fresh s) (hstate : s.boot.state = .safeHold) (hcause : causeActive s = true) (l : List Nat) :
    AnswersOver (.safetyHoldRelease f src l) s f src m s .busy [] 0 := by
  obtain ⟨t, ht, hans, hrest⟩ := safetyHoldRelease_recordsBusy hd fr hstate hcause l
  exact ⟨t, ht, hans, Rest.trans (rest_recordAs s f _ _ _ _ _ _) hrest⟩

/-- A release that nothing hinders ends the hold. -/
theorem safetyHoldRelease_leaves (hstate : s.boot.state = .safeHold) (hcause : causeActive s = false) :
    ∃ t, exec (.safetyHoldRelease f src []) s = .next t ∧
      RestEvents (record (leaveHold (releaseReady (startMsg s (ctxOf s f src m)))) 0x1105 (leBytes 2 (statusCode .ok))) t := by
  have hidle : ¬causeActive s = true := by rw [hcause]; exact Bool.false_ne_true
  rw [exec_safetyHoldRelease, execSafetyHoldRelease]
  refine onMessage_restEvents (id := s.nextMsg) (off := 0xFFFF) (b := 0) (st := .ok) (res := []) hd rfl ?_
  exact (if_neg (not_not.2 hstate)).trans ((if_neg hidle).trans (releaseHold_of_none (startMsg s (ctxOf s f src m)) (ctxOf s f src m)))

theorem safetyHoldRelease_ends (hstate : s.boot.state = .safeHold) (hcause : causeActive s = false) :
    ∃ t, exec (.safetyHoldRelease f src []) s = .next t ∧
      t.boot.state = (if s.safety.fences ≠ [] then .degraded else if s.contracts.any isOpen then .serving else .ready) ∧
      t.pins.faultN = false ∧ t.safety.causes = [] ∧ t.safety.fences = s.safety.fences ∧ t.mem.selfRefresh = false := by
  obtain ⟨hboot, hcontracts, hfences, hrefresh⟩ := releaseReady_keeps (startMsg s (ctxOf s f src m))
  obtain ⟨hleft, hpin, hcauses, hkept, hmem⟩ := leaveHold_leaves (s := releaseReady (startMsg s (ctxOf s f src m))) (by rw [hboot]; exact hstate)
  rw [hcontracts, hfences] at hleft
  rw [hfences] at hkept
  obtain ⟨t, ht, hrest, -⟩ := safetyHoldRelease_leaves hd hstate hcause
  refine ⟨t, ht, ?_, ?_, ?_, ?_, ?_⟩
  all_goals rw [hrest]
  · exact hleft
  · exact hpin
  · exact hcauses
  · exact hkept
  · exact (congrArg Memory.selfRefresh hmem).trans hrefresh

end

/-- Settles O16: outside the hold nothing is done, an unmet cause is answered, and otherwise the release's sequence runs to its end. -/
theorem safetyHoldReleaseEndsTheHold : Obligations.SafetyHoldReleaseEndsTheHold := by
  unfold Obligations.SafetyHoldReleaseEndsTheHold
  intro s f src m fr hd
  exact ⟨safetyHoldRelease_answers_same hd fr, safetyHoldRelease_answers_busy hd fr, safetyHoldRelease_ends hd⟩

end Sys2Proof.Machine
end

section
/-! PROOFS. The end of cases (R90, R124): which cases end, and what else an end leaves. -/

namespace Sys2Proof.Machine

/-! ## The frame of an end -/

/-- Only the cases, the indexes' superseded generations, the partitions' telemetry, the scheduler and the power unit have changed. -/
def EndsCases (s t : State) : Prop :=
  t = { s with cases := t.cases, indexes := t.indexes, parts := t.parts, sched := t.sched, power := t.power } ∧ partHeads t = partHeads s

theorem EndsCases.refl (s : State) : EndsCases s s := ⟨rfl, rfl⟩

theorem EndsCases.trans {a b c : State} (h : EndsCases a b) (k : EndsCases b c) : EndsCases a c := by
  obtain ⟨hab, hheads⟩ := h
  obtain ⟨hbc, hheads'⟩ := k
  exact ⟨by rw [hbc, hab], hheads'.trans hheads⟩

theorem endsCases_foldl {α : Type} {g : State → α → State} (hg : ∀ s a, EndsCases s (g s a)) (l : List α) (s : State) :
    EndsCases s (l.foldl g s) := by
  induction l generalizing s with
  | nil => exact EndsCases.refl s
  | cons a l ih => exact (hg s a).trans (ih _)

theorem endsCases_updCase (s : State) (key : Nat) (g : Case → Case) : EndsCases s (updCase s key g) := ⟨rfl, rfl⟩

theorem endsCases_dropCase (s : State) (key : Nat) : EndsCases s (dropCase s key) := by
  obtain ⟨heq, -⟩ := retires_dropCase s key
  exact ⟨by rw [heq], partHeads_dropCase s key⟩

theorem endsCases_endCase (s : State) (key : Nat) (st : Status) (stage : Nat) : EndsCases s (endCase s key st stage) :=
  ((endsCases_dropCase s key).trans (endsCases_updCase _ key _)).trans ⟨rfl, rfl⟩

theorem endsCases_abortCase (s : State) (c : Case) : EndsCases s (abortCase s c) :=
  (endsCases_endCase s c.hd.key _ _).trans (endsCases_updCase _ _ _)

theorem keepsPath_of_endsCases {s t : State} (h : EndsCases s t) : KeepsPath s t := by
  obtain ⟨heq, -⟩ := h
  exact keepsPath_of_eq (by rw [heq]) (by rw [heq]) (by rw [heq]) (by rw [heq])

/-! ## The cases after an end -/

/-- A case that ends, unless a status has ended it already. -/
def endMark (st : Status) (stage : Nat) (c : Case) : Case :=
  match c.ending with
  | some _ => c
  | none => { c with ending := some st, failedStage := stage }

theorem endCase_cases (s : State) (key : Nat) (st : Status) (stage : Nat) :
    (endCase s key st stage).cases = modifyWhere s.cases (fun c => c.hd.key == key) (endMark st stage) := by
  have hdropped := cases_of_retires (retires_dropCase s key)
  rw [← hdropped]
  rfl

/-- A case that is cancelled, and marked so for the counts. -/
def abortMark (c : Case) : Case := { endMark .caseCancelled 0 c with cancelled := true }

theorem abortMark_hd (c : Case) : (abortMark c).hd = c.hd := by
  unfold abortMark endMark
  cases c.ending <;> rfl

theorem abortMark_abortMark (c : Case) : abortMark (abortMark c) = abortMark c := by
  unfold abortMark endMark
  cases h : c.ending <;> simp [h]

theorem abortMark_ending {c : Case} (h : c.ending = none) : (abortMark c).ending = some .caseCancelled := by
  unfold abortMark endMark
  rw [h]

theorem abortMark_ending_ne_none (c : Case) : (abortMark c).ending ≠ none := by
  unfold abortMark endMark
  cases h : c.ending <;> simp [h]

/-- The cases with some keys marked as cancelled. -/
def markedBy (keys : List Nat) (c : Case) : Case := if keys.contains c.hd.key then abortMark c else c

theorem abortCase_cases (s : State) (c : Case) : (abortCase s c).cases = s.cases.map (markedBy [c.hd.key]) := by
  rw [abortCase, cancelCase, updCase, endCase_cases, modifyWhere, modifyWhere, List.map_map]
  refine List.map_congr_left fun d _ => ?_
  simp only [Function.comp, markedBy, List.contains_cons, List.contains_nil, Bool.or_false]
  by_cases hkey : (d.hd.key == c.hd.key) = true
  · have hd : ((endMark .caseCancelled 0 d).hd.key == c.hd.key) = true := by
      rw [show (endMark .caseCancelled 0 d).hd = d.hd from abortMark_hd d, hkey]
    rw [if_pos hkey, if_pos hd, if_pos hkey]
    rfl
  · rw [if_neg hkey, if_neg hkey, if_neg hkey]

theorem markedBy_cons (key : Nat) (keys : List Nat) (c : Case) : markedBy keys (markedBy [key] c) = markedBy (key :: keys) c := by
  simp only [markedBy, List.contains_cons, List.contains_nil, Bool.or_false]
  by_cases hkey : (c.hd.key == key) = true
  · rw [if_pos hkey, abortMark_hd, hkey, Bool.true_or, if_pos rfl]
    split
    · exact abortMark_abortMark c
    · rfl
  · rw [if_neg hkey, Bool.eq_false_of_not_eq_true hkey, Bool.false_or]

/-- Cases that are cancelled in turn are those of their keys. -/
theorem foldl_abortCase_cases (l : List Case) (s : State) :
    (l.foldl abortCase s).cases = s.cases.map (markedBy (l.map fun c => c.hd.key)) := by
  induction l generalizing s with
  | nil =>
    rw [List.foldl_nil, List.map_nil]
    exact (List.map_id' s.cases).symm
  | cons c l ih =>
    rw [List.foldl_cons, ih, abortCase_cases, List.map_map]
    exact List.map_congr_left fun d _ => markedBy_cons c.hd.key _ d

theorem markedBy_hd (keys : List Nat) (c : Case) : (markedBy keys c).hd = c.hd := by
  unfold markedBy
  split
  · exact abortMark_hd c
  · rfl

theorem markedBy_of_mem {keys : List Nat} {c : Case} (h : c.hd.key ∈ keys) : markedBy keys c = abortMark c :=
  if_pos (List.contains_iff_mem.2 h)

theorem markedBy_of_not_mem {keys : List Nat} {c : Case} (h : c.hd.key ∉ keys) : markedBy keys c = c :=
  if_neg fun hc => h (List.contains_iff_mem.1 hc)

theorem markedBy_ending_ne_none {keys : List Nat} {c : Case} (h : c.ending ≠ none ∨ c.hd.key ∈ keys) : (markedBy keys c).ending ≠ none := by
  unfold markedBy
  split
  · exact abortMark_ending_ne_none c
  · rename_i hkeys
    exact h.resolve_right fun hk => hkeys (List.contains_iff_mem.2 hk)

/-! ## CASE_CANCEL (R90) -/

section
variable {s : State} {f : Nat} {src : Src} {m : MsgIn} (fr : Fresh s) (hd : Head s f src 0x0602 m)
  (hany : anyContract s f (le m.bytes 40 4) 40 = none)
include fr hd hany

theorem caseCancel_answers_done (hnone : matching s f (le m.bytes 32 8) (le m.bytes 40 4) = []) :
    AnswersOver (.caseCancel f src) s f src m s .caseAlreadyDone (resultAt [(0, 4, 0)]) 0 := by
  have hnone' (x : MsgCtx) : matching (startMsg s x) f (le m.bytes 32 8) (le m.bytes 40 4) = [] := hnone
  rw [AnswersOver, exec_caseCancel, execCaseCancel]
  refine answers hd fr rfl ⟨rfl, rfl, rfl⟩ (List.prefix_refl _) ((settle_of_none hany _).trans ?_)
  simp only [ctxOf_bytes, hnone']
  rfl

/-- The matching cases are aborted, and the message tells how many they are. -/
theorem caseCancel_answers (hsome : matching s f (le m.bytes 32 8) (le m.bytes 40 4) ≠ []) :
    let cs := matching s f (le m.bytes 32 8) (le m.bytes 40 4)
    ∃ t, exec (.caseCancel f src) s = .next t ∧ Answered s t f src m .ok 0xFFFF (resultAt [(0, 4, cs.length)]) 0 ∧
      Rest f (cs.foldl abortCase (startMsg s (ctxOf s f src m))) t := by
  intro cs
  have hmatch (x : MsgCtx) : matching (startMsg s x) f (le m.bytes 32 8) (le m.bytes 40 4) = cs := rfl
  rw [exec_caseCancel, execCaseCancel]
  refine onMessage_answers hd fr rfl ((settle_of_none hany _).trans ?_) (keepsPath_of_endsCases (endsCases_foldl endsCases_abortCase cs _))
  simp only [ctxOf_bytes, hmatch]
  exact congrArg (complete _ _ · 0xFFFF _) (if_neg hsome)

theorem caseCancel_cancels (hsome : matching s f (le m.bytes 32 8) (le m.bytes 40 4) ≠ []) :
    let cs := matching s f (le m.bytes 32 8) (le m.bytes 40 4)
    ∃ t, exec (.caseCancel f src) s = .next t ∧ Answered s t f src m .ok 0xFFFF (resultAt [(0, 4, cs.length)]) 0 ∧
      (∀ c ∈ cs, ∃ d ∈ t.cases, d.hd = c.hd ∧ d.ending = some .caseCancelled ∧ d.cancelled = true) ∧
      (∀ c ∈ s.cases, (∀ d ∈ cs, d.hd.key ≠ c.hd.key) → c ∈ t.cases) ∧
      t.contracts = s.contracts ∧ t.parts.map Partition.cfg = s.parts.map Partition.cfg := by
  intro cs
  obtain ⟨t, ht, hans, hrest, -⟩ := caseCancel_answers fr hd hany hsome
  have hcases := foldl_abortCase_cases cs (startMsg s (ctxOf s f src m))
  obtain ⟨hframe, hheads⟩ := endsCases_foldl endsCases_abortCase cs (startMsg s (ctxOf s f src m))
  generalize hu : cs.foldl abortCase (startMsg s (ctxOf s f src m)) = u at hcases hframe hheads
  rw [hu] at hrest
  have htcases : t.cases = s.cases.map (markedBy (cs.map fun c => c.hd.key)) := by
    rw [hrest]
    exact hcases
  refine ⟨t, ht, hans, fun c hc => ?_, fun c hc hne => ?_, ?_, ?_⟩
  · obtain ⟨hlive, hpicked⟩ := List.mem_filter.1 hc
    simp only [Bool.and_eq_true, Option.isNone_iff_eq_none] at hpicked
    have hmarked := markedBy_of_mem (List.mem_map_of_mem (f := fun c => c.hd.key) hc)
    refine ⟨abortMark c, ?_, abortMark_hd c, abortMark_ending hpicked.2, rfl⟩
    rw [htcases, ← hmarked]
    exact List.mem_map_of_mem hlive
  · have hkept : markedBy (cs.map fun c => c.hd.key) c = c := markedBy_of_not_mem fun hkey => by
      obtain ⟨d, hd, he⟩ := List.mem_map.1 hkey
      exact hne d hd he
    rw [htcases, ← hkept]
    exact List.mem_map_of_mem hc
  · have hcontracts : u.contracts = s.contracts := by
      rw [hframe]
      rfl
    rw [hrest]
    exact hcontracts
  · have hcfgs := congrArg (List.map fun e => e.2.1) hheads
    simp only [partHeads, List.map_map] at hcfgs
    rw [hrest]
    exact hcfgs

end

/-! ## CONTRACT_CLOSE (R86) -/

theorem ownContract_handle {s : State} {f h : Nat} {k : Contract} (hk : ownContract s f h = some k) : k.handle = h := by
  simpa using List.find?_some (Option.filter_eq_some_iff.1 hk).1

/-- The contract's record of a close: it is the last of its closes, and the contract accepts no more. -/
def withClose (w : CloseWait) (k : Contract) : Contract :=
  { k with closes := k.closes ++ [w], state := if k.state = .opened then .closing else k.state }

theorem contractOf_withClose {s : State} {h : Nat} {k : Contract} (hk : contractOf s h = some k) (w : CloseWait) :
    contractOf (updContract s h (withClose w)) h = some (withClose w k) := by
  have hkeeps : (updContract s h (withClose w)).contracts.find? (fun x => x.handle == h) =
      (s.contracts.find? fun x => x.handle == h).map fun x => if x.handle == h then withClose w x else x :=
    find?_modifyWhere _ _ _ _ fun _ _ => rfl
  have hhandle : k.handle = h := by simpa using List.find?_some hk
  rw [contractOf, hkeeps, show s.contracts.find? (fun x => x.handle == h) = some k from hk, Option.map_some, hhandle, beq_self_eq_true, if_pos rfl]

/-- A close waits while a case of its contract is live. -/
theorem finishClose_of_live {s : State} {h : Nat} (hlive : s.cases.any (fun c => c.hd.contract == h) = true) : finishClose s h = s := by
  unfold finishClose
  split
  · rfl
  · exact if_pos (.inr hlive)

/-- With no case of its contract left, a close ends at once. -/
theorem finishClose_of_idle {s : State} {h : Nat} {k : Contract} {w : CloseWait} (hk : contractOf s h = some k) (hcloses : k.closes = [w])
    (hidle : s.cases.any (fun c => c.hd.contract == h) = false) :
    finishClose s h =
      complete (settleState (removeContract s h)) w.msg .ok 0xFFFF (resultAt [(0, 4, w.drained), (4, 4, w.cancelled)]) := by
  have hgoes : ¬(k.closes = [] ∨ s.cases.any (fun c => c.hd.contract == h) = true) := by
    rw [hcloses, hidle]
    simp
  rw [finishClose, hk]
  dsimp only
  rw [if_neg hgoes, hcloses]
  rfl

/-- What a contract's removal takes away: itself and its stage cairns. -/
theorem removeContract_of_some {s : State} {h : Nat} {k : Contract} (hk : contractOf s h = some k) :
    (removeContract s h).contracts = s.contracts.filter (fun x => x.handle != h) ∧
      (removeContract s h).cairns = s.cairns.filter (fun c => !k.stageCairns.contains c.num) := by
  have hreleased : (if isOpen k then releaseShards s k else s).contracts = s.contracts ∧
      (if isOpen k then releaseShards s k else s).cairns = s.cairns := by
    split
    · obtain ⟨hwire, -⟩ := onWire_releaseShards s k
      rw [hwire]
      exact ⟨rfl, rfl⟩
    · exact ⟨rfl, rfl⟩
  obtain ⟨hcontracts, hcairns⟩ := hreleased
  rw [removeContract, hk]
  exact ⟨congrArg _ hcontracts, congrArg _ hcairns⟩

theorem keepsPath_updContract (s : State) (h : Nat) (g : Contract → Contract) : KeepsPath s (updContract s h g) :=
  keepsPath_of_eq rfl rfl rfl (List.prefix_refl _)

theorem keepsPath_removeContract (s : State) (h : Nat) : KeepsPath s (removeContract s h) := by
  unfold removeContract
  split
  · exact KeepsPath.refl s
  · have hreleased (k : Contract) : KeepsPath s (if isOpen k then releaseShards s k else s) := by
      split
      · exact keepsPath_of_onWire (onWire_releaseShards s k)
      · exact KeepsPath.refl s
    exact (hreleased _).trans (keepsPath_of_eq rfl rfl rfl (List.prefix_refl _))

theorem settleState_cairns (s : State) : (settleState s).cairns = s.cairns := by
  unfold settleState
  split
  · by_cases hsame : s.boot.state = properState s
    · rw [← hsame, setState_same]
    · rw [(setState_changes s _ hsame).1]
  · rfl

/-- What a close does to a contract of handle `h`: with ABORT it cancels the cases, it joins the contract's closes, and it ends if no
case is left. -/
def closeOf (s : State) (msg h : Nat) (abort : Bool) : State :=
  let gone := if abort then runningCases s h else []
  finishClose (updContract (gone.foldl abortCase s) h
    (withClose { msg := msg, abort := abort, drained := 0, cancelled := gone.length })) h

theorem any_contract_eq_true {cs : List Case} {h : Nat} (hlive : ∃ c ∈ cs, c.hd.contract = h) :
    cs.any (fun c => c.hd.contract == h) = true := by
  obtain ⟨c, hc, hcontract⟩ := hlive
  exact List.any_eq_true.2 ⟨c, hc, beq_iff_eq.2 hcontract⟩

/-- A close without ABORT only joins while a case is live. -/
theorem closeOf_of_live {s : State} {h : Nat} (hlive : ∃ c ∈ s.cases, c.hd.contract = h) (msg : Nat) :
    closeOf s msg h false = updContract s h (withClose { msg := msg, abort := false, drained := 0, cancelled := 0 }) :=
  finishClose_of_live (s := updContract s h _) (any_contract_eq_true hlive)

/-- The contract's cases after an ABORT. -/
def aborted (s : State) (h : Nat) : State := (runningCases s h).foldl abortCase s

theorem aborted_cases (s : State) (h : Nat) :
    (aborted s h).cases = s.cases.map (markedBy ((runningCases s h).map fun c => c.hd.key)) := foldl_abortCase_cases _ s

/-- A close with ABORT joins once it has cancelled what runs: the cases stay until their records have been issued. -/
theorem closeOf_of_abort {s : State} {h : Nat} (hlive : ∃ c ∈ s.cases, c.hd.contract = h) (msg : Nat) :
    closeOf s msg h true = updContract (aborted s h) h
      (withClose { msg := msg, abort := true, drained := 0, cancelled := (runningCases s h).length }) := by
  refine finishClose_of_live (s := updContract (aborted s h) h _) (any_contract_eq_true ?_)
  obtain ⟨c, hc, hcontract⟩ := hlive
  refine ⟨markedBy ((runningCases s h).map fun c => c.hd.key) c, ?_, by rw [markedBy_hd, hcontract]⟩
  rw [updContract_cases, aborted_cases]
  exact List.mem_map_of_mem hc

/-- A contract that a close has joined accepts no more. -/
theorem state_ne_opened_of_withClose {s : State} {h : Nat} {w : CloseWait} {x : Contract}
    (hx : x ∈ (updContract s h (withClose w)).contracts) (hhandle : x.handle = h) : x.state ≠ .opened := by
  rw [updContract_contracts, modifyWhere] at hx
  obtain ⟨y, -, rfl⟩ := List.mem_map.1 hx
  by_cases hy : (y.handle == h) = true
  · rw [if_pos hy, withClose]
    dsimp only
    split
    · exact fun he => by cases he
    · assumption
  · rw [if_neg hy] at hhandle
    exact absurd (beq_iff_eq.2 hhandle) hy

/-- No case of the contract runs on after an ABORT. -/
theorem ending_ne_none_of_aborted {s : State} {h : Nat} {d : Case} (hd : d ∈ (aborted s h).cases) (hcontract : d.hd.contract = h) :
    d.ending ≠ none := by
  rw [aborted_cases] at hd
  obtain ⟨c, hc, rfl⟩ := List.mem_map.1 hd
  rw [markedBy_hd] at hcontract
  refine markedBy_ending_ne_none ?_
  by_cases hrun : c.ending = none
  · refine .inr (List.mem_map_of_mem (f := fun c => c.hd.key) (List.mem_filter.2 ⟨hc, ?_⟩))
    simp [hcontract, hrun]
  · exact .inl hrun

/-- With no case left, the first close of a contract removes it at once. -/
theorem closeOf_of_idle {s : State} {h : Nat} {k : Contract} (hk : contractOf s h = some k) (hcloses : k.closes = [])
    (hidle : ∀ c ∈ s.cases, c.hd.contract ≠ h) (msg : Nat) (abort : Bool) :
    closeOf s msg h abort = complete
      (settleState (removeContract (updContract s h (withClose { msg := msg, abort := abort, drained := 0, cancelled := 0 })) h)) msg .ok
      0xFFFF (resultAt [(0, 4, 0), (4, 4, 0)]) := by
  have hgone : (if abort then runningCases s h else []) = [] := by
    split
    · exact List.filter_eq_nil_iff.2 fun c hc => by simp [hidle c hc]
    · rfl
  have hnone : s.cases.any (fun c => c.hd.contract == h) = false := List.any_eq_false.2 fun c hc => by simp [hidle c hc]
  rw [closeOf, hgone]
  exact finishClose_of_idle (contractOf_withClose hk _) (by rw [withClose, hcloses]; rfl) hnone

section
variable {s : State} {f : Nat} {src : Src} {m : MsgIn} {k : Contract} (fr : Fresh s) (hd : Head s f src 0x0503 m)
  (hk : ownContract s f (le m.bytes 32 4) = some k) (hfits : closeFits k (byteAt m.bytes 36 == 2) = true)
include hk hfits

theorem contractClose_check :
    withRef (ownContract s f (le m.bytes 32 4)) 32 (fun k => failIf (!closeFits k (byteAt m.bytes 36 == 2)) .busy) = none := by
  rw [withRef_some hk, failIf_of_true_not hfits]

include fr hd

/-- A close that ends at once is answered over what it leaves. -/
theorem contractClose_answers {A : State} {st : Status} {off b : Nat} {res : List Byte}
    (hclose : closeOf (startMsg s (ctxOf s f src m)) s.nextMsg (le m.bytes 32 4) (byteAt m.bytes 36 == 2) = complete A s.nextMsg st off res b)
    (hpath : KeepsPath (startMsg s (ctxOf s f src m)) A) :
    ∃ t, exec (.contractClose f src) s = .next t ∧ Answered s t f src m st off res b ∧ Rest f A t := by
  rw [exec_contractClose, execContractClose]
  exact onMessage_answers hd fr rfl ((settle_of_none (contractClose_check hk hfits) _).trans hclose) hpath

/-- A close that waits leaves its message open over what it does. -/
theorem contractClose_staysOpen {A : State}
    (hclose : closeOf (startMsg s (ctxOf s f src m)) s.nextMsg (le m.bytes 32 4) (byteAt m.bytes 36 == 2) = A)
    (hpath : KeepsPath (startMsg s (ctxOf s f src m)) A) :
    ∃ t, exec (.contractClose f src) s = .next t ∧ StaysOpen s t f src m ∧ Rest f A t := by
  rw [exec_contractClose, execContractClose]
  exact onMessage_staysOpen hd fr rfl ((settle_of_none (contractClose_check hk hfits) _).trans hclose) hpath

theorem contractClose_removes (hidle : ∀ c ∈ s.cases, c.hd.contract ≠ k.handle) (hcloses : k.closes = []) :
    ∃ t, exec (.contractClose f src) s = .next t ∧ Answered s t f src m .ok 0xFFFF (resultAt [(0, 4, 0), (4, 4, 0)]) 0 ∧
      (∀ x ∈ t.contracts, x.handle ≠ k.handle) ∧ (∀ x ∈ s.contracts, x.handle ≠ k.handle → x ∈ t.contracts) ∧
      t.cairns = s.cairns.filter (fun c => !k.stageCairns.contains c.num) := by
  have hhandle := ownContract_handle hk
  have hof : contractOf (startMsg s (ctxOf s f src m)) (le m.bytes 32 4) = some k := (Option.filter_eq_some_iff.1 hk).1
  rw [hhandle] at hidle ⊢
  have hclose := closeOf_of_idle hof hcloses hidle s.nextMsg (byteAt m.bytes 36 == 2)
  obtain ⟨hcontracts, hcairns⟩ := removeContract_of_some
    (contractOf_withClose hof { msg := s.nextMsg, abort := byteAt m.bytes 36 == 2, drained := 0, cancelled := 0 })
  obtain ⟨t, ht, hans, hrest, -⟩ := contractClose_answers fr hd hk hfits hclose
    ((keepsPath_updContract _ _ _).trans ((keepsPath_removeContract _ _).trans (keepsPath_settleState _)))
  have htcontracts := congrArg State.contracts hrest
  have htcairns := congrArg State.cairns hrest
  rw [settleState_contracts, hcontracts] at htcontracts
  rw [settleState_cairns, hcairns] at htcairns
  refine ⟨t, ht, hans, fun x hx => ?_, fun x hx hne => ?_, htcairns⟩
  · rw [htcontracts] at hx
    simpa using (List.mem_filter.1 hx).2
  · have hkept : (if x.handle == le m.bytes 32 4 then
        withClose { msg := s.nextMsg, abort := byteAt m.bytes 36 == 2, drained := 0, cancelled := 0 } x else x) = x :=
      if_neg (by simpa using hne)
    rw [htcontracts]
    refine List.mem_filter.2 ⟨?_, by simpa using hne⟩
    rw [updContract_contracts, modifyWhere]
    exact List.mem_map.2 ⟨x, hx, hkept⟩

theorem contractClose_opens (hlive : ∃ c ∈ s.cases, c.hd.contract = k.handle) (hact : byteAt m.bytes 36 = 1) :
    OpensOver (.contractClose f src) s f src m
      (updContract s k.handle (withClose { msg := s.nextMsg, abort := false, drained := 0, cancelled := 0 })) := by
  rw [ownContract_handle hk] at hlive ⊢
  have habort : (byteAt m.bytes 36 == 2) = false := by rw [hact]; rfl
  have hclose : closeOf (startMsg s (ctxOf s f src m)) s.nextMsg (le m.bytes 32 4) (byteAt m.bytes 36 == 2) =
      updContract (startMsg s (ctxOf s f src m)) (le m.bytes 32 4)
        (withClose { msg := s.nextMsg, abort := false, drained := 0, cancelled := 0 }) := by
    rw [habort]
    exact closeOf_of_live (s := startMsg s (ctxOf s f src m)) hlive s.nextMsg
  rw [OpensOver, exec_contractClose, execContractClose]
  exact stays_open hd fr rfl ⟨rfl, rfl, rfl⟩ ((settle_of_none (contractClose_check hk hfits) _).trans hclose)

theorem contractClose_aborts (hlive : ∃ c ∈ s.cases, c.hd.contract = k.handle) (hact : byteAt m.bytes 36 = 2) :
    ∃ t, exec (.contractClose f src) s = .next t ∧ StaysOpen s t f src m ∧
      (∀ c ∈ t.cases, c.hd.contract = k.handle → c.ending ≠ none) ∧
      (∀ x ∈ t.contracts, x.handle = k.handle → x.state ≠ .opened) := by
  rw [ownContract_handle hk] at hlive ⊢
  have habort : (byteAt m.bytes 36 == 2) = true := by rw [hact]; rfl
  obtain ⟨t, ht, hopen, hrest, -⟩ := contractClose_staysOpen fr hd hk hfits
    (by rw [habort]; exact closeOf_of_abort (s := startMsg s (ctxOf s f src m)) hlive s.nextMsg)
    ((keepsPath_of_endsCases (endsCases_foldl endsCases_abortCase _ _)).trans (keepsPath_updContract _ _ _))
  refine ⟨t, ht, hopen, fun c hc hcontract => ?_, fun x hx hhandle => ?_⟩
  · rw [hrest] at hc
    exact ending_ne_none_of_aborted (s := startMsg s (ctxOf s f src m)) hc hcontract
  · rw [hrest] at hx
    exact state_ne_opened_of_withClose hx hhandle

end

/-- Settles O12: a contract without cases goes with its first close, and another one waits for its cases, which ABORT cancels. -/
theorem contractCloseEnds : Obligations.ContractCloseEnds := by
  unfold Obligations.ContractCloseEnds
  intro s f src m k fr hd hk hfits
  exact ⟨contractClose_removes fr hd hk hfits, contractClose_opens fr hd hk hfits, contractClose_aborts fr hd hk hfits⟩

end Sys2Proof.Machine
end

section
/-! PROOFS. CASE_SUBMIT (R87 to R89, R119, R124). -/

namespace Sys2Proof.Machine

/-! ## The quotas when a submission starts (R15, R88) -/

/-- A mailbox whose head message of a channel has started: the channel's consumer index passes it (R47). -/
def pastHead (src : Src) (mb : Mailbox) : Mailbox :=
  match src with
  | .inl => { mb with inl := { mb.inl with ci := (mb.inl.ci + 1) % 16 }, inlQ := mb.inlQ.drop 1 }
  | .ring => { mb with sq := { mb.sq with devIdx := (mb.sq.devIdx + 1) % (2 * ringSize mb.sq) }, sqQ := mb.sqQ.drop 1 }

theorem mbOf_startMsg {s : State} {x : MsgCtx} (h : x.f < s.mail.length) : mbOf (startMsg s x) x.f = pastHead x.src (mbOf s x.f) :=
  mbOf_updMb s x.f _ h

theorem mbOf_startMsg_ne {s : State} {x : MsgCtx} {g : Nat} (h : g ≠ x.f) : mbOf (startMsg s x) g = mbOf s g := mbOf_updMb_ne s x.f g _ h

/-- The submissions observed before `t` that wait in a mailbox. -/
def submitsBefore (mb : Mailbox) (t : Nat) : List MsgIn := (mb.inlQ ++ mb.sqQ).filter fun m => opcodeOf m == 0x0601 && decide (m.obsTs < t)

/-- The start of a message takes none of the submissions observed before it. -/
theorem submitsBefore_pastHead {s : State} {f : Nat} {src : Src} {m : MsgIn} (h : headOf s f src = some m) :
    submitsBefore (pastHead src (mbOf s f)) m.obsTs = submitsBefore (mbOf s f) m.obsTs := by
  have hown (l : List MsgIn) : (m :: l).filter (fun n => opcodeOf n == 0x0601 && decide (n.obsTs < m.obsTs)) =
      l.filter fun n => opcodeOf n == 0x0601 && decide (n.obsTs < m.obsTs) := List.filter_cons_of_neg (by simp)
  unfold submitsBefore
  rw [List.filter_append, List.filter_append]
  cases src with
  | inl =>
    obtain ⟨l, hq⟩ := List.head?_eq_some_iff.1 h
    rw [pastHead, hq, List.drop_one, List.tail_cons, hown]
  | ring =>
    rw [headOf] at h
    split at h
    · rename_i n l hq
      split at h
      · obtain rfl := Option.some.inj h
        rw [pastHead, hq, List.drop_one, List.tail_cons, hown]
      · cases h
    · cases h

theorem observedSubmits_startMsg {s : State} {f : Nat} {src : Src} {m : MsgIn} (hlen : f < s.mail.length) (h : headOf s f src = some m)
    (g : Nat) : observedSubmits (startMsg s (ctxOf s f src m)) g m.obsTs = observedSubmits s g m.obsTs := by
  change (submitsBefore (mbOf (startMsg s (ctxOf s f src m)) g) m.obsTs).length = (submitsBefore (mbOf s g) m.obsTs).length
  rcases eq_or_ne g f with rfl | hne
  · rw [← submitsBefore_pastHead h]
    exact congrArg (fun mb => (submitsBefore mb m.obsTs).length) (mbOf_startMsg (x := ctxOf s g src m) hlen)
  · rw [mbOf_startMsg_ne hne]

theorem caseQuotas_startMsg {s : State} {f : Nat} {src : Src} {m : MsgIn} (hlen : f < s.mail.length) (h : headOf s f src = some m) :
    caseQuotas (startMsg s (ctxOf s f src m)) f m.obsTs = caseQuotas s f m.obsTs := by
  have hfuns : functions (startMsg s (ctxOf s f src m)) = functions s := rfl
  have hparts : partOf (startMsg s (ctxOf s f src m)) f = partOf s f := rfl
  have hlive : liveCases (startMsg s (ctxOf s f src m)) f = liveCases s f := rfl
  have hcases : (startMsg s (ctxOf s f src m)).cases = s.cases := rfl
  simp only [caseQuotas, hfuns, hparts, hlive, hcases, observedSubmits_startMsg hlen h]

/-! ## The accepted case (R119, R124, R154) -/

/-- A case that is accepted, before its work begins or its contract's revocation ends it. -/
def withNewCase (s : State) (x : MsgCtx) (k : Contract) (d : CaseDesc) : State :=
  let c := newCase s x k d
  let s := updContract s k.handle fun k =>
    { k with arrival := arrivalTake k x.obsTs, stats := { k.stats with accepted := k.stats.accepted + 1 } }
  let s := { s with cases := s.cases ++ [c], nextCase := s.nextCase + 1 }
  let s := updTelem s fun t => { t with accepted := t.accepted + 1, casesPeak := max t.casesPeak s.cases.length }
  updStats s x.f fun p => { p with casesPeak := max p.casesPeak (liveCases s x.f) }

theorem acceptCase_of_ended {k : Contract} {e : Nat × Status} (he : k.ended = some e) (s : State) (x : MsgCtx) (d : CaseDesc) :
    acceptCase s x k d = endCase (withNewCase s x k d) (newCase s x k d).hd.key e.2 1 := by
  rw [acceptCase, he]
  rfl

theorem acceptCase_of_open {k : Contract} (he : k.ended = none) (s : State) (x : MsgCtx) (d : CaseDesc) :
    acceptCase s x k d = addCaseCmd (withNewCase s x k d) (newCase s x k d) k 1 := by
  rw [acceptCase, he]
  rfl

theorem withNewCase_startMsg (s : State) (y x : MsgCtx) (k : Contract) (d : CaseDesc) :
    withNewCase (startMsg s y) x k d = startMsg (withNewCase s x k d) y := rfl

theorem newCase_startMsg (s : State) (y x : MsgCtx) (k : Contract) (d : CaseDesc) : newCase (startMsg s y) x k d = newCase s x k d := rfl

theorem acceptCase_startMsg (s : State) (y x : MsgCtx) (k : Contract) (d : CaseDesc) :
    acceptCase (startMsg s y) x k d = startMsg (acceptCase s x k d) y := by
  cases he : k.ended with
  | none => rw [acceptCase_of_open he, acceptCase_of_open he, withNewCase_startMsg, newCase_startMsg, addCaseCmd, addCmd_startMsg, addCaseCmd]
  | some e => rw [acceptCase_of_ended he, acceptCase_of_ended he, withNewCase_startMsg, newCase_startMsg, endCase_startMsg]

theorem acceptCase_path (s : State) (x : MsgCtx) (k : Contract) (d : CaseDesc) :
    (acceptCase s x k d).mail = s.mail ∧ (acceptCase s x k d).msgs = s.msgs ∧ (acceptCase s x k d).nextMsg = s.nextMsg := by
  cases he : k.ended with
  | none =>
    rw [acceptCase_of_open he]
    exact addCmd_path (withNewCase s x k d) _ _ _ _ _ _ _ _
  | some e =>
    obtain ⟨hframe, -⟩ := endsCases_endCase (withNewCase s x k d) (newCase s x k d).hd.key e.2 1
    rw [acceptCase_of_ended he, hframe]
    exact ⟨rfl, rfl, rfl⟩

theorem acceptCase_cases_of_open {k : Contract} (he : k.ended = none) (s : State) (x : MsgCtx) (d : CaseDesc) :
    (acceptCase s x k d).cases = s.cases ++ [newCase s x k d] := by
  rw [acceptCase_of_open he, addCaseCmd, addCmd_frame]
  rfl

/-- Under a revoked contract the new case alone has ended. -/
theorem acceptCase_cases_of_ended {s : State} {x : MsgCtx} {k : Contract} {d : CaseDesc} {e : Nat × Status} (he : k.ended = some e)
    (hnew : ∀ c ∈ s.cases, c.hd.key ≠ (newCase s x k d).hd.key) :
    (acceptCase s x k d).cases = s.cases ++ [{ newCase s x k d with ending := some e.2, failedStage := 1 }] := by
  have hold : modifyWhere s.cases (fun c => c.hd.key == (newCase s x k d).hd.key) (endMark e.2 1) = s.cases := by
    rw [modifyWhere, List.map_congr_left fun c hc => if_neg (by simpa using hnew c hc)]
    exact List.map_id' s.cases
  rw [acceptCase_of_ended he, endCase_cases]
  change modifyWhere (s.cases ++ [newCase s x k d]) _ _ = _
  rw [modifyWhere, List.map_append]
  refine congrArg₂ _ hold ?_
  rw [List.map_singleton, if_pos (beq_self_eq_true _)]
  rfl

/-! ## CASE_SUBMIT (R87, R88) -/

section
variable {s : State} {f : Nat} {src : Src} {m : MsgIn} {h : HostView} {b : List Byte} {k : Contract}

theorem caseSubmit_opens (fr : Fresh s) (hd : Head s f src 0x0601 m) (hdesc : addrCheck s h f false (le m.bytes 48 8) (le m.bytes 36 4) 48 = none)
    (hres : addrCheck s h f true (le m.bytes 56 8) (le m.bytes 64 4) 56 = none) (hk : ownContract s f (le m.bytes 32 4) = some k)
    (hneed : resultNeed k.rcd.lim ≤ le m.bytes 64 4) (hquotas : caseQuotas s f m.obsTs = none)
    (hcheck : descCheck s h f b (le m.bytes 36 4) k = none) (hcontract : contractCheck k (descAt b).caseType m.obsTs = none) :
    OpensOver (.caseSubmit f src h (.data b)) s f src m
      (acceptCase (learnGrants (hostRead s f (le m.bytes 48 8) (le m.bytes 36 4)) f h) (ctxOf s f src m) k (descAt b)) := by
  obtain ⟨-, hm, -, hs, -⟩ := id hd
  have hquotas' := (caseQuotas_startMsg (mail_of_serves (mayStart_serves hs).1) hm).trans hquotas
  have hread : firstSome
      [addrCheck s h f false (le m.bytes 48 8) (le m.bytes 36 4) 48, addrCheck s h f true (le m.bytes 56 8) (le m.bytes 64 4) 56,
       withRef (ownContract s f (le m.bytes 32 4)) 32 fun k => failIf (decide (le m.bytes 64 4 < resultNeed k.rcd.lim)) .lenExceedsBuffer 64,
       caseQuotas (startMsg s (ctxOf s f src m)) f m.obsTs, readFailed (.data b)] = none := by
    rw [hdesc, hres, withRef_some hk, failIf_of_false (decide_eq_false (Nat.not_lt.2 hneed)), hquotas']
    rfl
  have hsettled : firstSome [descCheck s h f b (le m.bytes 36 4) k, contractCheck k (descAt b).caseType m.obsTs] = none := by
    rw [hcheck, hcontract]
    rfl
  have hown (x : MsgCtx) (addr len : Nat) : ownContract (hostRead (startMsg s x) f addr len) f (le m.bytes 32 4) = some k := hk
  rw [OpensOver, exec_caseSubmit, execCaseSubmit]
  refine stays_open hd fr rfl (acceptCase_path _ _ _ _) ((settleRead_of_none hread _).trans ?_)
  simp only [ctxOf_bytes, ctxOf_f, hown]
  refine (settle_of_none hsettled _).trans ?_
  exact acceptCase_startMsg (learnGrants (hostRead s f (le m.bytes 48 8) (le m.bytes 36 4)) f h) (ctxOf s f src m) (ctxOf s f src m) k (descAt b)

end

/-- Settles O14: an accepted case joins the live ones, and a cancellation marks the cases that it matches. -/
theorem casesAreSubmittedAndCancelled : Obligations.CasesAreSubmittedAndCancelled := by
  unfold Obligations.CasesAreSubmittedAndCancelled
  refine ⟨fun s f src m h b k fr hd hdesc hres hk hneed hquotas hcheck hcontract => ⟨?_, fun he => ?_, fun e he hnew => ?_⟩,
    fun s f src m fr hd hany => ⟨caseCancel_answers_done fr hd hany, caseCancel_cancels fr hd hany⟩⟩
  · exact caseSubmit_opens fr hd hdesc hres hk hneed hquotas hcheck hcontract
  · exact acceptCase_cases_of_open he _ _ _
  · exact acceptCase_cases_of_ended he hnew

end Sys2Proof.Machine
end

section
/-! PROOFS. The commit of a BACKGROUND operation (R56, R65, R70, R75, R81, R188, R103, R104). -/

namespace Sys2Proof.Machine

/-! ## The end of an operation -/

/-- An index whose superseded generation is no longer kept. -/
def withoutOld (x : Index) : Index := { x with old := none }

/-- Whether an index holds a superseded generation that nothing names. -/
def reapable (s : State) (x : Index) : Bool :=
  match x.old with
  | some o => !genNamed s x.handle o.gen
  | none => false

theorem reapGens_indexes (s : State) : (reapGens s).indexes = modifyWhere s.indexes (reapable s) withoutOld := by
  refine List.map_congr_left fun x _ => ?_
  unfold reapable
  cases x.old with
  | none => rfl
  | some o => cases hnamed : genNamed s x.handle o.gen <;> simp [hnamed, withoutOld]

/-- Reaping leaves an index but for its superseded generation. -/
theorem indexOf_reapGens {s : State} {h : Nat} {x : Index} (hx : indexOf s h = some x) :
    ∃ y, indexOf (reapGens s) h = some y ∧ withoutOld y = withoutOld x := by
  have hfound : indexOf (reapGens s) h = some (if reapable s x then withoutOld x else x) := by
    rw [indexOf, reapGens_indexes, find?_modifyWhere _ _ _ _ (by exact fun _ _ => rfl)]
    rw [show s.indexes.find? (fun x => x.handle == h) = some x from hx, Option.map_some]
  refine ⟨_, hfound, ?_⟩
  split <;> rfl

/-- What an operation that has ended leaves of the state `a` that its effect gave: everything that R56 speaks of but the operation itself,
and of the indexes everything but superseded generations. -/
structure EndsBg (a t : State) (b : BgOp) : Prop where
  bg : t.bg = a.bg.filter fun o => o.id != b.id
  models : t.models = a.models
  tables : t.tables = a.tables
  pfxs : t.pfxs = a.pfxs
  contracts : t.contracts = a.contracts
  handle : t.nextHandle = a.nextHandle
  telem : t.telem = a.telem
  boot : t.boot = a.boot
  indexes : ∀ h x, indexOf a h = some x → ∃ y, indexOf t h = some y ∧ withoutOld y = withoutOld x

/-- The engines of the operation's command come free. -/
theorem retires_bgCmd {a : State} {b : BgOp} (hot : ∀ c, bgCmd a b.id = some c → OnTime a c) :
    Retires a (match bgCmd a b.id with | some c => retireCmd a c | none => a) := by
  split
  · exact retires_retireCmd (hot _ ‹_›)
  · exact Retires.refl a

/-- The list without an operation, and the superseded generations that only it named. -/
def withoutBg (v : State) (b : BgOp) : State := reapGens { v with bg := v.bg.filter fun o => o.id != b.id }

theorem endsBg_withoutBg {a v : State} (b : BgOp) (h : Retires a v) : EndsBg a (withoutBg v b) b := by
  obtain ⟨hframe, -⟩ := h
  refine ⟨?_, ?_, ?_, ?_, ?_, ?_, ?_, ?_, fun h x hx => indexOf_reapGens ?_⟩
  all_goals rw [hframe]
  case refine_9 => exact hx
  all_goals rfl

theorem EndsBg.of_restEvents {a u t : State} {b : BgOp} (h : EndsBg a u b) (hr : RestEvents u t) : EndsBg a t b := by
  obtain ⟨hframe, -⟩ := hr
  rw [hframe]
  exact ⟨h.bg, h.models, h.tables, h.pfxs, h.contracts, h.handle, h.telem, h.boot, h.indexes⟩

/-- An operation is gone once its engines are free and its message has completed. -/
theorem endsBg_finishBg {a : State} {b : BgOp} (hot : ∀ c, bgCmd a b.id = some c → OnTime a c) (st : Status) (res : List Byte) :
    EndsBg a (finishBg a b st res) b := by
  have hended := endsBg_withoutBg b (retires_bgCmd hot)
  unfold finishBg
  dsimp only
  split
  · exact hended.of_restEvents (restEvents_complete _ _ _ _ _ _)
  · exact hended

/-- The commit journal is the safety unit's. -/
theorem EndsBg.journaled {a t : State} {b : BgOp} (h : EndsBg a t b) (s : State) (cmds : List Cmd) : EndsBg a (journaled s cmds t) b :=
  ⟨h.bg, h.models, h.tables, h.pfxs, h.contracts, h.handle, h.telem, h.boot, h.indexes⟩

theorem EndsBg.not_mem {a t : State} {b : BgOp} (h : EndsBg a t b) : ∀ o ∈ t.bg, o.id ≠ b.id := fun o ho => by
  rw [h.bg] at ho
  simpa using (List.mem_filter.1 ho).2

/-! ## The effect of a commit -/

/-- What an effect leaves: the scheduler and the clock, by which its command ends, the contracts, and the counters. -/
structure Effects (a u : State) : Prop where
  sched : u.sched = a.sched
  tclk : u.tclk = a.tclk
  contracts : u.contracts = a.contracts
  telem : u.telem = a.telem

theorem effects_clearBusy (s : State) (k : BgKind) : Effects s (clearBusy s k) := by
  unfold clearBusy
  split <;> exact ⟨rfl, rfl, rfl, rfl⟩

/-- Taking back a busy mark leaves the objects that loads register. -/
theorem clearBusy_objects (s : State) (k : BgKind) :
    (clearBusy s k).models = s.models ∧ (clearBusy s k).tables = s.tables ∧ (clearBusy s k).pfxs = s.pfxs := by
  unfold clearBusy
  split <;> exact ⟨rfl, rfl, rfl⟩

theorem effects_bgEffect (a : State) (b : BgOp) : Effects a (bgEffect a b).1 := by
  unfold bgEffect
  split
  · exact ⟨rfl, rfl, rfl, rfl⟩
  · exact ⟨rfl, rfl, rfl, rfl⟩
  · exact ⟨rfl, rfl, rfl, rfl⟩
  · unfold commitSettle
    split <;> exact ⟨rfl, rfl, rfl, rfl⟩
  · unfold commitSnapshot
    dsimp only
    split <;> exact ⟨rfl, rfl, rfl, rfl⟩
  · exact ⟨rfl, rfl, rfl, rfl⟩
  · dsimp only
    split <;> exact ⟨rfl, rfl, rfl, rfl⟩
  · exact ⟨rfl, rfl, rfl, rfl⟩
  · exact ⟨rfl, rfl, rfl, rfl⟩
  · dsimp only
    split <;> exact ⟨rfl, rfl, rfl, rfl⟩

theorem Effects.trans {a b c : State} (h : Effects a b) (k : Effects b c) : Effects a c :=
  ⟨k.sched.trans h.sched, k.tclk.trans h.tclk, k.contracts.trans h.contracts, k.telem.trans h.telem⟩

/-- Where an effect leaves the scheduler and the clock, the operation's command ends in time. -/
theorem Effects.onTime {s a : State} (h : Effects s a) {op : Nat} (hot : ∀ c, bgCmd s op = some c → OnTime s c) :
    ∀ c, bgCmd a op = some c → OnTime a c := by
  intro c hc
  rw [bgCmd, h.sched] at hc
  rw [OnTime, h.tclk]
  exact hot c hc

/-- The state that an operation's effect gives, with its commit counted. -/
def committed (s : State) (b : BgOp) : State :=
  updTelem (bgEffect (clearBusy s b.kind) b).1 fun t => { t with bgCommitted := t.bgCommitted + if isZeroing b.kind then 0 else 1 }

/-- What the effect alone leaves of the state. -/
theorem effects_bgEffect_clearBusy (s : State) (b : BgOp) : Effects s (bgEffect (clearBusy s b.kind) b).1 :=
  (effects_clearBusy s b.kind).trans (effects_bgEffect (clearBusy s b.kind) b)

theorem committed_bgCommitted (s : State) (b : BgOp) :
    (committed s b).telem.bgCommitted = s.telem.bgCommitted + if isZeroing b.kind then 0 else 1 := by
  rw [← (effects_bgEffect_clearBusy s b).telem]
  rfl

section
variable {s : State} {b : BgOp} (hb : s.bg.find? (fun o => o.id == b.id) = some b) (hready : bgReady s b = true)
include hb hready

theorem backgroundOpCommit_commits : exec (.backgroundOpCommit b.id []) s = .next (commitBg s b) := by
  rw [exec_backgroundOpCommit, execBackgroundOpCommit, hb]
  exact congrArg _ (if_pos hready)

variable (hot : ∀ c, bgCmd s b.id = some c → OnTime s c)
include hot

/-- An operation that has lost its object or its tier ends without an effect. -/
theorem backgroundOpCommit_loses (hlost : bgLost (clearBusy s b.kind) b = true) :
    ∃ t, exec (.backgroundOpCommit b.id []) s = .next t ∧ EndsBg (clearBusy s b.kind) t b := by
  refine ⟨_, backgroundOpCommit_commits hb hready, ?_⟩
  rw [commitBg, if_pos hlost]
  exact endsBg_finishBg ((effects_clearBusy s b.kind).onTime hot) _ _

theorem backgroundOpCommit_ends (hkept : bgLost (clearBusy s b.kind) b = false) :
    ∃ t, exec (.backgroundOpCommit b.id []) s = .next t ∧ EndsBg (committed s b) t b := by
  have hcommitted : ∀ c, bgCmd (committed s b) b.id = some c → OnTime (committed s b) c := fun c hc =>
    (effects_bgEffect_clearBusy s b).onTime hot c hc
  refine ⟨_, backgroundOpCommit_commits hb hready, ?_⟩
  rw [commitBg, if_neg (by rw [hkept]; exact Bool.false_ne_true)]
  exact (endsBg_finishBg hcommitted _ _).journaled _ _

end

/-! ## What the kinds leave -/

/-- A change of one index that keeps its handle is found under it. -/
theorem indexOf_updIndex {s : State} {h : Nat} {x : Index} (g : Index → Index) (hg : ∀ y, y.handle = h → (g y).handle = h)
    (hx : indexOf s h = some x) : indexOf (updIndex s h g) h = some (g x) := by
  have hkeeps : ∀ y : Index, (y.handle == h) = true → ((g y).handle == h) = (y.handle == h) := fun y hy => by
    rw [hy, hg y (eq_of_beq hy), beq_self_eq_true]
  rw [indexOf, updIndex, find?_modifyWhere _ _ _ _ hkeeps]
  rw [show s.indexes.find? (fun x => x.handle == h) = some x from hx, Option.map_some, if_pos (List.find?_some hx)]

theorem commitSegment_handle (x : Index) (d : List Byte) (final : Bool) : (commitSegment x d final).handle = x.handle := by
  unfold commitSegment
  dsimp only
  split <;> rfl

/-- A segment's commit takes the busy mark back itself. -/
theorem commitSegment_bulkBusy (x : Index) (d : List Byte) (final : Bool) :
    commitSegment { x with bulkBusy := false } d final = commitSegment x d final := rfl

theorem committed_settle {s : State} {b : BgOp} {h p : Nat} {x : Index} (hkind : b.kind = .settle h p) (hx : indexOf s h = some x) :
    ∃ y, indexOf (committed s b) h = some y ∧ withoutOld y = withoutOld (swapRoot x p) := by
  have hhandle : x.handle = h := handle_of_indexOf hx
  have hswapped := indexOf_updIndex (fun _ => swapRoot x p) (fun _ _ => hhandle) hx
  obtain ⟨y, hy, hsame⟩ := indexOf_reapGens hswapped
  refine ⟨y, ?_, hsame⟩
  rw [← hy, committed, bgEffect, hkind]
  show indexOf (commitSettle s h p).1 h = _
  rw [commitSettle, hx]

theorem committed_bulkLoad {s : State} {b : BgOp} {h : Nat} {data : List Byte} {final : Bool} {x : Index}
    (hkind : b.kind = .bulkLoad h data final) (hx : indexOf s h = some x) :
    indexOf (committed s b) h = some (commitSegment x data final) := by
  have hidle := indexOf_updIndex (fun x => { x with bulkBusy := false }) (fun _ e => e) hx
  have hloaded := indexOf_updIndex (fun x => commitSegment x data final) (fun x e => (commitSegment_handle x data final).trans e) hidle
  rw [committed, bgEffect, hkind]
  exact hloaded

theorem modifyAt_getElem? {α : Type} {l : List α} {i : Nat} {x : α} (g : α → α) (h : l[i]? = some x) :
    (modifyAt l i g)[i]? = some (g x) := by
  induction l generalizing i with
  | nil => simp at h
  | cons y ys ih => cases i with
    | zero => simpa [modifyAt] using congrArg (Option.map g) h
    | succ i => simpa [modifyAt] using ih (by simpa using h)

/-- The copy that R387 writes is the one in use: its SEQ is one above that of the copy in use before. -/
theorem bcbInUse_writeBcb {b : Boot} (hlen : b.bcb.length = 2) (active : Nat) (trial : Bool) (slot : Nat) :
    bcbInUse (writeBcb b active trial slot) =
      { seq := (bcbInUse b).seq + 1, intact := true, active := active, trial := trial, trialSlot := slot } := by
  obtain ⟨c, d, hcopies⟩ := List.length_eq_two.1 hlen
  cases hc : c.intact <;> cases hd : d.intact
  · simp [writeBcb, bcbInUse, bcbOf, hcopies, hc, hd, modifyAt]
  · have hne : d ≠ c := fun e => by rw [e, hc] at hd; cases hd
    simp [writeBcb, bcbInUse, bcbOf, hcopies, hc, hd, modifyAt, hne]
  · simp [writeBcb, bcbInUse, bcbOf, hcopies, hc, hd, modifyAt]
  · by_cases hnewer : c.seq < d.seq
    · have hne : d ≠ c := fun e => by rw [e] at hnewer; exact Nat.lt_irrefl _ hnewer
      simp [writeBcb, bcbInUse, bcbOf, hcopies, hc, hd, modifyAt, hnewer, hne]
    · simp [writeBcb, bcbInUse, bcbOf, hcopies, hc, hd, modifyAt, hnewer]

/-- The flash with an image noted in the inactive slot, and no update under way. -/
def holdingImage (s : State) (len : Nat) (img : FwImage) : Boot :=
  { s.boot with
    pfUpdate := false
    slots := modifyAt s.boot.slots (inactiveSlot s) fun w => { w with image := some img, imageLen := len } }

theorem committed_fwActivate {s : State} {b : BgOp} {len : Nat} {img : FwImage} (hkind : b.kind = .fwActivate len img)
    (hlen : s.boot.bcb.length = 2) :
    (committed s b).boot.pfUpdate = false ∧ (bcbInUse (committed s b).boot).trial = true ∧
      (bcbInUse (committed s b).boot).trialSlot = inactiveSlot s ∧ (committed s b).boot.floor = s.boot.floor := by
  have huse := bcbInUse_writeBcb (b := holdingImage s len img) hlen (bcbInUse s.boot).active true (inactiveSlot s)
  rw [committed, bgEffect, hkind]
  refine ⟨rfl, ?_, ?_, rfl⟩
  · exact congrArg BootCtl.trial huse
  · exact congrArg BootCtl.trialSlot huse

theorem committed_fwStage {s : State} {b : BgOp} {off : Nat} {data : List Byte} {first began : Bool} {w : FwSlot}
    (hkind : b.kind = .fwStage off data first began true) (hw : s.boot.slots[inactiveSlot s]? = some w) :
    ∃ v, (committed s b).boot.slots[inactiveSlot s]? = some v ∧ v.written = (if first then [] else w.written) ++ [(off, data)] := by
  rw [committed, bgEffect, hkind]
  exact ⟨_, modifyAt_getElem? _ hw, rfl⟩

/-- Settles O26: an operation's commit is its effect, counted, and then its end, which leaves what R56 speaks of. -/
theorem backgroundOpsCommitWhole : Obligations.BackgroundOpsCommitWhole := by
  intro s b hb hready hlen hot
  refine ⟨fun hlost => ?_, fun hkept => ?_⟩
  · obtain ⟨t, ht, hends⟩ := backgroundOpCommit_loses hb hready hot hlost
    obtain ⟨hmodels, htables, hpfxs⟩ := clearBusy_objects s b.kind
    exact ⟨t, ht, hends.not_mem, hends.models.trans hmodels, hends.tables.trans htables, hends.pfxs.trans hpfxs,
      congrArg _ (hends.telem.trans (effects_clearBusy s b.kind).telem)⟩
  · obtain ⟨t, ht, hends⟩ := backgroundOpCommit_ends hb hready hot hkept
    refine ⟨t, ht, hends.not_mem, ?_, ?_, ?_, ?_, ?_, ?_, ?_, ?_, ?_⟩
    · rw [hends.telem]
      exact committed_bgCommitted s b
    · exact hends.contracts.trans (effects_bgEffect_clearBusy s b).contracts
    · intro img home pin shared hkind
      rw [hends.models, hends.handle, committed, bgEffect, hkind]
      exact ⟨rfl, rfl⟩
    · intro m toks kv pages shared hkind
      rw [hends.pfxs, hends.handle, committed, bgEffect, hkind]
      exact ⟨rfl, rfl⟩
    · intro h first rows hkind
      rw [hends.tables, committed, bgEffect, hkind]
      rfl
    · intro h p x hkind hx
      obtain ⟨y, hy, hswapped⟩ := committed_settle hkind hx
      obtain ⟨z, hz, hsame⟩ := hends.indexes h y hy
      have heq := hsame.trans hswapped
      exact ⟨z, hz, congrArg Index.state heq, congrArg Index.gen heq, congrArg Index.lists heq, congrArg Index.scree heq⟩
    · intro h data final x hkind hx
      exact hends.indexes h _ (committed_bulkLoad hkind hx)
    · intro off data first began w hkind hw
      rw [hends.boot]
      exact committed_fwStage hkind hw
    · intro len img hkind
      rw [hends.boot]
      exact committed_fwActivate hkind hlen

end Sys2Proof.Machine
end

section
/-! PROOFS. What the end of a case and of a partition's work leaves of the partitions, the models and the tables (R62, R90, R236). -/

namespace Sys2Proof.Machine

/-! ## The partitions but for their telemetry -/

/-- What of the partitions their telemetry does not touch: numbers, settings, suspensions and keys. -/
def partKeys (s : State) : List (Nat × PartCfg × Bool × Option Nat) := s.parts.map fun p => (p.id, p.cfg, p.suspended, p.key)

theorem partKeys_congr {s t : State} (h : t.parts = s.parts) : partKeys t = partKeys s := by rw [partKeys, h, partKeys]

theorem partKeys_of_powers {s t : State} (h : Powers s t) : partKeys t = partKeys s := partKeys_congr (by rw [h.1])

theorem partKeys_foldl {α : Type} {g : State → α → State} (hg : ∀ s a, partKeys (g s a) = partKeys s) (l : List α) (s : State) :
    partKeys (l.foldl g s) = partKeys s := by
  induction l generalizing s with
  | nil => rfl
  | cons a l ih => exact (ih _).trans (hg s a)

theorem partKeys_updStats (s : State) (i : Nat) (g : PartStats → PartStats) : partKeys (updStats s i g) = partKeys s :=
  map_modifyWhere s.parts _ fun _ => rfl

theorem partKeys_noteBlock (s : State) (c : Cmd) : partKeys (noteBlock s c) = partKeys s :=
  partKeys_foldl (fun s _ => partKeys_updStats s _ _) _ s

theorem partKeys_charged (s : State) (c : Cmd) : partKeys (noteBlock (chargeCmd s c) c) = partKeys s :=
  (partKeys_noteBlock _ c).trans (partKeys_of_powers (powers_chargeCmd s c))

theorem powers_adoptIdle (s : State) : Powers s (adoptIdle s) :=
  powers_foldl (fun s g => (powers_updDie s g _).trans (powers_inForce _ g)) _ s

theorem powers_raiseVTime (s : State) (owner level : Nat) : Powers s (raiseVTime s owner level) := by
  unfold raiseVTime raiseAmong
  split
  · exact Powers.refl s
  · split
    · exact Powers.refl s
    · dsimp only
      split
      · exact ⟨rfl, List.prefix_refl _⟩
      · exact Powers.refl s

theorem partKeys_dropCmds (s : State) (ids : List Nat) : partKeys (dropCmds s ids) = partKeys s :=
  (partKeys_of_powers (powers_adoptIdle _)).trans (partKeys_foldl partKeys_charged _ s)

theorem partKeys_readyAgain (s : State) (c : Cmd) (g : Cmd → Cmd) : partKeys (readyAgain s c g) = partKeys s := by
  have hraised := (powers_raiseVTime (noteBlock (chargeCmd s c) c) c.owner c.level).trans (powers_updCmd _ c.id g)
  refine (partKeys_of_powers (powers_adoptIdle _)).trans (Eq.trans ?_ ((partKeys_of_powers hraised).trans (partKeys_charged s c)))
  split <;> rfl

theorem partKeys_dropCase (s : State) (key : Nat) : partKeys (dropCase s key) = partKeys s :=
  (partKeys_foldl (fun s c => partKeys_readyAgain s c _) _ _).trans (partKeys_dropCmds s _)

/-! ## The frame -/

/-- The partitions stand but for their telemetry, the models and the tables stand, and no case has come. -/
structure Spares (s t : State) : Prop where
  keys : partKeys t = partKeys s
  models : t.models = s.models
  tables : t.tables = s.tables
  heads : t.cases.map Case.hd ⊆ s.cases.map Case.hd

theorem Spares.refl (s : State) : Spares s s := ⟨rfl, rfl, rfl, List.Subset.refl _⟩

theorem Spares.trans {a b c : State} (h : Spares a b) (k : Spares b c) : Spares a c :=
  ⟨k.keys.trans h.keys, k.models.trans h.models, k.tables.trans h.tables, List.Subset.trans k.heads h.heads⟩

theorem spares_foldl {α : Type} {g : State → α → State} (hg : ∀ s a, Spares s (g s a)) (l : List α) (s : State) : Spares s (l.foldl g s) := by
  induction l generalizing s with
  | nil => exact Spares.refl s
  | cons a l ih => exact (hg s a).trans (ih _)

theorem spares_of_eq {s t : State} (hparts : t.parts = s.parts) (hmodels : t.models = s.models) (htables : t.tables = s.tables)
    (hcases : t.cases = s.cases) : Spares s t :=
  ⟨partKeys_congr hparts, hmodels, htables, by rw [hcases]; exact List.Subset.refl _⟩

theorem spares_of_restEvents {s t : State} (h : RestEvents s t) : Spares s t :=
  spares_of_eq (by rw [h.1]) (by rw [h.1]) (by rw [h.1]) (by rw [h.1])

theorem spares_of_posts {s t : State} (h : Posts s t) : Spares s t := spares_of_restEvents (restEvents_of_posts h)

theorem spares_of_onWire {s t : State} (h : OnWire s t) : Spares s t :=
  spares_of_eq (by rw [h.1]) (by rw [h.1]) (by rw [h.1]) (by rw [h.1])

theorem spares_of_retires {s t : State} (h : Retires s t) (hkeys : partKeys t = partKeys s) : Spares s t :=
  ⟨hkeys, by rw [h.1], by rw [h.1], by rw [cases_of_retires h]; exact List.Subset.refl _⟩

theorem spares_complete (s : State) (id : Nat) (st : Status) (o : Nat) (r : List Byte) (b : Nat) : Spares s (complete s id st o r b) :=
  spares_of_restEvents (restEvents_complete s id st o r b)

theorem spares_dropCase (s : State) (key : Nat) : Spares s (dropCase s key) :=
  spares_of_retires (retires_dropCase s key) (partKeys_dropCase s key)

theorem spares_settleState (s : State) : Spares s (settleState s) := by
  unfold settleState
  split
  · by_cases hsame : s.boot.state = properState s
    · rw [setState, if_pos hsame]
      exact Spares.refl s
    · obtain ⟨hkeys, hmodels, htables, hheads⟩ := spares_of_posts (setState_changes s _ hsame)
      exact ⟨hkeys, hmodels, htables, hheads⟩
  · exact Spares.refl s

theorem spares_removeContract (s : State) (h : Nat) : Spares s (removeContract s h) := by
  unfold removeContract
  split
  · exact Spares.refl s
  · dsimp only
    split
    · exact (spares_of_onWire (onWire_releaseShards s _)).trans (spares_of_eq rfl rfl rfl rfl)
    · exact spares_of_eq rfl rfl rfl rfl

theorem spares_deviceSignal (s : State) (n add : Nat) (remote : Bool) : Spares s (deviceSignal s n add remote) := by
  unfold deviceSignal
  split
  · exact Spares.refl s
  · extract_lets v counted noted
    have hnoted : Spares s noted := by
      dsimp only [noted]
      split <;> exact spares_of_eq rfl rfl rfl rfl
    refine hnoted.trans ?_
    split
    · exact ⟨partKeys_updStats _ _ _, rfl, rfl, List.Subset.refl _⟩
    · exact Spares.refl _

theorem spares_finishClose (s : State) (h : Nat) : Spares s (finishClose s h) := by
  unfold finishClose
  split
  · exact Spares.refl s
  · split
    · exact Spares.refl s
    · exact ((spares_removeContract s h).trans (spares_settleState _)).trans (spares_foldl (fun s w => spares_complete s _ _ _ _ _) _ _)

theorem spares_countDrained (s : State) (c : Case) : Spares s (countDrained s c) := by
  unfold countDrained
  split
  · exact Spares.refl s
  · exact spares_of_eq rfl rfl rfl rfl

theorem spares_withoutCase (s : State) (key : Nat) : Spares s (reapGens (withoutCase s key)) :=
  ⟨rfl, rfl, rfl, List.map_subset _ (List.filter_subset_self _)⟩

theorem spares_dropPfx (s : State) (c : Case) (whole : Bool) : Spares s (dropPfx s c whole) := spares_of_eq rfl rfl rfl rfl

theorem spares_freeCase (s : State) (c : Case) (st : Status) (late : Bool) : Spares s (freeCase s c st late) := by
  unfold freeCase
  refine Spares.trans ?_ (spares_finishClose _ _)
  refine Spares.trans ?_ (spares_complete _ _ _ _ _ _)
  refine Spares.trans ?_ (spares_withoutCase _ _)
  refine Spares.trans ?_ (spares_dropPfx _ c true)
  refine Spares.trans ?_ (spares_countDrained _ c)
  refine Spares.trans ?_ (spares_dropCase _ _)
  split
  · split
    · exact Spares.refl s
    · exact spares_deviceSignal s _ _ _
  · exact Spares.refl s

theorem spares_hostWrite (s : State) (f addr : Nat) (b : List Byte) : Spares s (hostWrite s f addr b) := spares_of_eq rfl rfl rfl rfl

theorem spares_writeResult (s : State) (c : Case) (st : Status) (late ok : Bool) : Spares s (writeResult s c st late ok) := by
  unfold writeResult
  extract_lets out passages listed
  have hlisted : Spares s listed := by
    dsimp only [listed]
    split
    · exact (spares_hostWrite s _ _ _).trans (spares_hostWrite _ _ _ _)
    · exact Spares.refl s
  exact (hlisted.trans (spares_hostWrite _ _ _ _)).trans (spares_hostWrite _ _ _ _)

theorem spares_countCase (s : State) (c : Case) (st : Status) : Spares s (countCase s c st) := spares_of_eq rfl rfl rfl rfl

theorem spares_issueResult (s : State) (c : Case) (st : Status) (late ok : Bool) : Spares s (issueResult s c st late ok) := by
  unfold issueResult
  extract_lets noted d refused st'
  have hnoted : Spares s noted := by
    dsimp only [noted]
    split <;> exact spares_of_eq rfl rfl rfl rfl
  refine hnoted.trans ?_
  split
  · exact ((spares_writeResult noted c st late ok).trans (spares_countCase _ c st)).trans (spares_freeCase _ _ _ _)
  · have hrefused : Spares noted refused := spares_of_eq rfl rfl rfl rfl
    exact (hrefused.trans (spares_countCase _ _ _)).trans (spares_freeCase _ _ _ _)

theorem spares_cancelCase (s : State) (c : Case) : Spares s (cancelCase s c) := by
  obtain ⟨heq, -⟩ := endsCases_endCase s c.hd.key .caseCancelled 0
  refine ⟨partKeys_dropCase s c.hd.key, by rw [cancelCase, heq], by rw [cancelCase, heq], ?_⟩
  rw [cancelCase, endCase_cases, map_modifyWhere (v := Case.hd) s.cases _ (by exact fun x => abortMark_hd x)]
  exact List.Subset.refl _

theorem spares_cancelNow (s : State) (c : Case) : Spares s (cancelNow s c) := by
  unfold cancelNow
  dsimp only
  split
  · exact (spares_cancelCase s c).trans (spares_issueResult _ _ _ _ _)
  · exact spares_cancelCase s c

end Sys2Proof.Machine
end

section
/-! PROOFS. The end of a partition (R62). -/

namespace Sys2Proof.Machine

/-! ## Its cases -/

theorem key_ne_of_caseOf_none {s : State} {key : Nat} (h : caseOf s key = none) : ∀ x ∈ s.cases, x.hd.key ≠ key := fun x hx => by
  simpa using List.find?_eq_none.1 h x hx

theorem key_ne_of_mem_cancelNow {s : State} {c : Case} : ∀ x ∈ (cancelNow s c).cases, x.hd.key ≠ c.hd.key := by
  unfold cancelNow
  dsimp only
  split
  · rename_i x hx
    rw [← key_of_caseOf hx]
    exact key_ne_of_caseOf_none (caseOf_issueResult _ x _ _ _)
  · exact key_ne_of_caseOf_none ‹_›

/-- A case that a frame keeps has a namesake before. -/
theorem Spares.exists_case {s t : State} (h : Spares s t) {x : Case} (hx : x ∈ t.cases) : ∃ y ∈ s.cases, y.hd = x.hd :=
  List.mem_map.1 (h.heads (List.mem_map_of_mem hx))

theorem key_ne_of_mem_foldl_cancelNow {l : List Case} {s : State} {x : Case} (hx : x ∈ (l.foldl cancelNow s).cases) :
    ∀ c ∈ l, x.hd.key ≠ c.hd.key := by
  induction l generalizing s with
  | nil => exact fun c hc => absurd hc List.not_mem_nil
  | cons c l ih =>
    rw [List.foldl_cons] at hx
    obtain ⟨y, hy, hhd⟩ := (spares_foldl (g := cancelNow) spares_cancelNow l (cancelNow s c)).exists_case hx
    have hkey := key_ne_of_mem_cancelNow y hy
    rw [hhd] at hkey
    exact List.forall_mem_cons.2 ⟨hkey, ih hx⟩

/-- The live cases of a partition cancelled, with their records issued. -/
def casesCancelled (s : State) (i : Nat) : State := (s.cases.filter fun c => c.hd.owner == i).foldl cancelNow s

theorem spares_casesCancelled (s : State) (i : Nat) : Spares s (casesCancelled s i) := spares_foldl spares_cancelNow _ s

theorem owner_ne_of_mem_casesCancelled {s : State} {i : Nat} : ∀ c ∈ (casesCancelled s i).cases, c.hd.owner ≠ i := by
  intro c hc howner
  obtain ⟨y, hy, hhd⟩ := (spares_casesCancelled s i).exists_case hc
  have hlive : y ∈ s.cases.filter fun c => c.hd.owner == i := List.mem_filter.2 ⟨hy, by simpa [hhd] using howner⟩
  exact key_ne_of_mem_foldl_cancelNow hc y hlive (congrArg _ hhd.symm)

/-! ## Its waits -/

theorem restEvents_foldl {α : Type} {g : State → α → State} (hg : ∀ s a, RestEvents s (g s a)) (l : List α) (s : State) :
    RestEvents s (l.foldl g s) := by
  induction l generalizing s with
  | nil => exact RestEvents.refl s
  | cons a l ih => exact (hg s a).trans (ih _)

/-- The waits of a partition taken out. -/
def withoutWaits (s : State) (i : Nat) : State := { s with waits := s.waits.filter fun w => w.owner != i }

theorem restEvents_endWaits (s : State) (i : Nat) (st : Status) : RestEvents (withoutWaits s i) (endWaits s i st) := by
  unfold endWaits
  exact restEvents_foldl (g := fun s w => complete s (WaitRec.msg w) st) (fun s w => restEvents_complete s w.msg st _ _ _) _ _

/-! ## Its objects -/

theorem undoBg_models (s : State) (b : BgOp) : (undoBg s b).models = s.models := by
  unfold undoBg
  split
  · rfl
  · dsimp only
    split
    · exact ((spares_removeContract s _).trans (spares_settleState _)).models
    · rfl
  · split <;> rfl
  · exact (clearBusy_objects s _).1

/-- An operation that is undone takes a table of its own partition at most. -/
theorem undoBg_tables {s : State} {b : BgOp} (h : ∀ x ∈ s.tables, x.owner ≠ b.owner) : (undoBg s b).tables = s.tables := by
  have hkept (handle : Nat) : s.tables.filter (fun x => !(x.handle == handle && x.owner == b.owner)) = s.tables :=
    List.filter_eq_self.2 fun x hx => by simp [h x hx]
  unfold undoBg
  split
  · rfl
  · rename_i handle _ _ _ _
    dsimp only
    split
    · rw [((spares_removeContract s _).trans (spares_settleState _)).tables]
      exact hkept handle
    · exact hkept handle
  · split <;> rfl
  · exact (clearBusy_objects s _).2.1

theorem foldl_undoBg_objects {l : List BgOp} {s : State} {i : Nat} (hl : ∀ b ∈ l, b.owner = i) (h : ∀ x ∈ s.tables, x.owner ≠ i) :
    (l.foldl undoBg s).models = s.models ∧ (l.foldl undoBg s).tables = s.tables := by
  induction l generalizing s with
  | nil => exact ⟨rfl, rfl⟩
  | cons b l ih =>
    obtain ⟨hb, hl⟩ := List.forall_mem_cons.1 hl
    have htables := undoBg_tables (b := b) (hb ▸ h)
    obtain ⟨hm, ht⟩ := ih (s := undoBg s b) hl (by rwa [htables])
    exact ⟨hm.trans (undoBg_models s b), ht.trans htables⟩

theorem partKeys_undoBg (s : State) (b : BgOp) : partKeys (undoBg s b) = partKeys s := by
  unfold undoBg
  split
  · rfl
  · dsimp only
    split
    · exact ((spares_removeContract s _).trans (spares_settleState _)).keys
    · rfl
  · split <;> rfl
  · unfold clearBusy
    split <;> rfl

theorem spares_withoutContracts (s : State) (i : Nat) : Spares s (withoutContracts s i) := spares_foldl spares_removeContract _ s

theorem partKeys_freeObjects (s : State) (i : Nat) : partKeys (freeObjects s i) = partKeys s := by
  rw [freeObjects_eq]
  exact (partKeys_dropCmds _ _).trans ((partKeys_foldl partKeys_undoBg _ _).trans (spares_withoutContracts s i).keys)

/-- Of the models and the tables, exactly those of the partition go. -/
theorem freeObjects_objects (s : State) (i : Nat) :
    (freeObjects s i).models = s.models.filter (fun x => x.owner != i) ∧
      (freeObjects s i).tables = s.tables.filter (fun x => x.owner != i) := by
  have hcontracts := spares_withoutContracts s i
  have hdead := retires_dropCmds (abandonBg (withoutObjects (withoutContracts s i) i) fun b => b.owner == i)
  obtain ⟨hmodels, htables⟩ := foldl_undoBg_objects (s := withoutObjects (withoutContracts s i) i) (i := i)
    (l := (withoutObjects (withoutContracts s i) i).bg.filter fun b => b.owner == i)
    (fun b hb => eq_of_beq (List.mem_filter.1 hb).2) ne_of_mem_filter_bne
  rw [freeObjects_eq, dropDeadBg, (hdead _).1]
  constructor
  · rw [← hcontracts.models]
    exact hmodels
  · rw [← hcontracts.tables]
    exact htables

/-! ## The whole -/

/-- Nothing that partition `i` owned is left, and of the models and the tables nothing else has gone. -/
structure Emptied (s t : State) (i : Nat) : Prop where
  models : t.models = s.models.filter fun x => x.owner != i
  tables : t.tables = s.tables.filter fun x => x.owner != i
  indexes : ∀ x ∈ t.indexes, x.owner ≠ i
  pfxs : ∀ x ∈ t.pfxs, x.owner ≠ i
  contracts : ∀ k ∈ t.contracts, k.owner ≠ i
  waits : ∀ w ∈ t.waits, w.owner ≠ i
  bg : ∀ b ∈ t.bg, b.owner ≠ i
  cases : ∀ c ∈ t.cases, c.hd.owner ≠ i

/-- What the end of a partition leaves (R62): the others, and neither what it owned nor its cairns. -/
structure Destroyed (s t : State) (p : Partition) : Prop where
  keys : partKeys t = (partKeys s).filter fun x => x.1 != p.id
  emptied : Emptied s t p.id
  cairns : ∀ c ∈ t.cairns, ¬ (p.cfg.cairnFirst ≤ c.num ∧ c.num < p.cfg.cairnFirst + p.cfg.cairnCount)

/-- The frees of objects empty the partition of all but its cases and its waits. -/
theorem emptied_freeObjects {w : State} {i : Nat} (hwaits : ∀ x ∈ w.waits, x.owner ≠ i) (hcases : ∀ c ∈ w.cases, c.hd.owner ≠ i) :
    Emptied w (freeObjects w i) i := by
  obtain ⟨hmodels, htables⟩ := freeObjects_objects w i
  have hfreed := erases_freeObjects w i
  rw [freeObjects_eq] at hmodels htables hfreed ⊢
  have hdead := erases_dropDeadBg (abandonBg (withoutObjects (withoutContracts w i) i) fun b => b.owner == i)
  have hafter := (erases_abandonBg (withoutObjects (withoutContracts w i) i) fun b => b.owner == i).trans hdead
  refine
    { models := hmodels, tables := htables, indexes := fun x hx => ?_, pfxs := fun x hx => ?_
      contracts := fun k hk => owner_ne_of_mem_withoutContracts k (hafter.contracts hk)
      waits := fun x hx => hwaits x (hfreed.waits hx)
      bg := fun b hb => abandonBg_owners _ i b (hdead.bg hb)
      cases := fun c hc => hcases c (hfreed.cases hc) }
  · obtain ⟨y, hy, hyx⟩ := List.mem_map.1 (hafter.indexes (List.mem_map_of_mem hx))
    exact hyx ▸ ne_of_mem_filter_bne y hy
  · obtain ⟨y, hy, hyx⟩ := List.mem_map.1 (hafter.pfxs (List.mem_map_of_mem hx))
    exact hyx ▸ ne_of_mem_filter_bne y hy

/-- A state with the same models and tables is emptied to the same. -/
theorem Emptied.of_objects {s u t : State} {i : Nat} (h : Emptied u t i) (hmodels : u.models = s.models) (htables : u.tables = s.tables) :
    Emptied s t i :=
  ⟨hmodels ▸ h.models, htables ▸ h.tables, h.indexes, h.pfxs, h.contracts, h.waits, h.bg, h.cases⟩

/-- Whatever comes to no object leaves a partition emptied. -/
theorem Emptied.of_erases {s t u : State} {i : Nat} (h : Emptied s t i) (he : Erases t u) (hs : Spares t u) : Emptied s u i := by
  refine
    { models := hs.models.trans h.models, tables := hs.tables.trans h.tables, indexes := fun x hx => ?_, pfxs := fun x hx => ?_
      contracts := fun k hk => h.contracts k (he.contracts hk)
      waits := fun w hw => h.waits w (he.waits hw)
      bg := fun b hb => h.bg b (he.bg hb)
      cases := fun c hc => h.cases c (he.cases hc) }
  · obtain ⟨y, hy, hyx⟩ := List.mem_map.1 (he.indexes (List.mem_map_of_mem hx))
    exact hyx ▸ h.indexes y hy
  · obtain ⟨y, hy, hyx⟩ := List.mem_map.1 (he.pfxs (List.mem_map_of_mem hx))
    exact hyx ▸ h.pfxs y hy

theorem Destroyed.of_restEvents {s t u : State} {p : Partition} (h : Destroyed s t p) (hr : RestEvents t u) : Destroyed s u p := by
  obtain ⟨hkeys, ⟨hmodels, htables, hindexes, hpfxs, hcontracts, hwaits, hbg, hcases⟩, hcairns⟩ := h
  obtain ⟨hframe, -⟩ := hr
  rw [hframe]
  exact ⟨hkeys, ⟨hmodels, htables, hindexes, hpfxs, hcontracts, hwaits, hbg, hcases⟩, hcairns⟩

/-- The start of a message touches no partition, model or table. -/
theorem Destroyed.of_startMsg {s t : State} {x : MsgCtx} {p : Partition} (h : Destroyed (startMsg s x) t p) : Destroyed s t p := by
  have hspares := spares_of_restEvents (restEvents_startMsg s x)
  exact ⟨hspares.keys ▸ h.keys, h.emptied.of_objects hspares.models hspares.tables, h.cairns⟩

/-- A change of the module's state leaves the destruction as it is. -/
theorem Destroyed.settled {s t : State} {p : Partition} (h : Destroyed s t p) : Destroyed s (settleState t) p :=
  ⟨(spares_settleState t).keys.trans h.keys, h.emptied.of_erases (erases_settleState t) (spares_settleState t),
    by rw [settleState_cairns]; exact h.cairns⟩

/-- The partition's cairns are free, and it and its accounts are gone. -/
def partGone (s : State) (p : Partition) : State := clearAccounts (withoutPart (freeCairns s p) p.id) p.id

theorem destroyed_partGone {s t : State} {p : Partition} (hkeys : partKeys t = partKeys s) (h : Emptied s t p.id) :
    Destroyed s (partGone t p) p := by
  have hgone : partKeys (partGone t p) = (partKeys t).filter fun x => x.1 != p.id := by
    rw [partKeys, partKeys, List.filter_map]
    rfl
  have hcairns : ∀ c ∈ (partGone t p).cairns, ¬ (p.cfg.cairnFirst ≤ c.num ∧ c.num < p.cfg.cairnFirst + p.cfg.cairnCount) :=
    fun c hc hin => by simpa [hin] using (List.mem_filter.1 hc).2
  refine ⟨by rw [hgone, hkeys], ?_, hcairns⟩
  exact ⟨h.models, h.tables, h.indexes, h.pfxs, h.contracts, h.waits, h.bg, h.cases⟩

/-- The state before the partition's objects are freed: its cases are cancelled and its waits completed. -/
def workEnded (s : State) (i : Nat) : State := endWaits (casesCancelled s i) i .partitionNotOpen

theorem spares_workEnded (s : State) (i : Nat) : Spares s (workEnded s i) := by
  have hwaits : Spares (casesCancelled s i) (withoutWaits (casesCancelled s i) i) := spares_of_eq rfl rfl rfl rfl
  exact ((spares_casesCancelled s i).trans hwaits).trans (spares_of_restEvents (restEvents_endWaits (casesCancelled s i) i _))

theorem workEnded_cases (s : State) (i : Nat) : (workEnded s i).cases = (casesCancelled s i).cases := by
  rw [workEnded, (restEvents_endWaits (casesCancelled s i) i _).1]
  rfl

theorem workEnded_waits (s : State) (i : Nat) : (workEnded s i).waits = (casesCancelled s i).waits.filter fun w => w.owner != i := by
  rw [workEnded, (restEvents_endWaits (casesCancelled s i) i _).1]
  rfl

theorem emptied_workEnded (s : State) (i : Nat) : Emptied s (freeObjects (workEnded s i) i) i := by
  have hspares := spares_workEnded s i
  have hemptied := emptied_freeObjects (w := workEnded s i) (i := i) (by rw [workEnded_waits]; exact ne_of_mem_filter_bne)
    (by rw [workEnded_cases]; exact owner_ne_of_mem_casesCancelled)
  exact hemptied.of_objects hspares.models hspares.tables

theorem destroyPartition_eq (s : State) (p : Partition) :
    destroyPartition s p =
      settleState (postPartition (partGone (freeObjects (workEnded s p.id) p.id) p) p.id (givenTiers p.cfg) 5) := rfl

theorem destroyed_destroyPartition (s : State) (p : Partition) : Destroyed s (destroyPartition s p) p := by
  have hgone := destroyed_partGone ((partKeys_freeObjects _ _).trans (spares_workEnded s p.id).keys) (emptied_workEnded s p.id)
  rw [destroyPartition_eq]
  exact (hgone.of_restEvents (restEvents_of_posts (posts_postPartition _ p.id (givenTiers p.cfg) 5))).settled

section
variable {s : State} {f : Nat} {src : Src} {m : MsgIn} {p : Partition} (hd : Head s f src 0x0103 m)
  (hp : partOf s (byteAt m.bytes 32) = some p) (hheld : controlHeld s m.bytes = false) (hact : byteAt m.bytes 33 = 3)
include hd hp hheld hact

/-- PARTITION_CONTROL DESTROY does what `destroyPartition` does. -/
theorem partitionControl_destroys :
    ∃ t, exec (.partitionControl f src) s = .next t ∧ RestEvents (destroyPartition (startMsg s (ctxOf s f src m)) p) t := by
  rw [exec_partitionControl, execPartitionControl]
  refine onMessage_restEvents (id := s.nextMsg) (off := 0xFFFF) (b := 0) (st := .ok) (res := []) hd hheld ?_
  simp only [ctxOf_bytes, partOf_startMsg, hp, hact]
  rfl

theorem partitionControl_destroyed : ∃ t, exec (.partitionControl f src) s = .next t ∧ Destroyed s t p := by
  obtain ⟨t, ht, hrest⟩ := partitionControl_destroys hd hp hheld hact
  have hdestroyed := (destroyed_destroyPartition (startMsg s (ctxOf s f src m)) p).of_restEvents hrest
  exact ⟨t, ht, hdestroyed.of_startMsg⟩

end

/-- Settles O4: the message's command ends the partition, and the answer leaves it but for the message path. -/
theorem partitionDestroyFreesAll : Obligations.PartitionDestroyFreesAll := by
  intro s f src m p _ hd hp hheld hact
  obtain ⟨t, ht, hkeys, hemptied, hcairns⟩ := partitionControl_destroyed hd hp hheld hact
  obtain ⟨hmodels, htables, hindexes, hpfxs, hcontracts, hwaits, hbg, hcases⟩ := hemptied
  refine ⟨t, ht, hkeys.trans ?_, hmodels, htables, hindexes, hpfxs, hcontracts, hwaits, hbg, hcases, hcairns⟩
  rw [partKeys, List.filter_map]
  rfl

end Sys2Proof.Machine
end

section
/-! PROOFS. A CONTRACT_OPEN in a state whose next handle is 0 (R83, R264). -/

namespace Sys2Proof.Machine

/-! ## The state -/

/-- The image of a small model with a classifier head, of 300 tokens. -/
def smallImage (role : ModelRole) : ModelImage where
  parses := true
  signatureOk := true
  statedLen := 100
  imageId := 1
  role := role
  version := 1
  weightBytes := 100
  shape := ⟨2, 4, 4, 64⟩
  vocab := 300
  maxPos := 1000
  enc := ⟨256, 0, 4, 16, [], [1]⟩
  gen := ⟨true, 2, [], 64, [], true⟩
  footprint := 100
  workArea := 0
  lookahead := 0
  tensors := []
  acts := []
  arrays := 16
  schedule := []

/-- A live index of two empty lists. -/
def emptyLists : Index where
  handle := 20
  owner := 0
  shared := false
  cfg := ⟨2, 32, 0, 0, 1, 4, 100⟩
  state := .live
  hdr := none
  segs := 1
  image := []
  centroids := []
  codebook := []
  centScale := fpOfInt 1
  gen := 1
  lists := [⟨10, []⟩, ⟨10, []⟩]
  scree := []
  nextSeq := 1
  old := none
  cache := ⟨0, []⟩
  listPages := 1
  bulkBusy := false
  snapBusy := false

/-- The record of a FLOW contract over encoder 10, index 20 and generator 12 that generates nothing (R106, R155, R193). -/
def openRecord : List Byte := fieldsAt 448
  [(0, 2, 2), (2, 2, 448), (4, 1, 1), (6, 1, 1), (8, 4, 6000000), (12, 4, 1000), (16, 1, 1), (18, 2, 4), (20, 4, 6000000),
   (28, 4, 0xFFFFFFFF), (32, 4, 10), (36, 4, 20), (44, 4, 12), (60, 2, 1), (62, 2, 3), (76, 4, 512), (81, 1, 3), (82, 2, 16),
   (88, 4, 256), (92, 4, 128), (96, 4, 384), (100, 4, 16),
   (256, 2, 2), (258, 2, 1), (260, 4, 16), (264, 2, 16), (268, 4, 16), (272, 1, 1), (275, 1, 1),
   (276, 4, 0xFFFFFFFF), (280, 4, 0xFFFFFFFF), (284, 4, 0xFFFFFFFF), (288, 4, 0xFFFFFFFF), (292, 4, 0xFFFFFFFF),
   (384, 4, 64), (388, 4, 64)]

/-- A CONTRACT_OPEN with that record and a response buffer of 64 KiB. -/
def openMessage : MsgIn :=
  { index := 0, obsTs := 0
    bytes := fieldsAt 64 [(0, 2, 0x0501), (2, 2, 5), (4, 2, 64), (8, 8, 0x8000), (16, 4, 65536), (20, 1, 2), (24, 8, 77),
      (32, 8, 0x10000), (40, 4, 448)] }

/-- A host whose BARs lie apart from the addresses of the message. -/
def farHost : HostView := { grants := [], pfBar := 0x7FFF00000000, vfBar := 0x7FFF10000000 }

/-- A READY module, its dies awake, with what the record names; the next handle is 0, the number by which the model marks an open that
opens nothing. -/
def unnumbered : State :=
  let s := State.reset
  { s with
    boot := { s.boot with state := .ready }
    power := { s.power with dies := s.power.dies.map fun d => { d with aclkOn := true, vset := 576, cores := List.replicate 4 .ready } }
    parts := [{ partZero s with cfg := { (partZero s).cfg with t1Bw := 500, t2Bw := 500 } }]
    mail := modifyAt s.mail 0 fun mb => { mb with st := { mb.st with running := true }, inlQ := [openMessage] }
    pcie := { s.pcie with linkUp := true }
    models := [newModel 10 0 false true .t1 (smallImage .encoder), newModel 12 0 false true .t1 (smallImage .generator)]
    indexes := [emptyLists]
    nextHandle := 0 }

/-! ## The outcome -/

/-- The record as read over the generator's 300 tokens. -/
def openTerms : ContractRec := recordAt openRecord (((modelOf unnumbered (refsAt openRecord).genModel).map fun k => k.img.vocab).getD 0)

/-- The figures of its proof. -/
def openProofFigures : ProofFigures := openFigures unnumbered 0 openTerms { forms := [] } []

/-- Whether a command ends with no BACKGROUND operation. -/
def endsIdle : Res → Bool
  | .next t => t.bg.isEmpty
  | _ => false

theorem unnumbered_head : Fresh unnumbered ∧ Head unnumbered 0 .inl 0x0501 openMessage ∧ unnumbered.strata.opens = [] ∧
    addrCheck unnumbered farHost 0 false (le openMessage.bytes 32 8) (le openMessage.bytes 40 4) 32 = none ∧
    respCheck unnumbered farHost 0 4096 openMessage.bytes = none ∧ bitOf (byteAt openMessage.bytes 44) 0 = false := by
  decide +kernel

theorem unnumbered_proves : recordCheck unnumbered farHost 0 openRecord (le openMessage.bytes 40 4) openTerms = none ∧
    quotaCheck unnumbered 0 openTerms openProofFigures = none ∧ openTerms.terms.topology = 0 ∧
    (prove unnumbered 0 openTerms openProofFigures []).reason = 0 ∧ diesAwake unnumbered = true ∧
    openProofFigures.t1Pages + openProofFigures.t2Pages ≠ 0 := by
  decide +kernel

/-- The contract opens under handle 0, for which the model zeroes no frames. -/
theorem unnumbered_zeroes_nothing : endsIdle (exec (.contractOpen 0 .inl farHost (.data openRecord) { forms := [] }) unnumbered) = true := by
  decide +kernel

/-- Refutes O11: nothing says that the next handle is not 0, and under handle 0 the model zeroes none of the contract's pages before the
message completes. -/
theorem not_contractOpenAdmits : ¬ Obligations.ContractOpenAdmits := by
  intro h
  obtain ⟨hfresh, hhead, hopens, haddr, hresp, hdry⟩ := unnumbered_head
  obtain ⟨hrecord, hquota, htopology, hreason, hawake, hpages⟩ := unnumbered_proves
  obtain ⟨-, -, hopen⟩ :=
    h unnumbered 0 .inl openMessage farHost openRecord { forms := [] } hfresh hhead hopens haddr hresp hrecord hquota htopology
  obtain ⟨t, ht, -, hzeroes, -⟩ := hopen hreason hdry hawake
  unfold openProofFigures openTerms at hpages
  obtain ⟨-, o, ho, -⟩ := hzeroes hpages
  have hidle := unnumbered_zeroes_nothing
  rw [ht, endsIdle, List.isEmpty_iff] at hidle
  rw [hidle] at ho
  exact List.not_mem_nil ho

end Sys2Proof.Machine
end

section
/-! PROOFS. Arrivals and the link's rate: what a token, a window and a fall of the link leave of every contract (R119, R166, R392). -/

namespace Sys2Proof.Machine

/-! ## One contract -/

theorem contractOf_updContract_of_ne (s : State) {h j : Nat} {g : Contract → Contract} (hg : ∀ x, (g x).handle = x.handle) (hj : j ≠ h) :
    contractOf (updContract s h g) j = contractOf s j := by
  rw [contractOf, updContract, find?_modifyWhere _ _ _ _ fun x _ => by rw [hg]]
  refine (Option.map_congr fun x hx => ?_).trans Option.map_id'
  have hxj := List.find?_some hx
  rw [if_neg fun hk => hj ((beq_iff_eq.1 hxj).symm.trans (beq_iff_eq.1 hk))]

/-- A token comes to the bucket of an open RATE contract (R119). -/
theorem arrivalToken_accrues {s : State} {h : Nat} {k : Contract} (hk : contractOf s h = some k) (hkind : k.rcd.terms.arrivalKind = 1)
    (hopen : isOpen k = true) :
    ∃ t k', exec (.arrivalTokenAccrual h) s = .next t ∧ contractOf t h = some k' ∧
      k' = { k with arrival := { k.arrival with tokens := (k.arrival.tokens ++ [s.tclk]).take k.rcd.terms.burst } } ∧
      t = { s with contracts := t.contracts } ∧ (∀ j, j ≠ h → contractOf t j = contractOf s j) :=
  ⟨_, _, rfl, contractOf_updContract hk (withToken_handle s.tclk), if_pos ⟨hkind, hopen⟩, rfl,
    fun _ hj => contractOf_updContract_of_ne s (withToken_handle s.tclk) hj⟩

/-- The pending epoch of an open PERIOD contract takes effect at the end of a window that it lies before (R166). -/
theorem periodWindow_ends {s : State} {h e : Nat} {k : Contract} (hk : contractOf s h = some k) (hkind : k.rcd.terms.arrivalKind = 2)
    (hopen : isOpen k = true) (hpend : k.arrival.pendingEpoch = some e) (he : e < (windowStart k k.arrival.epoch s.tclk).toNat) :
    ∃ t k', exec (.periodWindowEnd h) s = .next t ∧ contractOf t h = some k' ∧
      k' = { k with arrival := { k.arrival with
        epoch := e, pendingEpoch := none, openFrom := (windowStart k k.arrival.epoch s.tclk).toNat } } ∧
      t = { s with contracts := t.contracts } ∧ (∀ j, j ≠ h → contractOf t j = contractOf s j) := by
  refine ⟨updContract s h (atWindowEnd s.tclk), atWindowEnd s.tclk k, rfl, contractOf_updContract hk (atWindowEnd_handle s.tclk), ?_, rfl,
    fun _ hj => contractOf_updContract_of_ne s (atWindowEnd_handle s.tclk) hj⟩
  rw [atWindowEnd, hpend]
  exact if_pos ⟨hkind, hopen, he⟩

/-! ## Proofs made again -/

/-- Every contract has kept its state, and nothing but the contracts has changed. -/
def Reproves (s t : State) : Prop :=
  ∃ g : Contract → Contract, (∀ k, (g k).state = k.state) ∧ t = { s with contracts := s.contracts.map g }

theorem Reproves.refl (s : State) : Reproves s s := ⟨id, fun _ => rfl, by rw [List.map_id]⟩

theorem Reproves.trans {a b c : State} (h : Reproves a b) (k : Reproves b c) : Reproves a c := by
  obtain ⟨g, hg, rfl⟩ := h
  obtain ⟨g', hg', rfl⟩ := k
  exact ⟨g' ∘ g, fun k => (hg' _).trans (hg k), by rw [List.map_map]⟩

theorem reproves_foldl {α : Type} {g : State → α → State} (hg : ∀ s a, Reproves s (g s a)) (l : List α) (s : State) :
    Reproves s (l.foldl g s) := by
  induction l generalizing s with
  | nil => exact Reproves.refl s
  | cons a l ih => exact (hg s a).trans (ih _)

theorem reproves_updContract (s : State) (h : Nat) {g : Contract → Contract} (hg : ∀ k, (g k).state = k.state) :
    Reproves s (updContract s h g) := by
  refine ⟨fun k => if k.handle == h then g k else k, fun k => ?_, rfl⟩
  dsimp only
  split
  · exact hg k
  · rfl

theorem reproves_reproveAll (s : State) : Reproves s (reproveAll s) := by
  refine reproves_foldl (fun s k => ?_) _ s
  split
  · exact reproves_updContract s _ fun _ => rfl
  · exact Reproves.refl s

theorem Reproves.states {s t : State} (h : Reproves s t) : t.contracts.map Contract.state = s.contracts.map Contract.state := by
  obtain ⟨g, hg, rfl⟩ := h
  dsimp only
  rw [List.map_map]
  exact List.map_congr_left fun k _ => hg k

theorem Reproves.cases_eq {s t : State} (h : Reproves s t) : t.cases = s.cases := by
  obtain ⟨g, -, rfl⟩ := h
  rfl

/-! ## Revocations -/

/-- A contract that is revoked, for a cause and at an instant (R124). -/
def revokedFor (ts : Nat) (cause st : Status) (k : Contract) : Contract :=
  { k with state := .revoked, revokeCause := some cause, ended := some (ts, st), stageCairns := [] }

theorem contracts_of_endsCases {s t : State} (h : EndsCases s t) : t.contracts = s.contracts := by
  rw [h.1]

theorem tclk_of_endsCases {s t : State} (h : EndsCases s t) : t.tclk = s.tclk := by
  rw [h.1]

theorem contracts_of_onWire {s t : State} (h : OnWire s t) : t.contracts = s.contracts := by
  rw [h.1]

theorem tclk_of_onWire {s t : State} (h : OnWire s t) : t.tclk = s.tclk := by
  rw [h.1]

theorem endsCases_endCases (s : State) (p : Case → Bool) (st : Status) : EndsCases s (endCases s p st) := by
  rw [endCases]
  exact endsCases_foldl (by exact fun s c => endsCases_endCase s c.hd.key st (stageNum c.stage)) _ s

/-- The contract of a handle is revoked, once. -/
theorem revoke_contracts {s : State} {h : Nat} {k : Contract} (hk : contractOf s h = some k) (hopen : k.state ≠ .revoked) (cause st : Status) :
    (revoke s cause st h).contracts = modifyWhere s.contracts (fun x => x.handle == h) (revokedFor s.tclk cause st) := by
  have hended := endsCases_endCases s (fun c => c.hd.contract == h) st
  have hreleased := onWire_releaseShards (endCases s (fun c => c.hd.contract == h) st) k
  unfold revoke
  rw [hk]
  dsimp only [unplace]
  rw [if_neg hopen, updSched_contracts, (posts_postEvent _ _ _ _).1]
  dsimp only [updTelem]
  rw [(posts_record _ _ _).1]
  dsimp only [updContract]
  rw [contracts_of_onWire hreleased, tclk_of_onWire hreleased, contracts_of_endsCases hended, tclk_of_endsCases hended]
  rfl

theorem revoke_of_none {s : State} {h : Nat} (hk : contractOf s h = none) (cause st : Status) : revoke s cause st h = s := by
  rw [revoke, hk]

theorem revoke_of_revoked {s : State} {h : Nat} {k : Contract} (hk : contractOf s h = some k) (hdone : k.state = .revoked) (cause st : Status) :
    revoke s cause st h = s := by
  rw [revoke, hk]
  exact if_pos hdone

/-- A contract that may have been revoked since: it has kept its handle and what it counts on of the link. -/
structure MaybeRevoked (a b : Contract) : Prop where
  handle : b.handle = a.handle
  rate : b.linkRate = a.linkRate
  width : b.linkWidth = a.linkWidth
  state : b.state = a.state ∨ b.state = .revoked

theorem MaybeRevoked.refl (k : Contract) : MaybeRevoked k k := ⟨rfl, rfl, rfl, .inl rfl⟩

theorem MaybeRevoked.trans {a b c : Contract} (h : MaybeRevoked a b) (k : MaybeRevoked b c) : MaybeRevoked a c :=
  ⟨k.handle.trans h.handle, k.rate.trans h.rate, k.width.trans h.width, k.state.elim (fun hbc => hbc ▸ h.state) .inr⟩

theorem MaybeRevoked.isOpen {a b : Contract} (h : MaybeRevoked a b) (hb : Machine.isOpen b = true) : Machine.isOpen a = true := by
  have hne : b.state ≠ .revoked := of_decide_eq_true hb
  exact decide_eq_true (h.state.resolve_right hne ▸ hne)

/-- Every contract is there still, in its place. -/
def RevokesSome (s t : State) : Prop :=
  ∃ g : Contract → Contract, (∀ k, MaybeRevoked k (g k)) ∧ t.contracts = s.contracts.map g

theorem RevokesSome.refl (s : State) : RevokesSome s s := ⟨id, MaybeRevoked.refl, (List.map_id _).symm⟩

theorem RevokesSome.trans {a b c : State} (h : RevokesSome a b) (k : RevokesSome b c) : RevokesSome a c := by
  obtain ⟨g, hg, hab⟩ := h
  obtain ⟨g', hg', hbc⟩ := k
  exact ⟨g' ∘ g, fun k => (hg k).trans (hg' _), by rw [hbc, hab, List.map_map]⟩

theorem revokesSome_revoke (s : State) (cause st : Status) (h : Nat) : RevokesSome s (revoke s cause st h) := by
  cases hk : contractOf s h with
  | none =>
    rw [revoke_of_none hk]
    exact RevokesSome.refl s
  | some k =>
    by_cases hdone : k.state = .revoked
    · rw [revoke_of_revoked hk hdone]
      exact RevokesSome.refl s
    · refine ⟨fun x => if x.handle == h then revokedFor s.tclk cause st x else x, fun x => ?_, revoke_contracts hk hdone cause st⟩
      dsimp only
      split
      · exact ⟨rfl, rfl, rfl, .inr rfl⟩
      · exact MaybeRevoked.refl x

theorem revokesSome_revokes (cause st : Status) (hs : List Nat) (s : State) : RevokesSome s (hs.foldl (revoke · cause st ·) s) := by
  induction hs generalizing s with
  | nil => exact RevokesSome.refl s
  | cons h hs ih => exact (revokesSome_revoke s cause st h).trans (ih _)

/-- A contract found after some revocations was there before. -/
theorem RevokesSome.contractOf_eq {s t : State} (h : RevokesSome s t) {j : Nat} {k : Contract} (hk : contractOf t j = some k) :
    ∃ a, contractOf s j = some a ∧ MaybeRevoked a k := by
  obtain ⟨g, hg, ht⟩ := h
  have hsame : ((fun x : Contract => x.handle == j) ∘ g) = fun x => x.handle == j := funext fun x => by
    rw [Function.comp, (hg x).handle]
  rw [contractOf, ht, List.find?_map, hsame] at hk
  obtain ⟨a, ha, rfl⟩ := Option.map_eq_some_iff.1 hk
  exact ⟨a, ha, hg a⟩

theorem contractOf_revoke {s : State} {cause st : Status} {h : Nat} {k : Contract} (hk : contractOf (revoke s cause st h) h = some k) :
    k.state = .revoked := by
  obtain ⟨a, ha, -⟩ := (revokesSome_revoke s cause st h).contractOf_eq hk
  by_cases hdone : a.state = .revoked
  · rw [revoke_of_revoked ha hdone, ha] at hk
    cases hk
    exact hdone
  · have hfound : contractOf (revoke s cause st h) h = some (revokedFor s.tclk cause st a) := by
      rw [contractOf, revoke_contracts ha hdone]
      exact contractOf_updContract (s := s) ha fun _ => rfl
    rw [hfound] at hk
    cases hk
    rfl

/-- Each of the handles is of a revoked contract afterwards. -/
theorem contractOf_revokes {cause st : Status} {hs : List Nat} {s : State} {h : Nat} {k : Contract} (hh : h ∈ hs)
    (hk : contractOf (hs.foldl (revoke · cause st ·) s) h = some k) : k.state = .revoked := by
  induction hs generalizing s with
  | nil => exact absurd hh List.not_mem_nil
  | cons j hs ih =>
    rcases List.mem_cons.1 hh with rfl | htail
    · obtain ⟨a, ha, hlater⟩ := (revokesSome_revokes cause st hs (revoke s cause st h)).contractOf_eq hk
      exact hlater.state.elim (fun hsame => hsame.trans (contractOf_revoke ha)) id
    · exact ih htail hk

/-- No contract is picked, and none is revoked. -/
theorem revokeAll_of_none (s : State) {p : Contract → Bool} (hp : ∀ k, p k = false) (cause st : Status) : revokeAll s p cause st = s := by
  rw [revokeAll, List.filter_eq_nil_iff.2 fun k _ => by rw [hp k]; exact Bool.false_ne_true]
  rfl

/-! ## A fall of the link (R392) -/

/-- What an open contract counts on of a link that has fallen. -/
def loweredTo (rate width : Nat) (k : Contract) : Contract :=
  if isOpen k then { k with linkRate := min rate k.linkRate, linkWidth := min width k.linkWidth } else k

theorem loweredTo_state (rate width : Nat) (k : Contract) : (loweredTo rate width k).state = k.state := by
  unfold loweredTo
  split <;> rfl

theorem loweredTo_le {rate width : Nat} {k : Contract} (h : isOpen (loweredTo rate width k) = true) :
    (loweredTo rate width k).linkRate ≤ rate ∧ (loweredTo rate width k).linkWidth ≤ width := by
  have hk : isOpen k = true := by rwa [isOpen, loweredTo_state] at h
  rw [loweredTo, if_pos hk]
  exact ⟨Nat.min_le_left _ _, Nat.min_le_left _ _⟩

/-- The link runs at a rate and a width since now. -/
def linkFallen (s : State) (rate width : Nat) : State :=
  { s with pcie := { s.pcie with rate := rate, width := width, fellAt := some s.tclk } }

/-- The contracts as the fall leaves them, the failed ones still to be revoked, and the fall recorded. -/
def linkNoted (s a : State) (rate width : Nat) (bad : List Nat) : State :=
  { record a 0x0106 (leBytes 2 s.pcie.rate ++ leBytes 2 rate ++ leBytes 1 s.pcie.width ++ leBytes 1 width ++ leBytes 4 bad.length) with
    contracts := a.contracts.map (loweredTo rate width) }

section
variable {s : State} {rate width : Nat}

/-- No open contract counts on more than is left. -/
theorem linkRateFall_spares (h : ∀ k ∈ s.contracts, isOpen k = true → k.linkRate ≤ rate ∧ k.linkWidth ≤ width) :
    exec (.linkRateFall rate width) s = .next { s with pcie := { s.pcie with rate := rate, width := width } } := by
  have hbelow : (s.contracts.any fun k => isOpen k && decide (rate < k.linkRate ∨ width < k.linkWidth)) = false := by
    refine List.any_eq_false.2 fun k hk hlost => ?_
    obtain ⟨hopen, hless⟩ := Bool.and_eq_true_iff.1 hlost
    have hfits := h k hk hopen
    have hless := of_decide_eq_true hless
    omega
  rw [exec_linkRateFall, execLinkRateFall]
  dsimp only
  rw [hbelow]
  rfl

theorem linkRateFall_reproves (h : ∃ k ∈ s.contracts, isOpen k = true ∧ (rate < k.linkRate ∨ width < k.linkWidth)) :
    let a := reproveAll (reproveAll (linkFallen s rate width))
    let bad := failedProofs a [] (byLevel (a.contracts.filter isOpen))
    exec (.linkRateFall rate width) s =
      .next (revokeAll (linkNoted s a rate width bad) (fun k => bad.contains k.handle) .faultHostLink .faultHostLink) := by
  have hbelow : (s.contracts.any fun k => isOpen k && decide (rate < k.linkRate ∨ width < k.linkWidth)) = true := by
    obtain ⟨k, hk, hopen, hless⟩ := h
    exact List.any_eq_true.2 ⟨k, hk, by rw [hopen, decide_eq_true hless, Bool.and_self]⟩
  rw [exec_linkRateFall, execLinkRateFall]
  dsimp only
  rw [hbelow]
  rfl

theorem linkNoted_states {a : State} (h : Reproves (linkFallen s rate width) a) (bad : List Nat) :
    (linkNoted s a rate width bad).contracts.map Contract.state = s.contracts.map Contract.state := by
  refine Eq.trans ?_ h.states
  rw [linkNoted, List.map_map]
  exact List.map_congr_left fun k _ => loweredTo_state rate width k

/-- After the revocations every contract is still listed, and an open one counts on no more than the link gives. -/
theorem RevokesSome.lowered {a t : State} {bad : List Nat} (h : RevokesSome (linkNoted s a rate width bad) t) :
    ∀ k ∈ t.contracts, isOpen k = true → k.linkRate ≤ rate ∧ k.linkWidth ≤ width := by
  obtain ⟨g, hg, ht⟩ := h
  intro k hk hopen
  rw [ht, linkNoted, List.map_map] at hk
  obtain ⟨x, -, rfl⟩ := List.mem_map.1 hk
  have hx := hg (loweredTo rate width x)
  rw [Function.comp, hx.rate, hx.width]
  exact loweredTo_le (hx.isOpen hopen)

theorem linkRateFall_revokes (h : ∃ k ∈ s.contracts, isOpen k = true ∧ (rate < k.linkRate ∨ width < k.linkWidth)) :
    let a := reproveAll (reproveAll (linkFallen s rate width))
    let bad := failedProofs a [] (byLevel (a.contracts.filter isOpen))
    ∃ t, exec (.linkRateFall rate width) s = .next t ∧ t.pcie = (linkFallen s rate width).pcie ∧
      t.contracts.length = s.contracts.length ∧
      (∀ k ∈ t.contracts, isOpen k = true → k.linkRate ≤ rate ∧ k.linkWidth ≤ width) ∧
      (bad = [] → t.cases = s.cases ∧ t.contracts.map Contract.state = s.contracts.map Contract.state) ∧
      (∀ k, contractOf t k.handle = some k → k.handle ∈ bad → k.state = .revoked) := by
  intro a bad
  have hreproves : Reproves (linkFallen s rate width) a := (reproves_reproveAll _).trans (reproves_reproveAll _)
  have hnoted : (linkNoted s a rate width bad).pcie = (linkFallen s rate width).pcie :=
    (reproveAll_pcie _).trans (reproveAll_pcie _)
  have hstates := linkNoted_states hreproves bad
  have hrevokes := revokesSome_revokes .faultHostLink .faultHostLink
    (((linkNoted s a rate width bad).contracts.filter fun k => bad.contains k.handle).map Contract.handle) (linkNoted s a rate width bad)
  refine ⟨_, linkRateFall_reproves h, (revokeAll_pcie _ _ _ _).trans hnoted, ?_, hrevokes.lowered, fun hnone => ?_, fun k hk hbad => ?_⟩
  · obtain ⟨g, -, ht⟩ := hrevokes
    have hlen := congrArg List.length hstates
    rw [List.length_map, List.length_map] at hlen
    rw [revokeAll, ht, List.length_map, hlen]
  · rw [revokeAll_of_none (p := fun k => bad.contains k.handle) _ fun k => by rw [hnone]; rfl]
    exact ⟨hreproves.cases_eq, hstates⟩
  · obtain ⟨x, hx, hlater⟩ := hrevokes.contractOf_eq hk
    refine contractOf_revokes (List.mem_map.2 ⟨x, List.mem_filter.2 ⟨List.mem_of_find?_eq_some hx, ?_⟩, hlater.handle.symm⟩) hk
    rw [← hlater.handle]
    exact List.contains_iff_mem.2 hbad

end

/-- Settles O13: a token and a window change one contract; a fall of the link leaves the contracts that fit it, and revokes those whose
proof then fails. -/
theorem arrivalsAndLinkRatesAreFollowed : Obligations.ArrivalsAndLinkRatesAreFollowed := by
  unfold Obligations.ArrivalsAndLinkRatesAreFollowed
  refine ⟨fun s h => ⟨fun k hk hkind hopen => arrivalToken_accrues hk hkind hopen,
    fun k e hk hkind hopen hpend he => periodWindow_ends hk hkind hopen hpend he⟩, fun s rate width => ⟨fun h => ?_, fun h => ?_⟩⟩
  · exact linkRateFall_spares h
  · exact linkRateFall_revokes h

end Sys2Proof.Machine
end

section
/-! PROOFS. The result of a case: its record, its completion, and the case gone (R89, R123, R233 to R236). -/

namespace Sys2Proof.Machine

/-! ## What a result is made from -/

/-- The clock, the link, the open messages and the PASIDs, from which a record and a completion are made, are as they were, and what left
the module before is still there. -/
structure SameResult (s t : State) : Prop where
  tclk : t.tclk = s.tclk
  pcie : t.pcie = s.pcie
  msgs : t.msgs = s.msgs
  pasid : ∀ f, partPasid t f = partPasid s f
  out : s.out <+: t.out

theorem SameResult.refl (s : State) : SameResult s s := ⟨rfl, rfl, rfl, fun _ => rfl, List.prefix_refl _⟩

theorem SameResult.trans {a b c : State} (h : SameResult a b) (k : SameResult b c) : SameResult a c :=
  ⟨k.tclk.trans h.tclk, k.pcie.trans h.pcie, k.msgs.trans h.msgs, fun f => (k.pasid f).trans (h.pasid f), h.out.trans k.out⟩

theorem sameResult_of_retires {s t : State} (h : Retires s t) : SameResult s t := by
  obtain ⟨hframe, hpasid⟩ := h
  exact ⟨by rw [hframe], by rw [hframe], by rw [hframe], hpasid, by rw [hframe]⟩

theorem sameResult_hostWrite (s : State) (f addr : Nat) (b : List Byte) : SameResult s (hostWrite s f addr b) :=
  ⟨rfl, rfl, rfl, fun _ => rfl, List.prefix_append _ _⟩

theorem sameResult_updTelem (s : State) (g : Telem → Telem) : SameResult s (updTelem s g) :=
  ⟨rfl, rfl, rfl, fun _ => rfl, List.prefix_refl _⟩

theorem sameResult_updContract (s : State) (h : Nat) (g : Contract → Contract) : SameResult s (updContract s h g) :=
  ⟨rfl, rfl, rfl, fun _ => rfl, List.prefix_refl _⟩

theorem sameResult_record (s : State) (code : Nat) (p : List Byte) : SameResult s (record s code p) :=
  ⟨rfl, rfl, rfl, fun _ => rfl, List.prefix_refl _⟩

/-- A signal counts on a cairn, and in its partition's telemetry. -/
theorem sameResult_deviceSignal (s : State) (n add : Nat) (remote : Bool) : SameResult s (deviceSignal s n add remote) := by
  unfold deviceSignal
  split
  · exact SameResult.refl s
  · extract_lets v counted noted
    have hnoted : SameResult s noted := by
      dsimp only [noted]
      split <;> exact ⟨rfl, rfl, rfl, fun _ => rfl, List.prefix_refl _⟩
    refine hnoted.trans ?_
    split
    · exact sameResult_of_retires (retires_updStats _ _ _)
    · exact SameResult.refl _

theorem sameResult_endResultStage (s : State) (c : Case) : SameResult s (endResultStage s c) :=
  (sameResult_updTelem s _).trans (sameResult_deviceSignal _ _ _ _)

theorem sameResult_countCase (s : State) (c : Case) (st : Status) : SameResult s (countCase s c st) :=
  (sameResult_updTelem s _).trans (sameResult_updContract _ _ _)

theorem sameResult_countDrained (s : State) (c : Case) : SameResult s (countDrained s c) := by
  unfold countDrained
  split
  · exact SameResult.refl s
  · exact sameResult_updContract s _ _

theorem SameResult.caseGranted_eq {s t : State} (h : SameResult s t) (c : Case) (write : Bool) (addr len : Nat) :
    caseGranted t c write addr len = caseGranted s c write addr len := by
  simp only [caseGranted, h.pasid, atsGrants, fnOf, grantsOf, h.pcie]

theorem recordOf_congr {s t : State} (h : SameResult s t) (c : Case) (st : Status) (late ok : Bool) :
    recordOf t c st late ok = recordOf s c st late ok := by
  simp only [recordOf, causeNow, h.tclk, h.pcie]

theorem caseResult_congr {s t : State} (h : SameResult s t) (c : Case) (late : Bool) : caseResult t c late = caseResult s c late := by
  rw [caseResult, caseResult, h.tclk]

theorem putBytes_length (v b : List Byte) (off : Nat) : (putBytes b off v).length = b.length := by
  induction v generalizing b off with
  | nil => rfl
  | cons x xs ih => rw [putBytes, ih, List.length_set]

/-- RESULT has 32 bytes (R407). -/
theorem resultAt_length (parts : List (Nat × Nat × Nat)) : (resultAt parts).length = 32 := by
  have hlen (b : List Byte) : (parts.foldl (fun r p => putBytes r p.1 (leBytes p.2.1 p.2.2)) b).length = b.length := by
    induction parts generalizing b with
    | nil => rfl
    | cons p ps ih => rw [List.foldl_cons, ih, putBytes_length]
  exact (hlen _).trans List.length_replicate

theorem caseResult_take (s : State) (c : Case) (late : Bool) : (caseResult s c late).take 32 = caseResult s c late :=
  List.take_of_length_le (Nat.le_of_eq (resultAt_length _))

/-! ## The record -/

/-- The lists of a case that reached its result are in its buffer (R233). -/
def listsWritten (s : State) (c : Case) (ok : Bool) : State :=
  if ok then
    hostWrite (hostWrite s c.hd.owner (c.hd.resultAddr + 256) (c.pass.packed.flatMap passageBytes)) c.hd.owner (c.hd.resultAddr + 4096)
      ((c.srch.cand.map candListBytes).getD [])
  else s

/-- So is its record. -/
def recordWritten (s : State) (c : Case) (st : Status) (late ok : Bool) : State :=
  hostWrite (listsWritten s c ok) c.hd.owner c.hd.resultAddr (recordOf (listsWritten s c ok) c st late ok)

/-- DONE is written last. -/
theorem writeResult_eq (s : State) (c : Case) (st : Status) (late ok : Bool) :
    writeResult s c st late ok = hostWrite (recordWritten s c st late ok) c.hd.owner (c.hd.resultAddr + 252) (leBytes 4 1) := rfl

theorem sameResult_listsWritten (s : State) (c : Case) (ok : Bool) : SameResult s (listsWritten s c ok) := by
  unfold listsWritten
  split
  · exact (sameResult_hostWrite s _ _ _).trans (sameResult_hostWrite _ _ _ _)
  · exact SameResult.refl s

theorem sameResult_recordWritten (s : State) (c : Case) (st : Status) (late ok : Bool) : SameResult s (recordWritten s c st late ok) :=
  (sameResult_listsWritten s c ok).trans (sameResult_hostWrite _ _ _ _)

theorem sameResult_writeResult (s : State) (c : Case) (st : Status) (late ok : Bool) : SameResult s (writeResult s c st late ok) :=
  (sameResult_recordWritten s c st late ok).trans (sameResult_hostWrite _ _ _ _)

/-- A write of the host's memory after `s` carries the PASID of `s`. -/
theorem hostWrite_mem_newOut {s u t : State} {f addr : Nat} {b : List Byte} (hu : SameResult s u) (ht : (hostWrite u f addr b).out <+: t.out) :
    Out.hostWrite f (partPasid s f) addr b ∈ newOut s t := by
  refine mem_newOut hu.out ?_
  rw [← hu.pasid]
  exact ht

theorem record_mem_newOut {s t : State} {c : Case} {st : Status} {late ok : Bool} (ht : (writeResult s c st late ok).out <+: t.out) :
    Out.hostWrite c.hd.owner (partPasid s c.hd.owner) c.hd.resultAddr (recordOf s c st late ok) ∈ newOut s t := by
  have hlists := sameResult_listsWritten s c ok
  rw [← recordOf_congr hlists]
  exact hostWrite_mem_newOut hlists ((sameResult_hostWrite (recordWritten s c st late ok) _ _ _).out.trans ht)

theorem done_mem_newOut {s t : State} {c : Case} {st : Status} {late ok : Bool} (ht : (writeResult s c st late ok).out <+: t.out) :
    Out.hostWrite c.hd.owner (partPasid s c.hd.owner) (c.hd.resultAddr + 252) (leBytes 4 1) ∈ newOut s t :=
  hostWrite_mem_newOut (sameResult_recordWritten s c st late ok) ht

/-! ## The completion -/

/-- A message of the inline channel is answered by a completion with its tag and cookie (R29). -/
theorem writeCompletion_inl_sends {s : State} {o : OpenMsg} (hsrc : o.src = .inl) (st : Status) (off b : Nat) (r : List Byte) :
    ∃ d, s.out ++ [Out.completion d] <+: (writeCompletion s o st off b r).out ∧ d.f = o.f ∧ d.tag = o.tag ∧ d.cookie = o.cookie ∧
      d.status = st ∧ d.result = r.take 32 := by
  unfold writeCompletion
  rw [hsrc]
  exact ⟨_, signalled (emit_updMb_out _ _ _ _) _, rfl, rfl, rfl, rfl, rfl⟩

theorem complete_inl_sends {s : State} {id : Nat} {o : OpenMsg} (ho : s.msgs.find? (fun m => m.id == id) = some o) (hsrc : o.src = .inl)
    (st : Status) (off b : Nat) (r : List Byte) :
    ∃ d, s.out ++ [Out.completion d] <+: (complete s id st off r b).out ∧ d.f = o.f ∧ d.tag = o.tag ∧ d.cookie = o.cookie ∧
      d.status = st ∧ d.result = r.take 32 := by
  rw [complete, ho]
  exact writeCompletion_inl_sends (s := { s with msgs := s.msgs.filter fun m => m.id != id }) hsrc st off b r

theorem complete_out (s : State) (id : Nat) (st : Status) (off b : Nat) (r : List Byte) : s.out <+: (complete s id st off r b).out :=
  (restEvents_complete s id st off r b).2

/-- The closes that end with a case only add to what leaves the module. -/
theorem finishClose_out (s : State) (h : Nat) : s.out <+: (finishClose s h).out := by
  unfold finishClose
  split
  · exact List.prefix_refl _
  · split
    · exact List.prefix_refl _
    · obtain ⟨-, hcompleted⟩ := restEvents_foldl (fun s (w : CloseWait) => restEvents_complete s w.msg .ok 0xFFFF
        (resultAt [(0, 4, w.drained), (4, 4, w.cancelled)]) 0) ‹Contract›.closes (settleState (removeContract s h))
      exact ((keepsPath_removeContract s h).trans (keepsPath_settleState _)).out.trans hcompleted

/-- DONE_CAIRN of the contract counts the case (R89). -/
def doneSignalled (s : State) (c : Case) : State :=
  match contractOf s c.hd.contract with
  | some k => if k.rcd.terms.doneCairn = 0xFFFFFFFF then s else deviceSignal s k.rcd.terms.doneCairn 1 false
  | none => s

/-- The case is counted and gone, its completion still to be written. -/
def caseFreed (s : State) (c : Case) : State :=
  reapGens (withoutCase (dropPfx (countDrained (dropCase (doneSignalled s c) c.hd.key) c) c true) c.hd.key)

theorem freeCase_eq (s : State) (c : Case) (st : Status) (late : Bool) :
    freeCase s c st late =
      finishClose (complete (caseFreed s c) c.hd.msg st 0xFFFF (caseResult (caseFreed s c) c late)) c.hd.contract := rfl

theorem sameResult_doneSignalled (s : State) (c : Case) : SameResult s (doneSignalled s c) := by
  unfold doneSignalled
  split
  · split
    · exact SameResult.refl s
    · exact sameResult_deviceSignal s _ _ _
  · exact SameResult.refl s

theorem sameResult_caseFreed (s : State) (c : Case) : SameResult s (caseFreed s c) := by
  have hdropped := (sameResult_doneSignalled s c).trans (sameResult_of_retires (retires_dropCase _ c.hd.key))
  exact (hdropped.trans (sameResult_countDrained _ c)).trans ⟨rfl, rfl, rfl, fun _ => rfl, List.prefix_refl _⟩

theorem freeCase_out (s : State) (c : Case) (st : Status) (late : Bool) : s.out <+: (freeCase s c st late).out := by
  rw [freeCase_eq]
  exact (sameResult_caseFreed s c).out.trans ((complete_out _ _ _ _ _ _).trans (finishClose_out _ _))

theorem completion_mem_newOut {s : State} {c : Case} {o : OpenMsg} (ho : s.msgs.find? (fun m => m.id == c.hd.msg) = some o)
    (hsrc : o.src = .inl) (st : Status) (late : Bool) :
    ∃ d, Out.completion d ∈ newOut s (freeCase s c st late) ∧ d.f = o.f ∧ d.tag = o.tag ∧ d.cookie = o.cookie ∧ d.status = st ∧
      d.result = caseResult s c late := by
  have hfreed := sameResult_caseFreed s c
  rw [← hfreed.msgs] at ho
  obtain ⟨d, hd, hf, htag, hcookie, hst, hres⟩ := complete_inl_sends ho hsrc st 0xFFFF 0 (caseResult (caseFreed s c) c late)
  refine ⟨d, mem_newOut hfreed.out (hd.trans (finishClose_out _ _)), hf, htag, hcookie, hst, ?_⟩
  rw [hres, caseResult_take, caseResult_congr hfreed]

/-! ## The cases that are left -/

theorem deviceSignal_cases (s : State) (n add : Nat) (remote : Bool) : (deviceSignal s n add remote).cases = s.cases := by
  rw [deviceSignal_frame]

theorem endResultStage_cases (s : State) (c : Case) : (endResultStage s c).cases = s.cases := deviceSignal_cases _ _ _ _

theorem doneSignalled_cases (s : State) (c : Case) : (doneSignalled s c).cases = s.cases := by
  unfold doneSignalled
  split
  · split
    · rfl
    · exact deviceSignal_cases s _ _ _
  · rfl

theorem countDrained_cases (s : State) (c : Case) : (countDrained s c).cases = s.cases := by
  unfold countDrained
  split <;> rfl

theorem freeCase_cases (s : State) (c : Case) (st : Status) (late : Bool) :
    (freeCase s c st late).cases = s.cases.filter fun x => x.hd.key != c.hd.key := by
  have hdrained : (countDrained (dropCase (doneSignalled s c) c.hd.key) c).cases = s.cases :=
    (countDrained_cases _ c).trans ((cases_of_retires (retires_dropCase _ _)).trans (doneSignalled_cases s c))
  rw [freeCase_eq, finishClose_cases, complete_cases]
  exact congrArg (List.filter _) hdrained

theorem listsWritten_cases (s : State) (c : Case) (ok : Bool) : (listsWritten s c ok).cases = s.cases := by
  unfold listsWritten
  split <;> rfl

theorem writeResult_cases (s : State) (c : Case) (st : Status) (late ok : Bool) : (writeResult s c st late ok).cases = s.cases :=
  listsWritten_cases s c ok

theorem caseOf_freeCase_of_ne (s : State) (c : Case) (st : Status) (late : Bool) {j : Nat} (hj : j ≠ c.hd.key) :
    caseOf (freeCase s c st late) j = caseOf s j := by
  rw [caseOf, freeCase_cases, List.find?_filter, caseOf]
  congr 1
  funext x
  by_cases hx : x.hd.key = j <;> simp [hx, hj]

/-! ## The issue -/

/-- From `s` to `t` the record of a case has been written with its lists and DONE, its completion answers the message `o`, and the case is
gone. -/
abbrev Issued (s t : State) (c : Case) (o : OpenMsg) (late : Bool) (st : Status) (ok : Bool) : Prop :=
  caseOf t c.hd.key = none ∧
  Out.hostWrite c.hd.owner (partPasid s c.hd.owner) c.hd.resultAddr (recordOf s c st late ok) ∈ newOut s t ∧
  Out.hostWrite c.hd.owner (partPasid s c.hd.owner) (c.hd.resultAddr + 252) (leBytes 4 1) ∈ newOut s t ∧
  (∃ d, Out.completion d ∈ newOut s t ∧ d.f = o.f ∧ d.tag = o.tag ∧ d.cookie = o.cookie ∧ d.status = st ∧
    d.result = caseResult s c late) ∧
  (∀ j, j ≠ c.hd.key → caseOf t j = caseOf s j)

theorem newOut_subset {s u t : State} (h : s.out <+: u.out) {x : Out} (hx : x ∈ newOut u t) : x ∈ newOut s t := by
  obtain ⟨l, hl⟩ := h
  rw [newOut, ← hl, List.length_append, ← List.drop_drop] at hx
  exact List.mem_of_mem_drop hx

/-- What is issued after a change that is no part of a result is issued from before it. -/
theorem Issued.of_sameResult {s u t : State} {c : Case} {o : OpenMsg} {late ok : Bool} {st : Status} (hu : SameResult s u)
    (hcases : u.cases = s.cases) (h : Issued u t c o late st ok) : Issued s t c o late st ok := by
  obtain ⟨hgone, hrecord, hdone, ⟨d, hd, hf, htag, hcookie, hst, hres⟩, hother⟩ := h
  rw [hu.pasid, recordOf_congr hu] at hrecord
  rw [hu.pasid] at hdone
  rw [caseResult_congr hu] at hres
  refine ⟨hgone, newOut_subset hu.out hrecord, newOut_subset hu.out hdone, ⟨d, newOut_subset hu.out hd, hf, htag, hcookie, hst, hres⟩,
    fun j hj => (hother j hj).trans ?_⟩
  rw [caseOf, hcases, caseOf]

/-- A late result is recorded before it is written. -/
def lateNoted (s : State) (c : Case) (late ok : Bool) : State :=
  if late ∧ ok then record s 0x0202 (leBytes 4 c.hd.contract ++ leBytes 8 c.hd.caseId ++ leBytes 1 (causeNow s c)) else s

theorem sameResult_lateNoted (s : State) (c : Case) (late ok : Bool) : SameResult s (lateNoted s c late ok) := by
  unfold lateNoted
  split
  · exact sameResult_record s _ _
  · exact SameResult.refl s

theorem lateNoted_cases (s : State) (c : Case) (late ok : Bool) : (lateNoted s c late ok).cases = s.cases := by
  unfold lateNoted
  split <;> rfl

section
variable {s : State} {c : Case} {o : OpenMsg} (ho : s.msgs.find? (fun m => m.id == c.hd.msg) = some o) (hsrc : o.src = .inl)
include ho hsrc

/-- The record and DONE are written, and then the case is freed. -/
theorem issued_freeCase (st : Status) (late ok : Bool) :
    Issued s (freeCase (countCase (writeResult s c st late ok) c st) c st late) c o late st ok := by
  have hwritten := sameResult_writeResult s c st late ok
  have hcounted := hwritten.trans (sameResult_countCase _ c st)
  have hout := (sameResult_countCase (writeResult s c st late ok) c st).out.trans (freeCase_out _ c st late)
  have ho' := ho
  rw [← hcounted.msgs] at ho'
  obtain ⟨d, hd, hf, htag, hcookie, hst, hres⟩ := completion_mem_newOut ho' hsrc st late
  refine ⟨caseOf_freeCase _ _ _ _, record_mem_newOut hout, done_mem_newOut hout,
    ⟨d, newOut_subset hcounted.out hd, hf, htag, hcookie, hst, hres.trans (caseResult_congr hcounted c late)⟩, fun j hj => ?_⟩
  refine (caseOf_freeCase_of_ne _ c st late hj).trans ?_
  have hcases : (countCase (writeResult s c st late ok) c st).cases = s.cases := writeResult_cases s c st late ok
  rw [caseOf, hcases, caseOf]

/-- A result whose buffer is granted is issued (R233). -/
theorem issued_issueResult (hgrant : caseGranted s c true c.hd.resultAddr c.hd.resultLen = true) (st : Status) (late ok : Bool) :
    Issued s (issueResult s c st late ok) c o late st ok := by
  have hnoted := sameResult_lateNoted s c late ok
  rw [← hnoted.msgs] at ho
  have hissued : issueResult s c st late ok =
      freeCase (countCase (writeResult (lateNoted s c late ok) c st late ok) c st) c st late :=
    if_pos ((hnoted.caseGranted_eq c _ _ _).trans hgrant)
  rw [hissued]
  exact (issued_freeCase ho hsrc st late ok).of_sameResult hnoted (lateNoted_cases s c late ok)

/-- A case that has reached its result carries the status of R123. -/
theorem resultRecordIssue_done {m : Cmd} {k : Contract} {late : Bool} (h : Running s c.hd.key .result c m k)
    (hlate : late = (contractOf s c.hd.contract).any fun k => isLate s k c)
    (hgrant : caseGranted s c true c.hd.resultAddr c.hd.resultLen = true) :
    ∃ t, exec (.resultRecordIssue c.hd.key) s = .next t ∧ Issued s t c o late (doneStatus c late) true := by
  obtain ⟨hc, hm, hk, hstage, hruns, hmay, htime⟩ := h
  have hretired := retires_retireCmd htime
  have hstart := sameResult_of_retires hretired
  have hresult := hstart.trans (sameResult_endResultStage _ c)
  have hcases : (endResultStage (retireCmd s m) c).cases = s.cases := (endResultStage_cases _ c).trans (cases_of_retires hretired)
  have hissued := issued_issueResult (by rw [hresult.msgs]; exact ho) hsrc ((hresult.caseGranted_eq c _ _ _).trans hgrant)
    (doneStatus c late) late true
  refine ⟨journaled s [m] (issueResult (endResultStage (retireCmd s m) c) c (doneStatus c late) late true), ?_,
    hissued.of_sameResult hresult hcases⟩
  rw [exec_resultRecordIssue, execResultRecordIssue, hc]
  dsimp only
  rw [Option.isNone_iff_eq_none.1 hruns, hm, ← hlate, hk]
  dsimp only
  rw [if_pos ⟨hstage, rfl, hmay⟩, if_pos ((hstart.caseGranted_eq c _ _ _).trans hgrant)]

/-- A case that a status has ended carries that status (R235). -/
theorem resultRecordIssue_ended {st : Status} {late : Bool} (hc : caseOf s c.hd.key = some c) (hst : c.ending = some st)
    (hlate : late = (contractOf s c.hd.contract).any fun k => isLate s k c)
    (hgrant : caseGranted s c true c.hd.resultAddr c.hd.resultLen = true) :
    ∃ t, exec (.resultRecordIssue c.hd.key) s = .next t ∧ Issued s t c o late st false := by
  refine ⟨_, ?_, issued_issueResult ho hsrc hgrant st late false⟩
  rw [exec_resultRecordIssue, execResultRecordIssue, hc]
  dsimp only
  rw [hst, hlate]

end

/-- Settles O32: on the way to the record and from it to the completion nothing changes that they are made from. -/
theorem resultsAreIssued : Obligations.ResultsAreIssued := by
  unfold Obligations.ResultsAreIssued
  intro s key c o late hc ho hsrc _ hgrant hlate issued
  obtain rfl := key_of_caseOf hc
  exact ⟨fun m k h => resultRecordIssue_done ho hsrc h hlate hgrant,
    fun st hst => resultRecordIssue_ended ho hsrc hc hst hlate hgrant⟩

end Sys2Proof.Machine
end

section
/-! PROOFS. A case that runs a stage in another form (R121 to R123), and the stage that goes on in it. -/

namespace Sys2Proof.Machine

theorem caseOf_updCase_of_some {s : State} {key : Nat} {c : Case} (hc : caseOf s key = some c) {g : Case → Case} (hg : ∀ z, (g z).hd = z.hd) :
    caseOf (updCase s key g) key = some (g c) := by
  rw [caseOf_updCase_self s key hg, hc, Option.map_some]

/-! ## The form of a stage -/

/-- A case that runs a stage in a form, the form noted among those that it has run; the form it runs in changes nothing (R123). -/
def inForm (g : Stage) (f : Form) (c : Case) : Case := if formOf c g = f then c else noteRan (withForm c g f) g f

theorem inForm_eq (g : Stage) (f : Form) (c : Case) : inForm g f c = { c with forms := (inForm g f c).forms } := by
  unfold inForm
  split
  · rfl
  · rw [noteRan_eq, withForm_eq]

theorem inForm_hd (g : Stage) (f : Form) (c : Case) : (inForm g f c).hd = c.hd := by rw [inForm_eq]

/-- A stage with a choice of forms runs in the one it is given. -/
theorem formOf_inForm {g : Stage} {f : Form} {c : Case} (hf : formOf (withForm c g f) g = f) : formOf (inForm g f c) g = f := by
  unfold inForm
  split
  · assumption
  · exact (formOf_noteRan _ _ _ _).trans hf

theorem inForm_of_ne {g : Stage} {f : Form} {c : Case} (h : formOf c g ≠ f) : inForm g f c = noteRan (withForm c g f) g f := if_neg h

theorem mem_noteRan (c : Case) (g : Stage) (f : Form) : (stageNum g, f) ∈ (noteRan c g f).forms.ran := by
  unfold noteRan
  split
  · exact List.contains_iff_mem.1 ‹_›
  · exact List.mem_append_right _ (List.mem_singleton_self _)

/-- A form that is new to the case is among those it has run. -/
theorem mem_ran_inForm {g : Stage} {f : Form} {c : Case} (h : formOf c g ≠ f) : (stageNum g, f) ∈ (inForm g f c).forms.ran := by
  rw [inForm_of_ne h]
  exact mem_noteRan _ g f

theorem formOf_congr {c y : Case} (h : y.forms = c.forms) (g : Stage) : formOf y g = formOf c g := by
  cases g <;> simp only [formOf, h]

/-! ## The switch -/

theorem switchForm_frame (s : State) (c : Case) (g : Stage) (f : Form) :
    switchForm s c g f = { s with cases := (switchForm s c g f).cases, amber := (switchForm s c g f).amber } := by
  unfold switchForm
  split <;> rfl

section
variable {s : State} {c y : Case} (hy : caseOf s c.hd.key = some y) (hforms : y.forms = c.forms)
include hy hforms

theorem caseOf_switchForm (g : Stage) (f : Form) : caseOf (switchForm s c g f) c.hd.key = some (inForm g f y) := by
  have hform := formOf_congr hforms g
  unfold switchForm inForm
  rw [hform]
  split
  · exact hy
  · have hhd (z : Case) : (noteRan (withForm z g f) g f).hd = z.hd := (noteRan_hd _ _ _).trans (withForm_hd z g f)
    exact caseOf_updCase_of_some hy hhd

/-- The case's commands are gone, it runs in the form, and the stage's first command there is to be ready. -/
theorem switchRunning_eq (k : Contract) (f : Form) :
    switchRunning s k c f =
      addCaseCmd (switchForm (dropCase s c.hd.key) c c.stage f) (inForm c.stage f y) k (stageNum y.stage) := by
  have hdropped : caseOf (dropCase s c.hd.key) c.hd.key = some y := (caseOf_retires (retires_dropCase s _) _).trans hy
  unfold switchRunning
  dsimp only
  rw [caseOf_switchForm hdropped hforms]
  dsimp only
  rw [inForm_eq]

theorem caseOf_switchRunning (k : Contract) (f : Form) : caseOf (switchRunning s k c f) c.hd.key = some (inForm c.stage f y) := by
  rw [switchRunning_eq hy hforms, addCaseCmd_frame]
  exact caseOf_switchForm ((caseOf_retires (retires_dropCase s _) _).trans hy) hforms c.stage f

theorem switchRunning_contracts (k : Contract) (f : Form) : (switchRunning s k c f).contracts = s.contracts := by
  rw [switchRunning_eq hy hforms, addCaseCmd_frame, switchForm_frame, (retires_dropCase s c.hd.key).1]

theorem switchRunning_ready (k : Contract) (f : Form) :
    ∃ n ∈ (switchRunning s k c f).sched.cmds, n.serves = .cases [c.hd.key] ∧ n.stage = stageNum y.stage ∧ n.phase = .ready := by
  have hkey : (inForm c.stage f y).hd.key = c.hd.key := by rw [inForm_hd, key_of_caseOf hy]
  rw [switchRunning_eq hy hforms, ← hkey]
  exact addCaseCmd_ready _ _ k _

end

/-- On the way to a commit, the case goes on in another form. -/
theorem CommitState.goesOn_switchRunning {s u : State} {c y : Case} (h : CommitState s u c y) (hforms : y.forms = c.forms)
    (hlive : c.ending = none) (k : Contract) (f : Form) : GoesOn (switchRunning u k c f) c (inForm c.stage f y) := by
  have hready := switchRunning_ready h.self hforms k f
  rw [h.stage_eq] at hready
  exact ⟨caseOf_switchRunning h.self hforms k f, (inForm_hd _ _ _).trans h.hd_eq, by rw [inForm_eq, h.stage_eq],
    by rw [inForm_eq, h.ending_eq, hlive], hready⟩

/-- The monitor reads the clock alone of the state. -/
theorem monitorForm_congr {s t : State} (h : t.tclk = s.tclk) (k : Contract) (c : Case) (g : Stage) (chain : List Form) (p : Prediction) :
    monitorForm t k c g chain p = monitorForm s k c g chain p := by
  simp only [monitorForm, h]

end Sys2Proof.Machine
end

section
/-! PROOFS. Re-rank, batch by batch, and packing (R121, R206 to R210). -/

namespace Sys2Proof.Machine

/-- A case with its passages changed. -/
def withPass (g : PassState → PassState) (c : Case) : Case := { c with pass := g c.pass }

/-! ## A batch of pairs (R206, R207) -/

/-- The places of the pairs of a case's next batch. -/
def rerankBatch (k : Contract) (c : Case) : List Nat := ((pairPlaces c.pass.committed).drop c.pass.nextPair).take (max 1 k.rcd.tpl.rrBatch)

/-- The pairs that are scored once the batch is. -/
def batchEnd (k : Contract) (c : Case) : Nat := c.pass.nextPair + (rerankBatch k c).length

/-- The scores of the batch. -/
def batchScores (img : ModelImage) (k : Contract) (c : Case) : List Word × Nat :=
  pairScores img k.rcd c ((rerankBatch k c).filterMap fun i => c.pass.committed[i]?)

/-- The pool with them. -/
def batchScored (img : ModelImage) (k : Contract) (c : Case) : List Passage :=
  putScores c.pass.committed (rerankBatch k c) (batchScores img k c).1

/-- The batch's command is retired and its saturations are counted. -/
def batchDone (s : State) (c : Case) (k : Contract) (m : Cmd) (img : ModelImage) : State :=
  addSats (retireCmd s m) c.hd.key (batchScores img k c).2

/-- The case with the scores of its last batch, in their order. -/
def rankedCase (img : ModelImage) (k : Contract) (c : Case) : Case → Case :=
  withPass fun q => { q with committed := batchScored img k c, ranked := rerankOrder (batchScored img k c), nextPair := batchEnd k c }

/-- The case with the scores of a batch that others follow. -/
def scoredCase (img : ModelImage) (k : Contract) (c : Case) : Case → Case :=
  withPass fun q => { q with committed := batchScored img k c, nextPair := batchEnd k c }

/-- The case without scores, in candidate order. -/
def unscoredCase (img : ModelImage) (k : Contract) (c : Case) : Case → Case :=
  withPass fun q => { q with committed := unscored (batchScored img k c), nextPair := 0 }

theorem commitBatch_eq (s : State) (c : Case) (k : Contract) (m : Cmd) (img : ModelImage) (p : Prediction) :
    commitBatch s c k m img p =
      if (pairPlaces c.pass.committed).length ≤ batchEnd k c then
        endStage (updCase (batchDone s c k m img) c.hd.key (rankedCase img k c)) c.hd.key p
      else if monitorForm (batchDone s c k m img) k c .rerank (chainLeft k c .rerank) p = c.forms.rerank then
        nextCmdOf (updCase (batchDone s c k m img) c.hd.key (scoredCase img k c)) c.hd.key
      else
        switchRunning (updCase (batchDone s c k m img) c.hd.key (unscoredCase img k c)) k c
          (monitorForm (batchDone s c k m img) k c .rerank (chainLeft k c .rerank) p) := rfl

section
variable {s u : State} {key : Nat} {c y : Case} {m : Cmd} {k : Contract}

theorem CommitState.withPass (h : CommitState s u c y) (g : PassState → PassState) :
    CommitState s (Machine.updCase u c.hd.key (Machine.withPass g)) c (Machine.withPass g y) :=
  h.updCase fun _ => rfl

theorem CommitState.batchDone (h : CommitState s u c c) (htime : OnTime s m) (k : Contract) (img : ModelImage) :
    CommitState s (Machine.batchDone u c k m img) c { c with sats := c.sats + (batchScores img k c).2 } :=
  (h.retireCmd htime).addSats _

section
variable (h : Running s key .rerank c m k)
include h

/-- The batch commits as the case is live and has pairs to score. -/
theorem rerankBatchCommit_of_running (hbusy : rerankIdle c = false) {r : Model} (hr : modelOf s k.rcd.refs.rerankModel = some r) (p : Prediction) :
    exec (.rerankBatchCommit key p none) s = .next (journaled s [m] (commitBatch s c k m r.img p)) := by
  rw [exec_rerankBatchCommit, execRerankBatchCommit, stageCommit_of_running h, hr]
  dsimp only
  rw [hbusy]
  rfl

/-- The last batch ends the stage, with the pool in the order of its scores. -/
theorem commitBatch_last (img : ModelImage) (hlast : (pairPlaces c.pass.committed).length ≤ batchEnd k c) (p : Prediction) :
    ∃ x, Advances s (commitBatch s c k m img p) c x k p ∧ x.sats = c.sats + (batchScores img k c).2 ∧
      x.pass = { c.pass with committed := batchScored img k c, ranked := rerankOrder (batchScored img k c), nextPair := batchEnd k c } := by
  obtain ⟨-, -, hk, -, hruns, -, htime⟩ := id h
  have hranked := (h.commitState.batchDone htime k img).updCase (g := rankedCase img k c) fun _ => rfl
  obtain ⟨x, hx, -, -, hpass, -, hsats⟩ := hranked.advances hk (Option.isNone_iff_eq_none.1 hruns) p
  rw [commitBatch_eq, if_pos hlast]
  exact ⟨x, hx, hsats, hpass⟩

/-- Before the last batch the monitor may keep the form. -/
theorem commitBatch_goesOn (img : ModelImage) {p : Prediction} (hmore : batchEnd k c < (pairPlaces c.pass.committed).length)
    (hform : monitorForm s k c .rerank (chainLeft k c .rerank) p = c.forms.rerank) :
    GoesOn (commitBatch s c k m img p) c
      (scoredCase img k c { c with sats := c.sats + (batchScores img k c).2 }) := by
  obtain ⟨-, -, hk, -, hruns, -, htime⟩ := id h
  have hdone := h.commitState.batchDone htime k img
  rw [commitBatch_eq, if_neg (Nat.not_le.2 hmore), monitorForm_congr hdone.tclk_eq, if_pos hform]
  exact (hdone.updCase (g := scoredCase img k c) fun _ => rfl).goesOn hk (Option.isNone_iff_eq_none.1 hruns)

/-- Or it takes another form, and the scores so far are given up (R123). -/
theorem commitBatch_switches (img : ModelImage) {p : Prediction} (hmore : batchEnd k c < (pairPlaces c.pass.committed).length)
    (hform : monitorForm s k c .rerank (chainLeft k c .rerank) p ≠ c.forms.rerank) :
    GoesOn (commitBatch s c k m img p) c
      (inForm .rerank (monitorForm s k c .rerank (chainLeft k c .rerank) p)
        (unscoredCase img k c { c with sats := c.sats + (batchScores img k c).2 })) := by
  obtain ⟨-, -, -, hstage, hruns, -, htime⟩ := id h
  have hdone := h.commitState.batchDone htime k img
  rw [commitBatch_eq, if_neg (Nat.not_le.2 hmore), monitorForm_congr hdone.tclk_eq, if_neg hform, ← hstage]
  exact (hdone.updCase (g := unscoredCase img k c) fun _ => rfl).goesOn_switchRunning rfl (Option.isNone_iff_eq_none.1 hruns) k _

/-- Re-rank that costs no array work ends with one command, the pool in distance order (R207). -/
theorem rerankIdle_advances (hidle : rerankIdle c = true) (hcmd : cmdOf s m.id = some m) (hkey : (cmdKeys m).head? = some key) (p : Prediction) :
    ∃ t x, exec (.commandCommit m.id p [] none) s = .next t ∧ Advances s t c x k p ∧ x.pass = { c.pass with ranked := c.pass.committed } := by
  obtain ⟨-, -, hk, hstage, hruns, -, htime⟩ := id h
  obtain ⟨x, hx, -, -, hpass, -⟩ := ((h.commitState.retireCmd htime).withPass fun q => { q with ranked := q.committed }).advances hk
    (Option.isNone_iff_eq_none.1 hruns) p
  have hone : oneCommand c = true := by rw [oneCommand, hstage]; exact hidle
  refine ⟨journaled s [m] (endStage (updCase (retireCmd s m) c.hd.key (Machine.withPass fun q => { q with ranked := q.committed }))
    c.hd.key p), x, ?_, advances_journaled [m] hx, hpass⟩
  rw [execCommandCommit_of_running h hcmd hkey hone, commitStage, hstage]
  rfl

end

/-! ## Packing (R208 to R211) -/

theorem CommitState.pfxOf_eq (h : CommitState s u c y) (i : Nat) : pfxOf u i = pfxOf s i := by rw [pfxOf, pfxOf, h.frame]

/-- A case that holds a prefix, and its page that is not full if it has one. -/
def holding (p : Pfx) (c : Case) : Case :=
  { c with gen := { c.gen with pfxHeld := some p.handle, tailHeld := p.toks.length % 256 != 0 } }

/-- The prefixes with the references of the case, which are no part of what its stage commits. -/
theorem CommitState.holdPfx (h : CommitState s u c y) (k : Contract) :
    ∃ held z, CommitState { s with pfxs := held } (Machine.holdPfx u k c.hd.key) c z ∧ z.pass = y.pass ∧
      z.gen.prompt = y.gen.prompt ∧ z.gen.pfxHeld = ((pfxOf s k.rcd.refs.pfx).map Pfx.handle).or y.gen.pfxHeld := by
  have hpfx := h.pfxOf_eq k.rcd.refs.pfx
  unfold Machine.holdPfx
  cases hp : pfxOf s k.rcd.refs.pfx with
  | none =>
    rw [hpfx, hp]
    refine ⟨u.pfxs, y, ?_, rfl, rfl, rfl⟩
    have hsame : ({ s with pfxs := u.pfxs } : State) = s := by rw [h.frame]
    exact hsame ▸ h
  | some p =>
    rw [hpfx, hp]
    dsimp only
    generalize modifyWhere u.pfxs _ _ = taken
    have hheld : CommitState { s with pfxs := taken } { u with pfxs := taken } c y :=
      ⟨by rw [h.frame], h.pasid, h.self, h.other, h.kept⟩
    exact ⟨taken, holding p y, hheld.updCase (g := holding p) fun _ => rfl, rfl, rfl, rfl⟩

/-- The walk over the pool, in the committed order (R208). -/
def walkOf (k : Contract) (c : Case) : Walk :=
  walk k.rcd.tpl (if k.rcd.refs.rerankModel = 0 then c.pass.committed else c.pass.ranked)

/-- The prompt of a case: the prefix, the file, the case slot and the passages' slots (R208 to R211). -/
def promptOf (s : State) (k : Contract) (c : Case) : List Position :=
  (pfxToks s k.rcd).map .tok ++ fileRegion k c ++ caseSlot k.rcd.tpl c ++ (slotToks k.rcd.tpl (walkOf k c)).map .tok

/-- A case with its passages packed. -/
def packedCase (done : List Passage) (prompt : List Position) (c : Case) : Case :=
  { c with pass := { c.pass with packed := done, promptLen := prompt.length }, gen := { c.gen with prompt := prompt } }

theorem commitPacking_eq (s : State) (c : Case) (k : Contract) (m : Cmd) (p : Prediction) :
    commitPacking s c k m p =
      endStage (holdPfx (updCase (retireCmd s m) c.hd.key (packedCase (walkOf k c).done (promptOf s k c))) k c.hd.key) c.hd.key p := rfl

/-- Packing ends with the passages in walk order, the whole prompt, and the prefix held. -/
theorem commitPacking_advances (h : CommitState s s c c) (htime : OnTime s m) (hk : contractOf s c.hd.contract = some k) (hlive : c.ending = none)
    (p : Prediction) :
    ∃ x, Advances s (commitPacking s c k m p) c x k p ∧
      x.pass = { c.pass with packed := (walkOf k c).done, promptLen := (promptOf s k c).length } ∧ x.gen.prompt = promptOf s k c ∧
      x.gen.pfxHeld = ((pfxOf s k.rcd.refs.pfx).map Pfx.handle).or c.gen.pfxHeld := by
  rw [commitPacking_eq]
  generalize (walkOf k c).done = done
  generalize promptOf s k c = prompt
  have hpacked := (h.retireCmd htime).updCase (g := packedCase done prompt) fun _ => rfl
  obtain ⟨held, z, hheld, hzpass, hzprompt, hzpfx⟩ := hpacked.holdPfx k
  obtain ⟨x, hx, -, -, hpass, hgen, -⟩ := hheld.advances hk hlive p
  rw [← hgen] at hzprompt hzpfx
  exact ⟨x, hx, hpass.trans hzpass, hzprompt, hzpfx⟩

theorem packing_advances (h : Running s key .packing c m k) (p : Prediction) :
    ∃ t x, exec (.packingCommit key p) s = .next t ∧ Advances s t c x k p ∧
      x.pass = { c.pass with packed := (walkOf k c).done, promptLen := (promptOf s k c).length } ∧ x.gen.prompt = promptOf s k c ∧
      x.gen.pfxHeld = ((pfxOf s k.rcd.refs.pfx).map Pfx.handle).or c.gen.pfxHeld := by
  obtain ⟨-, -, hk, -, hruns, -, htime⟩ := id h
  obtain ⟨x, hx, hdone⟩ := commitPacking_advances h.commitState htime hk (Option.isNone_iff_eq_none.1 hruns) p
  refine ⟨journaled s [m] (commitPacking s c k m p), x, ?_, advances_journaled [m] hx, hdone⟩
  rw [exec_packingCommit, execPackingCommit, stageCommit_of_running h]

end

/-- Settles O30: a batch ends the stage, goes on or is given up as the monitor decides; packing walks the pool into the prompt. -/
theorem passagesAreRankedAndPacked : Obligations.PassagesAreRankedAndPacked := by
  unfold Obligations.PassagesAreRankedAndPacked
  intro s key c m k
  refine ⟨fun h hbusy r p hr => ⟨fun hlast => ?_, fun hmore hform => ?_, fun hmore hform => ?_⟩,
    fun h hidle hcmd hkey p => rerankIdle_advances h hidle hcmd hkey p, fun h p => packing_advances h p⟩
  · obtain ⟨x, hx, hdone⟩ := commitBatch_last h r.img hlast p
    exact ⟨_, x, rerankBatchCommit_of_running h hbusy hr p, advances_journaled [m] hx, hdone⟩
  · exact ⟨_, _, rerankBatchCommit_of_running h hbusy hr p, goesOn_journaled s [m] (commitBatch_goesOn h r.img hmore hform), rfl, rfl⟩
  · refine ⟨_, _, rerankBatchCommit_of_running h hbusy hr p, goesOn_journaled s [m] (commitBatch_switches h r.img hmore hform), ?_, ?_, ?_⟩
    · rw [inForm_of_ne (Ne.symm hform), noteRan_eq]
      rfl
    · exact mem_ran_inForm (Ne.symm hform)
    · rw [inForm_eq]
      rfl

end Sys2Proof.Machine
end

section
/-! PROOFS. Passage fetch: store reads, the forms it falls back to, its commit, and the fills of the cache (R121, R197, R198, R200 to R205). -/

namespace Sys2Proof.Machine

/-! ## Lookups (R197, R198) -/

/-- A case with a lookup in the place of the one of its id. -/
def withLookup (l : Lookup) : Case → Case :=
  withPass fun q => { q with looks := (q.looks.filter fun x => x.id != l.id) ++ [l] }

theorem lookupOf_withLookup_self (l : Lookup) (c : Case) : lookupOf (withLookup l c) l.id = l := by
  have hnone : (c.pass.looks.filter fun x => x.id != l.id).find? (fun x => x.id == l.id) = none :=
    List.find?_eq_none.2 fun x hx => by simpa using (List.mem_filter.1 hx).2
  rw [lookupOf, withLookup, withPass]
  dsimp only
  rw [List.find?_append, hnone, Option.none_or, List.find?_singleton, if_pos (beq_self_eq_true _), Option.getD_some]

theorem lookupOf_withLookup_of_ne {l : Lookup} {j : Nat} (hj : j ≠ l.id) (c : Case) : lookupOf (withLookup l c) j = lookupOf c j := by
  have hlast : [l].find? (fun x => x.id == j) = none := List.find?_eq_none.2 fun x hx => by
    rw [List.mem_singleton.1 hx]
    simpa using Ne.symm hj
  have hrest : (fun x : Lookup => (x.id != l.id) && (x.id == j)) = fun x => x.id == j := by
    funext x
    by_cases hx : x.id = j <;> simp [hx, hj]
  rw [lookupOf, withLookup, withPass]
  dsimp only
  rw [List.find?_append, hlast, Option.or_none, List.find?_filter]
  simp only [Bool.decide_and, Bool.decide_eq_true, hrest]
  rfl

theorem lookupOf_id (c : Case) (id : Nat) : (lookupOf c id).id = id := by
  rw [lookupOf]
  cases h : c.pass.looks.find? fun l => l.id == id with
  | none => rfl
  | some l => simpa using List.find?_some h

/-- A read moves a lookup on under its own id. -/
theorem stepLookup_id (s : State) (r : ContractRec) (l : Lookup) (b : List Byte) : (stepLookup s r l b).id = l.id := by
  unfold stepLookup
  split
  · split
    · split <;> rfl
    · split <;> rfl
  · dsimp only
    split <;> rfl

theorem caseOf_setLookup (s : State) (key : Nat) (l : Lookup) : caseOf (setLookup s key l) key = (caseOf s key).map (withLookup l) :=
  caseOf_updCase_self s key fun _ => rfl

theorem noteMalformed_frame (s : State) (c : Case) (l : Lookup) :
    noteMalformed s c l = { s with amber := (noteMalformed s c l).amber } := by
  unfold noteMalformed
  split <;> rfl

/-! ## Store reads (R197, R202) -/

/-- A read of an abandoned form ends first. -/
def withoutStale (id : Nat) : Case → Case := withPass fun q => { q with stale := q.stale.erase id }

theorem storeRead_of_stale {s : State} {key : Nat} {c : Case} (hc : caseOf s key = some c) {id : Nat} (hid : id ∈ c.pass.stale)
    (r : HostRead (List Byte)) :
    exec (.passageStoreReadComplete key id r) s = .next (updCase s key (withoutStale id)) := by
  rw [exec_passageStoreReadComplete, execPassageStoreReadComplete, endStoreRead, hc]
  exact congrArg _ (if_pos (List.contains_iff_mem.2 hid))

/-- The state after a read has left for the range that a lookup needs next. -/
def readSent (s : State) (k : Contract) (c : Case) (id : Nat) : State :=
  hostRead s c.hd.owner (nextRead k.rcd (lookupOf c id)).1 (nextRead k.rcd (lookupOf c id)).2

theorem phase_of_mayCommit {s : State} {m : Cmd} (h : mayCommit s m = true) : m.phase = .running :=
  of_decide_eq_true (Bool.and_eq_true_iff.1 h).1

section
variable {s : State} {key : Nat} {c : Case} {m : Cmd} {k : Contract} (h : Running s key .fetch c m k)
include h

/-- A fetch waits for the read of an id. -/
theorem fetch_waits {id : Nat} (hid : id ∈ readsLeft s k.rcd c) :
    c.stage = .fetch ∧ caseRuns c = true ∧ m.phase = .running ∧ (readsLeft s k.rcd c).contains id = true := by
  obtain ⟨-, -, -, hstage, hruns, hmay, -⟩ := h
  exact ⟨hstage, hruns, phase_of_mayCommit hmay, List.contains_iff_mem.2 hid⟩

section
variable {id : Nat} (hid : id ∈ readsLeft s k.rcd c) (hfresh : id ∉ c.pass.stale)
include hid hfresh

/-- Bytes that arrive move the lookup on. -/
theorem endStoreRead_of_data (hgrant : caseGranted s c false (nextRead k.rcd (lookupOf c id)).1 (nextRead k.rcd (lookupOf c id)).2 = true)
    (b : List Byte) :
    endStoreRead s key id (.data b) =
      noteMalformed (setLookup (readSent s k c id) key (stepLookup s k.rcd (lookupOf c id) b)) c (stepLookup s k.rcd (lookupOf c id) b) := by
  have hwaits := fetch_waits h hid
  obtain ⟨hc, hm, hk, -⟩ := h
  rw [endStoreRead, hc]
  dsimp only
  rw [if_neg fun hstale => hfresh (List.contains_iff_mem.1 hstale), hk, hm]
  dsimp only
  rw [if_pos hwaits, if_pos hgrant]
  rfl

theorem storeRead_moves (hgrant : caseGranted s c false (nextRead k.rcd (lookupOf c id)).1 (nextRead k.rcd (lookupOf c id)).2 = true)
    (b : List Byte) :
    ∃ t x, exec (.passageStoreReadComplete key id (.data b)) s = .next t ∧ caseOf t key = some x ∧
      lookupOf x id = stepLookup s k.rcd (lookupOf c id) b ∧ (∀ j, j ≠ id → lookupOf x j = lookupOf c j) ∧
      x = { c with pass := { c.pass with looks := x.pass.looks } } ∧ t.cairns = s.cairns ∧
      Out.hostRead c.hd.owner (partPasid s c.hd.owner) (nextRead k.rcd (lookupOf c id)).1 (nextRead k.rcd (lookupOf c id)).2 ∈ newOut s t := by
  have hend := endStoreRead_of_data h hid hfresh hgrant b
  obtain ⟨hc, -⟩ := h
  generalize hl : stepLookup s k.rcd (lookupOf c id) b = l at hend
  have hlid : l.id = id := by rw [← hl, stepLookup_id, lookupOf_id]
  refine ⟨_, withLookup l c, by rw [exec_passageStoreReadComplete, execPassageStoreReadComplete, hend], ?_, ?_, fun j hj => ?_, rfl, ?_, ?_⟩
  · rw [noteMalformed_frame]
    exact (caseOf_setLookup _ key l).trans (congrArg (Option.map _) hc)
  · rw [← hlid]
    exact lookupOf_withLookup_self l c
  · exact lookupOf_withLookup_of_ne (hlid.symm ▸ hj) c
  · rw [noteMalformed_frame]
    rfl
  · rw [newOut_of_append (os := [_]) (by rw [noteMalformed_frame]; rfl)]
    exact List.mem_singleton_self _

/-- A read that fails, granted or not, ends the case. -/
theorem endStoreRead_of_bad {r : HostRead (List Byte)} (hbad : r = .ur ∨ r = .ca ∨ r = .poison ∨ r = .timeout) :
    ∃ u aer, CommitState s u c c ∧ endStoreRead s key id r = caseDmaFails u c aer := by
  have hstart := h.commitState
  have hwaits := fetch_waits h hid
  obtain ⟨hc, hm, hk, -⟩ := h
  rw [endStoreRead, hc]
  dsimp only
  rw [if_neg fun hstale => hfresh (List.contains_iff_mem.1 hstale), hk, hm]
  dsimp only
  rw [if_pos hwaits]
  split
  · refine ⟨readSent s k c id, aerBit r, hstart.mem_out rfl, ?_⟩
    obtain rfl | rfl | rfl | rfl := hbad <;> rfl
  · exact ⟨s, 0, hstart, rfl⟩

theorem storeRead_fails {r : HostRead (List Byte)} (hbad : r = .ur ∨ r = .ca ∨ r = .poison ∨ r = .timeout) :
    ∃ t x, exec (.passageStoreReadComplete key id r) s = .next t ∧ caseOf t key = some x ∧ x.stage = .fetch ∧
      x.ending = some .faultHostDma ∧ x.failedStage = 6 ∧ t.cairns = s.cairns := by
  obtain ⟨u, aer, hu, hend⟩ := endStoreRead_of_bad h hid hfresh hbad
  obtain ⟨hc, -, -, hstage, hruns, -, -⟩ := h
  obtain ⟨hx, hcairns⟩ := caseDmaFails_ends hu (Option.isNone_iff_eq_none.1 hruns) aer
  rw [key_of_caseOf hc] at hx
  refine ⟨caseDmaFails u c aer, _, ?_, hx, hstage, rfl, ?_, hcairns⟩
  · rw [exec_passageStoreReadComplete, execPassageStoreReadComplete, hend]
  · rw [hstage]
    rfl

end

end

/-! ## Another form of fetch (R201) -/

/-- A case whose reads are abandoned, some of them in flight. -/
def refetching (flying : List Nat) : Case → Case := withPass fun q => { q with looks := [], stale := q.stale ++ flying }

theorem switchFetch_eq {s : State} {k : Contract} {c : Case} {m : Cmd} (hm : caseCmd s c.hd.key = some m) (hphase : m.phase = .running)
    (f : Form) : switchFetch s k c f = switchRunning (updCase s c.hd.key (refetching (readsLeft s k.rcd c))) k c f := by
  unfold switchFetch
  rw [hm, Option.any_some, hphase]
  rfl

/-- The fetch goes on in the form, and all its reads are discarded. -/
theorem switchFetch_switches {s : State} {k : Contract} {c : Case} {m : Cmd} (hc : caseOf s c.hd.key = some c)
    (hm : caseCmd s c.hd.key = some m) (hphase : m.phase = .running) (hstage : c.stage = .fetch) (f : Form) :
    caseOf (switchFetch s k c f) c.hd.key = some (inForm .fetch f (refetching (readsLeft s k.rcd c) c)) ∧
      (switchFetch s k c f).contracts = s.contracts ∧
      ∃ n ∈ (switchFetch s k c f).sched.cmds, n.serves = .cases [c.hd.key] ∧ n.stage = 6 ∧ n.phase = .ready := by
  have hy : caseOf (updCase s c.hd.key (refetching (readsLeft s k.rcd c))) c.hd.key = some (refetching (readsLeft s k.rcd c) c) :=
    caseOf_updCase_of_some hc fun _ => rfl
  have hready := switchRunning_ready hy rfl k f
  have hnum : stageNum (refetching (readsLeft s k.rcd c) c).stage = 6 := congrArg stageNum hstage
  rw [hnum] at hready
  rw [switchFetch_eq hm hphase, ← hstage]
  exact ⟨caseOf_switchRunning hy rfl k f, switchRunning_contracts hy rfl k f, hready⟩

theorem inForm_fetch_refetching (f : Form) (flying : List Nat) (c : Case) :
    let x := inForm .fetch f (refetching flying c)
    x.stage = c.stage ∧ x.forms.fetch = f ∧ x.pass.looks = [] ∧ x.pass.stale = c.pass.stale ++ flying := by
  have hform : formOf (inForm .fetch f (refetching flying c)) .fetch = f := formOf_inForm rfl
  refine ⟨?_, hform, ?_, ?_⟩ <;> rw [inForm_eq] <;> rfl

/-- A contract that counts a T3 budget that has expired. -/
def countT3Late (k : Contract) : Contract := { k with stats := { k.stats with t3Late := k.stats.t3Late + 1 } }

/-- The expiry is counted and recorded. -/
def t3Noted (s : State) (k : Contract) (c : Case) : State :=
  record (updContract s k.handle countT3Late) 0x0203 (leBytes 4 k.handle ++ leBytes 8 c.hd.caseId)

/-- A case that is late for its passages, unless it was late before. -/
def lateForT3 (c : Case) : Case := { c with lateCause := if c.lateCause = 0 then 1 else c.lateCause }

/-- With no form left the stage waits. -/
theorem expireT3_of_last {s : State} {k : Contract} {c : Case} (hlast : (chainLeft k c .fetch).drop 1 = []) (p : Prediction) :
    expireT3 s k c p = updCase (t3Noted s k c) c.hd.key lateForT3 := by
  unfold expireT3
  rw [hlast]
  rfl

theorem expireT3_of_more {s : State} {k : Contract} {c : Case} (hmore : (chainLeft k c .fetch).drop 1 ≠ []) (p : Prediction) :
    expireT3 s k c p = switchFetch (t3Noted s k c) k c (monitorForm s k c .fetch ((chainLeft k c .fetch).drop 1) p) := by
  unfold expireT3
  cases hrest : (chainLeft k c .fetch).drop 1 with
  | nil => exact absurd hrest hmore
  | cons f fs => exact congrArg (switchFetch (t3Noted s k c) k c) (monitorForm_congr rfl k c .fetch (f :: fs) p)

section
variable {s : State} {key : Nat} {c : Case} {m : Cmd} {k : Contract} (h : Running s key .fetch c m k) (hwait : waitsT3 s k c = true)
include h hwait

theorem t3BudgetExpiry_expires (p : Prediction) : exec (.t3BudgetExpiry key p) s = .next (expireT3 s k c p) := by
  obtain ⟨hc, -, hk, -⟩ := h
  rw [exec_t3BudgetExpiry, execT3BudgetExpiry, hc]
  dsimp only
  rw [hk]
  exact congrArg _ (if_pos hwait)

theorem t3Budget_expires (p : Prediction) :
    ∃ t x y, exec (.t3BudgetExpiry key p) s = .next t ∧ caseOf t key = some x ∧ x.stage = .fetch ∧
      contractOf t c.hd.contract = some y ∧ y.stats.t3Late = k.stats.t3Late + 1 ∧
      ((chainLeft k c .fetch).drop 1 = [] → x = { c with lateCause := if c.lateCause = 0 then 1 else c.lateCause }) ∧
      ((chainLeft k c .fetch).drop 1 ≠ [] →
        x.forms.fetch = monitorForm s k c .fetch ((chainLeft k c .fetch).drop 1) p ∧ x.pass.looks = [] ∧
        x.pass.stale = c.pass.stale ++ readsLeft s k.rcd c ∧
        ∃ n ∈ t.sched.cmds, n.serves = .cases [key] ∧ n.stage = 6 ∧ n.phase = .ready) := by
  have hexec := t3BudgetExpiry_expires h hwait p
  obtain ⟨hc, hm, hk, hstage, -, hmay, -⟩ := h
  obtain rfl := key_of_caseOf hc
  have hhandle : k.handle = c.hd.contract := by simpa using List.find?_some hk
  have hnoted : contractOf (t3Noted s k c) c.hd.contract = some (countT3Late k) := by
    rw [t3Noted, hhandle]
    exact contractOf_updContract hk fun _ => rfl
  by_cases hlast : (chainLeft k c .fetch).drop 1 = []
  · rw [expireT3_of_last hlast] at hexec
    exact ⟨_, lateForT3 c, countT3Late k, hexec, caseOf_updCase_of_some (s := t3Noted s k c) hc fun _ => rfl, hstage, hnoted, rfl,
      fun _ => rfl, fun hmore => absurd hlast hmore⟩
  · rw [expireT3_of_more hlast] at hexec
    generalize monitorForm s k c .fetch ((chainLeft k c .fetch).drop 1) p = f at hexec ⊢
    obtain ⟨hx, hcontracts, hready⟩ := switchFetch_switches (s := t3Noted s k c) (k := k) hc hm (phase_of_mayCommit hmay) hstage f
    obtain ⟨hxstage, hform, hlooks, hstale⟩ := inForm_fetch_refetching f (readsLeft s k.rcd c) c
    refine ⟨_, _, countT3Late k, hexec, hx, hxstage.trans hstage, ?_, rfl, fun hnone => absurd hnone hlast,
      fun _ => ⟨hform, hlooks, hstale, hready⟩⟩
    rw [contractOf, hcontracts]
    exact hnoted

theorem t3LatestSwitchPoint_of_running (p : Prediction) :
    exec (.t3LatestSwitchPoint key p) s = .next (
      if monitorForm s k c .fetch (chainLeft k c .fetch) p = c.forms.fetch then s
      else switchFetch s k c (monitorForm s k c .fetch (chainLeft k c .fetch) p)) := by
  obtain ⟨hc, -, hk, -⟩ := h
  rw [exec_t3LatestSwitchPoint, execT3LatestSwitchPoint, hc]
  dsimp only
  rw [hk]
  dsimp only
  split
  · rename_i hswitch
    rw [if_neg hswitch.2]
  · rename_i hstay
    rw [if_pos (not_not.1 fun hne => hstay ⟨hwait, hne⟩)]

/-- The latest switch point takes the form that the monitor gives, where it is another one (R122, R201). -/
theorem t3LatestSwitchPoint_switches {p : Prediction} (hne : monitorForm s k c .fetch (chainLeft k c .fetch) p ≠ c.forms.fetch) :
    let f := monitorForm s k c .fetch (chainLeft k c .fetch) p
    ∃ t x, exec (.t3LatestSwitchPoint key p) s = .next t ∧ caseOf t key = some x ∧ x.stage = .fetch ∧
      x.forms = { c.forms with fetch := f, ran := x.forms.ran } ∧ (6, f) ∈ x.forms.ran ∧ x.pass.looks = [] ∧
      x.pass.stale = c.pass.stale ++ readsLeft s k.rcd c ∧
      ∃ n ∈ t.sched.cmds, n.serves = .cases [key] ∧ n.stage = 6 ∧ n.phase = .ready := by
  intro f
  have hexec := t3LatestSwitchPoint_of_running h hwait p
  rw [if_neg hne] at hexec
  obtain ⟨hc, hm, -, hstage, -, hmay, -⟩ := h
  obtain rfl := key_of_caseOf hc
  obtain ⟨hx, -, hready⟩ := switchFetch_switches (k := k) hc hm (phase_of_mayCommit hmay) hstage f
  obtain ⟨hxstage, -, hlooks, hstale⟩ := inForm_fetch_refetching f (readsLeft s k.rcd c) c
  refine ⟨_, _, hexec, hx, hxstage.trans hstage, ?_, mem_ran_inForm (Ne.symm hne), hlooks, hstale, hready⟩
  rw [inForm_of_ne (Ne.symm hne), noteRan_eq]
  rfl

end

/-! ## The commit of the stage (R202, R204) -/

/-- Commands and BACKGROUND operations have come, and nothing else has changed. -/
structure AddsWork (s t : State) : Prop where
  frame : t = { s with sched := t.sched, nextCmd := t.nextCmd, bg := t.bg, nextBg := t.nextBg }
  cmds : s.sched.cmds ⊆ t.sched.cmds

theorem AddsWork.refl (s : State) : AddsWork s s := ⟨rfl, List.Subset.refl _⟩

theorem AddsWork.trans {a b c : State} (h : AddsWork a b) (k : AddsWork b c) : AddsWork a c :=
  ⟨by rw [k.frame, h.frame], List.Subset.trans h.cmds k.cmds⟩

theorem addsWork_foldl {α : Type} {g : State → α → State} (hg : ∀ s a, AddsWork s (g s a)) (l : List α) (s : State) :
    AddsWork s (l.foldl g s) := by
  induction l generalizing s with
  | nil => exact AddsWork.refl s
  | cons a l ih => exact (hg s a).trans (ih _)

theorem raiseVTime_cmds (s : State) (owner level : Nat) : (raiseVTime s owner level).sched.cmds = s.sched.cmds := by
  unfold raiseVTime raiseAmong
  split
  · rfl
  · split
    · rfl
    · dsimp only
      split <;> rfl

theorem addsWork_addCmd (s : State) (v : Serves) (o l st d a : Nat) (kill : Bool) (us : List UnitId) :
    AddsWork s (addCmd s v o l st d a kill us) := by
  refine ⟨by rw [addCmd_frame], fun n hn => List.mem_append_left _ ?_⟩
  rw [raiseVTime_cmds]
  exact hn

theorem addsWork_addBg (s : State) (owner : Nat) (msg : Option Nat) (kind : BgKind) (t1 t2 : Nat) :
    AddsWork s (addBg s owner msg kind t1 t2) := ⟨rfl, List.Subset.refl _⟩

theorem addsWork_startFills (s : State) (k : Contract) (ps : List Passage) : AddsWork s (startFills s k ps) := by
  unfold startFills
  split
  · exact AddsWork.refl s
  · exact addsWork_foldl (by exact fun s p => (addsWork_addCmd s _ _ _ _ _ _ _ _).trans (addsWork_addBg _ _ _ _ _ _)) _ s

/-- Work that is added takes nothing from a stage that has ended. -/
theorem Advances.addsWork {s t u : State} {c x : Case} {k : Contract} {p : Prediction} (h : Advances s t c x k p) (hu : AddsWork t u) :
    Advances s u c x k p := by
  obtain ⟨hx, hhd, hdesc, hend, hstage, hts, hform, hcairn, hcmd, hother, hcontracts⟩ := h
  have hcases : u.cases = t.cases := by rw [hu.frame]
  have hcairns : u.cairns = t.cairns := by rw [hu.frame]
  have hcontracts' : u.contracts = t.contracts := by rw [hu.frame]
  refine ⟨?_, hhd, hdesc, hend, hstage, hts, hform, ?_, fun hlist => ?_, fun j hj => ?_, hcontracts'.trans hcontracts⟩
  · rw [caseOf, hcases]
    exact hx
  · rw [cairnOf, hcairns]
    exact hcairn
  · obtain ⟨n, hn, hready⟩ := hcmd hlist
    exact ⟨n, hu.cmds hn, hready⟩
  · rw [caseOf, hcases]
    exact hother j hj

/-- A case with the passages that its fetch commits. -/
def fetchedCase (ps : List Passage) : Case → Case := withPass fun q => { q with looks := [], committed := ps }

theorem passageFetch_advances {s : State} {key : Nat} {c : Case} {m : Cmd} {k : Contract} (h : Running s key .fetch c m k)
    (hdone : readsLeft s k.rcd c = []) (p : Prediction) :
    ∃ t x, exec (.passageFetchCommit key p) s = .next t ∧ Advances s t c x k p ∧
      x.pass = { c.pass with looks := [], committed := fetchedPool s k.rcd c } := by
  have hexec : exec (.passageFetchCommit key p) s = .next (journaled s [m]
      (startFills (endStage (updCase (retireCmd s m) key (fetchedCase (fetchedPool s k.rcd c))) key p) k (fetchedPool s k.rcd c))) := by
    rw [exec_passageFetchCommit, execPassageFetchCommit, stageCommit_of_running h, if_pos hdone]
    rfl
  have hstart := h.commitState
  obtain ⟨hc, -, hk, -, hruns, -, htime⟩ := h
  obtain rfl := key_of_caseOf hc
  generalize fetchedPool s k.rcd c = ps at hexec ⊢
  obtain ⟨x, hx, -, -, hpass, -⟩ := ((hstart.retireCmd htime).updCase (g := fetchedCase ps) fun _ => rfl).advances hk
    (Option.isNone_iff_eq_none.1 hruns) p
  exact ⟨_, x, hexec, advances_journaled [m] (hx.addsWork (addsWork_startFills _ k ps)), hpass⟩

/-! ## Fills of the cache (R203 to R205) -/

/-- The passage that a fill puts in the cache stands last, at the ring's head. -/
theorem cachePut_getLast? (f : IndexCfg) (y : PassageCache) (q : CachedPassage) :
    (cachePut f y q).held.getLast? = some { q with blockAt := y.head } := List.getLast?_concat ..

/-- The index with the fill in its cache, where it is still needed. -/
def filledBy (i : Index) (q : Passage) (x : Index) : Index :=
  { x with cache := if fills x q then cachePut i.cfg i.cache (cachedOf q) else x.cache }

/-- The fill is in, and counted. -/
def fillDone (s : State) (i : Index) (q : Passage) : State :=
  updTelem (updIndex s i.handle (filledBy i q)) fun t => { t with bgCommitted := t.bgCommitted + 1 }

section
variable {s : State} {b : BgOp} {i : Index} {q : Passage}

/-- A fill commits when it overwrites no block that a running fetch hits (R205). -/
theorem commitFill_commits (hfree : ∀ e, (cachePut i.cfg i.cache (cachedOf q)).held.getLast? = some e →
    ∀ j ∈ cacheBlocks i.cfg e, j ∉ hitBlocks s i) :
    commitFill s b i q = journaled s (bgCmd s b.id).toList (finishBg (fillDone s i q) b .ok []) := by
  have hlast := cachePut_getLast? i.cfg i.cache (cachedOf q)
  have hclear := hfree _ hlast
  unfold commitFill
  dsimp only
  rw [hlast]
  refine if_neg fun hhit => ?_
  obtain ⟨j, hj, hmine⟩ := List.any_eq_true.1 hhit
  exact hclear j (List.contains_iff_mem.1 hmine) hj

variable {h : Nat} {n : Cmd} (hb : s.bg.find? (fun o => o.id == b.id) = some b) (hkind : b.kind = .cacheFill h [q])
  (hn : bgCmd s b.id = some n) (hmay : mayCommit s n = true) (hi : indexOf s h = some i)
include hb hkind hn hmay hi

theorem cacheFillCommit_commits (hkept : i.state ≠ .unavailable) : exec (.cacheFillCommit b.id) s = .next (commitFill s b i q) := by
  have hcommits : (bgCmd s b.id).any (mayCommit s) = true := by rw [hn, Option.any_some, hmay]
  rw [exec_cacheFillCommit, execCacheFillCommit, hb]
  dsimp only
  rw [hkind]
  dsimp only
  rw [if_pos hcommits, hi]
  exact congrArg _ (if_neg hkept)

theorem cacheFill_enters (htime : OnTime s n) (hkept : i.state ≠ .unavailable) (hfills : fills i q = true)
    (hfree : ∀ e, (cachePut i.cfg i.cache (cachedOf q)).held.getLast? = some e → ∀ j ∈ cacheBlocks i.cfg e, j ∉ hitBlocks s i) :
    ∃ t j, exec (.cacheFillCommit b.id) s = .next t ∧ (∀ o ∈ t.bg, o.id ≠ b.id) ∧ indexOf t h = some j ∧
      j.cache = cachePut i.cfg i.cache (cachedOf q) ∧ t.telem.bgCommitted = s.telem.bgCommitted + 1 := by
  have hexec := cacheFillCommit_commits hb hkind hn hmay hi hkept
  rw [commitFill_commits hfree] at hexec
  have hhandle : i.handle = h := by simpa using List.find?_some hi
  have hot : ∀ c, bgCmd (fillDone s i q) b.id = some c → OnTime (fillDone s i q) c := fun c hc => by
    cases Option.some.inj (hn.symm.trans hc)
    exact htime
  have hended := (endsBg_finishBg hot .ok []).journaled s (bgCmd s b.id).toList
  have hfilled : indexOf (fillDone s i q) h = some (filledBy i q i) := by
    rw [fillDone, hhandle]
    exact indexOf_updIndex (filledBy i q) (fun _ hy => hy) hi
  obtain ⟨j, hj, hsame⟩ := hended.indexes h _ hfilled
  refine ⟨_, j, hexec, hended.not_mem, hj, ?_, congrArg Telem.bgCommitted hended.telem⟩
  have hcache : (withoutOld j).cache = (withoutOld (filledBy i q i)).cache := by rw [hsame]
  change j.cache = (filledBy i q i).cache at hcache
  rw [hcache, filledBy, if_pos hfills]

end

/-- Settles O29: each event of a fetch changes what it is about, and the commit's work comes on top of the end of the stage. -/
theorem passagesAreFetched : Obligations.PassagesAreFetched := by
  unfold Obligations.PassagesAreFetched
  intro s key c m k h
  refine ⟨fun id r hid => ?_, fun id hid hfresh => ⟨fun b hgrant => storeRead_moves h hid hfresh hgrant b,
    fun r hbad => storeRead_fails h hid hfresh hbad⟩, fun hwait => ⟨fun p => t3Budget_expires h hwait p, fun p => ⟨fun hsame => ?_,
    fun hne => t3LatestSwitchPoint_switches h hwait hne⟩⟩, fun hdone p => passageFetch_advances h hdone p,
    fun b h q n i hb hkind hn hmay htime hi hkept hfills hfree => cacheFill_enters hb hkind hn hmay hi htime hkept hfills hfree⟩
  · obtain ⟨hc, -⟩ := h
    exact ⟨_, storeRead_of_stale hc hid r, rfl, caseOf_updCase_of_some (g := withoutStale id) hc fun _ => rfl⟩
  · rw [t3LatestSwitchPoint_of_running h hwait, if_pos hsame]

end Sys2Proof.Machine
end

section
/-! PROOFS. Model switches and layer moves (R135, R143, R273, R274). -/

namespace Sys2Proof.Machine

theorem addVTime_frame (s : State) (owner level n : Nat) :
    addVTime s owner level n = { s with sched := { s.sched with vts := (addVTime s owner level n).sched.vts } } := by
  unfold addVTime
  dsimp only
  split <;> rfl

/-- A switch that is charged has its page mover's time on the account and its virtual time. -/
theorem chargeLoad_of_loading {s : State} {p : PoolLoad} (hp : s.sched.poolLoading = some p) :
    chargeLoad s = { s with sched := { s.sched with
      accounts := (chargeLoad s).sched.accounts, vts := (chargeLoad s).sched.vts
      poolLoading := some { p with charged := s.tclk } } } := by
  unfold chargeLoad
  rw [hp]
  dsimp only
  rw [addVTime_frame]
  rfl

/-- The end of a switch counts its time to the partition it was for (R143). -/
theorem endSwitch_of_loading {s : State} {p : PoolLoad} (hp : s.sched.poolLoading = some p) :
    endSwitch s = updStats (updSched (chargeLoad s) fun d => { d with poolLoading := none }) p.owner
      fun n => { n with switchTime := n.switchTime + (s.tclk - p.start) } := by
  unfold endSwitch
  rw [chargeLoad_of_loading hp]

theorem modelSwitchLoadDone_switches {s : State} {p : PoolLoad} (hp : s.sched.poolLoading = some p) :
    ∃ t, exec (.modelSwitchLoadDone p.model) s = .next t ∧ t.sched.poolLoading = none ∧ t.sched.poolModel = some p.model ∧
      t.parts = (updStats s p.owner fun n => { n with switchTime := n.switchTime + (s.tclk - p.start) }).parts ∧
      t.sched.cmds = s.sched.cmds ∧ t = { s with sched := t.sched, parts := t.parts } := by
  rw [exec_modelSwitchLoadDone, execModelSwitchLoadDone, hp]
  dsimp only
  rw [if_pos rfl, endSwitch_of_loading hp, chargeLoad_of_loading hp]
  exact ⟨_, rfl, rfl, rfl, rfl, rfl, rfl⟩

theorem modelSwitchLoadDone_of_ne {s : State} {p : PoolLoad} (hp : s.sched.poolLoading = some p) {m : Nat} (hm : m ≠ p.model) :
    exec (.modelSwitchLoadDone m) s = .next s := by
  rw [exec_modelSwitchLoadDone, execModelSwitchLoadDone, hp]
  dsimp only
  rw [if_neg (Ne.symm hm)]

/-- The layers that are there once `layer` of model `m` has come. -/
def withLayer (m layer : Nat) (d : Sched) : Sched :=
  { d with layers := if d.layers.contains (m, layer) then d.layers else d.layers ++ [(m, layer)] }

section
variable {s : State} {m layer : Nat} {x : Model} (hx : modelOf s m = some x) (hlayer : layer < x.img.shape.layers)
include hx hlayer

theorem layerMoveDone_in_time : exec (.layerMoveDone m layer 0) s = .next (updSched s (withLayer m layer)) := by
  rw [exec_layerMoveDone, execLayerMoveDone, hx]
  dsimp only
  rw [if_neg (Nat.not_le.2 hlayer), if_pos rfl]
  rfl

/-- A late layer is recorded, and where no case runs on its model nothing gives way (R274). -/
theorem layerMoveDone_late {late : Nat} (hlate : late ≠ 0) (hnone : casesOfModel s m = []) :
    exec (.layerMoveDone m layer late) s = .next (record (updSched s (withLayer m layer)) 0x0205
      (leBytes 4 m ++ leBytes 2 layer ++ leBytes 1 late)) := by
  rw [exec_layerMoveDone, execLayerMoveDone, hx]
  dsimp only
  rw [if_neg (Nat.not_le.2 hlayer), if_neg hlate]
  refine congrArg _ (Eq.trans (congrArg _ ?_) List.foldl_nil)
  exact hnone

end

/-- Settles O25: a switch that is done ends in the pool, and a layer that has come joins those that are there. -/
theorem modelsAreSwitched : Obligations.ModelsAreSwitched := by
  unfold Obligations.ModelsAreSwitched
  exact ⟨fun s p hp => ⟨modelSwitchLoadDone_switches hp, fun m hm => modelSwitchLoadDone_of_ne hp hm⟩,
    fun s m layer x hx hlayer => ⟨layerMoveDone_in_time hx hlayer, fun late hlate hnone => layerMoveDone_late hx hlayer hlate hnone⟩⟩

end Sys2Proof.Machine
end

section
/-! PROOFS. Selection and grants (R128, R130). -/

namespace Sys2Proof.Machine

/-! ## Selection -/

/-- Sorting adds nothing. -/
theorem mem_of_mem_sortBy {α : Type} {ahead : α → α → Bool} {a : α} {l : List α} (h : a ∈ sortBy ahead l) : a ∈ l := by
  induction l with
  | nil => exact h
  | cons x xs ih =>
    rcases mem_insertBy h with rfl | h
    · exact List.mem_cons_self
    · exact List.mem_cons_of_mem x (ih h)

/-- A pass that is ready has no number before its grant. -/
theorem id_of_readyPasses {s : State} {u : UnitId} {c : Cmd} (h : c ∈ readyPasses s u) : c.id = 0 := by
  unfold readyPasses at h
  obtain ⟨w, -, hw⟩ := List.mem_flatMap.1 (List.mem_eraseDups.1 h)
  obtain ⟨l, -, hl⟩ := List.mem_filterMap.1 hw
  unfold passCmd at hl
  split at hl
  · cases hl
  · cases hl
    rfl

/-- The command that is selected for a unit needs it, and is one of the scheduler's unless it is a pass that has just formed. -/
theorem select_spec {s : State} {u : UnitId} {c : Cmd} (h : select s u = some c) :
    u ∈ engines s c u ∧ (c.id ≠ 0 → c ∈ s.sched.cmds) := by
  have hmem : c ∈ candidates s u := mem_of_mem_sortBy (List.mem_of_mem_head? (Option.mem_def.2 h))
  obtain ⟨hfrom, hok⟩ := List.mem_filter.1 hmem
  simp only [Bool.and_eq_true, List.contains_iff_mem] at hok
  obtain ⟨⟨⟨hneeds, -⟩, -⟩, -⟩ := hok
  refine ⟨hneeds, fun hid => ?_⟩
  rcases List.mem_append.1 hfrom with hcmd | hpass
  · exact (List.mem_filter.1 hcmd).1
  · exact absurd (id_of_readyPasses hpass) hid

/-- A command whose engines are free and whose weights are here is granted. -/
theorem selectFor_grants {s : State} {u : UnitId} {c : Cmd} (h : select s u = some c) (hid : c.id ≠ 0)
    (hweights : weightsOf s c = .here) (hfree : holders s (engines s c u) = [])
    (hswitch : (engines s c u).any (switchHolds s) = false) : selectFor s u = grantCmd s c (engines s c u) := by
  unfold selectFor
  rw [h]
  dsimp only
  simp only [hswitch, Bool.false_and, Bool.false_eq_true, if_false, hfree, if_true, grant, hweights, if_neg hid]

/-! ## The batch of a grant -/

/-- A fold that only ever adds list entries to what it collects. -/
theorem mem_foldl_collect {α β : Type} {f : β × List α → α → β × List α} (hf : ∀ a x, (f a x).2 ⊆ a.2 ++ [x]) (l : List α)
    (a : β × List α) : (l.foldl f a).2 ⊆ a.2 ++ l := by
  induction l generalizing a with
  | nil => simp
  | cons x l ih =>
    intro y hy
    rcases List.mem_append.1 (ih (f a x) hy) with hy | hy
    · exact List.append_subset_of_subset_of_subset (by simp) (by simp) (hf a x hy)
    · simp [hy]

theorem id_ne_of_mem_batchOf {s : State} {c x : Cmd} (h : x ∈ batchOf s c) : x.id ≠ c.id := by
  unfold batchOf at h
  dsimp only at h
  split at h
  · cases h
  · have hin := mem_foldl_collect (fun a y => by split <;> simp) _ _ h
    obtain ⟨-, hx⟩ := List.mem_filter.1 (mem_of_mem_sortBy hin)
    simp only [Bool.and_eq_true, bne_iff_ne] at hx
    obtain ⟨⟨⟨hne, -⟩, -⟩, -⟩ := hx
    exact hne

/-! ## The start of prefill -/

/-- A case without what it has generated. -/
def withoutGen (c : Case) : Case := { c with gen := GenState.none }

/-- Only prefixes and what cases generate have changed. -/
structure StartsGen (s t : State) : Prop where
  frame : t = { s with cases := t.cases, pfxs := t.pfxs }
  cases : t.cases.map withoutGen = s.cases.map withoutGen

theorem StartsGen.refl (s : State) : StartsGen s s := ⟨rfl, rfl⟩

theorem StartsGen.trans {a b c : State} (h : StartsGen a b) (k : StartsGen b c) : StartsGen a c :=
  ⟨by rw [k.frame, h.frame], k.cases.trans h.cases⟩

theorem startsGen_updGen (s : State) (key : Nat) (g : GenState → GenState) : StartsGen s (updGen s key g) := by
  refine ⟨rfl, ?_⟩
  rw [updGen, updCase, modifyWhere, List.map_map]
  refine List.map_congr_left fun c _ => ?_
  dsimp only [Function.comp]
  split <;> rfl

theorem startsGen_startPrefill (s : State) (key : Nat) : StartsGen s (startPrefill s key) := by
  have hpfx (c : Case) : StartsGen s (dropPfx s c false) := ⟨rfl, rfl⟩
  unfold startPrefill
  split
  · exact StartsGen.refl s
  · split
    · exact StartsGen.refl s
    · split
      · exact StartsGen.refl s
      · split
        · exact (hpfx _).trans (startsGen_updGen _ key _)
        · exact StartsGen.refl s

theorem startsGen_foldl (l : List Nat) (s : State) : StartsGen s (l.foldl startPrefill s) := by
  induction l generalizing s with
  | nil => exact StartsGen.refl s
  | cons key l ih => exact (startsGen_startPrefill s key).trans (ih _)

/-! ## The grant -/

theorem mem_cmds_updCmd {s : State} {x : Cmd} (h : x ∈ s.sched.cmds) {i : Nat} (hi : x.id = i) (g : Cmd → Cmd) :
    g x ∈ (updCmd s i g).sched.cmds :=
  List.mem_map.2 ⟨x, h, if_pos (beq_iff_eq.2 hi)⟩

/-- A command that has been granted its engines at an instant. -/
def runsOn (serves : Serves) (us : List UnitId) (ts : Nat) (c : Cmd) : Cmd :=
  { c with serves := serves, phase := .running, units := us, grantTs := ts, preemptTs := none, left := [] }

/-- The scheduler's commands without those that join a command's batch. -/
def withoutBatch (s : State) (c : Cmd) : State :=
  updSched s fun d => { d with cmds := d.cmds.filter fun x => !((batchOf s c).map Cmd.id).contains x.id }

/-- A grant takes the batch into the command, puts its cores in their mode, lets it run, and starts its cases' generation. -/
theorem startsGen_grantCmd (s : State) (c : Cmd) (us : List UnitId) :
    ∃ serves, StartsGen (updCmd (setModes (withoutBatch s c) c us) c.id (runsOn serves us s.tclk)) (grantCmd s c us) :=
  ⟨_, startsGen_foldl _ _⟩

theorem mem_withoutBatch {s : State} {c : Cmd} (hc : c ∈ s.sched.cmds) : c ∈ (withoutBatch s c).sched.cmds := by
  refine List.mem_filter.2 ⟨hc, ?_⟩
  simpa using fun x hx => id_ne_of_mem_batchOf hx

/-- The command runs on its engines from now on (R130); its cases' generation may start, and no contract is touched. -/
theorem grantCmd_runs {s : State} {c : Cmd} (hc : c ∈ s.sched.cmds) (us : List UnitId) :
    ∃ x ∈ (grantCmd s c us).sched.cmds, x.id = c.id ∧ x.phase = .running ∧ x.units = us ∧ x.grantTs = s.tclk ∧
      (grantCmd s c us).contracts = s.contracts ∧
      (grantCmd s c us).cases.map withoutGen = s.cases.map withoutGen := by
  obtain ⟨serves, hframe, hcases⟩ := startsGen_grantCmd s c us
  refine ⟨runsOn serves us s.tclk c, ?_, rfl, rfl, rfl, rfl, by rw [hframe]; rfl, hcases⟩
  rw [hframe]
  exact mem_cmds_updCmd (s := setModes (withoutBatch s c) c us) (mem_withoutBatch hc) rfl _

theorem exec_commandSelection_of_runs {s : State} {u : UnitId} (hu : isEngine u = true) (hrun : runState s.boot.state = true) :
    exec (.commandSelection u) s = .next (selectFor (yieldPoints (chargeAll s)) u) := by
  rw [exec_commandSelection, execCommandSelection, guardUnit, if_pos hu, if_pos hrun]

theorem selectFor_of_none {s : State} {u : UnitId} (h : select s u = none) : selectFor s u = s := by
  rw [selectFor, h]

end Sys2Proof.Machine
end

section
/-! PROOFS. The end of a tile (R237 to R240, R244 to R246, R338): what charging and a rerun leave of the commands and their work
areas; the statement on grants and tiles (O24). -/

namespace Sys2Proof.Machine

/-! ## Commands that are charged -/

/-- A command is one of the scheduler's, but for what it has been charged. -/
def Holds (s : State) (c : Cmd) : Prop := ∃ ts n, { c with grantTs := ts, spent := n } ∈ s.sched.cmds

theorem holds_of_mem {s : State} {c : Cmd} (h : c ∈ s.sched.cmds) : Holds s c := ⟨c.grantTs, c.spent, h⟩

/-- Every command is still there, but for what it has been charged, and the work areas hold what they held. -/
structure Charges (s t : State) : Prop where
  holds : ∀ c, Holds s c → Holds t c
  areas : t.sched.areas = s.sched.areas

theorem charges_of_eq {s t : State} (hcmds : t.sched.cmds = s.sched.cmds) (hareas : t.sched.areas = s.sched.areas) : Charges s t :=
  ⟨fun _ ⟨ts, n, hc⟩ => ⟨ts, n, hcmds ▸ hc⟩, hareas⟩

theorem Charges.refl (s : State) : Charges s s := charges_of_eq rfl rfl

theorem Charges.trans {a b c : State} (h : Charges a b) (k : Charges b c) : Charges a c :=
  ⟨fun x hx => k.holds x (h.holds x hx), k.areas.trans h.areas⟩

theorem charges_foldl {α : Type} {g : State → α → State} (hg : ∀ s a, Charges s (g s a)) (l : List α) (s : State) :
    Charges s (l.foldl g s) := by
  induction l generalizing s with
  | nil => exact Charges.refl s
  | cons a l ih => exact (hg s a).trans (ih _)

theorem charges_addVTime (s : State) (owner level n : Nat) : Charges s (addVTime s owner level n) := by
  rw [addVTime_frame]
  exact charges_of_eq rfl rfl

theorem charges_raiseVTime (s : State) (owner level : Nat) : Charges s (raiseVTime s owner level) := by
  unfold raiseVTime raiseAmong
  split
  · exact Charges.refl s
  · split
    · exact Charges.refl s
    · dsimp only
      split <;> exact charges_of_eq rfl rfl

theorem charges_noteBlock (s : State) (c : Cmd) : Charges s (noteBlock s c) := by
  rw [noteBlock_frame]
  exact charges_of_eq rfl rfl

theorem charges_updCmd (s : State) (i : Nat) {g : Cmd → Cmd} (hg : ∀ c, g c = { c with grantTs := (g c).grantTs, spent := (g c).spent }) :
    Charges s (updCmd s i g) := by
  refine ⟨fun c ⟨ts, n, hc⟩ => ?_, rfl⟩
  by_cases hi : c.id = i
  · exact ⟨_, _, hg { c with grantTs := ts, spent := n } ▸ mem_cmds_updCmd hc hi g⟩
  · exact ⟨ts, n, List.mem_map.2 ⟨_, hc, if_neg (by simpa using hi)⟩⟩

theorem charges_chargeCmd (s : State) (c : Cmd) : Charges s (chargeCmd s c) := by
  have hheld (owner level : Nat) (h : List (UnitId × Nat)) : Charges s (addHeld s owner level h) := charges_of_eq rfl rfl
  unfold chargeCmd
  split
  · exact Charges.refl s
  · dsimp only
    refine Charges.trans ?_ (charges_updCmd _ _ fun _ => rfl)
    exact (hheld _ _ _).trans (charges_addVTime _ _ _ _)

theorem charges_chargeLoad (s : State) : Charges s (chargeLoad s) := by
  cases hp : s.sched.poolLoading with
  | none =>
    rw [chargeLoad, hp]
    exact Charges.refl s
  | some p =>
    unfold chargeLoad
    rw [hp]
    dsimp only
    rw [addVTime_frame]
    exact charges_of_eq rfl rfl

theorem charges_inForce (s : State) (g : Nat) : Charges s (inForce s g) := by
  unfold inForce
  dsimp only
  split
  · split
    · exact (charges_foldl charges_chargeCmd _ s).trans ((charges_chargeLoad _).trans (charges_of_eq rfl rfl))
    · exact Charges.refl s
  · exact Charges.refl s

/-- An array that takes the requested divider at the end of its tile: the commands are charged, and the power unit changes. -/
theorem charges_adopt (s : State) (u : UnitId) : Charges s (adopt s u) := by
  unfold adopt
  split
  · exact Charges.trans (b := updDie s _ _) (charges_of_eq rfl rfl) (charges_inForce _ _)
  · exact Charges.refl s

theorem retires_adopt (s : State) (u : UnitId) : Retires s (adopt s u) := by
  unfold adopt
  split
  · exact (retires_updDie s _ _).trans (retires_inForce _ _)
  · exact Retires.refl s

theorem charges_adoptIdle (s : State) : Charges s (adoptIdle s) :=
  charges_foldl (fun s g => Charges.trans (b := updDie s g _) (charges_of_eq rfl rfl) (charges_inForce _ g)) _ s

/-! ## A command begins again -/

/-- A command that begins again is as `g` puts it, and nothing of what it had computed is left (R240). -/
theorem readyAgain_ready {s : State} {c : Cmd} (hc : Holds s c) {g : Cmd → Cmd} (hg : (g c).phase = .ready) :
    (∃ ts n, Holds (readyAgain s c g) (g { c with grantTs := ts, spent := n })) ∧
    (readyAgain s c g).sched.areas = s.sched.areas.filter fun r => !([c.id].contains r.cmd) := by
  have hcharged : Charges s (raiseVTime (noteBlock (chargeCmd s c) c) c.owner c.level) :=
    ((charges_chargeCmd s c).trans (charges_noteBlock _ c)).trans (charges_raiseVTime _ _ _)
  obtain ⟨ts, n, hmem⟩ := hcharged.holds c hc
  unfold readyAgain
  dsimp only
  rw [if_pos hg]
  constructor
  · exact ⟨ts, n, (charges_adoptIdle _).holds _ (holds_of_mem (mem_cmds_updCmd hmem rfl g))⟩
  · rw [(charges_adoptIdle _).areas, dropAreas_areas]
    exact congrArg (List.filter _) hcharged.areas

/-! ## A rerun -/

/-- A part of the state that no step of a fold changes. -/
theorem foldl_keeps {α β : Type} {f : State → β} {g : State → α → State} (hg : ∀ s a, f (g s a) = f s) (l : List α) (s : State) :
    f (l.foldl g s) = f s := by
  induction l generalizing s with
  | nil => rfl
  | cons a l ih => exact (ih _).trans (hg s a)

/-- Counting a rerun leaves the scheduler, the clock and the safety unit. -/
theorem countRerun_keeps (s : State) (c : Cmd) :
    (countRerun s c).sched = s.sched ∧ (countRerun s c).tclk = s.tclk ∧ (countRerun s c).safety = s.safety := by
  unfold countRerun
  refine ⟨?_, ?_, ?_⟩
  · exact foldl_keeps (f := State.sched) (fun s key => by split <;> rfl) _ _
  · exact foldl_keeps (f := State.tclk) (fun s key => by split <;> rfl) _ _
  · exact foldl_keeps (f := State.safety) (fun s key => by split <;> rfl) _ _

/-- The command that is rerun after a detection (R338). -/
def rerunOf (det : Nat) (c : Cmd) : Cmd := { freshCmd c with reruns := c.reruns + 1, ovfReruns := c.ovfReruns + bit (det == 0x03) }

/-- A recovery is counted (R338). -/
def countRecovery (y : Safety) : Safety := { y with recovered := (y.recovered + 1) % 2 ^ 32 }

theorem countRecovery_recovered (y : Safety) : (countRecovery y).recovered = (y.recovered + 1) % 2 ^ 32 := rfl

theorem countRecovery_fences (y : Safety) : (countRecovery y).fences = y.fences := rfl

theorem rerunCmd_of_under {s : State} {c : Cmd} {det : Nat} (hlimit : atLimit c det = false) :
    rerunCmd s det c = countRerun (updSafety (readyAgain s c (rerunOf det)) countRecovery) c := by
  rw [rerunCmd, hlimit]
  rfl

/-- A rerun puts the command back in the queue with one rerun more, without its partial results, and counts a recovery (R338). -/
theorem rerunCmd_reruns {s : State} {c : Cmd} {det : Nat} (hc : Holds s c) (hlimit : atLimit c det = false) :
    (∃ y ∈ (rerunCmd s det c).sched.cmds, y.id = c.id ∧ y.phase = .ready ∧ y.units = [] ∧ y.reruns = c.reruns + 1) ∧
    (∀ a ∈ (rerunCmd s det c).sched.areas, a.cmd ≠ c.id) ∧ (rerunCmd s det c).tclk = s.tclk ∧
    (rerunCmd s det c).safety = countRecovery s.safety := by
  obtain ⟨⟨ts, n, ts', n', hmem⟩, hareas⟩ := readyAgain_ready (g := rerunOf det) hc rfl
  obtain ⟨hkept, -⟩ := retires_readyAgain s c (rerunOf det)
  have hclk := congrArg State.tclk hkept
  have hsafety := congrArg State.safety hkept
  obtain ⟨hsched, hclk', hsafety'⟩ := countRerun_keeps (updSafety (readyAgain s c (rerunOf det)) countRecovery) c
  rw [rerunCmd_of_under hlimit, hsched, hclk', hsafety', updSafety_sched, updSafety_tclk, updSafety_safety, hclk, hsafety]
  refine ⟨⟨_, hmem, rfl, rfl, rfl, rfl⟩, fun a ha => ?_, rfl, rfl⟩
  rw [hareas] at ha
  obtain ⟨-, ha⟩ := List.mem_filter.1 ha
  simpa using ha

/-! ## Detections -/

/-- The detections of a tile are of its array, and none is injected. -/
theorem tileDetections_spec {s : State} {c : Cmd} {u : UnitId} {t : TileRun} {cs : List (List Cell)} {d : TileArea} {x : Detection}
    (hx : x ∈ tileDetections s c u t cs d) : x.unit = u ∧ x.injected = false := by
  unfold tileDetections at hx
  rcases List.mem_append.1 hx with hx | hx
  · split at hx
    · cases List.mem_singleton.1 hx
      exact ⟨rfl, rfl⟩
    · cases hx
  · split at hx
    · split at hx
      · cases List.mem_singleton.1 hx
        exact ⟨rfl, rfl⟩
      · cases hx
    · split at hx
      · cases hx
      · cases List.mem_singleton.1 hx
        exact ⟨rfl, rfl⟩

/-- How many of a unit's detections are recent enough to count toward its fence (R339). -/
def recentOn (s : State) (u : UnitId) : Nat :=
  (s.safety.killed.filter fun e => decide (e.1 = u ∧ s.tclk < e.2 + 120000000)).length

/-- The scheduler, the clock, the fences and the count of recoveries are as they were, and unit `u` has `n` recent detections. -/
structure Counts (s t : State) (u : UnitId) (n : Nat) : Prop where
  sched : t.sched = s.sched
  tclk : t.tclk = s.tclk
  fences : t.safety.fences = s.safety.fences
  recovered : t.safety.recovered = s.safety.recovered
  recent : recentOn t u = n

theorem Counts.trans {a b c : State} {u : UnitId} {m n : Nat} (h : Counts a b u m) (k : Counts b c u n) : Counts a c u n :=
  ⟨k.sched.trans h.sched, k.tclk.trans h.tclk, k.fences.trans h.fences, k.recovered.trans h.recovered, k.recent⟩

/-- A detection that is not the third recent one of its unit is counted, and fences nothing (R339). -/
theorem counts_escalate {s : State} {u : UnitId} (h : recentOn s u + 1 < 3) (det : Nat) :
    Counts s (escalate s u det) u (recentOn s u + 1) := by
  have hcount : (((s.safety.killed ++ [(u, s.tclk)]).filter fun e => decide (s.tclk < e.2 + 120000000)).filter
      fun e => decide (e.1 = u)).length = recentOn s u + 1 := by
    simp [recentOn, List.filter_append, Bool.decide_and]
  unfold escalate
  dsimp only
  rw [hcount, if_neg (by omega)]
  refine ⟨rfl, rfl, rfl, rfl, ?_⟩
  rw [← hcount, recentOn]
  simp [List.filter_filter]

/-- A detection of a tile is recorded and counted on its unit (R338, R339). -/
def noteDetection (s : State) (d : Detection) : State :=
  escalate (detectorRecord s d.det (unitCode d.unit) false false d.payload) d.unit d.det

theorem counts_noteDetection {s : State} {u : UnitId} {d : Detection} (hd : d.unit = u) (h : recentOn s u + 1 < 3) :
    Counts s (noteDetection s d) u (recentOn s u + 1) := by
  obtain ⟨hsched, hclk, hfences, hrecovered, hrecent⟩ :=
    counts_escalate (s := detectorRecord s d.det (unitCode d.unit) false false d.payload) h d.det
  rw [noteDetection, hd]
  rw [hd] at hsched hclk hfences hrecovered hrecent
  exact ⟨hsched, hclk, hfences, hrecovered, hrecent⟩

/-- None of some detections on a unit is the third recent one. -/
theorem counts_noteDetections {u : UnitId} (l : List Detection) (hl : ∀ d ∈ l, d.unit = u) {s : State} (h : recentOn s u + l.length < 3) :
    Counts s (l.foldl noteDetection s) u (recentOn s u + l.length) := by
  induction l generalizing s with
  | nil => exact ⟨rfl, rfl, rfl, rfl, rfl⟩
  | cons d l ih =>
    obtain ⟨hd, hrest⟩ := List.forall_mem_cons.1 hl
    rw [List.length_cons] at h ⊢
    have hfirst := counts_noteDetection hd (s := s) (by omega)
    have hlater := ih hrest (s := noteDetection s d) (by rw [hfirst.recent]; omega)
    rw [hfirst.recent, Nat.add_assoc, Nat.add_comm 1] at hlater
    exact hfirst.trans hlater

/-! ## The end of a tile -/

section
variable {s : State} {c : Cmd} {u : UnitId} {x : Detection} {rest : List Detection}

/-- A tile that fails discards its command's partial results, and reruns the command once, however many detections it had; with fewer
than three recent ones on the array nothing is fenced (R240, R338, R339). -/
theorem failTile_reruns (hc : Holds s c) (hpre : c.preemptTs = none) (hx : ∀ d ∈ x :: rest, d.unit = u ∧ d.injected = false)
    (hlimit : atLimit c x.det = false) (hfew : recentOn s u + (rest.length + 1) < 3) :
    (∃ y ∈ (failTile s c (x :: rest)).sched.cmds, y.id = c.id ∧ y.phase = .ready ∧ y.units = [] ∧ y.reruns = c.reruns + 1) ∧
    (∀ a ∈ (failTile s c (x :: rest)).sched.areas, a.cmd ≠ c.id) ∧
    (failTile s c (x :: rest)).safety.recovered = (s.safety.recovered + 1) % 2 ^ 32 ∧
    (failTile s c (x :: rest)).safety.fences = s.safety.fences := by
  obtain ⟨⟨hunit, hreal⟩, hrest⟩ := List.forall_mem_cons.1 hx
  have hnote : noteWait s c = noteBlock s c := by
    rw [noteWait, hpre]
  obtain ⟨v, hv⟩ : ∃ v, v = detectorRecord (noteBlock s c) x.det (unitCode u) x.injected false x.payload := ⟨_, rfl⟩
  have hfail : failTile s c (x :: rest) = rest.foldl noteDetection (escalate (rerunCmd v x.det c) u x.det) := by
    rw [failTile, hnote, dataPath, if_neg (by simp [hreal]), hunit, List.foldl_cons, List.foldl_nil, hv]
    rfl
  have hvc : Holds v c := hv ▸ (charges_noteBlock s c).holds c hc
  obtain ⟨hready, hareas, hclk, hsafety⟩ := rerunCmd_reruns hvc hlimit
  have hvclk : v.tclk = s.tclk := by rw [hv, noteBlock_frame]; rfl
  have hvsafety : v.safety = s.safety := by rw [hv, noteBlock_frame]; rfl
  rw [hvsafety] at hsafety
  have hrecent : recentOn (rerunCmd v x.det c) u = recentOn s u := by
    rw [recentOn, hclk, hsafety, hvclk]
    rfl
  have hfirst := counts_escalate (s := rerunCmd v x.det c) (u := u) (by omega) x.det
  have hall := hfirst.trans (counts_noteDetections rest (fun d hd => (hrest d hd).1) (by rw [hfirst.recent]; omega))
  rw [hfail, hall.sched, hall.fences, hall.recovered, hsafety, countRecovery_recovered, countRecovery_fences]
  exact ⟨hready, hareas, rfl, rfl⟩

end

section
variable (s : State) (c : Cmd) (u : UnitId) (r : TileRun)

/-- The part of a tile that an array runs (R241). -/
def quadrantOn : TileRun := quadrant (inGang s (u.idx / 4)) (u.idx % 4) r

/-- The cells of the array at the end of the tile. -/
def cellsOn : List (List Cell) := tileCells (areaOf s c u (quadrantOn s u r).block) (quadrantOn s u r)

/-- The work area as the array drains it (R239). -/
def drainedOn : TileArea := areaAfter (areaOf s c u (quadrantOn s u r).block) (quadrantOn s u r) (cellsOn s c u r)

/-- What the compare of the drained tile finds (R240). -/
def foundOn : List Detection := tileDetections s c u (quadrantOn s u r) (cellsOn s c u r) (drainedOn s c u r)

variable {s c u r}

theorem endTile_passes (h : foundOn s c u r = []) : endTile s c u r = passTile (adopt s u) c u (quadrantOn s u r) (drainedOn s c u r) := by
  unfold endTile
  dsimp only
  split
  · rfl
  · rename_i hne
    exact absurd h hne

theorem endTile_fails {x : Detection} {rest : List Detection} (h : foundOn s c u r = x :: rest) :
    endTile s c u r = failTile (adopt s u) c (x :: rest) := by
  unfold endTile
  dsimp only
  split
  · rename_i hnone
    exact absurd (h.symm.trans hnone) (List.cons_ne_nil _ _)
  · exact congrArg _ h

end

/-- Whether a work area stands where another one does. -/
def samePlace (d a : TileArea) : Bool := a.cmd == d.cmd && a.core == d.core && a.quad == d.quad && a.block == d.block

/-- The outputs of a tile that passes stand in its command's work area, which nobody has asked to yield; the other areas stay (R240). -/
theorem passTile_of_unasked (s : State) {c : Cmd} (hpre : c.preemptTs = none) (u : UnitId) (t : TileRun) (d : TileArea) :
    passTile s c u t d =
      updSched s fun x => { x with areas := (x.areas.filter fun a => !samePlace d a) ++ [endChain d t.next] } := by
  rw [passTile, hpre]
  rfl

section
variable {s : State} {cmd : Nat} {u : UnitId} {r : TileRun} {c : Cmd} (hkind : u.kind = 3) (hidx : u.idx < 64)
include hkind hidx

theorem tileEnd_of_none (hc : cmdOf s cmd = none) : exec (.tileEnd cmd u r) s = .next s := by
  rw [exec_tileEnd, execTileEnd, guardUnit, if_pos (decide_eq_true ⟨hkind, hidx⟩), hc]

variable (hc : cmdOf s cmd = some c) (hphase : c.phase = .running) (hu : u ∈ c.units) (hfits : tileFits s c u r = true)
include hc hphase hu hfits

theorem tileEnd_ends : exec (.tileEnd cmd u r) s = .next (endTile s c u r) := by
  rw [exec_tileEnd, execTileEnd, guardUnit, if_pos (decide_eq_true ⟨hkind, hidx⟩), hc]
  dsimp only
  rw [if_pos ⟨hphase, List.contains_iff_mem.2 hu, hfits⟩]

variable (hpre : c.preemptTs = none)
include hpre

theorem tileEnd_passes (hfound : foundOn s c u r = []) :
    ∃ t, exec (.tileEnd cmd u r) s = .next t ∧ endChain (drainedOn s c u r) (quadrantOn s u r).next ∈ t.sched.areas ∧
      t = { adopt s u with sched := { (adopt s u).sched with areas := t.sched.areas } } ∧
      (∀ a ∈ t.sched.areas, a = endChain (drainedOn s c u r) (quadrantOn s u r).next ∨
        (a ∈ (adopt s u).sched.areas ∧ ¬ (a.cmd = (drainedOn s c u r).cmd ∧ a.core = (drainedOn s c u r).core ∧
          a.quad = (drainedOn s c u r).quad ∧ a.block = (drainedOn s c u r).block))) := by
  rw [tileEnd_ends hkind hidx hc hphase hu hfits, endTile_passes hfound, passTile_of_unasked _ hpre]
  refine ⟨_, rfl, List.mem_append_right _ (List.mem_singleton_self _), rfl, fun a ha => ?_⟩
  rcases List.mem_append.1 ha with ha | ha
  · obtain ⟨hin, hother⟩ := List.mem_filter.1 ha
    exact .inr ⟨hin, fun ⟨hcmd, hcore, hquad, hblock⟩ => by simp [samePlace, hcmd, hcore, hquad, hblock] at hother⟩
  · exact .inl (List.mem_singleton.1 ha)

theorem tileEnd_fails {x : Detection} {rest : List Detection} (hfound : foundOn s c u r = x :: rest) (hlimit : atLimit c x.det = false)
    (hfew : recentOn s u + (rest.length + 1) < 3) :
    ∃ t y, exec (.tileEnd cmd u r) s = .next t ∧ y ∈ t.sched.cmds ∧ y.id = cmd ∧ y.phase = .ready ∧ y.units = [] ∧
      y.reruns = c.reruns + 1 ∧ (∀ a ∈ t.sched.areas, a.cmd ≠ cmd) ∧
      t.safety.recovered = (s.safety.recovered + 1) % 2 ^ 32 ∧ t.safety.fences = s.safety.fences := by
  obtain ⟨hkept, -⟩ := retires_adopt s u
  have hclk : (adopt s u).tclk = s.tclk := by rw [hkept]
  have hsafety : (adopt s u).safety = s.safety := by rw [hkept]
  have hid : c.id = cmd := by simpa using List.find?_some hc
  have hholds := (charges_adopt s u).holds c (holds_of_mem (List.mem_of_find?_eq_some hc))
  have hmine : ∀ d ∈ x :: rest, d.unit = u ∧ d.injected = false := fun d hd => tileDetections_spec (hfound ▸ hd)
  obtain ⟨⟨y, hy, hyid, hready, hunits, hreruns⟩, hareas, hrecovered, hfences⟩ :=
    failTile_reruns hholds hpre hmine hlimit (by rw [recentOn, hclk, hsafety]; exact hfew)
  rw [hid] at hyid hareas
  rw [hsafety] at hrecovered hfences
  rw [tileEnd_ends hkind hidx hc hphase hu hfits, endTile_fails hfound]
  exact ⟨_, y, rfl, hy, hyid, hready, hunits, hreruns, hareas, hrecovered, hfences⟩

end

/-! ## The statement -/

/-- COMMAND_SELECTION grants the command that is picked, when nothing is in its way (R128, R130). -/
theorem commandSelection_grants {s s1 : State} {u : UnitId} {c : Cmd} (hu : isEngine u = true) (hrun : runState s.boot.state = true)
    (hs1 : yieldPoints (chargeAll s) = s1) (hpick : select s1 u = some c) (hid : c.id ≠ 0) (hweights : weightsOf s1 c = .here)
    (hfree : holders s1 (engines s1 c u) = []) (hswitch : (engines s1 c u).any (switchHolds s1) = false) :
    ∃ t x, exec (.commandSelection u) s = .next t ∧ x ∈ t.sched.cmds ∧ x.id = c.id ∧ x.phase = .running ∧
      x.units = engines s1 c u ∧ x.grantTs = s1.tclk ∧ u ∈ x.units ∧ t.contracts = s1.contracts ∧
      t.cases.map withoutGen = s1.cases.map withoutGen := by
  obtain ⟨hneeds, hmem⟩ := select_spec hpick
  obtain ⟨x, hx, hxid, hphase, hunits, hts, hcontracts, hcases⟩ := grantCmd_runs (hmem hid) (engines s1 c u)
  rw [exec_commandSelection_of_runs hu hrun, hs1, selectFor_grants hpick hid hweights hfree hswitch]
  exact ⟨_, x, rfl, hx, hxid, hphase, hunits, hts, hunits ▸ hneeds, hcontracts, hcases⟩

/-- Settles O24: the command that is picked is one of the scheduler's, which its grant lets run; a tile that passes writes one work area,
and one that fails reruns its command once. -/
theorem commandsAreGrantedAndTilesEnd : Obligations.CommandsAreGrantedAndTilesEnd := by
  unfold Obligations.CommandsAreGrantedAndTilesEnd
  refine ⟨fun s u hu hrun => ⟨fun hnone => ?_, fun c hpick hid hweights hfree hswitch =>
      commandSelection_grants hu hrun rfl hpick hid hweights hfree hswitch⟩,
    fun s cmd u r c hkind hidx hc hphase hin hfits => ⟨fun hfound hpre => tileEnd_passes hkind hidx hc hphase hin hfits hpre hfound,
      fun x rest hfound hlimit hpre hfew => tileEnd_fails hkind hidx hc hphase hin hfits hpre hfound hlimit hfew⟩,
    fun s cmd u r hkind hidx hc => tileEnd_of_none hkind hidx hc⟩
  rw [exec_commandSelection_of_runs hu hrun, selectFor_of_none hnone]

end Sys2Proof.Machine
end

section
/-! PROOFS. Shard scans: signals, dispatches, results and kills that come from another module of the stack (R150, R192, R298, R307). -/

namespace Sys2Proof.Machine

/-! ## A message that is acknowledged -/

theorem onWire_takeInbox (s : State) (p : Nat) (m : StrataMsg) : OnWire s (takeInbox s p m) := onWire_updMl s _

theorem onWire_noteDelivered (s : State) (m : StrataMsg) : OnWire s (noteDelivered s m) := onWire_updMl s _

theorem onWire_sendAck (s : State) (m : StrataMsg) : OnWire s (sendAck s m) := onWire_sendMsg s _ _ _

/-- A message for this module, of a type that is acknowledged, goes to its delivery. -/
theorem strataMsg_delivers {s : State} {p : Nat} {m : StrataMsg} (hp : p < 4) (hruns : basaltRuns s = true)
    (hcarries : portCarries (portOf s p) m.type = true) (hpos : m.dst = myPos s) (hdst : m.dst ≠ 0xFF) (act : State → State) :
    strataMsg s p m.type m act = .next (deliver (takeInbox s p m) m act) := by
  have hstill : portCarries (portOf (takeInbox s p m) p) m.type = true := hcarries
  have hhere : m.dst = myPos (takeInbox s p m) := hpos
  rw [strataMsg, guardUnit_of_lt hp, if_pos hruns, receive]
  dsimp only
  rw [if_neg (by simp [hstill]), if_neg hdst, if_pos hhere]

/-- It takes effect once: what comes again is acknowledged again, and does nothing (R298). -/
theorem strataMsg_repeats {s : State} {p i : Nat} {m : StrataMsg} (hp : p < 4) (hruns : basaltRuns s = true)
    (hcarries : portCarries (portOf s p) m.type = true) (hpos : m.dst = myPos s) (hdst : m.dst ≠ 0xFF) (hack : acked m.type = true)
    (hseen : deliveredId s m.src m.vc = some i) (hold : m.id ≤ i) (act : State → State) :
    ∃ t, strataMsg s p m.type m act = .next t ∧ OnWire s t := by
  have hseen' : deliveredId (takeInbox s p m) m.src m.vc = some i := hseen
  refine ⟨_, strataMsg_delivers hp hruns hcarries hpos hdst act, ?_⟩
  rw [deliver, hack, hseen']
  dsimp only
  rw [if_neg (by simp), if_pos hold]
  exact (onWire_takeInbox s p m).trans (onWire_sendAck _ _)

/-- A message that has come for the first time takes effect, and its acknowledgement leaves (R298). -/
theorem strataMsg_acts {s : State} {p t : Nat} {m : StrataMsg} (h : Arrives s p t m) (hdst : m.dst ≠ 0xFF) (hack : acked t = true)
    (act : State → State) : ∃ v, strataMsg s p t m act = .next v ∧ OnWire (act (takeInbox s p m)) v := by
  obtain ⟨hp, hruns, hcarries, rfl, hfor, hnew⟩ := h
  have hpos : m.dst = myPos s := hfor.elim And.left fun hall => absurd hall.1 hdst
  refine ⟨_, strataMsg_delivers hp hruns hcarries hpos hdst act, ?_⟩
  have hdone : deliver (takeInbox s p m) m act = sendAck (noteDelivered (act (takeInbox s p m)) m) m := by
    unfold deliver
    rw [hack, if_neg (by simp)]
    split
    · rename_i i hseen
      exact if_neg (Nat.not_le.2 (hnew hack i hseen))
    · rfl
  rw [hdone]
  exact (onWire_noteDelivered _ m).trans (onWire_sendAck _ m)

theorem cairnOf_of_onWire {s t : State} (h : OnWire s t) (n : Nat) : cairnOf t n = cairnOf s n := by
  rw [h.1]
  rfl

theorem caseOf_of_onWire {s t : State} (h : OnWire s t) (key : Nat) : caseOf t key = caseOf s key := by
  rw [caseOf, caseOf, cases_of_onWire h]

theorem jobs_of_onWire {s t : State} (h : OnWire s t) : t.strata.jobs = s.strata.jobs := by rw [h.1]

/-! ## Signals (R150) -/

theorem cairnOf_setCairn_eq_map (s : State) (n v j : Nat) :
    cairnOf (setCairn s n v) j = (cairnOf s j).map fun c => if c.num == n then { c with val := v, copy := v } else c :=
  find?_modifyWhere _ _ _ _ fun _ _ => rfl

theorem cairnOf_setCairn (s : State) (n v : Nat) :
    cairnOf (setCairn s n v) n = (cairnOf s n).map fun c => { c with val := v, copy := v } := by
  rw [cairnOf_setCairn_eq_map]
  exact Option.map_congr fun c hc => if_pos (beq_iff_eq.2 (num_of_cairnOf hc))

theorem cairnOf_setCairn_of_ne (s : State) (n v : Nat) {j : Nat} (hj : j ≠ n) : cairnOf (setCairn s n v) j = cairnOf s j := by
  rw [cairnOf_setCairn_eq_map]
  refine (Option.map_congr fun c hc => if_neg fun hn => ?_).trans Option.map_id'
  exact hj ((num_of_cairnOf hc).symm.trans (beq_iff_eq.1 hn))

/-- A signal of the module writes the sum to its cairn, and no other cairn. -/
theorem deviceSignal_cairns {s : State} {n : Nat} {c : CairnRec} (hc : cairnOf s n = some c) (add : Nat) (remote : Bool) :
    (deviceSignal s n add remote).cairns = (setCairn s n ((c.val + add) % 2 ^ 32)).cairns := by
  unfold deviceSignal
  rw [hc]
  dsimp only
  (repeat' split) <;> rfl

theorem cairnOf_deviceSignal_add (s : State) (n add : Nat) (remote : Bool) :
    cairnOf (deviceSignal s n add remote) n = (cairnOf s n).map fun c =>
      { c with val := (c.val + add) % 2 ^ 32, copy := (c.val + add) % 2 ^ 32 } := by
  cases hc : cairnOf s n with
  | none =>
    rw [deviceSignal, hc]
    exact hc
  | some c =>
    have hset := cairnOf_setCairn s n ((c.val + add) % 2 ^ 32)
    rw [hc] at hset
    rw [cairnOf, deviceSignal_cairns hc]
    exact hset

theorem cairnOf_deviceSignal_of_ne (s : State) (n add : Nat) (remote : Bool) {j : Nat} (hj : j ≠ n) :
    cairnOf (deviceSignal s n add remote) j = cairnOf s j := by
  cases hc : cairnOf s n with
  | none => rw [deviceSignal, hc]
  | some c =>
    rw [cairnOf, deviceSignal_cairns hc]
    exact cairnOf_setCairn_of_ne s n _ hj

section
variable {s : State} {p : Nat} {m : StrataMsg} (h : Arrives s p 0x20 m) (hdst : m.dst ≠ 0xFF)
include h hdst

theorem signal_counts (htakes : takesSignal s (le m.data 0 4) = true) :
    ∃ t, exec (.signal p m) s = .next t ∧
      cairnOf t (le m.data 0 4) = (cairnOf s (le m.data 0 4)).map (fun c =>
        { c with val := (c.val + le m.data 4 4) % 2 ^ 32, copy := (c.val + le m.data 4 4) % 2 ^ 32 }) ∧
      ∀ j, j ≠ le m.data 0 4 → cairnOf t j = cairnOf s j := by
  have htakes' : takesSignal (takeInbox s p m) (le m.data 0 4) = true := htakes
  obtain ⟨t, ht, hwire⟩ := strataMsg_acts h hdst rfl fun s =>
    if takesSignal s (le m.data 0 4) then deviceSignal s (le m.data 0 4) (le m.data 4 4) true else s
  rw [if_pos htakes'] at hwire
  refine ⟨t, ht, ?_, fun j hj => ?_⟩
  · rw [cairnOf_of_onWire hwire, cairnOf_deviceSignal_add, cairnOf_of_onWire (onWire_takeInbox s p m)]
  · rw [cairnOf_of_onWire hwire, cairnOf_deviceSignal_of_ne _ _ _ _ hj, cairnOf_of_onWire (onWire_takeInbox s p m)]

/-- A cairn that is no stage cairn of an open stack contract is not signalled. -/
theorem signal_ignored (hnot : takesSignal s (le m.data 0 4) = false) : ∃ t, exec (.signal p m) s = .next t ∧ OnWire s t := by
  have hnot' : takesSignal (takeInbox s p m) (le m.data 0 4) = false := hnot
  obtain ⟨t, ht, hwire⟩ := strataMsg_acts h hdst rfl fun s =>
    if takesSignal s (le m.data 0 4) then deviceSignal s (le m.data 0 4) (le m.data 4 4) true else s
  rw [if_neg (by simp [hnot'])] at hwire
  exact ⟨t, ht, (onWire_takeInbox s p m).trans hwire⟩

end

theorem signal_repeats {s : State} {p i : Nat} {m : StrataMsg} (hp : p < 4) (hruns : basaltRuns s = true)
    (hcarries : portCarries (portOf s p) 0x20 = true) (htype : m.type = 0x20) (hpos : m.dst = myPos s) (hdst : m.dst ≠ 0xFF)
    (hseen : deliveredId s m.src m.vc = some i) (hold : m.id ≤ i) : ∃ t, exec (.signal p m) s = .next t ∧ OnWire s t := by
  rw [← htype] at hcarries
  obtain ⟨t, ht, hwire⟩ := strataMsg_repeats hp hruns hcarries hpos hdst (htype ▸ rfl) hseen hold fun s =>
    if takesSignal s (le m.data 0 4) then deviceSignal s (le m.data 0 4) (le m.data 4 4) true else s
  rw [htype] at ht
  exact ⟨t, ht, hwire⟩

/-! ## Dispatches (R192) -/

theorem raiseAmong_frame (s : State) (owner level : Nat) (os : List Nat) :
    raiseAmong s owner level os = { s with sched := (raiseAmong s owner level os).sched } := by
  unfold raiseAmong
  split
  · rfl
  · split
    · rfl
    · dsimp only
      split <;> rfl

/-- Virtual times are the scheduler's alone. -/
theorem raiseForPass_frame (before s : State) (key : Nat) :
    raiseForPass before s key = { s with sched := (raiseForPass before s key).sched } := by
  unfold raiseForPass
  split
  · rfl
  · rename_i w _
    generalize passOwners s w.level = l
    suffices h : ∀ a : State, l.foldl (fun s o => raiseAmong s o w.level (readyOwners before w.level)) a =
        { a with sched := (l.foldl (fun s o => raiseAmong s o w.level (readyOwners before w.level)) a).sched } from h s
    induction l with
    | nil => exact fun a => rfl
    | cons o l ih =>
      intro a
      rw [List.foldl_cons, ih, raiseAmong_frame]

/-- A scan under a key and from an instant on, for the case that a dispatch names, on the index as it stands. -/
structure StartsOn (key ts : Nat) (r : ShardRsv) (x : Index) (b : List Byte) (j : ShardJob) : Prop where
  key : j.key = key
  home : j.home = r.home
  contract : j.contract = r.contract
  caseKey : j.caseKey = le b 8 8
  cairn : j.cairn = le b 4 4
  index : j.index = x.handle
  gen : j.gen = x.gen
  seq : j.seq = x.nextSeq - 1
  recvTs : j.recvTs = ts
  waitScree : j.waitScree = true
  waitLists : j.waitLists = j.visited
  found : j.found = []

/-- A scan that starts is one more of the module's, and beside it the scheduler's virtual times change. -/
theorem startShard_adds {s : State} {r : ShardRsv} {x : Index} (hx : indexOf s r.index = some x) (b : List Byte) :
    ∃ j, StartsOn s.nextCase s.tclk r x b j ∧ startShard s r b = { s with
      nextCase := s.nextCase + 1, strata := { s.strata with jobs := s.strata.jobs ++ [j] }, sched := (startShard s r b).sched } := by
  unfold startShard
  rw [hx]
  dsimp only
  rw [raiseForPass_frame]
  exact ⟨_, ⟨rfl, rfl, rfl, rfl, rfl, rfl, rfl, rfl, rfl, rfl, rfl, rfl⟩, rfl⟩

section
variable {s : State} {p : Nat} {m : StrataMsg} (h : Arrives s p 0x40 m) (hdst : m.dst ≠ 0xFF)
include h hdst

/-- A dispatch for a reservation starts a scan of its own, on the index as it stands (R192). -/
theorem dispatch_starts {r : ShardRsv} {x : Index}
    (hr : s.strata.rsvs.find? (fun r => r.home == m.src && r.contract == le m.data 0 4) = some r) (hx : indexOf s r.index = some x) :
    ∃ t j, exec (.dispatch p m) s = .next t ∧ t.strata.jobs = s.strata.jobs ++ [j] ∧ StartsOn s.nextCase s.tclk r x m.data j ∧
      t.cases = s.cases ∧ t.indexes = s.indexes := by
  have hr' : (takeInbox s p m).strata.rsvs.find? (fun r => r.home == m.src && r.contract == le m.data 0 4) = some r := hr
  obtain ⟨t, ht, hwire⟩ := strataMsg_acts h hdst rfl fun s =>
    match s.strata.rsvs.find? fun r => r.home == m.src && r.contract == le m.data 0 4 with
    | some r => startShard s r m.data
    | none => s
  rw [hr'] at hwire
  obtain ⟨j, hj, hstarts⟩ := startShard_adds (s := takeInbox s p m) hx m.data
  have hjobs := congrArg (fun v => v.strata.jobs) hstarts
  have hcases := congrArg State.cases hstarts
  have hindexes := congrArg State.indexes hstarts
  have hkept : t.indexes = (startShard (takeInbox s p m) r m.data).indexes := by rw [hwire.1]
  exact ⟨t, j, ht, (jobs_of_onWire hwire).trans hjobs, hj, (cases_of_onWire hwire).trans hcases, hkept.trans hindexes⟩

/-- A dispatch without a reservation starts nothing. -/
theorem dispatch_ignored (hnone : s.strata.rsvs.find? (fun r => r.home == m.src && r.contract == le m.data 0 4) = none) :
    ∃ t, exec (.dispatch p m) s = .next t ∧ OnWire s t := by
  have hnone' : (takeInbox s p m).strata.rsvs.find? (fun r => r.home == m.src && r.contract == le m.data 0 4) = none := hnone
  obtain ⟨t, ht, hwire⟩ := strataMsg_acts h hdst rfl fun s =>
    match s.strata.rsvs.find? fun r => r.home == m.src && r.contract == le m.data 0 4 with
    | some r => startShard s r m.data
    | none => s
  rw [hnone'] at hwire
  exact ⟨t, ht, (onWire_takeInbox s p m).trans hwire⟩

end

/-! ## The results of a shard (R192) -/

/-- What the case's search holds once a shard's result has joined it. -/
def withShard (b : List Byte) (r : SearchState) : SearchState :=
  { r with
    found := r.found ++ (List.range (le b 17 2)).map fun i => candAt b (49 + 32 * i)
    shardLOut := fpMinOf [r.shardLOut, BitVec.ofNat 32 (le b 25 4)]
    shardsLeft := r.shardsLeft.filter fun k => k != byteAt b 16 }

/-- A search that has ended with a list. -/
def withList (l : CandList) (r : SearchState) : SearchState := { r with cand := some l, found := [] }

/-- The result of a shard that the case waits for joins it, and its scan ends where it may. -/
theorem shardResult_joins {s : State} {p : Nat} {m : StrataMsg} (h : Arrives s p 0x41 m) (hdst : m.dst ≠ 0xFF) {c : Case}
    (hc : s.cases.find? (refNames m.data) = some c) (hruns : caseRuns c = true) (hleft : byteAt m.data 16 ∈ c.srch.shardsLeft)
    (q : Prediction) : ∃ t, exec (.shardResult p m q) s = .next t ∧
      OnWire (endScan (updSrch (takeInbox s p m) c.hd.key (withShard m.data)) c.hd.key q) t := by
  have hc' : (takeInbox s p m).cases.find? (refNames m.data) = some c := hc
  obtain ⟨t, ht, hwire⟩ := strataMsg_acts h hdst rfl fun s => match s.cases.find? (refNames m.data) with
    | none => s
    | some c => if caseRuns c ∧ c.srch.shardsLeft.contains (byteAt m.data 16) then
        endScan (updSrch s c.hd.key (withShard m.data)) c.hd.key q
      else s
  rw [hc'] at hwire
  dsimp only at hwire
  rw [if_pos ⟨hruns, List.contains_iff_mem.2 hleft⟩] at hwire
  exact ⟨t, ht, hwire⟩

section
variable {u : State} {key : Nat} {c : Case} (hc : caseOf u key = some c) (q : Prediction)
include hc

/-- A scan that still waits goes on. -/
theorem endScan_of_waiting (hwaits : c.srch.shardsLeft ≠ [] ∨ c.srch.waitLists ≠ [] ∨ c.srch.waitScree = true) : endScan u key q = u := by
  unfold endScan
  rw [hc]
  dsimp only
  split
  · rfl
  · refine if_neg fun ⟨_, _, hlists, hscree, hshards, _⟩ => ?_
    rcases hwaits with hne | hne | htrue
    · exact hne hshards
    · exact hne hlists
    · simp [htrue] at hscree

/-- A scan that waits for nothing ends with its list certified (R179, R192). -/
theorem endScan_of_done {k : Contract} (hk : contractOf u c.hd.contract = some k) (hstage : c.stage = .listScan) (hruns : caseRuns c = true)
    (hlists : c.srch.waitLists = []) (hscree : c.srch.waitScree = false) (hshards : c.srch.shardsLeft = [])
    (hidle : cmdsOfCase u key = []) {l : CandList}
    (hl : certify c.srch.found k.rcd.lim.candC c.srch.shardLOut c.srch.gen c.srch.seq = l) :
    endScan u key q = endStage (reapGens (updSrch u key (withList l))) key q := by
  unfold endScan
  rw [hc]
  dsimp only
  rw [hk]
  dsimp only
  rw [if_pos ⟨hstage, hruns, hlists, by simp [hscree], hshards, by simp [inPass, hidle]⟩, hl]
  rfl

end

/-- Where a stage is said to have advanced from: the cases, the cairns, the contracts and the clock alone. -/
theorem Advances.of_start {a s t : State} {c x : Case} {k : Contract} {p : Prediction} (h : Advances a t c x k p) (hclk : a.tclk = s.tclk)
    (hcases : a.cases = s.cases) (hcairns : a.cairns = s.cairns) (hcontracts : a.contracts = s.contracts) : Advances s t c x k p := by
  obtain ⟨hx, hhd, hdesc, hend, hstage, hts, hform, hcairn, hcmd, hother, hsame⟩ := h
  refine ⟨hx, hhd, hdesc, hend, hstage, hts.trans hclk, ?_, ?_, hcmd, fun j hj => ?_, hsame.trans hcontracts⟩
  · rw [hform, chosenForm_congr k p hclk rfl rfl]
  · rw [hcairn, cairnOf, cairnOf, hcairns]
  · rw [hother j hj, caseOf, caseOf, hcases]

/-- What leaves for the other modules takes nothing from a stage that has ended. -/
theorem Advances.onWire {s t u : State} {c x : Case} {k : Contract} {p : Prediction} (h : Advances s t c x k p) (hu : OnWire t u) :
    Advances s u c x k p := by
  obtain ⟨hx, hhd, hdesc, hend, hstage, hts, hform, hcairn, hcmd, hother, hcontracts⟩ := h
  have hsched : u.sched = t.sched := by rw [hu.1]
  refine ⟨(caseOf_of_onWire hu _).trans hx, hhd, hdesc, hend, hstage, hts, hform, (cairnOf_of_onWire hu _).trans hcairn, ?_,
    fun j hj => (caseOf_of_onWire hu j).trans (hother j hj), (contracts_of_onWire hu).trans hcontracts⟩
  rw [hsched]
  exact hcmd

/-- Two changes of a case's search, after which superseded generations of the indexes go, keep what the end of its stage speaks of. -/
theorem commitState_updSrch {a : State} {c : Case} (hc : caseOf a c.hd.key = some c) (g g' : SearchState → SearchState) :
    CommitState { a with indexes := (reapGens (updSrch (updSrch a c.hd.key g) c.hd.key g')).indexes }
      (reapGens (updSrch (updSrch a c.hd.key g) c.hd.key g')) c { c with srch := g' (g c.srch) } :=
  ((CommitState.refl (s := { a with indexes := (reapGens (updSrch (updSrch a c.hd.key g) c.hd.key g')).indexes }) hc).updCase
    (g := fun z => { z with srch := g z.srch }) fun _ => rfl).updCase (g := fun z => { z with srch := g' z.srch }) fun _ => rfl

section
variable {s : State} {p : Nat} {m : StrataMsg} (h : Arrives s p 0x41 m) (hdst : m.dst ≠ 0xFF) {c : Case}
  (hc : s.cases.find? (refNames m.data) = some c) (hkey : caseOf s c.hd.key = some c) (hruns : caseRuns c = true)
  (hleft : byteAt m.data 16 ∈ c.srch.shardsLeft) (q : Prediction)
include h hdst hc hkey hruns hleft

/-- A scan that still waits for a list, the scree or another shard goes on with what this one found. -/
theorem shardResult_goesOn (hwaits : (withShard m.data c.srch).shardsLeft ≠ [] ∨ c.srch.waitLists ≠ [] ∨ c.srch.waitScree = true) :
    ∃ t, exec (.shardResult p m q) s = .next t ∧ caseOf t c.hd.key = some { c with srch := withShard m.data c.srch } := by
  obtain ⟨t, ht, hwire⟩ := shardResult_joins h hdst hc hruns hleft q
  have hjoined := caseOf_updSrch (s := takeInbox s p m) hkey (withShard m.data)
  rw [endScan_of_waiting hjoined q hwaits] at hwire
  exact ⟨t, ht, (caseOf_of_onWire hwire _).trans hjoined⟩

/-- The last result that a scan waits for ends it: the stage is over, with the certified list of all that was found (R179, R192). -/
theorem shardResult_ends {k : Contract} (hk : contractOf s c.hd.contract = some k) (hstage : c.stage = .listScan)
    (hshards : (withShard m.data c.srch).shardsLeft = []) (hlists : c.srch.waitLists = []) (hscree : c.srch.waitScree = false)
    (hidle : cmdsOfCase s c.hd.key = []) :
    ∃ t x, exec (.shardResult p m q) s = .next t ∧ Advances s t c x k q ∧
      x.srch.cand = some (certify (withShard m.data c.srch).found k.rcd.lim.candC (withShard m.data c.srch).shardLOut
        c.srch.gen c.srch.seq) := by
  obtain ⟨l, hl⟩ : ∃ l, certify (withShard m.data c.srch).found k.rcd.lim.candC (withShard m.data c.srch).shardLOut
      c.srch.gen c.srch.seq = l := ⟨_, rfl⟩
  obtain ⟨t, ht, hwire⟩ := shardResult_joins h hdst hc hruns hleft q
  have hjoined := caseOf_updSrch (s := takeInbox s p m) hkey (withShard m.data)
  rw [endScan_of_done hjoined q hk hstage hruns hlists hscree hshards hidle hl] at hwire
  have hstart := commitState_updSrch (a := takeInbox s p m) hkey (withShard m.data) (withList l)
  obtain ⟨x, hends, -, hsrch, -⟩ := hstart.advances hk (Option.isNone_iff_eq_none.1 hruns) q
  refine ⟨t, x, ht, (hends.onWire hwire).of_start rfl rfl rfl rfl, ?_⟩
  rw [hsrch, hl]
  rfl

end

/-! ## Kills (R307) -/

/-- Whether a scan of this module is for the case that a KILL names. -/
def killsJob (m : StrataMsg) (j : ShardJob) : Bool :=
  j.home == m.src && j.contract == le m.data 0 4 && j.cairn == le m.data 4 4 && j.caseKey == le m.data 8 8

/-- The state without a scan. -/
def withoutJob (s : State) (j : ShardJob) : State :=
  { s with strata := { s.strata with jobs := s.strata.jobs.filter fun x => x.key != j.key } }

/-- What a KILL does to the scan or the case that it names. -/
def killed (m : StrataMsg) (s : State) : State :=
  match s.strata.jobs.find? (killsJob m) with
  | some j => reapGens (dropCase (withoutJob s j) j.key)
  | none => match s.cases.find? (refNames m.data) with
    | some c => if caseRuns c ∧ c.stage = .listScan then endCase s c.hd.key (killStatus (le m.data 16 2)) 5 else s
    | none => s

/-- The work of a case that is dropped is in the scheduler: neither the cases nor the stack's work change with it. -/
theorem reapGens_dropCase_keeps (s : State) (key : Nat) :
    (reapGens (dropCase s key)).strata = s.strata ∧ (reapGens (dropCase s key)).cases = s.cases := by
  obtain ⟨hdropped, -⟩ := retires_dropCase s key
  have hstrata := congrArg State.strata hdropped
  have hcases := congrArg State.cases hdropped
  exact ⟨hstrata, hcases⟩

section
variable {s : State} {p : Nat} {m : StrataMsg} (h : Arrives s p 0x43 m) (hdst : m.dst ≠ 0xFF)
include h hdst

theorem kill_acts : ∃ t, exec (.kill p m) s = .next t ∧ OnWire (killed m (takeInbox s p m)) t :=
  strataMsg_acts h hdst rfl (killed m)

/-- The scan for the case ends, and no case of this module does. -/
theorem kill_ends_job {j : ShardJob} (hj : s.strata.jobs.find? (killsJob m) = some j) :
    ∃ t, exec (.kill p m) s = .next t ∧ t.strata.jobs = s.strata.jobs.filter (fun x => x.key != j.key) ∧ t.cases = s.cases := by
  have hj' : (takeInbox s p m).strata.jobs.find? (killsJob m) = some j := hj
  obtain ⟨t, ht, hwire⟩ := kill_acts h hdst
  rw [killed, hj'] at hwire
  obtain ⟨hstrata, hcases⟩ := reapGens_dropCase_keeps (withoutJob (takeInbox s p m) j) j.key
  refine ⟨t, ht, ?_, (cases_of_onWire hwire).trans hcases⟩
  exact (jobs_of_onWire hwire).trans (congrArg Strata.jobs hstrata)

/-- A case whose scan a shard has given up fails at list scan. -/
theorem kill_ends_case {c : Case} (hnone : s.strata.jobs.find? (killsJob m) = none) (hc : s.cases.find? (refNames m.data) = some c)
    (hkey : caseOf s c.hd.key = some c) (hruns : caseRuns c = true) (hstage : c.stage = .listScan) :
    ∃ t x, exec (.kill p m) s = .next t ∧ caseOf t c.hd.key = some x ∧ x.ending = some (killStatus (le m.data 16 2)) ∧
      x.failedStage = 5 ∧ x.hd = c.hd := by
  have hnone' : (takeInbox s p m).strata.jobs.find? (killsJob m) = none := hnone
  have hc' : (takeInbox s p m).cases.find? (refNames m.data) = some c := hc
  have hkey' : caseOf (takeInbox s p m) c.hd.key = some c := hkey
  obtain ⟨t, ht, hwire⟩ := kill_acts h hdst
  rw [killed, hnone', hc'] at hwire
  dsimp only at hwire
  rw [if_pos ⟨hruns, hstage⟩] at hwire
  refine ⟨t, { c with ending := some (killStatus (le m.data 16 2)), failedStage := 5 }, ht, ?_, rfl, rfl, rfl⟩
  rw [caseOf_of_onWire hwire, caseOf_endCase, hkey', Option.map_some, endedWith_of_live (Option.isNone_iff_eq_none.1 hruns)]

end

/-- Settles O46: each message takes effect once, on the cairn, the scan or the case that it names, and its acknowledgement leaves the rest. -/
theorem shardsScan : Obligations.ShardsScan := by
  unfold Obligations.ShardsScan
  intro s p m _ hdst
  refine ⟨fun h => ⟨signal_counts h hdst, signal_ignored h hdst⟩,
    fun i hp hruns hcarries htype hpos hseen hold => signal_repeats hp hruns hcarries htype hpos hdst hseen hold,
    fun h => ⟨fun r x hr hx => ?_, dispatch_ignored h hdst⟩,
    fun c q h hc hkey hruns hleft => ⟨shardResult_goesOn h hdst hc hkey hruns hleft q,
      fun k hk hstage hshards hlists hscree hidle => shardResult_ends h hdst hc hkey hruns hleft q hk hstage hshards hlists hscree hidle⟩,
    fun h => ⟨fun j hj => kill_ends_job h hdst hj,
      fun c hnone hc hkey hruns hstage => kill_ends_case h hdst hnone hc hkey hruns hstage⟩⟩
  obtain ⟨t, j, ht, hjobs, hj, hcases, hindexes⟩ := dispatch_starts h hdst hr hx
  exact ⟨t, j, ht, hjobs, hj.key, hj.home, hj.contract, hj.caseKey, hj.cairn, hj.index, hj.gen, hj.seq, hj.recvTs, hj.waitScree,
    hj.waitLists, hj.found, hcases, hindexes⟩

end Sys2Proof.Machine
end

section
/-! PROOFS. Coarse search and list scan (chapter 07): the commits of a query's search, one query among those of its command (O28). -/

namespace Sys2Proof.Machine

/-! ## One query of a command -/

/-- A fold that reaches an element once: what holds before it and what holds after it, each kept by the other elements. -/
theorem foldl_around {α β : Type} {f : β → α → β} {P Q : β → Prop} {a : α} (hbefore : ∀ b x, x ≠ a → P b → P (f b x))
    (hat : ∀ b, P b → Q (f b a)) (hafter : ∀ b x, x ≠ a → Q b → Q (f b x)) {l : List α} (hl : l.Nodup) (ha : a ∈ l) {b : β}
    (hb : P b) : Q (l.foldl f b) := by
  induction l generalizing b with
  | nil => exact absurd ha List.not_mem_nil
  | cons x l ih =>
    obtain ⟨hx, hl⟩ := List.nodup_cons.1 hl
    rw [List.foldl_cons]
    by_cases hxa : x = a
    · subst hxa
      exact List.foldlRecOn l f (hat b hb) fun b hQ y hy => hafter b y (fun h => hx (h ▸ hy)) hQ
    · exact ih hl ((List.mem_cons.1 ha).resolve_left (Ne.symm hxa)) (hbefore b x hxa hb)

/-- Of the cases that of `key` alone has changed, and neither a contract nor an index. -/
structure ChangesCase (key : Nat) (s t : State) : Prop where
  other : ∀ j, j ≠ key → caseOf t j = caseOf s j
  contracts : t.contracts = s.contracts
  indexes : t.indexes = s.indexes

theorem changesCase_of_eq (key : Nat) {s t : State} (hcases : t.cases = s.cases) (hcontracts : t.contracts = s.contracts)
    (hindexes : t.indexes = s.indexes) : ChangesCase key s t :=
  ⟨fun j _ => by rw [caseOf, caseOf, hcases], hcontracts, hindexes⟩

theorem ChangesCase.refl (key : Nat) (s : State) : ChangesCase key s s := changesCase_of_eq key rfl rfl rfl

theorem ChangesCase.trans {key : Nat} {a b c : State} (h : ChangesCase key a b) (k : ChangesCase key b c) : ChangesCase key a c :=
  ⟨fun j hj => (k.other j hj).trans (h.other j hj), k.contracts.trans h.contracts, k.indexes.trans h.indexes⟩

theorem changesCase_of_onWire (key : Nat) {s t : State} (h : OnWire s t) : ChangesCase key s t :=
  changesCase_of_eq key (cases_of_onWire h) (contracts_of_onWire h) (by rw [h.1])

theorem changesCase_updSrch (s : State) (key : Nat) (g : SearchState → SearchState) : ChangesCase key s (updSrch s key g) :=
  ⟨fun _ hj => caseOf_updCase_of_ne s (by exact fun _ => rfl) hj, rfl, rfl⟩

theorem changesCase_raiseForPass (before s : State) (key j : Nat) : ChangesCase key s (raiseForPass before s j) := by
  rw [raiseForPass_frame]
  exact changesCase_of_eq key rfl rfl rfl

theorem caseOf_endStage_of_ne {s : State} {c : Case} {k : Contract} (hc : caseOf s c.hd.key = some c)
    (hk : contractOf s c.hd.contract = some k) (p : Prediction) {j : Nat} (hj : j ≠ c.hd.key) :
    caseOf (endStage s c.hd.key p) j = caseOf s j := by
  rw [← caseOf_formed_of_ne hc k (stageAfter k.rcd c.stage) p hj, endStage_eq hc hk]
  split
  · rfl
  · rw [addCaseCmd_frame]
    rfl

theorem changesCase_endStage (s : State) (key : Nat) (p : Prediction) : ChangesCase key s (endStage s key p) := by
  cases hc : caseOf s key with
  | none =>
    rw [endStage, hc]
    exact .refl key s
  | some c =>
    obtain rfl := key_of_caseOf hc
    cases hk : contractOf s c.hd.contract with
    | none =>
      rw [endStage, hc]
      dsimp only
      rw [hk]
      exact .refl _ s
    | some k =>
      have hframe := endStage_frame hc hk p
      have hcontracts := congrArg State.contracts hframe
      have hindexes := congrArg State.indexes hframe
      exact ⟨fun j hj => caseOf_endStage_of_ne hc hk p hj, hcontracts, hindexes⟩

/-! ## Coarse search (R175 to R177, R182) -/

/-- A search with its lists and the snapshot of an index, which waits for those lists, the scree and some shards. -/
def withSnapshot (x : Index) (lists shards : List Nat) (r : SearchState) : SearchState :=
  { r with
    visited := lists, gen := x.gen, seq := snapSeq x, snapped := true, waitLists := lists, waitScree := true
    holdExpired := false, found := [], shardsLeft := shards, shardLOut := fpInf false }

/-- Coarse search has given the case `c`, now `y`, its lists and the snapshot of an index. -/
structure Searches (x : Index) (lists : List Nat) (c y : Case) : Prop where
  hd : y.hd = c.hd
  stage : y.stage = .listScan
  visited : y.srch.visited = lists
  waitLists : y.srch.waitLists = lists
  waitScree : y.srch.waitScree = true
  gen : y.srch.gen = x.gen
  seq : y.srch.seq = x.nextSeq - 1
  found : y.srch.found = []

section
variable {s : State} {key : Nat} {c : Case} {k : Contract} {x : Index} {qv : QueryVec} (hc : caseOf s key = some c)
  (hk : contractOf s c.hd.contract = some k) (hx : indexOf s k.rcd.refs.index = some x) (hq : c.enc.query = some qv)
include hc hk hx hq

theorem commitCoarse_eq :
    commitCoarse s key = raiseForPass s (dispatchShards
      (endStage (updSrch s key (withSnapshot x (visitedLists x qv k.rcd.lim.nprobe) ((contractPeers k).map Prod.snd))) key { forms := [] })
      k c qv (visitedLists x qv k.rcd.lim.nprobe)) key := by
  unfold commitCoarse
  rw [hc]
  dsimp only
  rw [hk]
  dsimp only
  rw [hx, hq]
  rfl

/-- Its case goes to list scan with its lists and its snapshot. -/
theorem commitCoarse_searches (hstage : c.stage = .coarse) :
    ∃ y, caseOf (commitCoarse s key) key = some y ∧ Searches x (visitedLists x qv k.rcd.lim.nprobe) c y := by
  rw [commitCoarse_eq hc hk hx hq]
  generalize visitedLists x qv k.rcd.lim.nprobe = lists
  have hsrch := caseOf_updSrch hc (withSnapshot x lists ((contractPeers k).map Prod.snd))
  obtain ⟨y, hy, hkept⟩ := caseOf_endStage (k := k) hsrch hk { forms := [] }
  have hlist : stageAfter k.rcd c.stage = .listScan := by rw [hstage]; rfl
  refine ⟨y, ?_, ?_⟩
  · rw [caseOf, raiseForPass_cases, dispatchShards_cases]
    exact hy
  · rw [hkept]
    exact ⟨rfl, hlist, rfl, rfl, rfl, rfl, rfl, rfl⟩

end

/-- The commit of one query's coarse search. -/
theorem changesCase_commitCoarse (s : State) (key : Nat) : ChangesCase key s (commitCoarse s key) := by
  unfold commitCoarse
  split
  · exact .refl key s
  · split
    · exact .refl key s
    · split
      · refine .trans ?_ (changesCase_raiseForPass _ _ _ _)
        refine .trans ?_ (changesCase_of_onWire key (onWire_foldl (fun s _ => onWire_sendMsg s _ _ _) _ _))
        exact (changesCase_updSrch s key _).trans (changesCase_endStage _ key _)
      · exact .refl key s

/-- Among the queries of a coarse search, each has its lists and the snapshot of its index in the end. -/
theorem foldl_commitCoarse_searches {s : State} {key : Nat} {c : Case} {k : Contract} {x : Index} {qv : QueryVec} {keys : List Nat}
    (hc : caseOf s key = some c) (hk : contractOf s c.hd.contract = some k) (hkeys : keys.Nodup) (hkey : key ∈ keys)
    (hstage : c.stage = .coarse) (hx : indexOf s k.rcd.refs.index = some x) (hq : c.enc.query = some qv) :
    ∃ y, caseOf (keys.foldl commitCoarse s) key = some y ∧ Searches x (visitedLists x qv k.rcd.lim.nprobe) c y := by
  refine foldl_around (P := fun u => caseOf u key = some c ∧ u.contracts = s.contracts ∧ u.indexes = s.indexes)
    (Q := fun u => ∃ y, caseOf u key = some y ∧ Searches x (visitedLists x qv k.rcd.lim.nprobe) c y)
    (fun u j hj ⟨hu, hcontracts, hindexes⟩ => ?_) (fun u ⟨hu, hcontracts, hindexes⟩ => ?_)
    (fun u j hj ⟨y, hy, hdone⟩ => ?_) hkeys hkey ⟨hc, rfl, rfl⟩
  · have hother := changesCase_commitCoarse u j
    exact ⟨(hother.other key (Ne.symm hj)).trans hu, hother.contracts.trans hcontracts, hother.indexes.trans hindexes⟩
  · refine commitCoarse_searches hu ?_ ?_ hq hstage
    · rw [contractOf, hcontracts]
      exact hk
    · rw [indexOf, hindexes]
      exact hx
  · exact ⟨y, ((changesCase_commitCoarse u j).other key (Ne.symm hj)).trans hy, hdone⟩

theorem coarseSearch_searches {s : State} {key : Nat} {c : Case} {k : Contract} {m : Cmd} {x : Index} {qv : QueryVec}
    (hc : caseOf s key = some c) (hk : contractOf s c.hd.contract = some k) (hcmd : cmdOf s m.id = some m) (hm : m.stage = 4)
    (hmay : mayCommit s m = true) (htime : OnTime s m) (hkeys : (cmdKeys m).Nodup) (hkey : key ∈ cmdKeys m) (hstage : c.stage = .coarse)
    (hx : indexOf s k.rcd.refs.index = some x) (hq : c.enc.query = some qv) :
    ∃ t y, exec (.coarseSearchCommit m.id none) s = .next t ∧ caseOf t key = some y ∧
      Searches x (visitedLists x qv k.rcd.lim.nprobe) c y ∧ t.indexes = s.indexes := by
  have hret := retires_retireCmd htime
  obtain ⟨y, hy, hdone⟩ := foldl_commitCoarse_searches (s := retireCmd s m) ((caseOf_retires hret _).trans hc)
    ((contractOf_retires hret _).trans hk) hkeys hkey hstage ((indexOf_retires hret _).trans hx) hq
  have hindexes : ((cmdKeys m).foldl commitCoarse (retireCmd s m)).indexes = (retireCmd s m).indexes :=
    foldl_keeps (fun u j => (changesCase_commitCoarse u j).indexes) _ _
  refine ⟨journaled s [m] ((cmdKeys m).foldl commitCoarse (retireCmd s m)), y, ?_, hy, hdone, hindexes.trans (by rw [hret.1])⟩
  rw [exec_coarseSearchCommit, execCoarseSearchCommit, hcmd]
  dsimp only
  rw [if_pos ⟨hm, hmay⟩, commitUnder]

/-! ## The end of a hold (R177) -/

theorem holdExpiry_marks {s : State} {key : Nat} {c : Case} (hc : caseOf s key = some c) :
    ∃ t, exec (.holdExpiry key) s = .next t ∧ caseOf t key = some { c with srch := { c.srch with holdExpired := true } } ∧
      t.contracts = s.contracts ∧ (∀ j, j ≠ key → caseOf t j = caseOf s j) := by
  rw [exec_holdExpiry, execHoldExpiry]
  refine ⟨_, rfl, ?_, ?_, fun j hj => ?_⟩
  · rw [caseOf, raiseForPass_cases]
    exact caseOf_updSrch hc fun r => { r with holdExpired := true }
  · exact (changesCase_raiseForPass _ _ key key).contracts
  · exact ((changesCase_raiseForPass _ _ key key).other j hj).trans
      ((changesCase_updSrch s key fun r => { r with holdExpired := true }).other j hj)

/-! ## The commands that are left when one has retired -/

/-- Each command of the scheduler with the cases that it serves. -/
def servedKeys (s : State) : List (Nat × List Nat) := s.sched.cmds.map fun c => (c.id, cmdKeys c)

theorem servedKeys_updCmd (s : State) (i : Nat) {g : Cmd → Cmd} (hid : ∀ c, (g c).id = c.id)
    (hserves : ∀ c, (g c).serves = c.serves) : servedKeys (updCmd s i g) = servedKeys s := by
  rw [servedKeys, updCmd_sched, modifyWhere, List.map_map]
  refine List.map_congr_left fun c _ => ?_
  dsimp only [Function.comp]
  split
  · rw [hid, cmdKeys, hserves, cmdKeys]
  · rfl

theorem servedKeys_noteBlock (s : State) (c : Cmd) : servedKeys (noteBlock s c) = servedKeys s := by
  rw [noteBlock_frame]
  rfl

theorem servedKeys_addVTime (s : State) (owner level n : Nat) : servedKeys (addVTime s owner level n) = servedKeys s := by
  rw [addVTime_frame]
  rfl

theorem servedKeys_chargeCmd (s : State) (c : Cmd) : servedKeys (chargeCmd s c) = servedKeys s := by
  unfold chargeCmd
  split
  · rfl
  · dsimp only
    rw [servedKeys_updCmd _ _ (by exact fun _ => rfl) (by exact fun _ => rfl), servedKeys_addVTime]
    rfl

theorem servedKeys_chargeLoad (s : State) : servedKeys (chargeLoad s) = servedKeys s := by
  unfold chargeLoad
  split
  · rfl
  · dsimp only
    rw [servedKeys, updSched_sched]
    exact servedKeys_addVTime _ _ _ _

theorem servedKeys_inForce (s : State) (g : Nat) : servedKeys (inForce s g) = servedKeys s := by
  unfold inForce
  dsimp only
  split
  · split
    · exact (servedKeys_chargeLoad _).trans (foldl_keeps servedKeys_chargeCmd _ s)
    · rfl
  · rfl

theorem servedKeys_adoptIdle (s : State) : servedKeys (adoptIdle s) = servedKeys s :=
  foldl_keeps (fun s g => servedKeys_inForce (updDie s g _) g) _ s

theorem servedKeys_dropCmds (s : State) (ids : List Nat) :
    servedKeys (dropCmds s ids) = (servedKeys s).filter fun e => !ids.contains e.1 := by
  unfold dropCmds
  dsimp only
  rw [servedKeys_adoptIdle, ← foldl_keeps (fun s c => (servedKeys_noteBlock _ c).trans (servedKeys_chargeCmd s c))
    (s.sched.cmds.filter fun c => ids.contains c.id) s, servedKeys, servedKeys, List.filter_map]
  rfl

theorem servedKeys_noteWait {s : State} {m : Cmd} (h : OnTime s m) : servedKeys (noteWait s m) = servedKeys s := by
  unfold noteWait
  dsimp only
  split
  · exact servedKeys_noteBlock s m
  · rename_i t ht
    have hclk : (noteBlock s m).tclk = s.tclk := by rw [noteBlock_frame]
    rw [hclk, if_neg (Nat.not_lt.2 (h t ht))]
    exact servedKeys_noteBlock s m

theorem servedKeys_dropLayers (s : State) (h : Option Nat) : servedKeys (dropLayers s h) = servedKeys s := by
  unfold dropLayers
  split <;> rfl

/-- A command that retires leaves the others, with the cases they serve. -/
theorem servedKeys_retireCmd {s : State} {m : Cmd} (h : OnTime s m) :
    servedKeys (retireCmd s m) = (servedKeys s).filter fun e => !([m.id].contains e.1) := by
  rw [retireCmd, servedKeys_dropCmds, servedKeys_dropLayers, servedKeys_noteWait h]

/-- A case is left without a command where no other command serves it. -/
theorem cmdsOfCase_retireCmd {s : State} {m : Cmd} (h : OnTime s m) {key : Nat}
    (hlast : ∀ n ∈ s.sched.cmds, n.id ≠ m.id → key ∉ cmdKeys n) : cmdsOfCase (retireCmd s m) key = [] := by
  refine List.filter_eq_nil_iff.2 fun n hn hserves => ?_
  have hmem : (n.id, cmdKeys n) ∈ servedKeys (retireCmd s m) := List.mem_map_of_mem hn
  rw [servedKeys_retireCmd h] at hmem
  obtain ⟨hold, hid⟩ := List.mem_filter.1 hmem
  obtain ⟨o, ho, heq⟩ := List.mem_map.1 hold
  obtain ⟨hoid, hokeys⟩ := Prod.mk.inj heq
  refine hlast o ho (fun he => ?_) (hokeys ▸ List.contains_iff_mem.1 hserves)
  simp [← hoid, he] at hid

/-! ## A pass (R178, R179, R184, R185) -/

/-- A search that has found some candidates more. -/
def withHits (hits : List Candidate) (r : SearchState) : SearchState := { r with found := r.found ++ hits }

/-- Of the cases that of `key` alone has changed, and no index that holds no superseded generation. -/
structure KeepsOthers (key : Nat) (s t : State) : Prop where
  other : ∀ j, j ≠ key → caseOf t j = caseOf s j
  index : ∀ i, (∀ x, indexOf s i = some x → x.old = none) → indexOf t i = indexOf s i

theorem ChangesCase.keepsOthers {key : Nat} {s t : State} (h : ChangesCase key s t) : KeepsOthers key s t :=
  ⟨h.other, fun i _ => by rw [indexOf, indexOf, h.indexes]⟩

theorem KeepsOthers.trans {key : Nat} {a b c : State} (h : KeepsOthers key a b) (k : KeepsOthers key b c) : KeepsOthers key a c := by
  refine ⟨fun j hj => (k.other j hj).trans (h.other j hj), fun i hcur => ?_⟩
  have hab := h.index i hcur
  exact (k.index i (hab ▸ hcur)).trans hab

theorem keepsOthers_withStrata (s : State) (key : Nat) (v : Strata) : KeepsOthers key s { s with strata := v } :=
  ⟨fun _ _ => rfl, fun _ _ => rfl⟩

theorem keepsOthers_reapGens (s : State) (key : Nat) : KeepsOthers key s (reapGens s) := by
  refine ⟨fun _ _ => rfl, fun i hcur => ?_⟩
  have hfind : indexOf (reapGens s) i = (indexOf s i).map fun x => if reapable s x then withoutOld x else x := by
    rw [indexOf, reapGens_indexes, find?_modifyWhere _ _ _ _ (by exact fun _ _ => rfl)]
    rfl
  rw [hfind]
  refine (Option.map_congr fun x hx => ?_).trans Option.map_id'
  rw [reapable, hcur x hx]
  rfl

theorem keepsOthers_endScan (s : State) (key : Nat) (p : Prediction) : KeepsOthers key s (endScan s key p) := by
  unfold endScan
  split
  · exact (ChangesCase.refl key s).keepsOthers
  · split
    · exact (ChangesCase.refl key s).keepsOthers
    · dsimp only
      split
      · exact (changesCase_updSrch s key _).keepsOthers.trans
          ((keepsOthers_reapGens _ key).trans (changesCase_endStage _ key p).keepsOthers)
      · exact (ChangesCase.refl key s).keepsOthers

theorem keepsOthers_endShard (s : State) (key : Nat) : KeepsOthers key s (endShard s key) := by
  unfold endShard
  split
  · exact (ChangesCase.refl key s).keepsOthers
  · split
    · dsimp only
      refine .trans ?_ (changesCase_of_onWire key (onWire_sendMsg _ _ _ _)).keepsOthers
      refine .trans ?_ (changesCase_of_onWire key (onWire_sendMsg _ _ _ _)).keepsOthers
      refine .trans ?_ (keepsOthers_reapGens _ key)
      exact keepsOthers_withStrata s key _
    · exact (ChangesCase.refl key s).keepsOthers

theorem keepsOthers_commitPass (s : State) (i : Nat) (l : Option Nat) (ps : List (Nat × Prediction)) (key : Nat) :
    KeepsOthers key s (commitPass s i l ps key) := by
  unfold commitPass
  split
  · exact (changesCase_updSrch s key _).keepsOthers.trans (keepsOthers_endScan _ key _)
  · dsimp only
    refine .trans ?_ (keepsOthers_endShard _ key)
    exact keepsOthers_withStrata s key _
  · exact (ChangesCase.refl key s).keepsOthers

theorem commitPass_of_case {s : State} {key : Nat} {c : Case} {qv : QueryVec} (hc : caseOf s key = some c) (hq : c.enc.query = some qv)
    (i : Nat) (l : Option Nat) (ps : List (Nat × Prediction)) :
    commitPass s i l ps key = endScan (updSrch s key (withHits (passHits s i l qv c.srch.gen c.srch.seq))) key
      (((ps.find? fun e => e.1 == key).map Prod.snd).getD { forms := [] }) := by
  unfold commitPass
  rw [hc]
  dsimp only
  rw [hq]
  rfl

theorem passHits_congr {s t : State} {i : Nat} (h : indexOf t i = indexOf s i) (l : Option Nat) (qv : QueryVec) (g q : Nat) :
    passHits t i l qv g q = passHits s i l qv g q := by rw [passHits, passHits, h]

section
variable {s : State} {key : Nat} {c : Case} {m : Cmd} {qv : QueryVec} {i g : Nat} {l : Option Nat} {keys : List Nat}
  (hc : caseOf s key = some c) (hcmd : cmdOf s m.id = some m) (hserves : m.serves = .pass i g l keys) (hmay : mayCommit s m = true)
  (htime : OnTime s m) (hq : c.enc.query = some qv) (ps : List (Nat × Prediction))

include hcmd hserves hmay in
theorem exec_listPassCommit_of_pass : exec (.listPassCommit m.id ps none) s =
    .next (journaled s [m] (keys.foldl (fun u j => commitPass u i l ps j) (retireCmd s m))) := by
  rw [exec_listPassCommit, execListPassCommit, hcmd]
  dsimp only
  rw [hserves]
  dsimp only
  rw [if_pos hmay, commitUnder]

include hc hq in
/-- A pass of a query that waits for more leaves it in its stage, with what the pass has found. -/
theorem commitPass_goesOn (hwaits : c.srch.shardsLeft ≠ [] ∨ c.srch.waitLists ≠ [] ∨ c.srch.waitScree = true) :
    caseOf (commitPass s i l ps key) key = some { c with srch := withHits (passHits s i l qv c.srch.gen c.srch.seq) c.srch } := by
  have hfound := caseOf_updSrch hc (withHits (passHits s i l qv c.srch.gen c.srch.seq))
  rw [commitPass_of_case hc hq, endScan_of_waiting hfound _ hwaits]
  exact hfound

include hc hq in
/-- The last pass of a query ends its scan: the stage is over, with the certified list of all that was found. -/
theorem commitPass_ends {k : Contract} (hk : contractOf s c.hd.contract = some k) (hstage : c.stage = .listScan)
    (hruns : caseRuns c = true) (hlists : c.srch.waitLists = []) (hscree : c.srch.waitScree = false) (hshards : c.srch.shardsLeft = [])
    (hidle : cmdsOfCase s key = []) :
    ∃ x, Advances s (commitPass s i l ps key) c x k (((ps.find? fun e => e.1 == key).map Prod.snd).getD { forms := [] }) ∧
      x.srch.cand = some (certify (c.srch.found ++ passHits s i l qv c.srch.gen c.srch.seq) k.rcd.lim.candC c.srch.shardLOut
        c.srch.gen c.srch.seq) := by
  obtain rfl := key_of_caseOf hc
  rw [commitPass_of_case hc hq]
  generalize passHits s i l qv c.srch.gen c.srch.seq = hits
  generalize ((ps.find? fun e => e.1 == c.hd.key).map Prod.snd).getD { forms := [] } = p
  generalize hcand : certify (c.srch.found ++ hits) k.rcd.lim.candC c.srch.shardLOut c.srch.gen c.srch.seq = cand
  rw [endScan_of_done (caseOf_updSrch hc (withHits hits)) p hk hstage hruns hlists hscree hshards hidle hcand]
  obtain ⟨x, hends, -, hsrch, -⟩ :=
    (commitState_updSrch hc (withHits hits) (withList cand)).advances hk (Option.isNone_iff_eq_none.1 hruns) p
  refine ⟨x, hends.of_start rfl rfl rfl rfl, ?_⟩
  rw [hsrch]
  rfl

include hc hcmd hserves hmay htime hq

/-- A query that waits for more has what the pass has found, alone in the pass or beside others: the others
leave an index that holds no superseded generation. -/
theorem listPass_goesOn (hkeys : keys.Nodup) (hkey : key ∈ keys) (halone : keys = [key] ∨ ∀ x, indexOf s i = some x → x.old = none)
    (hwaits : c.srch.shardsLeft ≠ [] ∨ c.srch.waitLists ≠ [] ∨ c.srch.waitScree = true) :
    ∃ t, exec (.listPassCommit m.id ps none) s = .next t ∧
      caseOf t key = some { c with srch := withHits (passHits s i l qv c.srch.gen c.srch.seq) c.srch } := by
  have hret := retires_retireCmd htime
  refine ⟨_, exec_listPassCommit_of_pass hcmd hserves hmay ps, ?_⟩
  rw [caseOf_journaled]
  have hat (u : State) (hu : caseOf u key = some c) (hindex : indexOf u i = indexOf s i) :
      caseOf (commitPass u i l ps key) key = some { c with srch := withHits (passHits s i l qv c.srch.gen c.srch.seq) c.srch } := by
    rw [commitPass_goesOn hu hq ps hwaits, passHits_congr hindex]
  obtain rfl | hcur := halone
  · rw [List.foldl_cons, List.foldl_nil]
    exact hat _ ((caseOf_retires hret _).trans hc) (indexOf_retires hret i)
  · refine foldl_around (P := fun u => caseOf u key = some c ∧ indexOf u i = indexOf s i)
      (Q := fun u => caseOf u key = some { c with srch := withHits (passHits s i l qv c.srch.gen c.srch.seq) c.srch })
      (fun u j hj ⟨hu, hindex⟩ => ?_) (fun u ⟨hu, hindex⟩ => hat u hu hindex)
      (fun u j hj hu => ((keepsOthers_commitPass u i l ps j).other key (Ne.symm hj)).trans hu) hkeys hkey
      ⟨(caseOf_retires hret _).trans hc, indexOf_retires hret i⟩
    have hkeeps := keepsOthers_commitPass u i l ps j
    exact ⟨(hkeeps.other key (Ne.symm hj)).trans hu, (hkeeps.index i (hindex ▸ hcur)).trans hindex⟩

/-- The last pass of a query, which is in it alone and in no other command, takes it on to the next stage. -/
theorem listPass_ends {k : Contract} (hk : contractOf s c.hd.contract = some k) (hkeys : keys = [key]) (hstage : c.stage = .listScan)
    (hruns : caseRuns c = true) (hlists : c.srch.waitLists = []) (hscree : c.srch.waitScree = false) (hshards : c.srch.shardsLeft = [])
    (hlast : ∀ n ∈ s.sched.cmds, n.id ≠ m.id → key ∉ cmdKeys n) :
    ∃ t x, exec (.listPassCommit m.id ps none) s = .next t ∧
      Advances s t c x k (((ps.find? fun e => e.1 == key).map Prod.snd).getD { forms := [] }) ∧
      x.srch.cand = some (certify (c.srch.found ++ passHits s i l qv c.srch.gen c.srch.seq) k.rcd.lim.candC c.srch.shardLOut
        c.srch.gen c.srch.seq) := by
  obtain rfl := hkeys
  have hret := retires_retireCmd htime
  obtain ⟨x, hends, hcand⟩ := commitPass_ends (i := i) (l := l) ((caseOf_retires hret _).trans hc) hq ps
    ((contractOf_retires hret _).trans hk) hstage hruns hlists hscree hshards (cmdsOfCase_retireCmd htime hlast)
  rw [passHits_retires hret] at hcand
  have hexec := exec_listPassCommit_of_pass hcmd hserves hmay ps
  rw [List.foldl_cons, List.foldl_nil] at hexec
  exact ⟨_, x, hexec, advances_journaled [m] (hends.of_start (by rw [hret.1]) (cases_of_retires hret) (by rw [hret.1]) (by rw [hret.1])),
    hcand⟩

end

/-- Settles O28: the commit of one query leaves the others and their indexes, so that each of a command's queries finds what it would
find alone; the last pass certifies. -/
theorem casesAreSearched : Obligations.CasesAreSearched := by
  unfold Obligations.CasesAreSearched
  intro s key c k hc hk
  refine ⟨fun m x qv hcmd hm hmay htime hkeys hkey hstage hx hq => ?_, holdExpiry_marks hc,
    fun m i g l keys ps qv hcmd hserves hmay htime hkeys hkey hq halone => ⟨fun hwaits => ?_,
      fun hone hstage hruns hlists hscree hshards hlast =>
        listPass_ends hc hcmd hserves hmay htime hq ps hk hone hstage hruns hlists hscree hshards hlast⟩⟩
  · obtain ⟨t, y, ht, hy, hdone, hindexes⟩ := coarseSearch_searches hc hk hcmd hm hmay htime hkeys hkey hstage hx hq
    exact ⟨t, y, ht, hy, hdone.hd, hdone.stage, hdone.visited, hdone.waitLists, hdone.waitScree, hdone.gen, hdone.seq, hdone.found,
      hindexes⟩
  · exact listPass_goesOn hc hcmd hserves hmay htime hq ps hkeys hkey halone (or_rotate.2 hwaits)

end Sys2Proof.Machine
end

section
/-! PROOFS. What generation commits to: caches, what a case's generation reads, delivery, and what follows the tokens (R216, R221, R229, R232). -/

namespace Sys2Proof.Machine

/-! ## Caches (R216, R221) -/

/-- A model that is found is found under its own handle. -/
theorem modelOf_handle {s : State} {i : Nat} {d : Model} (hd : modelOf s i = some d) : modelOf s d.handle = some d := by
  rw [handle_of_modelOf hd]
  exact hd

theorem cacheOf_model (c : Case) (h : Nat) : (cacheOf c h).model = h := by
  unfold cacheOf
  cases hx : c.gen.kv.find? fun x => x.model == h with
  | none => rfl
  | some x =>
    have hmodel := List.find?_some hx
    exact beq_iff_eq.1 hmodel

theorem putSlot_model (c : KvCache) (layer group pos : Nat) (x : List Word) : (putSlot c layer group pos x).model = c.model := by
  unfold putSlot
  dsimp only
  split <;> rfl

theorem writeEntry_model (img : ModelImage) (kv : Nat) (ctx : List Seen) (c : KvCache) (pos : Nat) :
    (writeEntry img kv ctx c pos).model = c.model := by
  unfold writeEntry
  split
  · rfl
  · exact List.foldlRecOn (motive := fun x : KvCache => x.model = c.model) _ _ rfl fun x hx l _ =>
      List.foldlRecOn (motive := fun y : KvCache => y.model = c.model) _ _ hx fun y hy j _ => (putSlot_model y l j pos _).trans hy

/-- Entries are written in the cache of their model. -/
theorem writeEntries_model (img : ModelImage) (kv : Nat) (ctx : List Seen) (c : KvCache) (lo hi : Nat) :
    (writeEntries img kv ctx c lo hi).model = c.model :=
  List.foldlRecOn (motive := fun x : KvCache => x.model = c.model) _ _ rfl fun x hx i _ => (writeEntry_model img kv ctx x (lo + i)).trans hx

/-- A cache that is put in a case is found there under its model, and the others stay. -/
theorem cacheOf_of_putCache {y z : Case} {x : KvCache} (hkv : z.gen.kv = (putCache y.gen x).kv) (i : Nat) :
    cacheOf z i = if x.model = i then x else cacheOf y i := by
  rw [cacheOf, hkv, putCache, List.find?_append, List.find?_filter, List.find?_singleton]
  by_cases hi : x.model = i
  · have hnone : y.gen.kv.find? (fun a => decide ((a.model != x.model) = true ∧ (a.model == i) = true)) = none :=
      List.find?_eq_none.2 fun a _ => by simp [hi]
    rw [hnone, if_pos hi, Option.none_or, if_pos (beq_iff_eq.2 hi), Option.getD_some]
  · have hsame : (fun a : KvCache => decide ((a.model != x.model) = true ∧ (a.model == i) = true)) = fun a => a.model == i := by
      funext a
      by_cases ha : a.model = i <;> simp [ha, Ne.symm hi]
    rw [hsame, if_neg hi, if_neg (by simpa using hi), Option.or_none, cacheOf]

/-- Of a case only its caches and the count of saturations have changed, and a cache of `n` positions still has `n`. -/
structure RunsCaches (n : Nat) (y z : Case) : Prop where
  eq : z = { y with gen := { y.gen with kv := z.gen.kv }, sats := z.sats }
  len : ∀ i, (cacheOf y i).len = n → (cacheOf z i).len = n

theorem RunsCaches.refl (n : Nat) (y : Case) : RunsCaches n y y := ⟨rfl, fun _ h => h⟩

section
variable {s u : State} {c y : Case}

theorem CommitState.updGen (h : CommitState s u c y) (g : GenState → GenState) :
    CommitState s (Machine.updGen u c.hd.key g) c { y with gen := g y.gen } :=
  h.updCase (g := fun z => { z with gen := g z.gen }) fun _ => rfl

/-- A run of a generator brings its cache to the length that commits. -/
theorem CommitState.runCache (h : CommitState s u c y) (k : Contract) (m : Model) (ctx : List Seen) (lo hi n : Nat) :
    ∃ z, CommitState s (Machine.runCache u k c.hd.key m ctx lo hi n) c z ∧ RunsCaches n y z ∧ (cacheOf z m.handle).len = n := by
  unfold Machine.runCache
  rw [h.self]
  dsimp only
  generalize hr : advanceCache m.img k.rcd.lim.kvFormat n
    (writeEntries m.img k.rcd.lim.kvFormat (ctx.take hi) (cacheOf y m.handle) lo hi) = r
  have hlen : r.1.len = n := by rw [← hr]; rfl
  have hmodel : r.1.model = m.handle := by
    rw [← hr]
    exact (writeEntries_model _ _ _ _ _ _).trans (cacheOf_model y m.handle)
  have hcache (sats i : Nat) : cacheOf { y with gen := putCache y.gen r.1, sats := sats } i = if r.1.model = i then r.1 else cacheOf y i :=
    cacheOf_of_putCache rfl i
  refine ⟨_, (h.updGen fun g => putCache g r.1).addSats _, ⟨rfl, fun i hi => ?_⟩, ?_⟩
  · rw [hcache]
    split
    · exact hlen
    · exact hi
  · rw [hcache, if_pos hmodel]
    exact hlen

/-- So does a prefill, where its generator is there. -/
theorem CommitState.prefillTo (h : CommitState s u c y) (k : Contract) (i n : Nat) :
    ∃ z, CommitState s (Machine.prefillTo u k c.hd.key i n) c z ∧ RunsCaches n y z ∧
      (∀ d, modelOf s i = some d → (cacheOf z d.handle).len = n) := by
  unfold Machine.prefillTo
  rw [h.self, h.modelOf_eq]
  cases hm : modelOf s i with
  | none => exact ⟨y, h, .refl n y, nofun⟩
  | some m =>
    obtain ⟨z, hz, hruns, hlen⟩ := h.runCache k m (genCtx u k y m y.gen.toks) (cacheOf y i).len n n
    exact ⟨z, hz, hruns, fun d hd => Option.some.inj hd ▸ hlen⟩

end

/-! ## What the generation of a case reads -/

/-- Of the cases that of `key` alone has changed, and nothing else that a generation reads: contracts, models, prefixes and the
settings of the partitions. -/
structure SparesGen (key : Nat) (s t : State) : Prop where
  other : ∀ j, j ≠ key → caseOf t j = caseOf s j
  contracts : t.contracts = s.contracts
  models : t.models = s.models
  pfxs : t.pfxs = s.pfxs
  keys : partKeys t = partKeys s

namespace SparesGen

variable {key : Nat} {s t u : State}

theorem refl (key : Nat) (s : State) : SparesGen key s s := ⟨fun _ _ => rfl, rfl, rfl, rfl, rfl⟩

theorem trans (h : SparesGen key s t) (k : SparesGen key t u) : SparesGen key s u :=
  ⟨fun j hj => (k.other j hj).trans (h.other j hj), k.contracts.trans h.contracts, k.models.trans h.models, k.pfxs.trans h.pfxs,
    k.keys.trans h.keys⟩

theorem contractOf_eq (h : SparesGen key s t) (i : Nat) : contractOf t i = contractOf s i := by rw [contractOf, contractOf, h.contracts]

theorem modelOf_eq (h : SparesGen key s t) (i : Nat) : modelOf t i = modelOf s i := by rw [modelOf, modelOf, h.models]

/-- The seed of a case's partition is one of its settings (R225). -/
theorem caseSeed_eq (h : SparesGen key s t) (c : Case) : caseSeed t c = caseSeed s c := by
  have hseed (v : State) : caseSeed v c = (((partKeys v).find? fun x => x.1 == c.hd.owner).map fun x => x.2.1.seed).getD 0 := by
    rw [partKeys, List.find?_map, Option.map_map]
    rfl
  rw [hseed, hseed, h.keys]

theorem genCtx_eq (h : SparesGen key s t) (k : Contract) (c : Case) (m : Model) (toks : List Nat) :
    genCtx t k c m toks = genCtx s k c m toks := by
  have hpfx : pfxToks t k.rcd = pfxToks s k.rcd := by rw [pfxToks, pfxToks, pfxOf, pfxOf, h.pfxs]
  rw [genCtx, genCtx, hpfx]

end SparesGen

theorem sparesGen_of_eq (key : Nat) {s t : State} (hcases : t.cases = s.cases) (hcontracts : t.contracts = s.contracts)
    (hmodels : t.models = s.models) (hpfxs : t.pfxs = s.pfxs) (hparts : t.parts = s.parts) : SparesGen key s t :=
  ⟨fun j _ => by rw [caseOf, caseOf, hcases], hcontracts, hmodels, hpfxs, partKeys_congr hparts⟩

theorem sparesGen_of_retires (key : Nat) {s t : State} (h : Retires s t) (hkeys : partKeys t = partKeys s) : SparesGen key s t :=
  ⟨fun j _ => caseOf_retires h j, by rw [h.1], by rw [h.1], by rw [h.1], hkeys⟩

theorem sparesGen_updCase (s : State) (key : Nat) {g : Case → Case} (hg : ∀ c, (g c).hd = c.hd) : SparesGen key s (updCase s key g) :=
  ⟨fun _ hj => caseOf_updCase_of_ne s hg hj, rfl, rfl, rfl, rfl⟩

theorem sparesGen_updGen (s : State) (key : Nat) (g : GenState → GenState) : SparesGen key s (updGen s key g) :=
  sparesGen_updCase s key fun _ => rfl

theorem sparesGen_addSats (s : State) (key n : Nat) : SparesGen key s (addSats s key n) := sparesGen_updCase s key fun _ => rfl

/-- The engines of a command that came free in time have their waits noted, and nothing is reported (R143). -/
theorem noteWait_of_onTime {s : State} {m : Cmd} (h : OnTime s m) : noteWait s m = noteBlock s m := by
  unfold noteWait
  dsimp only
  split
  · rfl
  · rename_i t ht
    have hclk : (noteBlock s m).tclk = s.tclk := by rw [(retires_noteBlock s m).1]
    rw [hclk, if_neg (Nat.not_lt.2 (h t ht))]

theorem partKeys_dropLayers (s : State) (h : Option Nat) : partKeys (dropLayers s h) = partKeys s := by
  unfold dropLayers
  split <;> rfl

theorem partKeys_retireCmd {s : State} {m : Cmd} (h : OnTime s m) : partKeys (retireCmd s m) = partKeys s := by
  rw [retireCmd, partKeys_dropCmds, partKeys_dropLayers, noteWait_of_onTime h, partKeys_noteBlock]

theorem sparesGen_retireCmd (key : Nat) {s : State} {m : Cmd} (h : OnTime s m) : SparesGen key s (retireCmd s m) :=
  sparesGen_of_retires key (retires_retireCmd h) (partKeys_retireCmd h)

theorem sparesGen_runCache (s : State) (k : Contract) (key : Nat) (m : Model) (ctx : List Seen) (lo hi n : Nat) :
    SparesGen key s (runCache s k key m ctx lo hi n) := by
  unfold runCache
  split
  · exact .refl key s
  · exact (sparesGen_updGen s key _).trans (sparesGen_addSats _ key _)

theorem sparesGen_prefillTo (s : State) (k : Contract) (key h n : Nat) : SparesGen key s (prefillTo s k key h n) := by
  unfold prefillTo
  split
  · exact sparesGen_runCache s k key _ _ _ n n
  · exact .refl key s

theorem sparesGen_endCase (s : State) (key : Nat) (st : Status) (stage : Nat) : SparesGen key s (endCase s key st stage) := by
  have hdrop := sparesGen_of_retires key (retires_dropCase s key) (partKeys_dropCase s key)
  have hend : SparesGen key (dropCase s key) (updCase (dropCase s key) key (endedWith st stage)) :=
    sparesGen_updCase _ key fun c => endedWith_hd st stage c
  exact (hdrop.trans hend).trans (sparesGen_of_eq key rfl rfl rfl rfl rfl)

theorem sparesGen_caseWrite (s : State) (c : Case) (off : Nat) (b : List Byte) : SparesGen c.hd.key s (caseWrite s c off b) := by
  unfold caseWrite
  split
  · exact sparesGen_of_eq _ rfl rfl rfl rfl rfl
  · refine .trans ?_ (sparesGen_endCase _ _ _ _)
    exact sparesGen_of_eq _ rfl rfl rfl rfl rfl

theorem sparesGen_deliverFrom (s : State) (key n : Nat) : SparesGen key s (deliverFrom s key n) := by
  unfold deliverFrom
  split
  · exact .refl key s
  · rename_i c hc
    obtain rfl := key_of_caseOf hc
    dsimp only
    split
    · exact (sparesGen_caseWrite s c _ _).trans (sparesGen_caseWrite _ c _ _)
    · exact sparesGen_caseWrite s c _ _

theorem partKeys_endStage {s : State} {c : Case} {k : Contract} (hc : caseOf s c.hd.key = some c)
    (hk : contractOf s c.hd.contract = some k) (p : Prediction) : partKeys (endStage s c.hd.key p) = partKeys s := by
  have hformed (g : Stage) : partKeys (formed s c k g p) = partKeys s := by
    obtain ⟨-, -, hframe⟩ := takesForm_entered hc k g p
    rw [formed, hframe]
    exact (spares_deviceSignal _ _ _ _).keys
  rw [endStage_eq hc hk]
  split
  · exact hformed _
  · rw [addCaseCmd_frame]
    exact hformed _

theorem sparesGen_endStage (s : State) (key : Nat) (p : Prediction) : SparesGen key s (endStage s key p) := by
  cases hc : caseOf s key with
  | none =>
    rw [endStage, hc]
    exact .refl key s
  | some c =>
    obtain rfl := key_of_caseOf hc
    cases hk : contractOf s c.hd.contract with
    | none =>
      rw [endStage, hc]
      dsimp only
      rw [hk]
      exact .refl _ s
    | some k =>
      have hframe := endStage_frame hc hk p
      have hmodels := congrArg State.models hframe
      have hpfxs := congrArg State.pfxs hframe
      exact ⟨(changesCase_endStage s _ p).other, (changesCase_endStage s _ p).contracts, hmodels, hpfxs, partKeys_endStage hc hk p⟩

theorem sparesGen_nextCmdOf (s : State) (key : Nat) : SparesGen key s (nextCmdOf s key) := by
  unfold nextCmdOf
  split
  · exact .refl key s
  · split
    · exact .refl key s
    · rw [addCaseCmd_frame]
      exact sparesGen_of_eq key rfl rfl rfl rfl rfl

theorem sparesGen_endGeneration (s : State) (key cause : Nat) : SparesGen key s (endGeneration s key cause) :=
  (sparesGen_updGen s key _).trans (sparesGen_endStage _ key _)

theorem sparesGen_stopDecode (s : State) (key : Nat) : SparesGen key s (stopDecode s key) := by
  unfold stopDecode
  split
  · exact .refl key s
  · refine .trans ?_ (sparesGen_endGeneration _ key 6)
    refine .trans ?_ (sparesGen_updCase _ key fun _ => rfl)
    exact sparesGen_of_eq key rfl rfl rfl rfl rfl

theorem sparesGen_goOn (s : State) (k : Contract) (key : Nat) (stop : Option Nat) (p : Prediction) : SparesGen key s (goOn s k key stop p) := by
  unfold goOn
  split
  · exact .refl key s
  · split
    · exact .refl key s
    · split
      · exact sparesGen_endGeneration s key _
      · split
        · exact sparesGen_endGeneration s key 4
        · split
          · exact sparesGen_stopDecode s key
          · exact sparesGen_nextCmdOf s key

/-! ## Delivery (R232) -/

theorem caseOf_caseWrite {s : State} {key : Nat} {c y : Case} (hkey : c.hd.key = key) (hy : caseOf s key = some y) (off : Nat) (b : List Byte) :
    ∃ z, caseOf (caseWrite s c off b) key = some z ∧ z = { y with ending := z.ending, failedStage := z.failedStage } := by
  unfold caseWrite
  split
  · exact ⟨y, hy, rfl⟩
  · refine ⟨endedWith .faultHostDma (stageNum c.stage) y, ?_, ?_⟩
    · rw [caseDmaFails, hkey, caseOf_endCase]
      exact congrArg (Option.map _) hy
    · unfold endedWith
      split <;> rfl

/-- Delivery leaves its case, but that a write that is refused ends it. -/
theorem caseOf_deliverFrom {s : State} {key : Nat} {y : Case} (hy : caseOf s key = some y) (n : Nat) :
    ∃ z, caseOf (deliverFrom s key n) key = some z ∧ z = { y with ending := z.ending, failedStage := z.failedStage } := by
  have hkey := key_of_caseOf hy
  obtain ⟨z, hz, hzkept⟩ := caseOf_caseWrite hkey hy (y.hd.tokAt + 64 + 4 * n) ((y.gen.toks.drop n).flatMap (leBytes 4))
  unfold deliverFrom
  rw [hy]
  dsimp only
  split
  · obtain ⟨x, hx, hxkept⟩ := caseOf_caseWrite hkey hz y.hd.tokAt (leBytes 4 y.gen.toks.length)
    exact ⟨x, hx, by rw [hxkept, hzkept]⟩
  · exact ⟨z, hz, hzkept⟩

/-- Tokens that the host grants are delivered on the way to the commit, with their count. -/
theorem CommitState.deliverFrom {s u : State} {c y : Case} (h : CommitState s u c y) {n : Nat} (hlive : c.ending = none)
    (htoks : caseGranted s c true (c.hd.resultAddr + (c.hd.tokAt + 64 + 4 * n)) ((y.gen.toks.drop n).flatMap (leBytes 4)).length = true)
    (hcount : caseGranted s c true (c.hd.resultAddr + c.hd.tokAt) 4 = true) :
    CommitState s (Machine.deliverFrom u c.hd.key n) c y := by
  have hgrant {v : State} (hv : CommitState s v c y) (addr len : Nat) : caseGranted v y true addr len = caseGranted s c true addr len := by
    rw [← hv.caseGranted_eq, caseGranted, caseGranted, h.hd_eq]
  have hsent := h.hostWrite c.hd.owner (c.hd.resultAddr + (c.hd.tokAt + 64 + 4 * n)) ((y.gen.toks.drop n).flatMap (leBytes 4))
  have hruns : caseRuns y = true := Option.isNone_iff_eq_none.2 (h.ending_eq.trans hlive)
  unfold Machine.deliverFrom
  rw [h.self]
  dsimp only
  rw [caseWrite_of_granted (by rw [h.hd_eq, hgrant h]; exact htoks), h.hd_eq, hsent.self, Option.all_some, if_pos hruns,
    caseWrite_of_granted (by rw [h.hd_eq, hgrant hsent]; exact hcount), h.hd_eq]
  exact hsent.hostWrite _ _ _

/-! ## What follows the commit of tokens (R121, R229) -/

/-- What is generated stands, but for what says that it is over. -/
structure KeepsGen (y x : Case) : Prop where
  hd : x.hd = y.hd
  gen : x.gen = { y.gen with proposals := x.gen.proposals, stopCause := x.gen.stopCause, done := x.gen.done }
  noProposals : y.gen.proposals = [] → x.gen.proposals = []

theorem KeepsGen.refl (y : Case) : KeepsGen y y := ⟨rfl, rfl, id⟩

theorem KeepsGen.trans {y z x : Case} (h : KeepsGen y z) (k : KeepsGen z x) : KeepsGen y x :=
  ⟨k.hd.trans h.hd, by rw [k.gen, h.gen], fun hy => k.noProposals (h.noProposals hy)⟩

section
variable {u : State} {key : Nat} {y : Case} {k : Contract} (hy : caseOf u key = some y)
include hy

/-- The end of generation keeps its tokens, notes the cause and ends the stage. -/
theorem caseOf_endGeneration (hk : contractOf u y.hd.contract = some k) (cause : Nat) :
    ∃ x, caseOf (endGeneration u key cause) key = some x ∧ KeepsGen y x ∧ x.stage = stageAfter k.rcd y.stage ∧ x.gen.stopCause = cause := by
  have hover : caseOf (updGen u key fun g => { g with stopCause := cause, done := true, proposals := [] }) key =
      some { y with gen := { y.gen with stopCause := cause, done := true, proposals := [] } } :=
    caseOf_updCase_of_some hy fun _ => rfl
  obtain ⟨x, hx, hkept⟩ := caseOf_endStage (k := k) hover hk { forms := [] }
  refine ⟨x, hx, ?_, ?_, ?_⟩
  · rw [hkept]
    exact ⟨rfl, rfl, fun _ => rfl⟩
  · rw [hkept]
    rfl
  · rw [hkept]
    rfl

theorem caseOf_stopDecode (hk : contractOf u y.hd.contract = some k) : ∃ x, caseOf (stopDecode u key) key = some x ∧ KeepsGen y x := by
  unfold stopDecode
  rw [hy]
  dsimp only
  have hstop : caseOf (updCase (fallbackRecord u y .generation .scoreHead) key fun c =>
      { c with forms := { c.forms with decodeStopped := true } }) key = some { y with forms := { y.forms with decodeStopped := true } } :=
    caseOf_updCase_of_some hy fun _ => rfl
  obtain ⟨x, hx, ⟨hhd, hgen, hnone⟩, -⟩ := caseOf_endGeneration (k := k) hstop hk 6
  exact ⟨x, hx, hhd, hgen, hnone⟩

/-- Whatever follows, what has been generated stands; a stop on a token ends the stage. -/
theorem caseOf_goOn (hk : contractOf u y.hd.contract = some k) (stop : Option Nat) (p : Prediction) :
    ∃ x, caseOf (goOn u k key stop p) key = some x ∧ KeepsGen y x ∧
      (caseRuns y = true → ∀ st, stop = some st → x.stage = stageAfter k.rcd y.stage ∧ x.gen.stopCause = st) := by
  unfold goOn
  rw [hy]
  dsimp only
  split
  · rename_i hended
    exact ⟨y, hy, .refl y, fun hruns => absurd hended (by simp [hruns])⟩
  · split
    · rename_i st
      obtain ⟨x, hx, hgen, hstage, hstop⟩ := caseOf_endGeneration hy hk st
      refine ⟨x, hx, hgen, fun _ st' hst' => ?_⟩
      obtain rfl := Option.some.inj hst'
      exact ⟨hstage, hstop⟩
    · split
      · obtain ⟨x, hx, hgen, -⟩ := caseOf_endGeneration hy hk 4
        exact ⟨x, hx, hgen, nofun⟩
      · split
        · obtain ⟨x, hx, hgen⟩ := caseOf_stopDecode hy hk
          exact ⟨x, hx, hgen, nofun⟩
        · refine ⟨y, ?_, .refl y, nofun⟩
          unfold nextCmdOf
          rw [hy]
          dsimp only
          rw [hk]
          dsimp only
          rw [addCaseCmd_frame]
          exact hy

/-- With no stop, with time left and a form that decodes, the next command is ready. -/
theorem goOn_decodes (hruns : caseRuns y = true) {p : Prediction} (hbudget : budgetGone u k y = false)
    (hform : monitorForm u k y .generation (decodeChain k y) p ≠ .scoreHead) : goOn u k key none p = nextCmdOf u key := by
  unfold goOn
  rw [hy]
  dsimp only
  rw [hruns, hbudget, if_neg hform]
  rfl

/-- The tokens committed stand when they are delivered and the case goes on or ends. -/
theorem caseOf_goOn_deliverFrom (hk : contractOf u y.hd.contract = some k) (n : Nat) (stop : Option Nat) (p : Prediction) :
    ∃ x, caseOf (goOn (deliverFrom u key n) k key stop p) key = some x ∧ KeepsGen y x := by
  obtain ⟨z, hz, hkept⟩ := caseOf_deliverFrom hy n
  have hhd : z.hd = y.hd := by rw [hkept]
  have hkz : contractOf (deliverFrom u key n) z.hd.contract = some k := by
    rw [(sparesGen_deliverFrom u key n).contractOf_eq, hhd, hk]
  obtain ⟨x, hx, hgen, -⟩ := caseOf_goOn hz hkz stop p
  refine ⟨x, hx, KeepsGen.trans ?_ hgen⟩
  rw [hkept]
  exact ⟨rfl, rfl, id⟩

end

end Sys2Proof.Machine
end

section
/-! PROOFS. Generation: prefill, draft steps and verify passes (R213, R214, R219 to R221, R230). -/

namespace Sys2Proof.Machine

/-! ## Chunks of the file (R230) -/

/-- A chunk of the file brings the generator's cache to its end, and the next command is ready. -/
theorem fileChunk_goesOn {s : State} {key : Nat} {c : Case} {m : Cmd} {k : Contract} (h : Running s key .generation c m k)
    (hmore : c.gen.fileChunks < fileChunks k c) {n : Nat}
    (hn : (pfxToks s k.rcd).length + min ((c.gen.fileChunks + 1) * k.rcd.feat.chunkLen) c.desc.payloadBytes = n) :
    ∃ t x, exec (.fileChunkPrefillCommit key c.gen.fileChunks none) s = .next t ∧ GoesOn t c x ∧
      x.gen.fileChunks = c.gen.fileChunks + 1 ∧ x.gen.committedLen = n ∧
      (∀ d, modelOf s (genModelOf k.rcd c) = some d → (cacheOf x d.handle).len = n) := by
  obtain ⟨hc, -, hk, -, hruns, -, htime⟩ := id h
  obtain rfl := key_of_caseOf hc
  obtain ⟨z, hz, -, hlen⟩ := (h.commitState.retireCmd htime).prefillTo k (genModelOf k.rcd c) n
  have hdone := hz.updGen fun g => { g with committedLen := n, fileChunks := c.gen.fileChunks + 1 }
  refine ⟨_, _, ?_, goesOn_journaled s [m] (hdone.goesOn hk (Option.isNone_iff_eq_none.1 hruns)), rfl, rfl, hlen⟩
  rw [exec_fileChunkPrefillCommit, execFileChunkPrefillCommit, stageCommit_of_running h, if_pos ⟨rfl, hmore⟩, hn]

/-! ## Prefill (R213, R214) -/

/-- The logits of the classifier head at the last position of the prompt. -/
def classLogits (s : State) (k : Contract) (c : Case) (d : Model) : List Word :=
  headValues d.img k.rcd.lim.kvFormat .classes (genCtx s k c d []) d.img.gen.verdicts

/-- The first token of a case, drawn under a partition's seed. -/
def firstToken (s : State) (k : Contract) (c : Case) (d : Model) (seed : Nat) : Nat :=
  drawToken k.rcd seed c.hd.caseId c.pass.promptLen [] (tokenLogits k d (genCtx s k c d []))

/-- Prefill as far as the classifier head: the command is retired, the prompt is in the generator's cache, the case has its verdict. -/
def classified (s : State) (c : Case) (k : Contract) (m : Cmd) (d : Model) : State :=
  addSats (updGen (prefillTo (retireCmd s m) k c.hd.key d.handle c.pass.promptLen) c.hd.key fun g =>
    { classify d (classLogits s k c d) g with committedLen := c.pass.promptLen }) c.hd.key (nanCount (classLogits s k c d))

/-- The prompt is in the draft model's cache too, if there is one. -/
def draftPrefilled (s : State) (c : Case) (k : Contract) (m : Cmd) (d : Model) : State :=
  if k.rcd.refs.draftModel = 0 then classified s c k m d
  else prefillTo (classified s c k m d) k c.hd.key k.rcd.refs.draftModel c.pass.promptLen

/-- The case has its first token. -/
def begun (s : State) (c : Case) (k : Contract) (m : Cmd) (d : Model) (tok : Nat) : State :=
  addSats (updGen (draftPrefilled s c k m d) c.hd.key fun g => { g with toks := [tok] }) c.hd.key
    (nanCount (tokenLogits k d (genCtx s k c d [])))

/-- The prompt of `c`, now `x`, is committed, with what the classifier head says of it. -/
structure Prefilled (s : State) (k : Contract) (d : Model) (c x : Case) : Prop where
  hd : x.hd = c.hd
  committedLen : x.gen.committedLen = c.pass.promptLen
  cache : (cacheOf x d.handle).len = c.pass.promptLen
  probs : x.gen.probs = softmax (classLogits s k c d)
  verdict : x.gen.verdict = some (bestClass (softmax (classLogits s k c d)))
  score : x.gen.score =
    calibrate d.img.gen.calib ((softmax (classLogits s k c d)).getD (bestClass (softmax (classLogits s k c d))) 0#32)

theorem cacheOf_congr {y x : Case} (h : x.gen.kv = y.gen.kv) (i : Nat) : cacheOf x i = cacheOf y i := by rw [cacheOf, cacheOf, h]

section
variable {s : State} {c y x : Case} {k : Contract} {d : Model}

theorem Prefilled.runsCaches (h : Prefilled s k d c y) (hx : RunsCaches c.pass.promptLen y x) : Prefilled s k d c x := by
  have hcache := hx.len d.handle h.cache
  obtain ⟨hhd, hcommitted, -, hprobs, hverdict, hscore⟩ := h
  rw [hx.eq] at hcache ⊢
  exact ⟨hhd, hcommitted, hcache, hprobs, hverdict, hscore⟩

/-- What is noted of the tokens leaves it. -/
theorem Prefilled.of_gen (h : Prefilled s k d c y) (hhd : x.hd = y.hd)
    (hgen : x.gen = { y.gen with
      toks := x.gen.toks, proposals := x.gen.proposals, stopCause := x.gen.stopCause, done := x.gen.done }) : Prefilled s k d c x := by
  have hcache (i : Nat) : cacheOf x i = cacheOf y i := cacheOf_congr (by rw [hgen]) i
  obtain ⟨hyhd, hcommitted, hlen, hprobs, hverdict, hscore⟩ := h
  refine ⟨hhd.trans hyhd, ?_, (congrArg KvCache.len (hcache d.handle)).trans hlen, ?_, ?_, ?_⟩
  · rw [hgen]
    exact hcommitted
  · rw [hgen]
    exact hprobs
  · rw [hgen]
    exact hverdict
  · rw [hgen]
    exact hscore

theorem Prefilled.keepsGen (h : Prefilled s k d c y) (hx : KeepsGen y x) : Prefilled s k d c x := h.of_gen hx.hd (by rw [hx.gen])

end

section
variable {s : State} {c : Case} {k : Contract} {m : Cmd} {d : Model} (htime : OnTime s m)
include htime

theorem sparesGen_classified : SparesGen c.hd.key s (classified s c k m d) :=
  (((sparesGen_retireCmd _ htime).trans (sparesGen_prefillTo _ k _ _ _)).trans (sparesGen_updGen _ _ _)).trans (sparesGen_addSats _ _ _)

theorem sparesGen_draftPrefilled : SparesGen c.hd.key s (draftPrefilled s c k m d) := by
  unfold draftPrefilled
  split
  · exact sparesGen_classified htime
  · exact (sparesGen_classified htime).trans (sparesGen_prefillTo _ k _ _ _)

/-- A case of which no tokens are asked ends with its verdict; another goes on from its first token. -/
theorem commitPrefill_eq (p : Prediction) :
    commitPrefill s c k m d p =
      if genLimit k.rcd c = 0 then endGeneration (deliverFrom (classified s c k m d) c.hd.key 0) c.hd.key 0
      else goOn (deliverFrom (begun s c k m d (firstToken s k c d (caseSeed s c))) c.hd.key 0) k c.hd.key
        (stopCause k.rcd.stp (genLimit k.rcd c) [firstToken s k c d (caseSeed s c)]) p := by
  have hseed := (sparesGen_draftPrefilled (c := c) (k := k) (d := d) htime).caseSeed_eq c
  rw [← hseed]
  by_cases hnone : genLimit k.rcd c = 0
  · rw [if_pos hnone]
    unfold commitPrefill
    dsimp only
    rw [if_neg (by simpa using hnone)]
    rfl
  · rw [if_neg hnone]
    unfold commitPrefill
    dsimp only
    rw [if_pos (by simpa using hnone)]
    rfl

variable (hc : CommitState s s c c) (hd : modelOf s d.handle = some d)
include hc hd

theorem classified_prefilled :
    ∃ y, CommitState s (classified s c k m d) c y ∧ Prefilled s k d c y ∧ y.gen.toks = c.gen.toks := by
  obtain ⟨z, hz, ⟨heq, -⟩, hlen⟩ := (hc.retireCmd htime).prefillTo k d.handle c.pass.promptLen
  refine ⟨_, (hz.updGen _).addSats _, ⟨hz.hd_eq, rfl, ?_, rfl, rfl, rfl⟩, ?_⟩
  · exact (congrArg KvCache.len (cacheOf_congr rfl _)).trans (hlen d hd)
  · rw [heq]
    rfl

theorem begun_prefilled (tok : Nat) :
    ∃ y, CommitState s (begun s c k m d tok) c y ∧ Prefilled s k d c y ∧ y.gen.toks = [tok] := by
  obtain ⟨y, hy, hprefilled, -⟩ := classified_prefilled (k := k) htime hc hd
  have hdraft : ∃ z, CommitState s (draftPrefilled s c k m d) c z ∧ Prefilled s k d c z := by
    unfold draftPrefilled
    split
    · exact ⟨y, hy, hprefilled⟩
    · obtain ⟨z, hz, hruns, -⟩ := hy.prefillTo k k.rcd.refs.draftModel c.pass.promptLen
      exact ⟨z, hz, hprefilled.runsCaches hruns⟩
  obtain ⟨z, hz, hprefilled⟩ := hdraft
  exact ⟨_, (hz.updGen _).addSats _, hprefilled.of_gen rfl rfl, rfl⟩

end

/-- On the way to a commit the budget and the monitor's choice are what they were: they read the clock, the head and the form. -/
theorem CommitState.decodes_eq {s u : State} {c y : Case} (h : CommitState s u c y) (k : Contract) (p : Prediction) :
    budgetGone u k y = budgetGone s k c ∧
      monitorForm u k y .generation (decodeChain k y) p = monitorForm s k c .generation (decodeChain k c) p := by
  have hforms : y.forms = c.forms := by rw [h.kept]
  constructor
  · rw [budgetGone, budgetGone, h.tclk_eq, h.hd_eq]
  · simp only [monitorForm, decodeChain, h.tclk_eq, h.hd_eq, hforms]

section
variable {s : State} {key : Nat} {c : Case} {m : Cmd} {k : Contract} {d : Model} (h : Running s key .generation c m k)
  (hd : modelOf s (genModelOf k.rcd c) = some d)
include h hd

theorem prefillCommit_of_running (hprefill : decoding c = false) (hfile : c.gen.fileChunks = fileChunks k c) (p : Prediction) :
    exec (.prefillCommit key p none) s = .next (journaled s [m] (commitPrefill s c k m d p)) := by
  rw [exec_prefillCommit, execPrefillCommit, stageCommit_of_running h, hd]
  dsimp only
  rw [if_pos ⟨by simp [hprefill], hfile⟩]

/-- A prefill after which nothing is generated ends the stage. -/
theorem commitPrefill_classifies (hnone : genLimit k.rcd c = 0) (p : Prediction) :
    ∃ x, caseOf (commitPrefill s c k m d p) key = some x ∧ Prefilled s k d c x ∧ x.stage = .result ∧ x.gen.toks = c.gen.toks ∧
      x.gen.stopCause = 0 := by
  obtain ⟨hc, -, hk, hstage, -, -, htime⟩ := id h
  obtain rfl := key_of_caseOf hc
  obtain ⟨y, hy, hprefilled, htoks⟩ := classified_prefilled (k := k) htime h.commitState (modelOf_handle hd)
  obtain ⟨z, hz, hzkept⟩ := caseOf_deliverFrom hy.self 0
  have hzgen : KeepsGen y z := by
    rw [hzkept]
    exact ⟨rfl, rfl, id⟩
  have hkz : contractOf (deliverFrom (classified s c k m d) c.hd.key 0) z.hd.contract = some k := by
    rw [(sparesGen_deliverFrom _ _ 0).contractOf_eq, hy.contractOf_eq, hzgen.hd, hy.hd_eq, hk]
  obtain ⟨x, hx, hxgen, hxstage, hstop⟩ := caseOf_endGeneration hz hkz 0
  have hzstage : z.stage = .generation := by rw [hzkept, hy.stage_eq, hstage]
  rw [commitPrefill_eq htime, if_pos hnone]
  refine ⟨x, hx, hprefilled.keepsGen (hzgen.trans hxgen), ?_, ?_, hstop⟩
  · rw [hxstage, hzstage]
    rfl
  · rw [(hzgen.trans hxgen).gen]
    exact htoks

/-- A prefill after which tokens are generated commits the first one, which may stop the case. -/
theorem commitPrefill_generates (hsome : genLimit k.rcd c ≠ 0)
    (htok : caseGranted s c true (c.hd.resultAddr + (c.hd.tokAt + 64)) 4 = true)
    (hcount : caseGranted s c true (c.hd.resultAddr + c.hd.tokAt) 4 = true) (p : Prediction) :
    ∃ x, caseOf (commitPrefill s c k m d p) key = some x ∧ Prefilled s k d c x ∧ x.gen.toks = [firstToken s k c d (caseSeed s c)] ∧
      (∀ st, stopCause k.rcd.stp (genLimit k.rcd c) [firstToken s k c d (caseSeed s c)] = some st →
        x.stage = .result ∧ x.gen.stopCause = st) ∧
      (stopCause k.rcd.stp (genLimit k.rcd c) [firstToken s k c d (caseSeed s c)] = none → budgetGone s k c = false →
        monitorForm s k c .generation (decodeChain k c) p ≠ .scoreHead → GoesOn (commitPrefill s c k m d p) c x) := by
  obtain ⟨hc, -, hk, hstage, hruns, -, htime⟩ := id h
  obtain rfl := key_of_caseOf hc
  have hlive : c.ending = none := Option.isNone_iff_eq_none.1 hruns
  rw [commitPrefill_eq htime, if_neg hsome]
  generalize firstToken s k c d (caseSeed s c) = tok
  generalize stopCause k.rcd.stp (genLimit k.rcd c) [tok] = stop
  obtain ⟨y, hy, hprefilled, htoks⟩ := begun_prefilled (k := k) htime h.commitState (modelOf_handle hd) tok
  have hsent : CommitState s (deliverFrom (begun s c k m d tok) c.hd.key 0) c y :=
    hy.deliverFrom (n := 0) hlive (by rw [htoks]; exact htok) hcount
  have hyruns : caseRuns y = true := Option.isNone_iff_eq_none.2 (hy.ending_eq.trans hlive)
  obtain ⟨hbudget, hform⟩ := hsent.decodes_eq k p
  obtain ⟨x, hx, hxgen, hxstop⟩ := caseOf_goOn hsent.self (hsent.contract hk) stop p
  refine ⟨x, hx, hprefilled.keepsGen hxgen, ?_, fun st hst => ?_, fun hnone hleft hdecodes => ?_⟩
  · rw [hxgen.gen]
    exact htoks
  · obtain ⟨hxstage, hcause⟩ := hxstop hyruns st hst
    rw [hxstage, hy.stage_eq, hstage]
    exact ⟨rfl, hcause⟩
  · subst hnone
    have hnext := goOn_decodes hsent.self hyruns (hbudget.trans hleft) (hform ▸ hdecodes)
    have hgoes := hsent.goesOn hk hlive
    rw [← hnext] at hgoes
    obtain rfl := Option.some.inj (hgoes.1.symm.trans hx)
    exact hgoes

end

/-! ## Draft steps (R219) -/

/-- The token that the draft model proposes next. -/
def proposal (s : State) (k : Contract) (c : Case) (d : Model) : Nat :=
  greedyToken k.rcd (c.gen.toks ++ c.gen.proposals) (tokenLogits k d (genCtx s k c d (c.gen.toks ++ c.gen.proposals)))

/-- The draft model's entries for what it has read, and its proposal. -/
def proposing (s : State) (k : Contract) (c : Case) (d : Model) (g : GenState) : GenState :=
  { putCache g (writeEntries d.img k.rcd.lim.kvFormat (genCtx s k c d (c.gen.toks ++ c.gen.proposals)) (cacheOf c d.handle)
      (cacheOf c d.handle).len (genCtx s k c d (c.gen.toks ++ c.gen.proposals)).length) with
    proposals := g.proposals ++ [proposal s k c d] }

/-- The state after one more proposal. -/
def proposed (s : State) (k : Contract) (c : Case) (d : Model) : State :=
  addSats (updGen s c.hd.key (proposing s k c d)) c.hd.key
    (rowSats d.img k.rcd.lim.kvFormat (genCtx s k c d (c.gen.toks ++ c.gen.proposals)) +
      nanCount (tokenLogits k d (genCtx s k c d (c.gen.toks ++ c.gen.proposals))))

theorem propose_eq (s : State) (k : Contract) (c : Case) (m : Cmd) (d : Model) :
    propose s k c m d = if c.gen.proposals.length + 1 < mostProposals k.rcd c then proposed s k c d
      else nextCmdOf (retireCmd (proposed s k c d) m) c.hd.key := rfl

section
variable {s : State} {key : Nat} {c : Case} {m : Cmd} {k : Contract} {d : Model} (h : Running s key .generation c m k)
include h

theorem draftStep_of_running (hdraft : drafting k.rcd c = true) (hd : modelOf s k.rcd.refs.draftModel = some d) :
    exec (.draftStep key) s = .next (propose s k c m d) := by
  obtain ⟨hc, hm, hk, -, hruns, hmay, -⟩ := h
  rw [exec_draftStep, execDraftStep, hc, hm]
  dsimp only
  rw [hk]
  dsimp only
  rw [hd]
  dsimp only
  rw [if_pos ⟨hdraft, hruns, hmay⟩]

/-- A draft step adds a proposal to its case alone; after the last one the verify pass is ready. -/
theorem propose_adds (d : Model) :
    ∃ x, caseOf (propose s k c m d) key = some x ∧ x.hd = c.hd ∧ x.stage = .generation ∧ x.gen.toks = c.gen.toks ∧
      x.gen.committedLen = c.gen.committedLen ∧ x.gen.proposals = c.gen.proposals ++ [proposal s k c d] ∧
      (∀ j, j ≠ key → caseOf (propose s k c m d) j = caseOf s j) ∧
      (c.gen.proposals.length + 1 < mostProposals k.rcd c → propose s k c m d = { s with cases := (propose s k c m d).cases }) ∧
      (mostProposals k.rcd c = c.gen.proposals.length + 1 → GoesOn (propose s k c m d) c x) := by
  obtain ⟨hc, -, hk, hstage, hruns, -, htime⟩ := id h
  obtain rfl := key_of_caseOf hc
  have hlive : c.ending = none := Option.isNone_iff_eq_none.1 hruns
  have hproposed : CommitState s (proposed s k c d) c _ := (h.commitState.updGen (proposing s k c d)).addSats _
  rw [propose_eq]
  by_cases hmore : c.gen.proposals.length + 1 < mostProposals k.rcd c
  · rw [if_pos hmore]
    exact ⟨_, hproposed.self, rfl, hstage, rfl, rfl, rfl, hproposed.other, fun _ => rfl, fun hlast => absurd hmore (by omega)⟩
  · rw [if_neg hmore]
    have hretired := hproposed.retireCmd htime
    have hgoes := hretired.goesOn hk hlive
    exact ⟨_, hgoes.1, rfl, hstage, rfl, rfl, rfl,
      fun j hj => ((sparesGen_nextCmdOf _ _).other j hj).trans (hretired.other j hj), fun hless => absurd hless hmore, fun _ => hgoes⟩

end

/-! ## Verify passes (R220, R221) -/

/-- The logits at the positions of a pass: the last committed token's, then each proposal's. -/
def verifyLogits (s : State) (k : Contract) (c : Case) (d : Model) : List (List Word) :=
  (List.range (c.gen.proposals.length + 1)).map fun i =>
    tokenLogits k d ((genCtx s k c d (c.gen.toks ++ c.gen.proposals)).take (c.pass.promptLen + c.gen.toks.length - 1 + 1 + i))

/-- What a pass finds for a case. -/
def verifyFinds (s : State) (k : Contract) (c : Case) (d : Model) : Accepted :=
  acceptAll k.rcd (caseSeed s c) c.hd.caseId (genLimit k.rcd c) (verifyLogits s k c d) c.gen.proposals
    (c.pass.promptLen + c.gen.toks.length - 1 + 1) c.gen.toks

/-- The committed length once a pass has found `a`. -/
def verifyLen (c : Case) (a : Accepted) : Nat := c.pass.promptLen + (c.gen.toks ++ a.toks).length - 1

/-- The caches of the target and of the draft model have run up to the tokens that a pass commits. -/
def verifyRan (s : State) (k : Contract) (c : Case) (d : Model) : State :=
  let base := c.pass.promptLen + c.gen.toks.length - 1
  let n := verifyLen c (verifyFinds s k c d)
  let t := runCache s k c.hd.key d (genCtx s k c d (c.gen.toks ++ c.gen.proposals)) base (base + c.gen.proposals.length + 1) n
  match modelOf t k.rcd.refs.draftModel with
  | some x =>
    if c.gen.proposals.length = 0 then t
    else runCache t k c.hd.key x (genCtx t k c x c.gen.toks) base base (min n (base + c.gen.proposals.length))
  | none => t

/-- A generation with the tokens that a pass has found committed. -/
def accepting (c : Case) (a : Accepted) (g : GenState) : GenState :=
  { g with
    toks := c.gen.toks ++ a.toks, proposals := [], committedLen := verifyLen c a, verifyPasses := g.verifyPasses + 1
    draftAccepted := g.draftAccepted + a.accepted }

/-- A case with its pass committed, before its tokens are delivered. -/
def verified (s : State) (k : Contract) (c : Case) (d : Model) : State :=
  addSats (updGen (verifyRan s k c d) c.hd.key (accepting c (verifyFinds s k c d))) c.hd.key (sumNat ((verifyLogits s k c d).map nanCount))

/-- `c`, now `x`, has committed what a pass has found. -/
structure Verified (c : Case) (a : Accepted) (x : Case) : Prop where
  hd : x.hd = c.hd
  gen : x.gen = { accepting c a c.gen with kv := x.gen.kv, stopCause := x.gen.stopCause, done := x.gen.done }

theorem Verified.keepsGen {c y x : Case} {a : Accepted} (h : Verified c a y) (hx : KeepsGen y x) : Verified c a x := by
  have hnone : x.gen.proposals = [] := hx.noProposals (by rw [h.gen]; rfl)
  refine ⟨hx.hd.trans h.hd, ?_⟩
  rw [hx.gen, hnone, h.gen]
  rfl

theorem sparesGen_verifyRan (s : State) (k : Contract) (c : Case) (d : Model) : SparesGen c.hd.key s (verifyRan s k c d) := by
  unfold verifyRan
  dsimp only
  split
  · split
    · exact sparesGen_runCache s k _ d _ _ _ _
    · exact (sparesGen_runCache s k _ d _ _ _ _).trans (sparesGen_runCache _ k _ _ _ _ _ _)
  · exact sparesGen_runCache s k _ d _ _ _ _

/-- The caches are all that has changed of a case. -/
theorem verifyRan_runs {s : State} {c : Case} (h : CommitState s s c c) (k : Contract) (d : Model) :
    ∃ z, CommitState s (verifyRan s k c d) c z ∧ z.gen = { c.gen with kv := z.gen.kv } := by
  have hgen {n : Nat} {y z : Case} (hy : y.gen = { c.gen with kv := y.gen.kv }) (hz : RunsCaches n y z) :
      z.gen = { c.gen with kv := z.gen.kv } := by rw [hz.eq, hy]
  unfold verifyRan
  dsimp only
  obtain ⟨y, hy, hyruns, -⟩ := h.runCache k d (genCtx s k c d (c.gen.toks ++ c.gen.proposals)) (c.pass.promptLen + c.gen.toks.length - 1)
    (c.pass.promptLen + c.gen.toks.length - 1 + c.gen.proposals.length + 1) (verifyLen c (verifyFinds s k c d))
  split
  · split
    · exact ⟨y, hy, hgen rfl hyruns⟩
    · obtain ⟨z, hz, hzruns, -⟩ := hy.runCache k _ _ _ _ _
      exact ⟨z, hz, hgen (hgen rfl hyruns) hzruns⟩
  · exact ⟨y, hy, hgen rfl hyruns⟩

theorem verified_commits {s : State} {c : Case} (h : CommitState s s c c) (k : Contract) (d : Model) :
    ∃ y, CommitState s (verified s k c d) c y ∧ Verified c (verifyFinds s k c d) y := by
  obtain ⟨z, hz, hzgen⟩ := verifyRan_runs h k d
  refine ⟨_, (hz.updGen (accepting c (verifyFinds s k c d))).addSats _, hz.hd_eq, ?_⟩
  dsimp only
  rw [hzgen]
  rfl

section
variable {s : State} {key : Nat} {c : Case} {k : Contract} {d : Model} (hc : caseOf s key = some c)
  (hk : contractOf s c.hd.contract = some k) (hd : modelOf s (genModelOf k.rcd c) = some d)
include hc hk hd

theorem commitVerify_of_case (ps : List (Nat × Prediction)) :
    commitVerify s ps key = goOn (deliverFrom (verified s k c d) key c.gen.toks.length) k key (verifyFinds s k c d).stop
      (((ps.find? fun e => e.1 == key).map Prod.snd).getD { forms := [] }) := by
  obtain rfl := key_of_caseOf hc
  unfold commitVerify
  rw [hc]
  dsimp only
  rw [hk]
  dsimp only
  rw [hd]
  rfl

/-- A pass commits for one case what it has found, whatever becomes of the case then. -/
theorem commitVerify_commits (ps : List (Nat × Prediction)) :
    ∃ x, caseOf (commitVerify s ps key) key = some x ∧ Verified c (verifyFinds s k c d) x := by
  rw [commitVerify_of_case hc hk hd]
  obtain rfl := key_of_caseOf hc
  obtain ⟨y, hy, hverified⟩ := verified_commits (.refl hc) k d
  obtain ⟨x, hx, hgen⟩ := caseOf_goOn_deliverFrom hy.self (hy.contract hk) c.gen.toks.length (verifyFinds s k c d).stop _
  exact ⟨x, hx, hverified.keepsGen hgen⟩

end

/-- The pass of one case leaves what the others read. -/
theorem sparesGen_commitVerify (s : State) (ps : List (Nat × Prediction)) (key : Nat) : SparesGen key s (commitVerify s ps key) := by
  cases hc : caseOf s key with
  | none =>
    rw [commitVerify, hc]
    exact .refl key s
  | some c =>
    cases hk : contractOf s c.hd.contract with
    | none =>
      rw [commitVerify, hc]
      dsimp only
      rw [hk]
      exact .refl key s
    | some k =>
      cases hd : modelOf s (genModelOf k.rcd c) with
      | none =>
        rw [commitVerify, hc]
        dsimp only
        rw [hk]
        dsimp only
        rw [hd]
        exact .refl key s
      | some d =>
        rw [commitVerify_of_case hc hk hd]
        obtain rfl := key_of_caseOf hc
        have hverified : SparesGen c.hd.key s (verified s k c d) :=
          ((sparesGen_verifyRan s k c d).trans (sparesGen_updGen _ _ _)).trans (sparesGen_addSats _ _ _)
        exact (hverified.trans (sparesGen_deliverFrom _ _ _)).trans (sparesGen_goOn _ k _ _ _)

theorem SparesGen.verifyFinds_eq {key : Nat} {s t : State} (h : SparesGen key s t) (k : Contract) (c : Case) (d : Model) :
    verifyFinds t k c d = verifyFinds s k c d := by
  rw [verifyFinds, verifyFinds, h.caseSeed_eq, verifyLogits, verifyLogits, h.genCtx_eq]

/-- What a case's pass would find is still there to be found. -/
structure Awaits (s u : State) (key : Nat) (c : Case) (k : Contract) (d : Model) : Prop where
  self : caseOf u key = some c
  contract : contractOf u c.hd.contract = some k
  model : modelOf u (genModelOf k.rcd c) = some d
  finds : verifyFinds u k c d = verifyFinds s k c d

theorem Awaits.sparesGen {s u v : State} {key j : Nat} {c : Case} {k : Contract} {d : Model} (h : Awaits s u key c k d)
    (hother : caseOf v key = caseOf u key) (hv : SparesGen j u v) : Awaits s v key c k d :=
  ⟨hother.trans h.self, (hv.contractOf_eq _).trans h.contract, (hv.modelOf_eq _).trans h.model, (hv.verifyFinds_eq k c d).trans h.finds⟩

/-- Each case of a pass commits what it would find alone. -/
theorem verifyPass_commits {s : State} {key : Nat} {c : Case} {k : Contract} {m : Cmd} {d : Model} (hc : caseOf s key = some c)
    (hk : contractOf s c.hd.contract = some k) (hcmd : cmdOf s m.id = some m) (hm : m.stage = 9) (hmay : mayCommit s m = true)
    (htime : OnTime s m) (hkeys : (cmdKeys m).Nodup) (hkey : key ∈ cmdKeys m) (hready : ∀ j ∈ cmdKeys m, readyToVerify s j = true)
    (hd : modelOf s (genModelOf k.rcd c) = some d) (ps : List (Nat × Prediction)) :
    ∃ t x, exec (.verifyPassCommit m.id ps none) s = .next t ∧ caseOf t key = some x ∧ Verified c (verifyFinds s k c d) x := by
  have hstart : Awaits s (retireCmd s m) key c k d :=
    (Awaits.mk hc hk hd rfl).sparesGen (caseOf_retires (retires_retireCmd htime) key) (sparesGen_retireCmd key htime)
  obtain ⟨x, hx, hverified⟩ : ∃ x, caseOf ((cmdKeys m).foldl (fun u j => commitVerify u ps j) (retireCmd s m)) key = some x ∧
      Verified c (verifyFinds s k c d) x := by
    refine foldl_around (P := fun u => Awaits s u key c k d)
      (Q := fun u => ∃ x, caseOf u key = some x ∧ Verified c (verifyFinds s k c d) x)
      (fun u j hj hu => ?_) (fun u hu => ?_) (fun u j hj ⟨x, hx, hverified⟩ => ?_) hkeys hkey hstart
    · have hspares := sparesGen_commitVerify u ps j
      exact hu.sparesGen (hspares.other key (Ne.symm hj)) hspares
    · have hcommits := commitVerify_commits hu.self hu.contract hu.model ps
      rwa [hu.finds] at hcommits
    · exact ⟨x, ((sparesGen_commitVerify u ps j).other key (Ne.symm hj)).trans hx, hverified⟩
  refine ⟨_, x, ?_, (caseOf_journaled s [m] _ key).trans hx, hverified⟩
  rw [exec_verifyPassCommit, execVerifyPassCommit, hcmd]
  dsimp only
  rw [if_pos ⟨hmay, List.all_eq_true.2 hready, hm⟩, commitUnder]

/-- Settles O31: prefill, a draft step and a pass each put what they find in the case; a token that stops the case ends its stage. -/
theorem casesGenerate : Obligations.CasesGenerate := by
  unfold Obligations.CasesGenerate
  intro s key c k hc hk
  refine ⟨fun m i h hi hmore => ?_, fun m d p h hprefill hfile hd htok hcount => ?_, fun m d h hdraft hd => ?_,
    fun m d ps hcmd hm hmay htime hkeys hkey hready hd => ?_⟩
  · subst hi
    obtain ⟨t, x, ht, hx, hchunks, hlen, hcache⟩ := fileChunk_goesOn h hmore rfl
    exact ⟨t, x, ht, hx, hchunks, hlen, fun d hd => (hcache d hd).trans hlen.symm⟩
  · have hexec := prefillCommit_of_running h hd hprefill hfile p
    by_cases hnone : genLimit k.rcd c = 0
    · obtain ⟨x, hx, ⟨hhd, hlen, hcache, hprobs, hverdict, hscore⟩, hdone⟩ := commitPrefill_classifies h hd hnone p
      exact ⟨_, x, hexec, hx, hhd, hlen, hcache, hprobs, hverdict, hscore, fun _ => hdone, fun hsome => absurd hnone hsome⟩
    · obtain ⟨x, hx, ⟨hhd, hlen, hcache, hprobs, hverdict, hscore⟩, htoks, hstop, hgoes⟩ :=
        commitPrefill_generates h hd hnone htok hcount p
      exact ⟨_, x, hexec, hx, hhd, hlen, hcache, hprobs, hverdict, hscore, fun hzero => absurd hzero hnone, fun _ =>
        ⟨htoks, hstop, fun hgo hleft hdecodes => goesOn_journaled s [m] (hgoes hgo hleft hdecodes)⟩⟩
  · obtain ⟨x, hx⟩ := propose_adds h d
    exact ⟨_, x, draftStep_of_running h hdraft hd, hx⟩
  · obtain ⟨t, x, ht, hx, hhd, hgen⟩ := verifyPass_commits hc hk hcmd hm hmay htime hkeys hkey hready hd ps
    refine ⟨t, x, ht, hx, hhd, ?_⟩
    rw [hgen]
    exact ⟨rfl, rfl, rfl, rfl, rfl, rfl⟩

end Sys2Proof.Machine
end

section
/-! PROOFS. What faults leave of memory: its granules, the injections that wait, its error counts and its retired frames (R266, R276,
R280, R286, R341). -/

namespace Sys2Proof.Machine

/-! ## Cells -/

/-- A fault leaves the granules, the injections that wait, the counts of uncorrectable errors, poison reads and retrains, and every
frame that is retired; spares, channels and self-refresh are what it may change. -/
structure KeepsCells (s t : State) : Prop where
  granules : t.mem.granules = s.mem.granules
  armed : t.mem.armed = s.mem.armed
  poisonReads : t.mem.poisonReads = s.mem.poisonReads
  retrainCount : t.mem.retrainCount = s.mem.retrainCount
  ue : ∀ x, (tierOf t x).ue = (tierOf s x).ue
  retired : ∀ x, (tierOf s x).retired ⊆ (tierOf t x).retired

theorem KeepsCells.refl (s : State) : KeepsCells s s := ⟨rfl, rfl, rfl, rfl, fun _ => rfl, fun _ => List.Subset.refl _⟩

theorem KeepsCells.trans {a b c : State} (h : KeepsCells a b) (k : KeepsCells b c) : KeepsCells a c where
  granules := k.granules.trans h.granules
  armed := k.armed.trans h.armed
  poisonReads := k.poisonReads.trans h.poisonReads
  retrainCount := k.retrainCount.trans h.retrainCount
  ue x := (k.ue x).trans (h.ue x)
  retired x := List.Subset.trans (h.retired x) (k.retired x)

theorem tierOf_of_mem {s t : State} (h : t.mem = s.mem) (x : Tier) : tierOf t x = tierOf s x := by
  cases x <;> rw [tierOf, tierOf, h]

theorem keepsCells_of_mem {s t : State} (h : t.mem = s.mem) : KeepsCells s t where
  granules := by rw [h]
  armed := by rw [h]
  poisonReads := by rw [h]
  retrainCount := by rw [h]
  ue x := by rw [tierOf_of_mem h]
  retired x := by rw [tierOf_of_mem h]; exact List.Subset.refl _

theorem mem_of_posts {s t : State} (h : Posts s t) : t.mem = s.mem := by rw [h.1]

theorem mem_of_onWire {s t : State} (h : OnWire s t) : t.mem = s.mem := by rw [h.1]

theorem mem_of_retires {s t : State} (h : Retires s t) : t.mem = s.mem := by rw [h.1]

theorem keepsCells_of_posts {s t : State} (h : Posts s t) : KeepsCells s t := keepsCells_of_mem (mem_of_posts h)

theorem keepsCells_of_retires {s t : State} (h : Retires s t) : KeepsCells s t := keepsCells_of_mem (mem_of_retires h)

theorem keepsCells_updTier (s : State) (x : Tier) {g : TierState → TierState} (hue : ∀ m, (g m).ue = m.ue)
    (hret : ∀ m, m.retired ⊆ (g m).retired) : KeepsCells s (updTier s x g) where
  granules := by cases x <;> rfl
  armed := by cases x <;> rfl
  poisonReads := by cases x <;> rfl
  retrainCount := by cases x <;> rfl
  ue y := by
    rcases eq_or_ne y x with rfl | hne
    · rw [tierOf_updTier, hue]
    · rw [tierOf_updTier_ne _ _ _ _ hne]
  retired y := by
    rcases eq_or_ne y x with rfl | hne
    · rw [tierOf_updTier]
      exact hret _
    · rw [tierOf_updTier_ne _ _ _ _ hne]
      exact List.Subset.refl _

/-- What comes after a change that is none of memory's. -/
theorem KeepsCells.after_mem {a b c : State} (k : KeepsCells b c) (h : b.mem = a.mem) : KeepsCells a c := (keepsCells_of_mem h).trans k

/-- What comes after a change of a tier that leaves its errors and its retired frames. -/
theorem KeepsCells.after_updTier {s t : State} {x : Tier} {g : TierState → TierState} (k : KeepsCells (updTier s x g) t)
    (hue : ∀ m, (g m).ue = m.ue) (hret : ∀ m, m.retired ⊆ (g m).retired) : KeepsCells s t := (keepsCells_updTier s x hue hret).trans k

theorem keepsCells_ite {s a b : State} {c : Prop} [Decidable c] (ha : KeepsCells s a) (hb : KeepsCells s b) :
    KeepsCells s (if c then a else b) := by
  split
  · exact ha
  · exact hb

theorem keepsCells_foldl {α : Type} {g : State → α → State} (hg : ∀ s a, KeepsCells s (g s a)) (l : List α) (s : State) :
    KeepsCells s (l.foldl g s) := by
  induction l generalizing s with
  | nil => exact KeepsCells.refl s
  | cons a l ih => exact (hg s a).trans (ih _)

/-! ## Cases and contracts that end -/

theorem keepsCells_endCase (s : State) (key : Nat) (st : Status) (stage : Nat) : KeepsCells s (endCase s key st stage) :=
  (keepsCells_of_retires (retires_dropCase s key)).trans (keepsCells_of_mem rfl)

theorem keepsCells_endCases (s : State) (p : Case → Bool) (st : Status) : KeepsCells s (endCases s p st) :=
  keepsCells_foldl (fun s _ => keepsCells_endCase s _ _ _) _ s

theorem keepsCells_revoke (s : State) (cause st : Status) (h : Nat) : KeepsCells s (revoke s cause st h) := by
  unfold revoke
  split
  · exact KeepsCells.refl s
  · split
    · exact KeepsCells.refl s
    · refine (keepsCells_endCases s (fun c => c.hd.contract == h) st).trans (keepsCells_of_mem ?_)
      dsimp only [unplace]
      rw [updSched_mem, mem_of_posts (posts_postEvent _ _ _ _), updTelem_mem, mem_of_posts (posts_record _ _ _), updContract_mem]
      dsimp only
      exact mem_of_onWire (onWire_releaseShards _ _)

theorem keepsCells_revokeAll (s : State) (p : Contract → Bool) (cause st : Status) : KeepsCells s (revokeAll s p cause st) :=
  keepsCells_foldl (fun s h => keepsCells_revoke s cause st h) _ s

/-! ## Into SAFE_HOLD (R348) -/

theorem setState_mem (s : State) (m : ModState) : (setState s m).mem = s.mem := by
  by_cases h : s.boot.state = m
  · rw [← h, setState_same]
  · rw [mem_of_posts (setState_changes s m h)]

theorem complete_mem (s : State) (id : Nat) (st : Status) (o : Nat) (r : List Byte) (b : Nat) : (complete s id st o r b).mem = s.mem := by
  rcases posts_complete s id st o r b with h | ⟨-, h⟩
  · exact (mem_of_posts h).trans rfl
  · rw [h]

theorem keepsCells_failMessages (s : State) : KeepsCells s (failMessages s) := by
  unfold failMessages
  refine KeepsCells.trans ?_ (keepsCells_foldl (fun s i => keepsCells_of_mem (complete_mem s i _ _ _ _)) _ _)
  exact keepsCells_of_mem (erases_abandonBg s _).mem

theorem keepsCells_selfRefresh (s : State) : KeepsCells s { s with mem := { s.mem with selfRefresh := true } } where
  granules := rfl
  armed := rfl
  poisonReads := rfl
  retrainCount := rfl
  ue x := by cases x <;> rfl
  retired x := by cases x <;> exact List.Subset.refl _

theorem keepsCells_takeHold (s : State) (cause unit : Nat) (injected : Bool) : KeepsCells s (takeHold s cause unit injected) := by
  unfold takeHold
  dsimp only
  refine KeepsCells.trans (KeepsCells.trans (keepsCells_of_mem ?_) (keepsCells_selfRefresh _))
    ((keepsCells_endCases _ _ _).trans (keepsCells_failMessages _))
  rw [gateAll, updPower_mem, mem_of_posts (posts_postFault _ _ _ _ _), setState_mem, mem_of_posts (posts_record _ _ _), updTelem_mem,
    updSafety_mem, mem_of_retires (retires_dropCmds _ _)]

theorem keepsCells_enterHold (s : State) (cause unit : Nat) (injected : Bool) : KeepsCells s (enterHold s cause unit injected) := by
  have hnoted : KeepsCells s (noteCause s cause unit) := keepsCells_of_mem rfl
  unfold enterHold
  split
  · exact KeepsCells.refl s
  · exact KeepsCells.refl s
  · exact KeepsCells.refl s
  · exact hnoted
  · split
    · exact hnoted
    · exact hnoted.trans (keepsCells_of_posts (posts_postFault _ _ _ _ _))
  · exact hnoted.trans (keepsCells_takeHold _ _ _ _)

/-! ## Units that are fenced (R287, R288, R341) -/

/-- The channel joins the failed ones of its tier, whose contents are lost. -/
def channelFailed (s : State) (t : Tier) (ch : Nat) : State :=
  updTier s t fun m =>
    { m with chFailed := if m.chFailed.contains ch then m.chFailed else m.chFailed ++ [ch], accepts := false,
             lost := true, retraining := none }

theorem keepsCells_channelFailed (s : State) (t : Tier) (ch : Nat) : KeepsCells s (channelFailed s t ch) :=
  keepsCells_updTier s t (fun _ => rfl) fun _ => List.Subset.refl _

theorem keepsCells_revokeLost (s : State) : KeepsCells s (revokeLost s) := keepsCells_revokeAll s _ _ _

theorem keepsCells_failChannel (s : State) (t : Tier) (ch cause : Nat) : KeepsCells s (failChannel s t ch cause) := by
  have hlost (a : State) : KeepsCells a (revokeLost (loseObjects (channelFailed a t ch) t)) :=
    (keepsCells_channelFailed a t ch).trans ((keepsCells_revokeLost (loseObjects _ t)).after_mem rfl)
  have hrecorded := (keepsCells_of_posts (posts_record s 0x1205 (leBytes 1 (tierNum t) ++ leBytes 1 ch ++ leBytes 1 cause))).trans (hlost _)
  cases t with
  | t1 => exact hrecorded.trans (keepsCells_enterHold _ _ _ _)
  | t2 => exact hrecorded

theorem keepsCells_fenceMemory (s : State) (u : UnitId) (cause : Nat) : KeepsCells s (fenceMemory s u cause) := by
  unfold fenceMemory
  split
  · exact keepsCells_foldl (fun s _ => keepsCells_failChannel s _ _ _) _ s
  · exact keepsCells_failChannel s _ _ _
  · exact keepsCells_failChannel s _ _ _
  · exact KeepsCells.refl s

theorem gateFenced_mem (s : State) (u : UnitId) : (gateFenced s u).mem = s.mem := by
  unfold gateFenced
  split <;> rfl

theorem wakeDie_mem (s : State) (g : Nat) : (wakeDie s g).mem = s.mem := by
  unfold wakeDie issueStep
  dsimp only
  (repeat' split) <;> rfl

theorem keepsCells_fenceBegun (s : State) (u : UnitId) (cause det : Nat) (injected : Bool) :
    KeepsCells s (fenceBegun s u cause det injected) := by
  unfold fenceBegun
  dsimp only
  generalize ha : recordUnit _ _ _ _ _ = a
  have hstart : KeepsCells s a := keepsCells_of_mem (by rw [← ha]; rfl)
  have hkilled : KeepsCells a (killOnUnit a u) := keepsCells_foldl (fun s c => keepsCells_of_retires (retires_readyAgain s c freshCmd)) _ a
  exact hstart.trans <| hkilled.trans <| (keepsCells_of_mem (gateFenced_mem _ u)).trans <|
    (keepsCells_of_posts (posts_postFault _ _ _ _ _)).trans (keepsCells_revokeAll _ _ _ _)

theorem keepsCells_fenceUnit (s : State) (u : UnitId) (cause det chan : Nat) (injected : Bool) :
    KeepsCells s (fenceUnit s u cause det chan injected) := by
  by_cases hold : s.safety.fences.contains u = true
  · rw [fenceUnit, if_pos hold]
    exact KeepsCells.refl s
  · have hsettled : KeepsCells s (settleState (fenceMemory (fenceBegun s u cause det injected) u chan)) :=
      ((keepsCells_fenceBegun s u cause det injected).trans (keepsCells_fenceMemory _ u chan)).trans
        (keepsCells_of_mem (erases_settleState _).mem)
    rw [fenceUnit_of_new (Bool.eq_false_of_not_eq_true hold)]
    split
    · exact hsettled.trans (keepsCells_foldl (fun s g => keepsCells_of_mem (wakeDie_mem s g)) _ _)
    · exact hsettled

/-! ## Poison (R266, R280) -/

/-- The frame joins the retired ones, and a spare takes its place. -/
def frameRetired (s : State) (t : Tier) (frame : Nat) : State :=
  updTier s t fun m => { m with retired := m.retired ++ [frame], spares := m.spares - 1 }

theorem keepsCells_frameRetired (s : State) (t : Tier) (frame : Nat) : KeepsCells s (frameRetired s t frame) :=
  keepsCells_updTier s t (fun _ => rfl) fun _ => List.subset_append_left _ _

/-- A tier can assign one page less, which leaves it `n`. -/
def pageLost (s : State) (t : Tier) (n : Nat) : State :=
  record (updTier s t fun m => { m with assignable := m.assignable - 1 }) 0x1206 (leBytes 1 (tierNum t) ++ leBytes 4 n)

theorem keepsCells_pageLost (s : State) (t : Tier) (n : Nat) : KeepsCells s (pageLost s t n) :=
  (keepsCells_of_posts (posts_record (updTier s t fun m => { m with assignable := m.assignable - 1 }) _ _)).after_updTier (fun _ => rfl)
    fun _ => List.Subset.refl _

/-- What pays for a frame that no spare replaces: the unassigned pages, partition 0, or a channel. -/
theorem keepsCells_retireFrame_of_new {s : State} {t : Tier} {frame : Nat} (h : (tierOf s t).retired.contains frame = false) :
    KeepsCells (frameRetired s t frame) (retireFrame s t frame) := by
  have hrecorded := keepsCells_of_posts (posts_record (frameRetired s t frame) 0x1202
    (leBytes 1 (tierNum t) ++ leBytes 4 frame ++ leBytes 4 ((tierOf s t).spares - 1)))
  have hlost := hrecorded.trans (keepsCells_pageLost _ t ((tierOf s t).assignable - 1))
  unfold retireFrame
  dsimp only
  rw [if_neg (by rw [h]; exact Bool.false_ne_true)]
  refine keepsCells_ite hrecorded (keepsCells_ite hlost (keepsCells_ite ?_ ?_))
  · exact hlost.trans ((keepsCells_of_posts (posts_postPartition _ _ _ _)).after_mem rfl)
  · exact hlost.trans (keepsCells_fenceUnit _ _ _ _ _ _)

theorem keepsCells_retireFrame (s : State) (t : Tier) (frame : Nat) :
    KeepsCells s (retireFrame s t frame) ∧ frame ∈ (tierOf (retireFrame s t frame) t).retired := by
  cases hold : (tierOf s t).retired.contains frame with
  | true =>
    have hsame : retireFrame s t frame = s := by
      unfold retireFrame
      exact if_pos hold
    rw [hsame]
    exact ⟨KeepsCells.refl s, List.contains_iff_mem.1 hold⟩
  | false =>
    have hkept := keepsCells_retireFrame_of_new hold
    refine ⟨(keepsCells_frameRetired s t frame).trans hkept, hkept.retired t ?_⟩
    rw [frameRetired, tierOf_updTier]
    exact List.mem_append_right _ (List.mem_singleton_self frame)

theorem keepsCells_revokeNaming (s : State) (i : Nat) : KeepsCells s (revokeNaming s i) := keepsCells_revokeAll s _ _ _

theorem keepsCells_poisonOwner (s : State) (u : FrameUse) : KeepsCells s (poisonOwner s u) := by
  unfold poisonOwner
  split
  · exact (keepsCells_revokeNaming _ _).after_mem rfl
  · exact (keepsCells_revokeNaming _ _).after_mem rfl
  · exact (keepsCells_revokeNaming _ _).after_mem rfl
  · exact (keepsCells_revokeNaming _ _).after_mem rfl
  · exact keepsCells_of_mem rfl
  · split
    · exact keepsCells_endCase s _ _ _
    · exact KeepsCells.refl s
  · exact KeepsCells.refl s
  · exact KeepsCells.refl s

/-- A poison read retires its frame. -/
theorem keepsCells_poisonRead (s : State) (d : DramRead) :
    KeepsCells s (poisonRead s d) ∧ d.frame ∈ (tierOf (poisonRead s d) d.tier).retired := by
  unfold poisonRead
  dsimp only
  generalize ha : record s 0x1201 _ = a
  have hrecorded : KeepsCells s a := keepsCells_of_posts (ha ▸ posts_record s _ _)
  obtain ⟨hretired, hin⟩ := keepsCells_retireFrame a d.tier d.frame
  have howner := keepsCells_poisonOwner (retireFrame a d.tier d.frame) d.use
  exact ⟨(hrecorded.trans hretired).trans howner, howner.retired _ hin⟩

theorem keepsCells_dramRecord (s : State) (d : DramRead) (sym outcome : Nat) (injected : Bool) :
    KeepsCells s (dramRecord s d sym outcome injected) := keepsCells_of_posts (posts_recordAs _ _ _ _ _ _ _)

/-- The sixteenth error of a channel fails it (R286). -/
theorem keepsCells_countChUe (s : State) (t : Tier) (ch : Nat) : KeepsCells s (countChUe s t ch) := by
  have hcounted : KeepsCells s (updTier s t fun m => { m with chUe := modifyAt m.chUe ch (· + 1) }) :=
    keepsCells_updTier s t (fun _ => rfl) fun _ => List.Subset.refl _
  unfold countChUe
  dsimp only
  split
  · exact hcounted.trans (keepsCells_fenceUnit _ _ _ _ _ _)
  · exact hcounted

end Sys2Proof.Machine
end

section
/-! PROOFS. Memory: granules and patrol scrub, retrains and failed channels, ATS invalidations and completion timeouts (R271, R272,
R275 to R277, R280, R282, R286, R390). -/

namespace Sys2Proof.Machine

/-! ## A tier -/

theorem updTier_congr {s : State} {t : Tier} {g h : TierState → TierState} (hgh : g (tierOf s t) = h (tierOf s t)) :
    updTier s t g = updTier s t h := by
  cases t with
  | t1 => exact congrArg (fun m => { s with mem := { s.mem with t1 := m } }) hgh
  | t2 => exact congrArg (fun m => { s with mem := { s.mem with t2 := m } }) hgh

theorem updTier_of_fixed {s : State} {t : Tier} {g : TierState → TierState} (hg : g (tierOf s t) = tierOf s t) : updTier s t g = s :=
  (updTier_congr (h := id) hg).trans (by cases t <;> rfl)

theorem updTier_updTier (s : State) (t : Tier) (g h : TierState → TierState) :
    updTier (updTier s t g) t h = updTier s t fun m => h (g m) := by
  cases t <;> rfl

theorem updTier_frame (s : State) (t : Tier) (g : TierState → TierState) : updTier s t g = { s with mem := (updTier s t g).mem } := by
  cases t <;> rfl

theorem armed_updTier (s : State) (t : Tier) (g : TierState → TierState) : (updTier s t g).mem.armed = s.mem.armed := by
  cases t <;> rfl

/-! ## Granules (R276) -/

theorem granuleSyn_of_granules {s t : State} (h : t.mem.granules = s.mem.granules) (x : Tier) (f g : Nat) :
    granuleSyn t x f g = granuleSyn s x f g := by
  rw [granuleSyn, granuleSyn, h]

theorem granuleSyn_updTier (s : State) (t : Tier) (u : TierState → TierState) (x : Tier) (f g : Nat) :
    granuleSyn (updTier s t u) x f g = granuleSyn s x f g :=
  granuleSyn_of_granules (by cases t <;> rfl) x f g

/-- The record of one granule of a tier. -/
def isGranule (x : Tier) (f g : Nat) (r : GranuleRec) : Bool := decide (r.tier = x ∧ r.frame = f ∧ r.granule = g)

theorem granuleSyn_eq (s : State) (x : Tier) (f g : Nat) :
    granuleSyn s x f g = (s.mem.granules.find? (isGranule x f g)).elim { s0 := 0, s1 := 0 } GranuleRec.syn := by
  rw [granuleSyn]
  unfold isGranule
  split <;> rename_i h <;> rw [h] <;> rfl

theorem granules_setSyn (s : State) (x : Tier) (f g : Nat) (y : Syndrome) :
    (setSyn s x f g y).mem.granules = (s.mem.granules.filter fun r => !isGranule x f g r) ++
      if y = { s0 := 0, s1 := 0 } then [] else [{ tier := x, frame := f, granule := g, syn := y }] := by
  rw [setSyn]
  dsimp only
  split
  · exact (List.append_nil _).symm
  · rfl

/-- A granule holds what was written last. -/
theorem granuleSyn_setSyn_self (s : State) (x : Tier) (f g : Nat) (y : Syndrome) : granuleSyn (setSyn s x f g y) x f g = y := by
  have hrest : (s.mem.granules.filter fun r => !isGranule x f g r).find? (isGranule x f g) = none :=
    List.find?_eq_none.2 fun r hr hg => by simp [hg] at hr
  rw [granuleSyn_eq, granules_setSyn, List.find?_append, hrest, Option.none_or]
  split
  · rename_i hy
    exact hy.symm
  · have hnew : isGranule x f g { tier := x, frame := f, granule := g, syn := y } = true := decide_eq_true ⟨rfl, rfl, rfl⟩
    rw [List.find?_cons_of_pos hnew]
    rfl

/-- A write leaves the tier's other granules. -/
theorem granuleSyn_setSyn_of_ne (s : State) (x : Tier) {f g f' g' : Nat} (h : ¬ (f' = f ∧ g' = g)) (y : Syndrome) :
    granuleSyn (setSyn s x f' g' y) x f g = granuleSyn s x f g := by
  have hrest : (s.mem.granules.filter fun r => !isGranule x f' g' r).find? (isGranule x f g) = s.mem.granules.find? (isGranule x f g) := by
    rw [List.find?_filter]
    refine congrArg (s.mem.granules.find? ·) (funext fun r =>
      Bool.eq_iff_iff.2 (decide_eq_true_iff.trans ⟨And.right, fun hr => ⟨?_, hr⟩⟩))
    obtain ⟨-, hframe, hgranule⟩ := of_decide_eq_true hr
    rw [isGranule, decide_eq_false fun ⟨_, hframe', hgranule'⟩ => h ⟨hframe'.symm.trans hframe, hgranule'.symm.trans hgranule⟩]
    rfl
  have hnew : (if y = { s0 := 0, s1 := 0 } then [] else [({ tier := x, frame := f', granule := g', syn := y } : GranuleRec)]).find?
      (isGranule x f g) = none := by
    split
    · rfl
    · exact List.find?_cons_of_neg (by simpa [isGranule] using h)
  rw [granuleSyn_eq, granuleSyn_eq, granules_setSyn, List.find?_append, hnew, Option.or_none, hrest]

/-! ## The correction queue (R277) -/

/-- One queued granule is written back, where it still holds an error that can be corrected. -/
def writeBack (t : Tier) (s : State) (e : Nat × Nat × Nat) : State :=
  match eccDecode (granuleSyn s t e.2.1 e.2.2) with
  | .corrected _ => setSyn s t e.2.1 e.2.2 { s0 := 0, s1 := 0 }
  | _ => s

theorem drainQueue_eq (s : State) (t : Tier) :
    drainQueue s t = updTier ((tierOf s t).queues.foldl (writeBack t) s) t fun m => { m with queues := [] } := rfl

/-- Only granules have changed. -/
def WritesGranules (s t : State) : Prop := t = { s with mem := { s.mem with granules := t.mem.granules } }

theorem WritesGranules.trans {a b c : State} (h : WritesGranules a b) (k : WritesGranules b c) : WritesGranules a c := by
  rw [WritesGranules] at h k ⊢
  rw [k, h]

theorem writesGranules_writeBack (t : Tier) (s : State) (e : Nat × Nat × Nat) : WritesGranules s (writeBack t s e) := by
  unfold writeBack
  split <;> rfl

theorem writesGranules_writeBacks (t : Tier) (l : List (Nat × Nat × Nat)) (s : State) : WritesGranules s (l.foldl (writeBack t) s) := by
  induction l generalizing s with
  | nil => rfl
  | cons e l ih => exact (writesGranules_writeBack t s e).trans (ih _)

theorem granuleSyn_writeBack_of_ne (s : State) {t : Tier} {e : Nat × Nat × Nat} {f g : Nat} (h : ¬ (e.2.1 = f ∧ e.2.2 = g)) :
    granuleSyn (writeBack t s e) t f g = granuleSyn s t f g := by
  unfold writeBack
  split
  · exact granuleSyn_setSyn_of_ne s t h _
  · rfl

theorem writeBack_of_corrected {s : State} {t : Tier} {e : Nat × Nat × Nat} {p : Nat}
    (h : eccDecode (granuleSyn s t e.2.1 e.2.2) = .corrected p) : granuleSyn (writeBack t s e) t e.2.1 e.2.2 = { s0 := 0, s1 := 0 } := by
  rw [writeBack, h]
  exact granuleSyn_setSyn_self s t _ _ _

/-- A clean granule stays clean. -/
theorem writeBack_of_clean {s : State} {t : Tier} {f g : Nat} (h : granuleSyn s t f g = { s0 := 0, s1 := 0 }) (e : Nat × Nat × Nat) :
    granuleSyn (writeBack t s e) t f g = { s0 := 0, s1 := 0 } := by
  by_cases he : e.2.1 = f ∧ e.2.2 = g
  · obtain ⟨rfl, rfl⟩ := he
    rw [writeBack, h]
    exact h
  · rw [granuleSyn_writeBack_of_ne s he, h]

theorem writeBacks_of_clean {t : Tier} {f g : Nat} (l : List (Nat × Nat × Nat)) {s : State}
    (h : granuleSyn s t f g = { s0 := 0, s1 := 0 }) : granuleSyn (l.foldl (writeBack t) s) t f g = { s0 := 0, s1 := 0 } := by
  induction l generalizing s with
  | nil => exact h
  | cons e l ih => exact ih (writeBack_of_clean h e)

/-- A queued granule is clean once the queue is drained: none before it in the queue took its error away but by writing it back. -/
theorem writeBacks_clean {t : Tier} {l : List (Nat × Nat × Nat)} {s : State} {e : Nat × Nat × Nat} (he : e ∈ l) {p : Nat}
    (h : eccDecode (granuleSyn s t e.2.1 e.2.2) = .corrected p) :
    granuleSyn (l.foldl (writeBack t) s) t e.2.1 e.2.2 = { s0 := 0, s1 := 0 } := by
  induction l generalizing s with
  | nil => cases he
  | cons a l ih =>
    by_cases ha : a.2.1 = e.2.1 ∧ a.2.2 = e.2.2
    · obtain ⟨hframe, hgranule⟩ := ha
      refine writeBacks_of_clean l ?_
      rw [← hframe, ← hgranule] at h ⊢
      exact writeBack_of_corrected h
    · rcases List.mem_cons.1 he with rfl | hmem
      · exact absurd ⟨rfl, rfl⟩ ha
      · exact ih hmem (by rw [granuleSyn_writeBack_of_ne s ha]; exact h)

/-! ## A tick of patrol scrub (R277, R282, R283) -/

/-- The state in which a tick has drained the queue and its time is charged to partition 0 (R140). -/
def queueDrained (s : State) (t : Tier) : State :=
  addHeld (drainQueue s t) 0 3 [({ kind := 13, idx := 0 }, 15 * Config.scrubCycles s.tclk)]

/-- A drain changes the granules, the tier's queue and the scheduler's accounts. -/
theorem queueDrained_frame (s : State) (t : Tier) :
    tierOf (queueDrained s t) t = { tierOf s t with queues := [] } ∧ (queueDrained s t).mem.armed = s.mem.armed ∧
      (queueDrained s t).ident = s.ident ∧ (queueDrained s t).tclk = s.tclk := by
  have hwritten := writesGranules_writeBacks t (tierOf s t).queues s
  rw [queueDrained, drainQueue_eq, hwritten]
  cases t <;> exact ⟨rfl, rfl, rfl, rfl⟩

theorem granuleSyn_queueDrained {s : State} {t : Tier} {e : Nat × Nat × Nat} (he : e ∈ (tierOf s t).queues) {p : Nat}
    (h : eccDecode (granuleSyn s t e.2.1 e.2.2) = .corrected p) : granuleSyn (queueDrained s t) t e.2.1 e.2.2 = { s0 := 0, s1 := 0 } :=
  (granuleSyn_of_granules (by cases t <;> rfl) t e.2.1 e.2.2).trans (writeBacks_clean he h)

/-- An empty queue leaves memory as it is. -/
theorem queueDrained_mem {s : State} {t : Tier} (h : (tierOf s t).queues = []) : (queueDrained s t).mem = s.mem := by
  have hsame : updTier s t (fun m => { m with queues := [] }) = s := updTier_of_fixed (by rw [← h])
  rw [queueDrained, drainQueue_eq, h, List.foldl_nil, hsame]
  rfl

/-- Where the pass of a tier stands after one granule more of every channel: `n` is the length of a pass. -/
def passMoved (n now : Nat) (m : TierState) : TierState :=
  if !m.scrubbing then m
  else if m.scrubPos + 1 < n then { m with scrubPos := m.scrubPos + 1 }
  else { m with scrubPasses := m.scrubPasses + 1, scrubLast := now, scrubPos := 0, scrubbing := m.scrubDue, scrubDue := false }

theorem passMoved_of_left {n now : Nat} {m : TierState} (hs : m.scrubbing = true) (hn : m.scrubPos + 1 < n) :
    passMoved n now m = { m with scrubPos := m.scrubPos + 1 } := by
  rw [passMoved, if_neg (by rw [hs]; exact Bool.false_ne_true), if_pos hn]

theorem passMoved_of_end {n now : Nat} {m : TierState} (hs : m.scrubbing = true) (hn : n ≤ m.scrubPos + 1) :
    passMoved n now m =
      { m with scrubPasses := m.scrubPasses + 1, scrubLast := now, scrubPos := 0, scrubbing := m.scrubDue, scrubDue := false } := by
  rw [passMoved, if_neg (by rw [hs]; exact Bool.false_ne_true), if_neg (Nat.not_lt.2 hn)]

theorem advanceScrub_eq (s : State) (t : Tier) : advanceScrub s t = updTier s t (passMoved (passLength s t) s.tclk) := by
  unfold advanceScrub
  dsimp only
  split
  · rename_i hidle
    exact (updTier_of_fixed (by rw [passMoved, if_pos hidle])).symm
  · rename_i hscrubs
    split
    · rename_i hleft
      exact updTier_congr (by rw [passMoved, if_neg hscrubs, if_pos hleft])
    · rename_i hend
      split
      · rename_i hdue
        rw [startPass, updTier_updTier]
        exact updTier_congr (by rw [passMoved, if_neg hscrubs, if_neg hend, hdue])
      · rename_i hnone
        refine updTier_congr ?_
        rw [passMoved, if_neg hscrubs, if_neg hend, Bool.eq_false_of_not_eq_true hnone]

theorem passMoved_frame (n now : Nat) (m : TierState) :
    passMoved n now m = { m with
      scrubPos := (passMoved n now m).scrubPos, scrubbing := (passMoved n now m).scrubbing, scrubDue := (passMoved n now m).scrubDue,
      scrubPasses := (passMoved n now m).scrubPasses, scrubLast := (passMoved n now m).scrubLast } := by
  unfold passMoved
  (repeat' split) <;> rfl

theorem tierOf_advanceScrub (s : State) (t : Tier) :
    tierOf (advanceScrub s t) t = passMoved (passLength s t) s.tclk (tierOf s t) := by
  rw [advanceScrub_eq, tierOf_updTier]

theorem keepsCells_advanceScrub (s : State) (t : Tier) : KeepsCells s (advanceScrub s t) := by
  rw [advanceScrub_eq]
  exact keepsCells_updTier s t (fun m => by rw [passMoved_frame]) fun m => by rw [passMoved_frame]; exact List.Subset.refl _

theorem patrolScrubTick_idle {s : State} {t : Tier} (h : scrubRuns s t = false) (rs : List DramRead) :
    exec (.patrolScrubTick t rs) s = .next s := by
  rw [exec_patrolScrubTick, execPatrolScrubTick, if_pos (by rw [h]; rfl)]

theorem patrolScrubTick_of_runs {s : State} {t : Tier} (h : scrubRuns s t = true) (rs : List DramRead) :
    exec (.patrolScrubTick t rs) s = .next (advanceScrub (
      if (tierOf (queueDrained s t) t).scrubbing then
        scrubArmed ((rs.filter fun d => decide (d.tier = t)).foldl (fun s d => dramRead s d false) (queueDrained s t)) t
      else queueDrained s t) t) := by
  rw [exec_patrolScrubTick, execPatrolScrubTick, if_neg (by rw [h]; exact Bool.false_ne_true)]
  rfl

/-! ## Reads that meet no injection (R275, R276) -/

/-- No injection waits on a tier. -/
def Unarmed (s : State) (t : Tier) : Prop := ∀ e ∈ s.mem.armed, e.1 ≠ t

theorem Unarmed.of_armed {s u : State} {t : Tier} (h : Unarmed s t) (hu : u.mem.armed = s.mem.armed) : Unarmed u t := by
  rw [Unarmed, hu]
  exact h

theorem Unarmed.scrubArmed_eq {s : State} {t : Tier} (h : Unarmed s t) : scrubArmed s t = s := by
  have hnone : (s.mem.armed.filter fun e => decide (e.1 = t)) = [] :=
    List.filter_eq_nil_iff.2 fun e he => by simpa using h e he
  rw [scrubArmed, hnone]
  rfl

theorem Unarmed.armedOn_eq {s : State} {t : Tier} (h : Unarmed s t) (ch : Nat) : armedOn s t ch = none := by
  rw [armedOn, Option.map_eq_none_iff]
  exact List.find?_eq_none.2 fun e he => by simp [h e he]

theorem Unarmed.disarm_eq {s : State} {t : Tier} (h : Unarmed s t) (ch : Nat) : disarm s t ch = s := by
  have hnone : (s.mem.armed.eraseP fun e => decide (e.1 = t) && e.2.1 == ch) = s.mem.armed :=
    List.eraseP_of_forall_not fun e he => by simp [h e he]
  rw [disarm, hnone]

/-- A tick without reads drains the queue and moves on. -/
theorem patrolScrubTick_nil {s : State} {t : Tier} (h : scrubRuns s t = true) (hu : Unarmed s t) :
    exec (.patrolScrubTick t []) s = .next (advanceScrub (queueDrained s t) t) := by
  obtain ⟨-, harmed, -, -⟩ := queueDrained_frame s t
  rw [patrolScrubTick_of_runs h, List.filter_nil, List.foldl_nil, (hu.of_armed harmed).scrubArmed_eq, ite_self]

theorem passLength_of_ident {s u : State} (h : u.ident = s.ident) (t : Tier) : passLength u t = passLength s t := by
  unfold passLength
  rw [h]

theorem tick_drains {s : State} {t : Tier} (h : scrubRuns s t = true) (hu : Unarmed s t) :
    ∃ u, exec (.patrolScrubTick t []) s = .next u ∧ (tierOf u t).queues = [] ∧
      (∀ e ∈ (tierOf s t).queues, ∀ p, eccDecode (granuleSyn s t e.2.1 e.2.2) = .corrected p →
        granuleSyn u t e.2.1 e.2.2 = { s0 := 0, s1 := 0 }) ∧
      tierOf u t = passMoved (passLength s t) s.tclk { tierOf s t with queues := [] } := by
  obtain ⟨htier, -, hident, htclk⟩ := queueDrained_frame s t
  have hmoved : tierOf (advanceScrub (queueDrained s t) t) t = passMoved (passLength s t) s.tclk { tierOf s t with queues := [] } := by
    rw [tierOf_advanceScrub, htier, passLength_of_ident hident, htclk]
  refine ⟨_, patrolScrubTick_nil h hu, ?_, fun e he p hp => ?_, hmoved⟩
  · rw [hmoved, passMoved_frame]
  · rw [granuleSyn_of_granules (keepsCells_advanceScrub (queueDrained s t) t).granules]
    exact granuleSyn_queueDrained he hp

/-! ## What a read of the scrub finds (R276, R277, R280) -/

theorem readResult_of_mem {s u : State} (h : u.mem = s.mem) (d : DramRead) : readResult u d = readResult s d := by
  rw [readResult, readResult, armedOn, armedOn, granuleSyn_of_granules (congrArg Memory.granules h), h]

/-- A tick with one read of a running pass, over an empty queue. -/
theorem patrolScrubTick_one {s : State} {d : DramRead} (h : scrubRuns s d.tier = true) (hs : (tierOf s d.tier).scrubbing = true)
    (hu : Unarmed (dramRead (queueDrained s d.tier) d false) d.tier) :
    exec (.patrolScrubTick d.tier [d]) s = .next (advanceScrub (dramRead (queueDrained s d.tier) d false) d.tier) := by
  obtain ⟨htier, -, -, -⟩ := queueDrained_frame s d.tier
  have hscrubs : (tierOf (queueDrained s d.tier) d.tier).scrubbing = true := by
    rw [htier]
    exact hs
  have honly : [d].filter (fun x => decide (x.tier = d.tier)) = [d] := List.filter_eq_self.2 fun x hx => by
    rw [List.mem_singleton.1 hx]
    exact decide_eq_true rfl
  rw [patrolScrubTick_of_runs h, if_pos hscrubs, honly, List.foldl_cons, List.foldl_nil, hu.scrubArmed_eq]

theorem tierOf_setSyn (s : State) (x y : Tier) (f g : Nat) (v : Syndrome) : tierOf (setSyn s x f g v) y = tierOf s y := by
  cases y <;> rfl

/-- An empty queue takes an address (R277). -/
theorem queueCorrection_of_empty {s : State} {t : Tier} (h : (tierOf s t).queues = []) (ch f g : Nat) :
    queueCorrection s t ch f g = updTier s t fun m => { m with queues := m.queues ++ [(ch, f, g)] } := by
  have hroom : ((tierOf s t).queues.filter fun e => e.1 == ch).length < 64 := by
    rw [h]
    exact Nat.zero_lt_succ 63
  rw [queueCorrection, if_pos hroom]

section
variable {s : State} {d : DramRead} (hu : Unarmed s d.tier)
include hu

/-- A corrected read is written, counted and queued. -/
theorem dramRead_of_corrected {p : Nat} (hr : readResult s d = .corrected p) (hq : (tierOf s d.tier).queues = []) :
    dramRead s d false = updTier (setSyn s d.tier d.frame d.granule (addSyn (granuleSyn s d.tier d.frame d.granule) d.syn)) d.tier
      fun m => { m with ce := m.ce + 1, queues := m.queues ++ [(granuleChannel d.frame d.granule, d.frame, d.granule)] } := by
  have hempty (a : Syndrome) :
      (tierOf (updTier (setSyn s d.tier d.frame d.granule a) d.tier fun m => { m with ce := m.ce + 1 }) d.tier).queues = [] := by
    rw [tierOf_updTier, tierOf_setSyn]
    exact hq
  unfold dramRead
  dsimp only
  rw [hr, hu.disarm_eq, hu.armedOn_eq]
  dsimp only
  rw [Option.isSome_none, Bool.or_false, if_neg Bool.false_ne_true, queueCorrection_of_empty (hempty _), updTier_updTier]

/-- An uncorrectable read is written as poison and counted; its frame is retired. -/
theorem dramRead_of_uncorrectable (hr : readResult s d = .uncorrectable) :
    KeepsCells (updTier (setSyn s d.tier d.frame d.granule poisonMask) d.tier fun m => { m with ue := m.ue + 1 }) (dramRead s d false) ∧
      d.frame ∈ (tierOf (dramRead s d false) d.tier).retired := by
  unfold dramRead
  dsimp only
  rw [hr, hu.disarm_eq]
  dsimp only
  obtain ⟨hpoison, hretired⟩ := keepsCells_poisonRead (countChUe (dramRecord
    (updTier (setSyn s d.tier d.frame d.granule poisonMask) d.tier fun m => { m with ue := m.ue + 1 })
    d 0xFF 2 (false || (armedOn s d.tier (granuleChannel d.frame d.granule)).isSome)) d.tier (granuleChannel d.frame d.granule)) d
  exact ⟨((keepsCells_dramRecord _ _ _ _ _).trans (keepsCells_countChUe _ _ _)).trans hpoison, hretired⟩

/-- A poisoned read is counted apart from the errors; its frame is retired. -/
theorem dramRead_of_poisoned (hr : readResult s d = .poisoned) :
    KeepsCells { s with mem := { s.mem with poisonReads := s.mem.poisonReads + 1 } } (dramRead s d false) ∧
      d.frame ∈ (tierOf (dramRead s d false) d.tier).retired := by
  unfold dramRead
  dsimp only
  rw [hr, hu.disarm_eq]
  dsimp only
  obtain ⟨hpoison, hretired⟩ := keepsCells_poisonRead (dramRecord { s with mem := { s.mem with poisonReads := s.mem.poisonReads + 1 } }
    d 0xFF 3 (false || (armedOn s d.tier (granuleChannel d.frame d.granule)).isSome)) d
  exact ⟨(keepsCells_dramRecord _ _ _ _ _).trans hpoison, hretired⟩

end

/-! ## A tick that reads -/

section
variable {s : State} {d : DramRead} (h : scrubRuns s d.tier = true) (hu : Unarmed s d.tier)
  (hs : (tierOf s d.tier).scrubbing = true) (hq : (tierOf s d.tier).queues = [])
include h hu hs hq

theorem tick_corrects {p : Nat} (hr : readResult s d = .corrected p) :
    ∃ u, exec (.patrolScrubTick d.tier [d]) s = .next u ∧ (tierOf u d.tier).ce = (tierOf s d.tier).ce + 1 ∧
      (tierOf u d.tier).queues = [(granuleChannel d.frame d.granule, d.frame, d.granule)] ∧
      granuleSyn u d.tier d.frame d.granule = addSyn (granuleSyn s d.tier d.frame d.granule) d.syn := by
  have hmem := queueDrained_mem hq
  have htier := tierOf_of_mem hmem d.tier
  have hua := hu.of_armed (congrArg Memory.armed hmem)
  have hread := dramRead_of_corrected hua ((readResult_of_mem hmem d).trans hr) (by rw [htier, hq])
  have hsyn := granuleSyn_of_granules (congrArg Memory.granules hmem) d.tier d.frame d.granule
  have hkept := keepsCells_advanceScrub (dramRead (queueDrained s d.tier) d false) d.tier
  refine ⟨_, patrolScrubTick_one h hs (hua.of_armed ?_), ?_, ?_, ?_⟩
  · rw [hread, armed_updTier]
    rfl
  · rw [tierOf_advanceScrub, passMoved_frame, hread, tierOf_updTier, tierOf_setSyn, htier]
  · rw [tierOf_advanceScrub, passMoved_frame, hread, tierOf_updTier, tierOf_setSyn, htier, hq]
    rfl
  · rw [granuleSyn_of_granules hkept.granules, hread, granuleSyn_updTier, granuleSyn_setSyn_self, hsyn]

theorem tick_poisons (hr : readResult s d = .uncorrectable) :
    ∃ u, exec (.patrolScrubTick d.tier [d]) s = .next u ∧ (tierOf u d.tier).ue = (tierOf s d.tier).ue + 1 ∧
      d.frame ∈ (tierOf u d.tier).retired ∧ granuleSyn u d.tier d.frame d.granule = poisonMask := by
  have hmem := queueDrained_mem hq
  have hua := hu.of_armed (congrArg Memory.armed hmem)
  obtain ⟨hread, hretired⟩ := dramRead_of_uncorrectable hua ((readResult_of_mem hmem d).trans hr)
  have hmoved := keepsCells_advanceScrub (dramRead (queueDrained s d.tier) d false) d.tier
  have hkept := hread.trans hmoved
  refine ⟨_, patrolScrubTick_one h hs (hua.of_armed (hread.armed.trans (armed_updTier _ _ _))), ?_, hmoved.retired _ hretired, ?_⟩
  · rw [hkept.ue, tierOf_updTier, tierOf_setSyn, tierOf_of_mem hmem]
  · rw [granuleSyn_of_granules hkept.granules, granuleSyn_updTier, granuleSyn_setSyn_self]

theorem tick_meets_poison (hr : readResult s d = .poisoned) :
    ∃ u, exec (.patrolScrubTick d.tier [d]) s = .next u ∧ u.mem.poisonReads = s.mem.poisonReads + 1 ∧
      d.frame ∈ (tierOf u d.tier).retired ∧ (tierOf u d.tier).ue = (tierOf s d.tier).ue := by
  have hmem := queueDrained_mem hq
  have hua := hu.of_armed (congrArg Memory.armed hmem)
  obtain ⟨hread, hretired⟩ := dramRead_of_poisoned hua ((readResult_of_mem hmem d).trans hr)
  have hmoved := keepsCells_advanceScrub (dramRead (queueDrained s d.tier) d false) d.tier
  have hkept := hread.trans hmoved
  refine ⟨_, patrolScrubTick_one h hs (hua.of_armed hread.armed), ?_, hmoved.retired _ hretired, ?_⟩
  · rw [hkept.poisonReads, hmem]
  · rw [hkept.ue, ← tierOf_of_mem hmem d.tier]
    cases d.tier <;> rfl

end

/-! ## The start of a pass (R282) -/

theorem passStart_starts {s : State} {t : Tier} (hrun : runState s.boot.state = true) (hidle : (tierOf s t).scrubbing = false) :
    ∃ u, exec (.scrubPassStart t) s = .next u ∧ u = { s with mem := u.mem } ∧ (tierOf u t).scrubbing = true ∧
      (tierOf u t).scrubPos = 0 ∧ (tierOf u t).scrubDue = false := by
  have hnone : ¬ (s.boot.state = .safeHold ∨ (runState s.boot.state = true ∧ (tierOf s t).scrubbing = true)) := by
    rintro (hhold | ⟨-, hscrubs⟩)
    · rw [hhold] at hrun
      exact Bool.false_ne_true hrun
    · rw [hidle] at hscrubs
      exact Bool.false_ne_true hscrubs
  refine ⟨startPass s t, ?_, updTier_frame _ _ _, ?_⟩
  · rw [exec_scrubPassStart, execScrubPassStart, if_neg hnone, if_pos hrun]
  · rw [startPass, tierOf_updTier]
    exact ⟨rfl, rfl, rfl⟩

theorem passStart_falls_due {s : State} {t : Tier}
    (h : s.boot.state = .safeHold ∨ (runState s.boot.state = true ∧ (tierOf s t).scrubbing = true)) :
    ∃ u, exec (.scrubPassStart t) s = .next u ∧ u = { s with mem := u.mem } ∧ (tierOf u t).scrubDue = true ∧
      (tierOf u t).scrubbing = (tierOf s t).scrubbing := by
  refine ⟨_, by rw [exec_scrubPassStart, execScrubPassStart, if_pos h], updTier_frame _ _ _, ?_⟩
  rw [tierOf_updTier]
  exact ⟨rfl, rfl⟩

/-! ## Fences that stand (R341) -/

theorem fences_of_inHold {s : State} {fs : List UnitId} (h : (watched s).InHold fs) : s.safety.fences = fs := by
  obtain ⟨-, -, hfences⟩ := h
  exact hfences

/-- No entry into SAFE_HOLD takes a fence away. -/
theorem enterHold_fences (s : State) (cause unit : Nat) (injected : Bool) :
    (enterHold s cause unit injected).safety.fences = s.safety.fences := by
  have hnoted : watched (noteCause s cause unit) = watched s := watched_noteCause s cause unit
  have hnotedFences : (noteCause s cause unit).safety.fences = s.safety.fences := congrArg Watched.fences hnoted
  unfold enterHold
  split
  · rfl
  · rfl
  · rfl
  · exact hnotedFences
  · split
    · exact hnotedFences
    · exact (congrArg Watched.fences (watched_postFault _ _ _ _ _)).trans hnotedFences
  · rename_i hstate
    have hheld := inHold_takeHold (s := noteCause s cause unit) cause unit injected
      (by rw [show (noteCause s cause unit).boot.state = s.boot.state from congrArg Watched.state hnoted]; exact hstate)
    exact (fences_of_inHold hheld).trans hnotedFences

theorem enterHold_fences_of_eq {v s : State} (hv : watched v = watched s) (cause unit : Nat) (injected : Bool) :
    (enterHold v cause unit injected).safety.fences = s.safety.fences :=
  (enterHold_fences v cause unit injected).trans (congrArg Watched.fences hv)

theorem failChannel_t1_fences (s : State) (ch cause : Nat) : (failChannel s .t1 ch cause).safety.fences = s.safety.fences :=
  enterHold_fences_of_eq (by simp) _ _ _

/-- A new fence stands beside the others, whatever its memory effect does to the module's state. -/
theorem fenceUnit_fences {s : State} {u : UnitId} (hu : s.safety.fences.contains u = false) (cause det chan : Nat) (injected : Bool) :
    (fenceUnit s u cause det chan injected).safety.fences = s.safety.fences ++ [u] := by
  by_cases hkind : u.kind = 8
  · have hbegun : (fenceBegun s u cause det injected).safety.fences = s.safety.fences ++ [u] :=
      congrArg Watched.fences (watched_fenceBegun s u cause det injected)
    have hlost : (fenceMemory (fenceBegun s u cause det injected) u chan).safety.fences = s.safety.fences ++ [u] := by
      rw [fenceMemory, hkind, ← hbegun]
      exact failChannel_t1_fences _ u.idx chan
    refine (congrArg Watched.fences (watched_fenceUnit hu cause det chan injected)).trans ?_
    rw [watched, settleState_safety, hlost]
  · exact (fenceUnit_degrades hu cause det chan injected hkind).1

theorem channelFails_fences (s : State) (t : Tier) (ch chan : Nat) : channelUnit t ch ∈ (channelFails s t ch chan).safety.fences := by
  rw [channelFails]
  cases hold : s.safety.fences.contains (channelUnit t ch) with
  | true =>
    rw [fenceUnit, if_pos hold]
    exact List.contains_iff_mem.1 hold
  | false =>
    rw [fenceUnit_fences hold]
    exact List.mem_append_right _ (List.mem_singleton_self _)

/-! ## Retrains (R286) -/

/-- The retrains that a channel has begun within the last second. -/
def recentRetrains (s : State) (t : Tier) (ch : Nat) : List (Nat × Nat) :=
  (tierOf s t).retrains.filter fun e => e.1 == ch && decide (s.tclk < e.2 + 120000000)

/-- A channel has begun a retrain. -/
def retrainBegun (s : State) (t : Tier) (ch : Nat) : State :=
  let s := updTier s t fun m =>
    { m with retraining := some ch, retrains := m.retrains.filter (fun e => e.1 != ch) ++ (recentRetrains s t ch ++ [(ch, s.tclk)]) }
  let s := { s with mem := { s.mem with retrainCount := s.mem.retrainCount + 1 } }
  noteRetrain (record s 0x1204 (leBytes 1 (tierNum t) ++ leBytes 1 ch))

theorem retrainBegun_frame (s : State) (t : Tier) (ch : Nat) :
    (tierOf (retrainBegun s t ch) t).retraining = some ch ∧ (retrainBegun s t ch).mem.retrainCount = s.mem.retrainCount + 1 ∧
      (retrainBegun s t ch).safety = s.safety ∧ (retrainBegun s t ch).contracts = s.contracts := by
  cases t <;> exact ⟨rfl, rfl, rfl, rfl⟩

/-- The failures in a row that the end of a retrain leaves a channel with. -/
def failsAfter (m : TierState) (ch : Nat) (ok : Bool) : Nat := if ok then 0 else failsInRow m ch + 1

/-- A retrain of a channel has ended, with `n` failures in a row behind it. -/
def retrainEnded (s : State) (t : Tier) (ch n : Nat) : State :=
  updTier s t fun m =>
    { m with retraining := none, retrainFails := m.retrainFails.filter (fun e => e.1 != ch) ++ [(ch, n)] }

theorem retrainEnded_frame (s : State) (t : Tier) (ch n : Nat) :
    retrainEnded s t ch n = { s with mem := (retrainEnded s t ch n).mem } ∧ (tierOf (retrainEnded s t ch n) t).retraining = none ∧
      failsInRow (tierOf (retrainEnded s t ch n) t) ch = n := by
  refine ⟨updTier_frame s t _, ?_, ?_⟩
  · rw [retrainEnded, tierOf_updTier]
  · have hnone (l : List (Nat × Nat)) : (l.filter fun e => e.1 != ch).find? (fun e => e.1 == ch) = none :=
      List.find?_eq_none.2 fun e he hch => bne_iff_ne.1 (List.mem_filter.1 he).2 (beq_iff_eq.1 hch)
    rw [retrainEnded, tierOf_updTier, failsInRow]
    dsimp only
    rw [List.find?_append, hnone, Option.none_or, List.find?_singleton, if_pos (beq_self_eq_true ch)]

section
variable {s : State} {t : Tier} {ch : Nat} (hch : ch < 32)
include hch

section
variable (hrun : runState s.boot.state = true) (hnone : (tierOf s t).retraining = none) (hlive : ch ∉ (tierOf s t).chFailed)
include hrun hnone hlive

theorem channelReadTimeout_of_live :
    exec (.channelReadTimeout t ch) s = .next (
      if 2 ≤ (recentRetrains s t ch).length then channelFails (retrainBegun s t ch) t ch 2 else retrainBegun s t ch) := by
  have hopen : ¬ ((!runState s.boot.state) = true ∨ (tierOf s t).retraining.isSome = true ∨
      (tierOf s t).chFailed.contains ch = true) := by
    simp [hrun, hnone, hlive]
  rw [exec_channelReadTimeout, execChannelReadTimeout, guardUnit_of_lt hch]
  dsimp only
  rw [if_neg hopen]
  simp only [List.length_append, List.length_singleton, ge_iff_le, Nat.reduceLeDiff]
  rfl

theorem readTimeout_retrains (hfew : (recentRetrains s t ch).length < 2) :
    ∃ u, exec (.channelReadTimeout t ch) s = .next u ∧ (tierOf u t).retraining = some ch ∧
      u.mem.retrainCount = s.mem.retrainCount + 1 ∧ u.safety.fences = s.safety.fences ∧ u.contracts = s.contracts := by
  obtain ⟨hretrains, hcount, hsafety, hcontracts⟩ := retrainBegun_frame s t ch
  refine ⟨_, ?_, hretrains, hcount, congrArg Safety.fences hsafety, hcontracts⟩
  rw [channelReadTimeout_of_live hch hrun hnone hlive, if_neg (Nat.not_le.2 hfew)]

/-- The third retrain within 1 s fails the channel. -/
theorem readTimeout_fails (hmany : 2 ≤ (recentRetrains s t ch).length) :
    ∃ u, exec (.channelReadTimeout t ch) s = .next u ∧ channelUnit t ch ∈ u.safety.fences ∧
      u.mem.retrainCount = s.mem.retrainCount + 1 := by
  obtain ⟨-, hcount, -, -⟩ := retrainBegun_frame s t ch
  refine ⟨_, ?_, channelFails_fences _ t ch 2, (keepsCells_fenceUnit _ _ _ _ _ _).retrainCount.trans hcount⟩
  rw [channelReadTimeout_of_live hch hrun hnone hlive, if_pos hmany]

end

section
variable (h : (tierOf s t).retraining = some ch)
include h

theorem retrainEnd_of_retraining (ok : Bool) :
    exec (.retrainEnd t ch ok) s = .next (
      if 2 ≤ failsAfter (tierOf s t) ch ok then channelFails (retrainEnded s t ch (failsAfter (tierOf s t) ch ok)) t ch 1
      else retrainEnded s t ch (failsAfter (tierOf s t) ch ok)) := by
  rw [exec_retrainEnd, execRetrainEnd, guardUnit_of_lt hch, if_neg (not_not_intro h)]
  rfl

/-- A retrain that leaves fewer than two failures in a row. -/
theorem retrainEnd_resumes {ok : Bool} {n : Nat} (hn : failsAfter (tierOf s t) ch ok = n) (hfew : n < 2) :
    ∃ u, exec (.retrainEnd t ch ok) s = .next u ∧ u = { s with mem := u.mem } ∧ (tierOf u t).retraining = none ∧
      failsInRow (tierOf u t) ch = n := by
  refine ⟨retrainEnded s t ch n, ?_, retrainEnded_frame s t ch n⟩
  rw [retrainEnd_of_retraining hch h, hn, if_neg (Nat.not_le.2 hfew)]

/-- A second failure in a row fails the channel. -/
theorem retrainEnd_fails (hfailed : 1 ≤ failsInRow (tierOf s t) ch) :
    ∃ u, exec (.retrainEnd t ch false) s = .next u ∧ channelUnit t ch ∈ u.safety.fences := by
  refine ⟨_, ?_, channelFails_fences (retrainEnded s t ch (failsInRow (tierOf s t) ch + 1)) t ch 1⟩
  rw [retrainEnd_of_retraining hch h, failsAfter, if_neg Bool.false_ne_true, if_pos (Nat.succ_le_succ hfailed)]

end

theorem retrainEnd_of_other (h : (tierOf s t).retraining ≠ some ch) (ok : Bool) : exec (.retrainEnd t ch ok) s = .next s := by
  rw [exec_retrainEnd, execRetrainEnd, guardUnit_of_lt hch, if_pos h]

end

/-! ## ATS (R272) -/

/-- What is left of a range lies outside the invalidated one. -/
theorem cutRange_outside {lo hi : Nat} {r x : AtsRange} (h : x ∈ cutRange lo hi r) : x.hi ≤ lo ∨ hi ≤ x.lo := by
  unfold cutRange at h
  split at h
  · rename_i hout
    rwa [List.mem_singleton.1 h]
  · obtain ⟨hx, -⟩ := List.mem_filter.1 h
    rcases List.mem_cons.1 hx with rfl | hx
    · exact .inl le_rfl
    · rw [List.mem_singleton.1 hx]
      exact .inr le_rfl

/-- What an invalidation leaves of one translation. -/
def cutEntry (f lo hi : Nat) (e : Nat × AtsRange) : List (Nat × AtsRange) :=
  if e.1 = f then (cutRange lo hi e.2).map fun r => (f, r) else [e]

theorem mem_cutEntry_of_ne {f lo hi : Nat} {a e : Nat × AtsRange} (h : e.1 ≠ f) : e ∈ cutEntry f lo hi a ↔ e = a := by
  unfold cutEntry
  split
  · rename_i ha
    constructor
    · intro he
      obtain ⟨r, -, rfl⟩ := List.mem_map.1 he
      exact absurd rfl h
    · rintro rfl
      exact absurd ha h
  · exact List.mem_singleton

theorem cutEntry_outside {f lo hi : Nat} {a : Nat × AtsRange} {r : AtsRange} (h : (f, r) ∈ cutEntry f lo hi a) :
    r.hi ≤ lo ∨ hi ≤ r.lo := by
  unfold cutEntry at h
  split at h
  · obtain ⟨x, hx, heq⟩ := List.mem_map.1 h
    obtain ⟨-, rfl⟩ := Prod.mk.inj heq
    exact cutRange_outside hx
  · rename_i ha
    exact absurd (congrArg Prod.fst (List.mem_singleton.1 h)).symm ha

theorem mem_cutEntry_of_outside {f lo hi : Nat} {r : AtsRange} (h : r.hi ≤ lo ∨ hi ≤ r.lo) : (f, r) ∈ cutEntry f lo hi (f, r) := by
  rw [cutEntry, if_pos rfl, cutRange, if_pos h]
  exact List.mem_singleton_self _

theorem atsInvalidation_cuts (s : State) {f lo hi : Nat} (hf : f < 33) :
    ∃ u, exec (.atsInvalidation f lo hi) s = .next u ∧ u = { s with pcie := { s.pcie with atc := u.pcie.atc } } ∧
      (∀ r, (f, r) ∈ u.pcie.atc → r.hi ≤ lo ∨ hi ≤ r.lo) ∧
      (∀ e, e.1 ≠ f → (e ∈ u.pcie.atc ↔ e ∈ s.pcie.atc)) ∧
      (∀ r, (f, r) ∈ s.pcie.atc → (r.hi ≤ lo ∨ hi ≤ r.lo) → (f, r) ∈ u.pcie.atc) := by
  refine ⟨{ s with pcie := { s.pcie with atc := s.pcie.atc.flatMap (cutEntry f lo hi) } }, ?_, rfl, fun r hr => ?_, fun e he => ?_,
    fun r hr hout => List.mem_flatMap.2 ⟨_, hr, mem_cutEntry_of_outside hout⟩⟩
  · rw [exec_atsInvalidation, execAtsInvalidation, guardUnit_of_lt hf]
    rfl
  · obtain ⟨a, -, ha⟩ := List.mem_flatMap.1 hr
    exact cutEntry_outside ha
  · constructor
    · intro hmem
      obtain ⟨a, ha, hcut⟩ := List.mem_flatMap.1 hmem
      rwa [(mem_cutEntry_of_ne he).1 hcut]
    · exact fun hmem => List.mem_flatMap.2 ⟨e, hmem, (mem_cutEntry_of_ne he).2 rfl⟩

/-! ## Completion timeouts (R390) -/

theorem dmaTimeout_of_waiting {s : State} {d : DmaRef}
    (h : s.pcie.ctoDisable = true ∨ s.tclk < readIssued s d + completionTimeout s.pcie.ctoValue) (hd : readFits d = true) :
    exec (.dmaCompletionTimeout d) s = .next s := by
  have hwaits : readTimesOut s d = false := by
    rw [readTimesOut, Bool.and_eq_false_iff]
    exact h.imp (fun hoff => by rw [hoff]; rfl) fun htime => decide_eq_false (Nat.not_le.2 htime)
  rw [exec_dmaCompletionTimeout, execDmaCompletionTimeout, guardUnit, if_pos hd, hwaits, if_neg Bool.false_ne_true]

theorem dmaTimeout_of_due {s : State} {d : DmaRef} (hon : s.pcie.ctoDisable = false)
    (hdue : readIssued s d + completionTimeout s.pcie.ctoValue ≤ s.tclk) (hd : readFits d = true) :
    exec (.dmaCompletionTimeout d) s = .next (timeOut s d) := by
  have hout : readTimesOut s d = true := by
    rw [readTimesOut, hon, decide_eq_true hdue]
    rfl
  rw [exec_dmaCompletionTimeout, execDmaCompletionTimeout, guardUnit, if_pos hd, if_pos hout]

/-- The reads of intake time out: the first piece fails. -/
theorem intake_timesOut {s : State} {key : Nat} {c : Case} {m : Cmd} {k : Contract} (hon : s.pcie.ctoDisable = false)
    (hdue : m.grantTs + completionTimeout s.pcie.ctoValue ≤ s.tclk) (h : Running s key .intake c m k) (hsg : c.desc.sg ≠ []) :
    ∃ t x, exec (.dmaCompletionTimeout (.intake key)) s = .next t ∧ caseOf t key = some x ∧ x.stage = .intake ∧
      x.ending = some .faultHostDma ∧ x.failedStage = 1 := by
  obtain ⟨hc, hm, -⟩ := id h
  have hissued : readIssued s (.intake key) = m.grantTs := by
    rw [readIssued, hm]
    rfl
  have hread : joinPieces c.desc.sg (List.replicate 64 .timeout) = .timeout := by
    obtain ⟨e, es, hcons⟩ := List.exists_cons_of_ne_nil hsg
    rw [hcons]
    rfl
  have hpieces : ¬ ((caseOf s key).all fun c => c.desc.sg.isEmpty) = true := by
    rw [hc, Option.all_some, List.isEmpty_iff]
    exact hsg
  obtain ⟨t, x, ht, hx, -, hstage, -, hending, hfailed, -⟩ := intake_fails h hread (.inr (.inr (.inr rfl)))
  refine ⟨t, x, ?_, hx, hstage, hending, hfailed⟩
  rw [dmaTimeout_of_due hon (by rwa [hissued]) rfl, timeOut, if_neg hpieces]
  exact ht

theorem storeRead_timesOut {s : State} {key id : Nat} {c : Case} {m : Cmd} {k : Contract} (hon : s.pcie.ctoDisable = false)
    (hdue : m.grantTs + completionTimeout s.pcie.ctoValue ≤ s.tclk) (h : Running s key .fetch c m k)
    (hid : id ∈ readsLeft s k.rcd c) (hfresh : id ∉ c.pass.stale) :
    ∃ t x, exec (.dmaCompletionTimeout (.store key id)) s = .next t ∧ caseOf t key = some x ∧ x.stage = .fetch ∧
      x.ending = some .faultHostDma ∧ x.failedStage = 6 := by
  have hissued : readIssued s (.store key id) = m.grantTs := by
    obtain ⟨-, hm, -⟩ := h
    rw [readIssued, hm]
    rfl
  obtain ⟨t, x, ht, hx, hstage, hending, hfailed, -⟩ := storeRead_fails h hid hfresh (.inr (.inr (.inr rfl)))
  refine ⟨t, x, ?_, hx, hstage, hending, hfailed⟩
  rw [dmaTimeout_of_due hon (by rwa [hissued]) rfl]
  exact ht

theorem ringFetch_timesOut {s : State} {f i : Nat} {e : Nat × Nat} (hf : f < 33)
    (he : (mbOf s f).sqFetch.find? (fun x => x.1 == i) = some e) (hserves : mbServes s f = true) (hon : s.pcie.ctoDisable = false)
    (hdue : e.2 + completionTimeout s.pcie.ctoValue ≤ s.tclk) :
    ∃ t, exec (.dmaCompletionTimeout (.ringFetch f i)) s = .next t ∧ (mbOf t f).st.halted = true ∧ (mbOf t f).st.haltCause = 4 ∧
      (mbOf t f).sqQ = (mbOf s f).sqQ := by
  have hissued : readIssued s (.ringFetch f i) = e.2 := by
    rw [readIssued, he]
    rfl
  obtain ⟨hrun, hopen⟩ := (mbServes_iff s f).1 hserves
  obtain ⟨t, ht, hhalted, hcause, hqueue, -⟩ := failed_fetch_halts hf he (r := .timeout) (.inr (.inr (.inr rfl))) hrun hopen
  refine ⟨t, ?_, hhalted, hcause, hqueue⟩
  rw [dmaTimeout_of_due (d := .ringFetch f i) hon (by rwa [hissued]) (decide_eq_true hf)]
  rw [exec_sqEntryFetchComplete, execSqEntryFetchComplete, guardUnit_of_lt hf] at ht
  exact ht

/-! ## The statement -/

/-- Settles O40: a tick drains the queue, reads over what has been drained and moves on, and what a fault of a read does leaves the
cells; a channel that fails stays fenced; a read that times out ends as a failed one does. -/
theorem memoryIsScrubbedAndFails : Obligations.MemoryIsScrubbedAndFails := by
  unfold Obligations.MemoryIsScrubbedAndFails
  refine ⟨fun s t => ⟨patrolScrubTick_idle, fun hruns hunarmed => ⟨?_, fun d hd hscrubs hqueue => ?_⟩, passStart_starts,
    passStart_falls_due⟩, fun s t ch hch => ⟨fun hrun hnone hlive => ⟨readTimeout_retrains hch hrun hnone hlive,
      readTimeout_fails hch hrun hnone hlive⟩, fun hretrains => ⟨?_, fun hfirst => ?_, retrainEnd_fails hch hretrains⟩,
      retrainEnd_of_other hch⟩, fun s f lo hi hf _ => atsInvalidation_cuts s hf,
    fun s key c m k => ⟨fun d => dmaTimeout_of_waiting, intake_timesOut, fun hon hdue h id => storeRead_timesOut hon hdue h⟩,
    fun s f i e hf _ he hserves _ hon hdue => ringFetch_timesOut hf he hserves hon hdue⟩
  · obtain ⟨u, hu, hempty, hclean, hmoved⟩ := tick_drains hruns hunarmed
    refine ⟨u, hu, hempty, hclean, fun hscrubs hleft => ?_, fun hscrubs hend => ?_⟩
    · have hstands := passMoved_of_left (now := s.tclk) (m := { tierOf s t with queues := [] }) hscrubs hleft
      rw [hmoved, hstands]
      exact ⟨rfl, hscrubs, rfl⟩
    · have hstands := passMoved_of_end (now := s.tclk) (m := { tierOf s t with queues := [] }) hscrubs hend
      rw [hmoved, hstands]
      exact ⟨rfl, rfl, rfl, rfl⟩
  · subst hd
    exact ⟨fun p => tick_corrects hruns hunarmed hscrubs hqueue, tick_poisons hruns hunarmed hscrubs hqueue,
      tick_meets_poison hruns hunarmed hscrubs hqueue⟩
  · exact retrainEnd_resumes hch hretrains rfl Nat.zero_lt_two
  · exact retrainEnd_resumes hch hretrains (congrArg Nat.succ hfirst) Nat.one_lt_two

end Sys2Proof.Machine
end
